-- ==== Sys2Proof/Word.lean ====
section
/-! DEFINITION. The machine's words and their plainest arithmetic (spec/02, R17, R18). -/
namespace Sys2Proof

/-- A register, address or doubleword (R18). -/
abbrev Word := BitVec 64
/-- A 32-bit element of a vector, table or accumulator (R18). -/
abbrev W32 := BitVec 32
/-- A halfword of instruction memory (R34). -/
abbrev Half := BitVec 16
/-- A byte of memory. -/
abbrev Byte := BitVec 8
/-- A field naming one of 32 registers (R34). -/
abbrev Reg := BitVec 5

/-- A core by its physical cluster number and its number in the cluster (R4). -/
structure CoreRef where
  cl : Nat
  core : Nat
deriving DecidableEq, Repr

end Sys2Proof
end

