-- ==== Sys2Proof/Event.lean ====
section
/-! DEFINITION. What the environment of a step supplies: the arguments of the opcode table's steps that no program word
encodes (spec/95; notes/assumptions/1, 17, 22). -/
namespace Sys2Proof

/-- A request in flight: the outstanding access of a core, a posted item by its place among those in flight (R72, R107), or a request of the
host or a peer by its place among those that have arrived (R252, R253). -/
inductive Req where
  | pend (r : CoreRef)
  | posted (i : Nat)
  | guest (i : Nat)
deriving DecidableEq, Repr

/-- What comes back for an access whose answer lies outside the module (R308, R310, R312). `own` takes the answer the
module itself formed. -/
inductive Answer where
  | own
  | data (w : Word)
  | poisoned
  | refused
  | lost
  | expired
deriving DecidableEq, Repr, Inhabited

/-- What error-correcting code finds in a word (R317, R336). -/
inductive Ecc where
  | clean
  | corrected
  | uncorrectable
deriving DecidableEq, Repr

/-- Who sends a request to a queue window or to the control path (R281, R307, R308). -/
inductive Origin where
  | host
  | core (r : CoreRef)
  | peer (m : Nat)
deriving DecidableEq, Repr

/-- A result that a shadow unit forms at a lane (its upper element where it holds two) or, in a matrix unit, at an accumulator element: sign,
biased exponent and the top six mantissa bits (R321). -/
structure Shadow where
  lane : Nat
  high : Bool
  neg : Bool
  exp : Nat
  m6 : Nat
deriving DecidableEq, Repr

end Sys2Proof
end

