-- ==== Sys2Proof/Syntax.lean ====
section
/-! DEFINITION. The instruction set: one constructor per row of spec/opcode_table.json. The first 236 are the encoded
instructions of R36 and R37, with the fields of their formats (R34); the others are the steps of the other agents of the
module, with what the environment supplies to them. -/
namespace Sys2Proof

inductive Instr where
  /-- ADD (R80) -/
  | add (d a b : BitVec 5)
  /-- SUB (R80) -/
  | sub (d a b : BitVec 5)
  /-- AND (R80) -/
  | and (d a b : BitVec 5)
  /-- OR (R80) -/
  | or (d a b : BitVec 5)
  /-- XOR (R80) -/
  | xor (d a b : BitVec 5)
  /-- SHL (R80) -/
  | shl (d a b : BitVec 5)
  /-- SHR (R80) -/
  | shr (d a b : BitVec 5)
  /-- SRA (R80) -/
  | sra (d a b : BitVec 5)
  /-- ROT (R80) -/
  | rot (d a b : BitVec 5)
  /-- MUL (R80) -/
  | mul (d a b : BitVec 5)
  /-- MULH (R80) -/
  | mulh (d a b : BitVec 5)
  /-- MULHU (R80) -/
  | mulhu (d a b : BitVec 5)
  /-- DIV (R80) -/
  | div (d a b : BitVec 5)
  /-- DIVU (R80) -/
  | divu (d a b : BitVec 5)
  /-- REM (R80) -/
  | rem (d a b : BitVec 5)
  /-- REMU (R80) -/
  | remu (d a b : BitVec 5)
  /-- SLT (R80) -/
  | slt (d a b : BitVec 5)
  /-- SLTU (R80) -/
  | sltu (d a b : BitVec 5)
  /-- SEQ (R80) -/
  | seq (d a b : BitVec 5)
  /-- MIN (R80) -/
  | min (d a b : BitVec 5)
  /-- MAX (R80) -/
  | max (d a b : BitVec 5)
  /-- MINU (R80) -/
  | minu (d a b : BitVec 5)
  /-- MAXU (R80) -/
  | maxu (d a b : BitVec 5)
  /-- CLZ (R80) -/
  | clz (d a : BitVec 5)
  /-- CTZ (R80) -/
  | ctz (d a : BitVec 5)
  /-- POPC (R80) -/
  | popc (d a : BitVec 5)
  /-- MADD (R80) -/
  | madd (d a b c : BitVec 5)
  /-- CSEL (R80) -/
  | csel (d a b c : BitVec 5)
  /-- ADDI (R81) -/
  | addi (d a : BitVec 5) (i : BitVec 15)
  /-- ANDI (R81) -/
  | andi (d a : BitVec 5) (i : BitVec 15)
  /-- ORI (R81) -/
  | ori (d a : BitVec 5) (i : BitVec 15)
  /-- XORI (R81) -/
  | xori (d a : BitVec 5) (i : BitVec 15)
  /-- SHI (R81) -/
  | shi (d a : BitVec 5) (n : BitVec 6) (k : BitVec 2)
  /-- SLTI (R81) -/
  | slti (d a : BitVec 5) (i : BitVec 15)
  /-- SLTIU (R81) -/
  | sltiu (d a : BitVec 5) (i : BitVec 15)
  /-- LUI (R82) -/
  | lui (d : BitVec 5) (i : BitVec 20)
  /-- ADDPC (R82) -/
  | addpc (d : BitVec 5) (i : BitVec 20)
  /-- CRD (R84) -/
  | crd (d : BitVec 5) (n : BitVec 12)
  /-- CWR (R84) -/
  | cwr (a : BitVec 5) (n : BitVec 12)
  /-- CSET (R84) -/
  | cset (d a : BitVec 5) (n : BitVec 12)
  /-- CCLR (R84) -/
  | cclr (d a : BitVec 5) (n : BitVec 12)
  /-- CSWP (R84) -/
  | cswp (d a : BitVec 5) (n : BitVec 12)
  /-- BEQ (R86) -/
  | beq (x y : BitVec 5) (o : BitVec 12)
  /-- BNE (R86) -/
  | bne (x y : BitVec 5) (o : BitVec 12)
  /-- BLT (R86) -/
  | blt (x y : BitVec 5) (o : BitVec 12)
  /-- BGE (R86) -/
  | bge (x y : BitVec 5) (o : BitVec 12)
  /-- BLTU (R86) -/
  | bltu (x y : BitVec 5) (o : BitVec 12)
  /-- BGEU (R86) -/
  | bgeu (x y : BitVec 5) (o : BitVec 12)
  /-- BOK (R87) -/
  | bok (o : BitVec 12)
  /-- BEMPTY (R87) -/
  | bempty (o : BitVec 12)
  /-- BFULL (R87) -/
  | bfull (o : BitVec 12)
  /-- BABSENT (R87) -/
  | babsent (o : BitVec 12)
  /-- BANY (R87) -/
  | bany (m : BitVec 5) (o : BitVec 12)
  /-- BALL (R87) -/
  | ball (m : BitVec 5) (o : BitVec 12)
  /-- BNONE (R87) -/
  | bnone (m : BitVec 5) (o : BitVec 12)
  /-- BFLAG (R87) -/
  | bflag (x : BitVec 5) (o : BitVec 12)
  /-- JAL (R88) -/
  | jal (d : BitVec 5) (o : BitVec 20)
  /-- JALR (R88) -/
  | jalr (d a : BitVec 5) (i : BitVec 15)
  /-- LDX (R111) -/
  | ldx (d a b : BitVec 5) (s : BitVec 3) (o : BitVec 2) (c : BitVec 3) (h : BitVec 2)
  /-- STX (R111) -/
  | stx (d a b : BitVec 5) (s : BitVec 3) (o : BitVec 2) (c : BitVec 3) (h : BitVec 2)
  /-- LDB (R109) -/
  | ldb (d a : BitVec 5) (i : BitVec 15)
  /-- LDBZ (R109) -/
  | ldbz (d a : BitVec 5) (i : BitVec 15)
  /-- LDH (R109) -/
  | ldh (d a : BitVec 5) (i : BitVec 15)
  /-- LDHZ (R109) -/
  | ldhz (d a : BitVec 5) (i : BitVec 15)
  /-- LDW (R109) -/
  | ldw (d a : BitVec 5) (i : BitVec 15)
  /-- LDWZ (R109) -/
  | ldwz (d a : BitVec 5) (i : BitVec 15)
  /-- LDD (R109) -/
  | ldd (d a : BitVec 5) (i : BitVec 15)
  /-- STB (R110) -/
  | stb (d a : BitVec 5) (i : BitVec 15)
  /-- STH (R110) -/
  | sth (d a : BitVec 5) (i : BitVec 15)
  /-- STW (R110) -/
  | stw (d a : BitVec 5) (i : BitVec 15)
  /-- STD (R110) -/
  | std (d a : BitVec 5) (i : BitVec 15)
  /-- AMOADD (R114) -/
  | amoadd (d a b : BitVec 5) (o : BitVec 2) (s : BitVec 3) (w : BitVec 1)
  /-- AMOAND (R114) -/
  | amoand (d a b : BitVec 5) (o : BitVec 2) (s : BitVec 3) (w : BitVec 1)
  /-- AMOOR (R114) -/
  | amoor (d a b : BitVec 5) (o : BitVec 2) (s : BitVec 3) (w : BitVec 1)
  /-- AMOXOR (R114) -/
  | amoxor (d a b : BitVec 5) (o : BitVec 2) (s : BitVec 3) (w : BitVec 1)
  /-- AMOMIN (R114) -/
  | amomin (d a b : BitVec 5) (o : BitVec 2) (s : BitVec 3) (w : BitVec 1)
  /-- AMOMAX (R114) -/
  | amomax (d a b : BitVec 5) (o : BitVec 2) (s : BitVec 3) (w : BitVec 1)
  /-- AMOMINU (R114) -/
  | amominu (d a b : BitVec 5) (o : BitVec 2) (s : BitVec 3) (w : BitVec 1)
  /-- AMOMAXU (R114) -/
  | amomaxu (d a b : BitVec 5) (o : BitVec 2) (s : BitVec 3) (w : BitVec 1)
  /-- AMOSWAP (R114) -/
  | amoswap (d a b : BitVec 5) (o : BitVec 2) (s : BitVec 3) (w : BitVec 1)
  /-- AMOCAS (R114) -/
  | amocas (d a b : BitVec 5) (o : BitVec 2) (s : BitVec 3) (w : BitVec 1)
  /-- AMOFADD (R115) -/
  | amofadd (d a b : BitVec 5) (o : BitVec 2) (s : BitVec 3)
  /-- AMOINCB (R114) -/
  | amoincb (d a b : BitVec 5) (o : BitVec 2) (s : BitVec 3) (w : BitVec 1)
  /-- FENCE (R117) -/
  | fence (s : BitVec 3)
  /-- PFENCE (R118) -/
  | pfence (a b : BitVec 5) (s : BitVec 3)
  /-- IFENCE (R119) -/
  | ifence
  /-- WAITGE (R122) -/
  | waitge (d a b : BitVec 5)
  /-- WAITP (R123) -/
  | waitp (d a b c : BitVec 5)
  /-- SLEEP (R124) -/
  | sleep (a : BitVec 5)
  /-- FWAIT (R125) -/
  | fwait (a v c : BitVec 5)
  /-- FSET (R125) -/
  | fset (a b c : BitVec 5)
  /-- FCLR (R125) -/
  | fclr (a b c : BitVec 5)
  /-- FTEST (R125) -/
  | ftest (d a : BitVec 5)
  /-- YIELD (R126) -/
  | yield
  /-- BPERS (R128) -/
  | bpers (d a b : BitVec 5)
  /-- BQUERY (R129) -/
  | bquery (d a : BitVec 5)
  /-- BGROUP (R130) -/
  | bgroup (d a b c : BitVec 5)
  /-- BSPREAD (R131) -/
  | bspread (d a b : BitVec 5)
  /-- BKEEP (R132) -/
  | bkeep (a b c : BitVec 5)
  /-- BCLEAR (R133) -/
  | bclear (d a : BitVec 5)
  /-- VADD (R136) -/
  | vadd (d a b : BitVec 5) (m : BitVec 3) (t : BitVec 2)
  /-- VSUB (R136) -/
  | vsub (d a b : BitVec 5) (m : BitVec 3) (t : BitVec 2)
  /-- VMUL (R136) -/
  | vmul (d a b : BitVec 5) (m : BitVec 3) (t : BitVec 2)
  /-- VMIN (R136) -/
  | vmin (d a b : BitVec 5) (m : BitVec 3) (t : BitVec 2)
  /-- VMAX (R136) -/
  | vmax (d a b : BitVec 5) (m : BitVec 3) (t : BitVec 2)
  /-- VAND (R136) -/
  | vand (d a b : BitVec 5) (m : BitVec 3) (t : BitVec 2)
  /-- VOR (R136) -/
  | vor (d a b : BitVec 5) (m : BitVec 3) (t : BitVec 2)
  /-- VXOR (R136) -/
  | vxor (d a b : BitVec 5) (m : BitVec 3) (t : BitVec 2)
  /-- VSHL (R136) -/
  | vshl (d a b : BitVec 5) (m : BitVec 3) (t : BitVec 2)
  /-- VSHR (R136) -/
  | vshr (d a b : BitVec 5) (m : BitVec 3) (t : BitVec 2)
  /-- VSRA (R136) -/
  | vsra (d a b : BitVec 5) (m : BitVec 3) (t : BitVec 2)
  /-- VCEQ (R136) -/
  | vceq (d a b : BitVec 5) (m : BitVec 3)
  /-- VCLT (R136) -/
  | vclt (d a b : BitVec 5) (m : BitVec 3)
  /-- VCLE (R136) -/
  | vcle (d a b : BitVec 5) (m : BitVec 3)
  /-- VSEL (R136) -/
  | vsel (d a b : BitVec 5) (m : BitVec 3) (t : BitVec 2)
  /-- VADDSAT (R136) -/
  | vaddsat (d a b : BitVec 5) (m : BitVec 3) (t : BitVec 2)
  /-- VMADD (R136) -/
  | vmadd (d a b : BitVec 5) (m : BitVec 3) (t : BitVec 2)
  /-- VFADD (R137) -/
  | vfadd (d a b : BitVec 5) (m : BitVec 3) (t : BitVec 1)
  /-- VFSUB (R137) -/
  | vfsub (d a b : BitVec 5) (m : BitVec 3) (t : BitVec 1)
  /-- VFMUL (R137) -/
  | vfmul (d a b : BitVec 5) (m : BitVec 3) (t : BitVec 1)
  /-- VFMA (R137) -/
  | vfma (d a b : BitVec 5) (m : BitVec 3) (t : BitVec 1)
  /-- VFMIN (R137) -/
  | vfmin (d a b : BitVec 5) (m : BitVec 3) (t : BitVec 1)
  /-- VFMAX (R137) -/
  | vfmax (d a b : BitVec 5) (m : BitVec 3) (t : BitVec 1)
  /-- VFCEQ (R137) -/
  | vfceq (d a b : BitVec 5) (m : BitVec 3)
  /-- VFCLT (R137) -/
  | vfclt (d a b : BitVec 5) (m : BitVec 3)
  /-- VFCLE (R137) -/
  | vfcle (d a b : BitVec 5) (m : BitVec 3)
  /-- VFDIV (R137) -/
  | vfdiv (d a b : BitVec 5) (m : BitVec 3) (t : BitVec 1)
  /-- VFSQRT (R137) -/
  | vfsqrt (d a : BitVec 5) (m : BitVec 3) (t : BitVec 1)
  /-- VFRCP (R137) -/
  | vfrcp (d a : BitVec 5) (m : BitVec 3) (t : BitVec 1)
  /-- VFEXP2 (R137) -/
  | vfexp2 (d a : BitVec 5) (m : BitVec 3) (t : BitVec 1)
  /-- VFLOG2 (R137) -/
  | vflog2 (d a : BitVec 5) (m : BitVec 3) (t : BitVec 1)
  /-- VFABS (R137) -/
  | vfabs (d a : BitVec 5) (m : BitVec 3) (t : BitVec 1)
  /-- VFNEG (R137) -/
  | vfneg (d a : BitVec 5) (m : BitVec 3) (t : BitVec 1)
  /-- VLD (R139) -/
  | vld (d a : BitVec 5) (m : BitVec 3)
  /-- VST (R139) -/
  | vst (d a : BitVec 5) (m : BitVec 3)
  /-- VLDX (R140) -/
  | vldx (d a b : BitVec 5) (m : BitVec 3)
  /-- VSTX (R140) -/
  | vstx (d a b : BitVec 5) (m : BitVec 3)
  /-- VSTXADD (R141) -/
  | vstxadd (d a b : BitVec 5) (m : BitVec 3) (t : BitVec 1)
  /-- VLDB (R139) -/
  | vldb (d a : BitVec 5) (m : BitVec 3)
  /-- VLDK (R142) -/
  | vldk (d a b : BitVec 5) (m : BitVec 3)
  /-- VSTK (R142) -/
  | vstk (d a b : BitVec 5) (m : BitVec 3)
  /-- VBCAST (R143) -/
  | vbcast (d a : BitVec 5) (m : BitVec 3)
  /-- VEXT (R143) -/
  | vext (d a n : BitVec 5)
  /-- VINS (R143) -/
  | vins (d a n : BitVec 5)
  /-- VREDADD_I32 (R144) -/
  | vredaddI32 (d a : BitVec 5) (m : BitVec 3)
  /-- VREDADD_F32 (R144) -/
  | vredaddF32 (d a : BitVec 5) (m : BitVec 3)
  /-- VREDMIN (R144) -/
  | vredmin (d a : BitVec 5) (m : BitVec 3) (t : BitVec 1)
  /-- VREDMAX (R144) -/
  | vredmax (d a : BitVec 5) (m : BitVec 3) (t : BitVec 1)
  /-- VPERM (R143) -/
  | vperm (d a b : BitVec 5) (m : BitVec 3)
  /-- VSLIDE (R143) -/
  | vslide (d a b : BitVec 5) (m : BitVec 3)
  /-- VMPOP (R143) -/
  | vmpop (d a : BitVec 5)
  /-- VMAND (R143) -/
  | vmand (d a b : BitVec 5)
  /-- VMOR (R143) -/
  | vmor (d a b : BitVec 5)
  /-- VMXOR (R143) -/
  | vmxor (d a b : BitVec 5)
  /-- VMNOT (R143) -/
  | vmnot (d a : BitVec 5)
  /-- VMSET (R143) -/
  | vmset (d a : BitVec 5)
  /-- VMGET (R143) -/
  | vmget (d a : BitVec 5)
  /-- VLANE (R143) -/
  | vlane (d : BitVec 5) (m : BitVec 3)
  /-- CVT_F32_I32 (R145) -/
  | cvtF32I32 (d a : BitVec 5) (m : BitVec 3) (v : BitVec 1)
  /-- CVT_I32_F32 (R145) -/
  | cvtI32F32 (d a : BitVec 5) (m : BitVec 3) (v : BitVec 1)
  /-- CVT_F64_F32 (R145) -/
  | cvtF64F32 (d a : BitVec 5)
  /-- CVT_F32_F64 (R145) -/
  | cvtF32F64 (d a : BitVec 5)
  /-- VCVT_BF16_F32 (R146) -/
  | vcvtBf16F32 (d a b : BitVec 5) (m : BitVec 3)
  /-- VCVT_F32_BF16 (R146) -/
  | vcvtF32Bf16 (d a h : BitVec 5) (m : BitVec 3)
  /-- VDEC (R147) -/
  | vdec (d a n : BitVec 5) (m : BitVec 3) (t : BitVec 2)
  /-- VENC (R147) -/
  | venc (d a n : BitVec 5) (m : BitVec 3) (t : BitVec 2)
  /-- VQMX (R148) -/
  | vqmx (d a b : BitVec 5) (h : BitVec 1)
  /-- VDQMX (R148) -/
  | vdqmx (d a b : BitVec 5) (h : BitVec 1)
  /-- FADD (R135) -/
  | fadd (d a b : BitVec 5) (t : BitVec 1)
  /-- FSUB (R135) -/
  | fsub (d a b : BitVec 5) (t : BitVec 1)
  /-- FMUL (R135) -/
  | fmul (d a b : BitVec 5) (t : BitVec 1)
  /-- FMA (R135) -/
  | fma (d a b c : BitVec 5) (t : BitVec 1)
  /-- FDIV (R135) -/
  | fdiv (d a b : BitVec 5) (t : BitVec 1)
  /-- FSQRT (R135) -/
  | fsqrt (d a : BitVec 5) (t : BitVec 1)
  /-- FMIN (R135) -/
  | fmin (d a b : BitVec 5) (t : BitVec 1)
  /-- FMAX (R135) -/
  | fmax (d a b : BitVec 5) (t : BitVec 1)
  /-- FEQ (R135) -/
  | feq (d a b : BitVec 5) (t : BitVec 1)
  /-- FLT (R135) -/
  | flt (d a b : BitVec 5) (t : BitVec 1)
  /-- FLE (R135) -/
  | fle (d a b : BitVec 5) (t : BitVec 1)
  /-- FABS (R135) -/
  | fabs (d a : BitVec 5) (t : BitVec 1)
  /-- FNEG (R135) -/
  | fneg (d a : BitVec 5) (t : BitVec 1)
  /-- FCLASS (R135) -/
  | fclass (d a : BitVec 5) (t : BitVec 1)
  /-- TBLLD (R149) -/
  | tblld (t : BitVec 2) (a : BitVec 5)
  /-- TBLRD (R151) -/
  | tblrd (d a : BitVec 5) (t : BitVec 2)
  /-- TBLPRE (R151) -/
  | tblpre (t : BitVec 2) (p : BitVec 5)
  /-- MMA (R156) -/
  | mma (d : BitVec 2) (a b c : BitVec 5) (p : BitVec 2)
  /-- MMAZ (R156) -/
  | mmaz (d : BitVec 2) (a b c : BitVec 5) (p : BitVec 2)
  /-- MSTREAM (R157) -/
  | mstream (d : BitVec 2) (a b c : BitVec 5) (p : BitVec 2)
  /-- MZERO (R160) -/
  | mzero (d : BitVec 2)
  /-- MSTORE (R160) -/
  | mstore (d : BitVec 2) (a b : BitVec 5)
  /-- MREAD (R161) -/
  | mread (d : BitVec 2) (a b : BitVec 5)
  /-- MPEEK (R161) -/
  | mpeek (d : BitVec 2) (a b : BitVec 5)
  /-- MSYNC (R160) -/
  | msync
  /-- MLOAD (R160) -/
  | mload (d : BitVec 2) (a : BitVec 5)
  /-- RRUN (R163) -/
  | rrun (d a : BitVec 5)
  /-- RVERIFY (R163) -/
  | rverify (d a : BitVec 5)
  /-- RSTAT (R164) -/
  | rstat (d a : BitVec 5)
  /-- CPY (R165) -/
  | cpy (d a : BitVec 5)
  /-- CPY_TRY (R165) -/
  | cpyTry (d a : BitVec 5)
  /-- CPYQ (R165) -/
  | cpyq (d : BitVec 5)
  /-- SEND (R168) -/
  | send (a b : BitVec 5)
  /-- SENDM (R170) -/
  | sendm (a b c : BitVec 5)
  /-- ARM (R171) -/
  | arm (a b c : BitVec 5)
  /-- BIND (R171) -/
  | bind (a b : BitVec 5)
  /-- SPAWN (R172) -/
  | spawn (a b : BitVec 5)
  /-- REPLY (R173) -/
  | reply (a b c : BitVec 5)
  /-- HALT (R174) -/
  | halt (k : BitVec 5)
  /-- SELF (R175) -/
  | self (d : BitVec 5)
  /-- DETACH (R92) -/
  | detach
  /-- JOIN (R93) -/
  | join (k : BitVec 5)
  /-- BAR (R95) -/
  | bar (k : BitVec 5)
  /-- LEAD (R96) -/
  | lead (d : BitVec 5)
  /-- GROW (R97) -/
  | grow (n : BitVec 5)
  /-- SHRINK (R97) -/
  | shrink (n : BitVec 5)
  /-- SWP (R98) -/
  | swp (d a : BitVec 5)
  /-- RDWS (R99) -/
  | rdws (d a b : BitVec 5)
  /-- TRAP (R176) -/
  | trap (n : BitVec 5)
  /-- ERET (R177) -/
  | eret
  /-- STOP (R178) -/
  | stop (n : BitVec 5)
  /-- CENSUS (R179) -/
  | census (a c : BitVec 5)
  /-- NOP (R180) -/
  | nop
  /-- REP (R100) -/
  | rep (a l s : BitVec 5) (g : BitVec 3)
  /-- C_MOV (R104) -/
  | cMov (d r : BitVec 5)
  /-- C_ADDI (R104) -/
  | cAddi (d : BitVec 5) (i : BitVec 6)
  /-- C_LI (R104) -/
  | cLi (d : BitVec 5) (i : BitVec 6)
  /-- C_LDD (R104) -/
  | cLdd (d r : BitVec 5)
  /-- C_STD (R104) -/
  | cStd (d r : BitVec 5)
  /-- C_ADD (R104) -/
  | cAdd (d r : BitVec 5)
  /-- C_BEQZ (R104) -/
  | cBeqz (d : BitVec 5) (i : BitVec 6)
  /-- C_BNEZ (R104) -/
  | cBnez (d : BitVec 5) (i : BitVec 6)
  /-- C_J (R104) -/
  | cJ (o : BitVec 11)
  /-- ONCE (R90) -/
  | once
  /-- C_HALT (R104) -/
  | cHalt
  /-- C_JOIN (R104) -/
  | cJoin (k : BitVec 4)
  /-- C_RET (R104) -/
  | cRet
  /-- C_NOP (R104) -/
  | cNop
  /-- WAIT_SATISFIED (R120) -/
  | waitSatisfied (r : CoreRef) (frame : Nat)
  /-- ENGINE_TRAP (R191) -/
  | engineTrap (r : CoreRef)
  /-- DRIFT_DETACH (R205) -/
  | driftDetach (r : CoreRef)
  /-- MESSAGE_ARRIVAL (R194) -/
  | messageArrival (i : Nat)
  /-- BANK_OPERATION_REQUEST (R167) -/
  | bankOperationRequest (q : Req)
  /-- ACCESS_RESPONSE (R72) -/
  | accessResponse (r : CoreRef) (ans : Answer)
  /-- RETRY_REISSUE (R107) -/
  | retryReissue (q : Req)
  /-- RETRY_TIMEOUT (R230) -/
  | retryTimeout (q : Req)
  /-- BACKOFF_REISSUE (R334) -/
  | backoffReissue (q : Req)
  /-- INBOX_ITEM_HANDLE (R196) -/
  | inboxItemHandle (r : CoreRef)
  /-- ACTIVATION_START (R201) -/
  | activationStart (r : CoreRef)
  /-- READY_PROMOTION (R199) -/
  | readyPromotion (r : CoreRef) (n : Nat)
  /-- GROUP_START (R203) -/
  | groupStart (cl : Nat)
  /-- CORE_LAUNCH_END (R174) -/
  | coreLaunchEnd (r : CoreRef)
  /-- RECORD_RETRY (R76) -/
  | recordRetry (r : CoreRef)
  /-- BANK_CONVERSION_END (R229) -/
  | bankConversionEnd (r : CoreRef)
  /-- SPREAD_WINDOW_CLOSE (R234) -/
  | spreadWindowClose (r : CoreRef) (d : Nat)
  /-- MATRIX_RAMP (R15) -/
  | matrixRamp (cl : Nat)
  /-- MATRIX_GRANT (R209) -/
  | matrixGrant (cl : Nat)
  /-- MATRIX_RETIRE (R211) -/
  | matrixRetire (cl : Nat) (residue : List (Nat × Nat × Nat)) (shadow : List (Nat × Shadow))
  /-- MATRIX_PORT_COMMAND (R210) -/
  | matrixPortCommand (r : CoreRef)
  /-- TILE_WRITE_END (R159) -/
  | tileWriteEnd (cl : Nat)
  /-- COPY_START (R214) -/
  | copyStart (r : CoreRef)
  /-- COPY_END (R154) -/
  | copyEnd (r : CoreRef) (n : Nat)
  /-- RULE_JOB_START (R225) -/
  | ruleJobStart (cl : Nat)
  /-- RULE_JOB_END (R163) -/
  | ruleJobEnd (cl : Nat)
  /-- MEMORY_REQUEST (R331) -/
  | memoryRequest (q : Req) (e : Ecc)
  /-- BANK_BLOCK_END (R333) -/
  | bankBlockEnd (stack chan bank : Nat)
  /-- REFRESH_WINDOW_START (R332) -/
  | refreshWindowStart (stack : Nat)
  /-- HBM_SCRUB (R336) -/
  | hbmScrub (a : Nat) (e : Ecc)
  /-- STORE_SCRUB (R318) -/
  | storeScrub (r : CoreRef) (off : Nat) (e : Ecc)
  /-- TRANSLATION_REQUEST (R289) -/
  | translationRequest (q : Req)
  /-- WALK_STEP_COMPLETE (R290) -/
  | walkStepComplete (q : Req)
  /-- QUEUE_RESERVE (R265) -/
  | queueReserve (src : Origin) (q : Nat) (v : Word) (core tag : Nat) (reissue : Bool)
  /-- QUEUE_ENTRY_WRITE (R266) -/
  | queueEntryWrite (src : Origin) (q i k : Nat) (v : Word)
  /-- ENTRY_DISCARD (R266) -/
  | entryDiscard (q : Nat)
  /-- LAUNCH_TAKE (R267) -/
  | launchTake (q : Nat)
  /-- LAUNCH_PLACE (R276) -/
  | launchPlace (id : Nat)
  /-- REPLAY_ENTRY_START (R279) -/
  | replayEntryStart (id : Nat)
  /-- LAUNCH_COMPLETE (R270) -/
  | launchComplete (id : Nat)
  /-- EVICTION_START (R297) -/
  | evictionStart (id : Nat)
  /-- SAVE_STREAM_START (R299) -/
  | saveStreamStart (cl : Nat)
  /-- SAVE_COMPLETE (R299) -/
  | saveComplete (cl : Nat)
  /-- RESUMPTION (R304) -/
  | resumption (n : Nat)
  /-- DIE_LINK_FAILURE (R251) -/
  | dieLinkFailure (link : Nat) (posted : List Nat) (before after : List CoreRef)
  /-- FILESTEN_PORT_FAILURE (R311) -/
  | filestenPortFailure (port : Nat) (posted : List Nat) (accs : List CoreRef)
  /-- DEDUP_ENTRY_EXPIRY (R116) -/
  | dedupEntryExpiry (i : Nat)
  /-- CORE_SEAL (R324) -/
  | coreSeal (r : CoreRef) (cause : Nat)
  /-- CORE_TEST_COMPLETE (R327) -/
  | coreTestComplete (r : CoreRef) (pass : Bool)
  /-- CLUSTER_RETIRE (R328) -/
  | clusterRetire (cl : Nat)
  /-- STOP_AT_BOUNDARY (R341) -/
  | stopAtBoundary (r : CoreRef)
  /-- SERVICE_STOP_REQUEST (R341) -/
  | serviceStopRequest (r : CoreRef)
  /-- SERVICE_RELEASE (R341) -/
  | serviceRelease (r : CoreRef)
  /-- DLYSEL_COPY (R339) -/
  | dlyselCopy (r : CoreRef)
  /-- DLYSEL_CLEAR (R339) -/
  | dlyselClear (r : CoreRef)
  /-- HOST_MEMORY_READ (R307) -/
  | hostMemoryRead (svc bar a len : Nat)
  /-- HOST_MEMORY_WRITE (R307) -/
  | hostMemoryWrite (svc bar a : Nat) (bytes : List (Option Byte))
  /-- HOST_FETCHADD (R307) -/
  | hostFetchadd (svc bar a width : Nat) (v : Word)
  /-- HOST_SWAP (R307) -/
  | hostSwap (svc bar a width : Nat) (v : Word)
  /-- HOST_CAS (R307) -/
  | hostCas (svc bar a width : Nat) (cmp v : Word)
  /-- CONFIG_REQUEST (R350) -/
  | configRequest
  /-- RECOVERY_IMAGE_WRITE (R349) -/
  | recoveryImageWrite (off : Nat) (bytes : List Byte)
  /-- RECOVERY_IMAGE_COMPLETE (R349) -/
  | recoveryImageComplete
  /-- PEER_READ (R312) -/
  | peerRead (m a len : Nat)
  /-- PEER_WRITE (R312) -/
  | peerWrite (m a : Nat) (bytes : List Byte)
  /-- PEER_ATOMIC (R313) -/
  | peerAtomic (m core tag fn size a : Nat) (b d : Word) (reissue : Bool)
  /-- CONTROL_PATH_WRITE (R309) -/
  | controlPathWrite (src : Origin) (off : Nat) (v : Word)
  /-- INVALIDATE_SLOT (R292) -/
  | invalidateSlot (src : Origin) (v : Word)
  /-- INVALIDATE_RANGE (R292) -/
  | invalidateRange (src : Origin) (v : Word)
  /-- INVALIDATION_COMPLETE (R292) -/
  | invalidationComplete
  /-- FACCEPT (R351) -/
  | faccept (src : Origin) (v : Word)
  /-- ATTCMD (R352) -/
  | attcmd (src : Origin) (v : Word)
  /-- ATTESTATION_COMPLETE (R352) -/
  | attestationComplete
  /-- POWER_WINDOW (R353) -/
  | powerWindow (mean : Nat)
  /-- PERST_ASSERT (R350) -/
  | perstAssert
  /-- PERST_DEASSERT (R350) -/
  | perstDeassert (straps : Word)
  /-- BOOT_VERIFY_COMPLETE (R349) -/
  | bootVerifyComplete
  /-- POWER_WAVE (R350) -/
  | powerWave
  /-- HBM_TRAINING_COMPLETE (R350) -/
  | hbmTrainingComplete
  /-- UNASSIGNED_ENCODING (R38) -/
  | unassignedEncoding (w : W32) (half : Bool)
  /-- FETCH_FAULT (R33) -/
  | fetchFault (a : Word)
  /-- BOOT_ROM_READ_COMPLETE (R350) -/
  | bootRomReadComplete
  /-- RESTORE_COMPLETE (R304) -/
  | restoreComplete (n : Nat)
  /-- DROPPED_WINDOW_ACCESS (R265) -/
  | droppedWindowAccess (src : Origin) (off : Nat) (read : Bool)
deriving DecidableEq, Repr

end Sys2Proof
end

