-- ==== Sys2Proof/Decode.lean ====
section
/-! DEFINITION. The decoder and the encoder (R34 to R38, Tables 10 to 18 of spec/02): the bits of an instruction word to the
instruction they stand for, or a refusal by name; and back. Values of a field that an instruction's entry forbids although
the field carries an operand (R35, R38) decode, and raise ILLEGAL when executed (Sys2Proof/WellFormed.lean). -/
namespace Sys2Proof

/-- Why a word stands for no instruction (R38, Table 19). -/
inductive Reject where
  /-- MAJ 0x30 to 0x3F, or OP4 0 or 15. -/
  | major
  /-- An FN, COND or sub-selector value that Table 17 does not list. -/
  | selector
  /-- A field that the instruction does not use holds a nonzero value. -/
  | unusedField
deriving DecidableEq, Repr

/-- The fields of a 32-bit word, format T (Table 10); the other formats join or split them. -/
def pack (fn c b a d : Reg) (maj : BitVec 6) : W32 := fn ++ c ++ b ++ a ++ d ++ maj ++ 1#1
def fnOf (w : W32) : Reg := w.extractLsb' 27 5
def cOf (w : W32) : Reg := w.extractLsb' 22 5
def bOf (w : W32) : Reg := w.extractLsb' 17 5
def aOf (w : W32) : Reg := w.extractLsb' 12 5
def dOf (w : W32) : Reg := w.extractLsb' 7 5
def majOf (w : W32) : BitVec 6 := w.extractLsb' 1 6

/-- The fields of a 16-bit word (Table 16). -/
def pack16 (hi : BitVec 6) (d : Reg) (op : BitVec 4) : Half := hi ++ d ++ op ++ 0#1
def hiOf (h : Half) : BitVec 6 := h.extractLsb' 10 6
def d16Of (h : Half) : Reg := h.extractLsb' 5 5
def op4Of (h : Half) : BitVec 4 := h.extractLsb' 1 4

/-- Bit 0 of the first halfword selects the width (R34). -/
def isWide (h : Half) : Bool := h.getLsbD 0

/-- An instruction whose unused fields must hold zero (R38). -/
def need (zero : Bool) (i : Instr) : Except Reject Instr := if zero then .ok i else .error .unusedField

/-- MAJ 0x00, INT (Table 17). -/
def decodeInt (fn c b a d : Reg) : Except Reject Instr :=
  match fn.toNat with
  | 0 => need (c == 0#5) (.add d a b)
  | 1 => need (c == 0#5) (.sub d a b)
  | 2 => need (c == 0#5) (.and d a b)
  | 3 => need (c == 0#5) (.or d a b)
  | 4 => need (c == 0#5) (.xor d a b)
  | 5 => need (c == 0#5) (.shl d a b)
  | 6 => need (c == 0#5) (.shr d a b)
  | 7 => need (c == 0#5) (.sra d a b)
  | 8 => need (c == 0#5) (.rot d a b)
  | 9 => need (c == 0#5) (.mul d a b)
  | 10 => need (c == 0#5) (.mulh d a b)
  | 11 => need (c == 0#5) (.mulhu d a b)
  | 12 => need (c == 0#5) (.div d a b)
  | 13 => need (c == 0#5) (.divu d a b)
  | 14 => need (c == 0#5) (.rem d a b)
  | 15 => need (c == 0#5) (.remu d a b)
  | 16 => need (c == 0#5) (.slt d a b)
  | 17 => need (c == 0#5) (.sltu d a b)
  | 18 => need (c == 0#5) (.seq d a b)
  | 19 => need (c == 0#5) (.min d a b)
  | 20 => need (c == 0#5) (.max d a b)
  | 21 => need (c == 0#5) (.minu d a b)
  | 22 => need (c == 0#5) (.maxu d a b)
  | 23 => need (c == 0#5 && b == 0#5) (.clz d a)
  | 24 => need (c == 0#5 && b == 0#5) (.ctz d a)
  | 25 => need (c == 0#5 && b == 0#5) (.popc d a)
  | 26 => .ok (.madd d a b c)
  | 27 => .ok (.csel d a b c)
  | _ => .error .selector

/-- MAJ 0x0a, CTL (Table 17). -/
def decodeCtl (fn c b a d : Reg) : Except Reject Instr :=
  match (fn.extractLsb' 2 3).toNat with
  | 0 => need (a == 0#5) (.crd d ((fn.extractLsb' 0 2) ++ c ++ b))
  | 1 => need (d == 0#5) (.cwr a ((fn.extractLsb' 0 2) ++ c ++ b))
  | 2 => .ok (.cset d a ((fn.extractLsb' 0 2) ++ c ++ b))
  | 3 => .ok (.cclr d a ((fn.extractLsb' 0 2) ++ c ++ b))
  | 4 => .ok (.cswp d a ((fn.extractLsb' 0 2) ++ c ++ b))
  | _ => .error .selector

/-- MAJ 0x0b, BR (Table 17). -/
def decodeBr (fn c b a d : Reg) : Except Reject Instr :=
  match (b.extractLsb' 0 3).toNat with
  | 0 => .ok (.beq d a (fn ++ c ++ (b.extractLsb' 3 2)))
  | 1 => .ok (.bne d a (fn ++ c ++ (b.extractLsb' 3 2)))
  | 2 => .ok (.blt d a (fn ++ c ++ (b.extractLsb' 3 2)))
  | 3 => .ok (.bge d a (fn ++ c ++ (b.extractLsb' 3 2)))
  | 4 => .ok (.bltu d a (fn ++ c ++ (b.extractLsb' 3 2)))
  | 5 => .ok (.bgeu d a (fn ++ c ++ (b.extractLsb' 3 2)))
  | _ => .error .selector

/-- MAJ 0x0c, BX (Table 17). -/
def decodeBx (fn c b a d : Reg) : Except Reject Instr :=
  match (b.extractLsb' 0 3).toNat with
  | 0 => (match a.toNat with
    | 0 => need (d == 0#5) (.bok (fn ++ c ++ (b.extractLsb' 3 2)))
    | 1 => need (d == 0#5) (.bempty (fn ++ c ++ (b.extractLsb' 3 2)))
    | 2 => need (d == 0#5) (.bfull (fn ++ c ++ (b.extractLsb' 3 2)))
    | 3 => need (d == 0#5) (.babsent (fn ++ c ++ (b.extractLsb' 3 2)))
    | _ => .error .selector)
  | 1 => need (d == 0#5) (.bany a (fn ++ c ++ (b.extractLsb' 3 2)))
  | 2 => need (d == 0#5) (.ball a (fn ++ c ++ (b.extractLsb' 3 2)))
  | 3 => need (d == 0#5) (.bnone a (fn ++ c ++ (b.extractLsb' 3 2)))
  | 4 => need (a == 0#5) (.bflag d (fn ++ c ++ (b.extractLsb' 3 2)))
  | _ => .error .selector

/-- MAJ 0x1c, AMO (Table 17). -/
def decodeAmo (fn c b a d : Reg) : Except Reject Instr :=
  match (fn.extractLsb' 1 4).toNat with
  | 0 => .ok (.amoadd d a b (c.extractLsb' 0 2) (c.extractLsb' 2 3) (fn.extractLsb' 0 1))
  | 1 => .ok (.amoand d a b (c.extractLsb' 0 2) (c.extractLsb' 2 3) (fn.extractLsb' 0 1))
  | 2 => .ok (.amoor d a b (c.extractLsb' 0 2) (c.extractLsb' 2 3) (fn.extractLsb' 0 1))
  | 3 => .ok (.amoxor d a b (c.extractLsb' 0 2) (c.extractLsb' 2 3) (fn.extractLsb' 0 1))
  | 4 => .ok (.amomin d a b (c.extractLsb' 0 2) (c.extractLsb' 2 3) (fn.extractLsb' 0 1))
  | 5 => .ok (.amomax d a b (c.extractLsb' 0 2) (c.extractLsb' 2 3) (fn.extractLsb' 0 1))
  | 6 => .ok (.amominu d a b (c.extractLsb' 0 2) (c.extractLsb' 2 3) (fn.extractLsb' 0 1))
  | 7 => .ok (.amomaxu d a b (c.extractLsb' 0 2) (c.extractLsb' 2 3) (fn.extractLsb' 0 1))
  | 8 => .ok (.amoswap d a b (c.extractLsb' 0 2) (c.extractLsb' 2 3) (fn.extractLsb' 0 1))
  | 9 => .ok (.amocas d a b (c.extractLsb' 0 2) (c.extractLsb' 2 3) (fn.extractLsb' 0 1))
  | 10 => need ((fn.extractLsb' 0 1) == 0#1) (.amofadd d a b (c.extractLsb' 0 2) (c.extractLsb' 2 3))
  | 11 => .ok (.amoincb d a b (c.extractLsb' 0 2) (c.extractLsb' 2 3) (fn.extractLsb' 0 1))
  | _ => .error .selector

/-- MAJ 0x1d, FENCE (Table 17). -/
def decodeFence (fn c b a d : Reg) : Except Reject Instr :=
  match fn.toNat with
  | 0 => need ((c.extractLsb' 3 2) == 0#2 && b == 0#5 && a == 0#5 && d == 0#5) (.fence (c.extractLsb' 0 3))
  | 1 => need ((c.extractLsb' 3 2) == 0#2 && d == 0#5) (.pfence a b (c.extractLsb' 0 3))
  | 2 => need (c == 0#5 && b == 0#5 && a == 0#5 && d == 0#5) (.ifence)
  | _ => .error .selector

/-- MAJ 0x1e, WAIT (Table 17). -/
def decodeWait (fn c b a d : Reg) : Except Reject Instr :=
  match fn.toNat with
  | 0 => need (c == 0#5) (.waitge d a b)
  | 1 => .ok (.waitp d a b c)
  | 2 => need (c == 0#5 && b == 0#5 && d == 0#5) (.sleep a)
  | 3 => need (d == 0#5) (.fwait a b c)
  | 4 => need (d == 0#5) (.fset a b c)
  | 5 => need (d == 0#5) (.fclr a b c)
  | 6 => need (c == 0#5 && b == 0#5) (.ftest d a)
  | 7 => need (c == 0#5 && b == 0#5 && a == 0#5 && d == 0#5) (.yield)
  | _ => .error .selector

/-- MAJ 0x1f, BANK (Table 17). -/
def decodeBank (fn c b a d : Reg) : Except Reject Instr :=
  match fn.toNat with
  | 0 => need (c == 0#5) (.bpers d a b)
  | 1 => need (c == 0#5 && b == 0#5) (.bquery d a)
  | 2 => .ok (.bgroup d a b c)
  | 3 => need (c == 0#5) (.bspread d a b)
  | 4 => need (d == 0#5) (.bkeep a b c)
  | 5 => need (c == 0#5 && b == 0#5) (.bclear d a)
  | _ => .error .selector

/-- MAJ 0x20, VALU (Table 17). -/
def decodeValu (fn c b a d : Reg) : Except Reject Instr :=
  match fn.toNat with
  | 0 => .ok (.vadd d a b (c.extractLsb' 0 3) (c.extractLsb' 3 2))
  | 1 => .ok (.vsub d a b (c.extractLsb' 0 3) (c.extractLsb' 3 2))
  | 2 => .ok (.vmul d a b (c.extractLsb' 0 3) (c.extractLsb' 3 2))
  | 3 => .ok (.vmin d a b (c.extractLsb' 0 3) (c.extractLsb' 3 2))
  | 4 => .ok (.vmax d a b (c.extractLsb' 0 3) (c.extractLsb' 3 2))
  | 5 => .ok (.vand d a b (c.extractLsb' 0 3) (c.extractLsb' 3 2))
  | 6 => .ok (.vor d a b (c.extractLsb' 0 3) (c.extractLsb' 3 2))
  | 7 => .ok (.vxor d a b (c.extractLsb' 0 3) (c.extractLsb' 3 2))
  | 8 => .ok (.vshl d a b (c.extractLsb' 0 3) (c.extractLsb' 3 2))
  | 9 => .ok (.vshr d a b (c.extractLsb' 0 3) (c.extractLsb' 3 2))
  | 10 => .ok (.vsra d a b (c.extractLsb' 0 3) (c.extractLsb' 3 2))
  | 11 => need ((c.extractLsb' 3 2) == 0#2) (.vceq d a b (c.extractLsb' 0 3))
  | 12 => need ((c.extractLsb' 3 2) == 0#2) (.vclt d a b (c.extractLsb' 0 3))
  | 13 => need ((c.extractLsb' 3 2) == 0#2) (.vcle d a b (c.extractLsb' 0 3))
  | 14 => .ok (.vsel d a b (c.extractLsb' 0 3) (c.extractLsb' 3 2))
  | 15 => .ok (.vaddsat d a b (c.extractLsb' 0 3) (c.extractLsb' 3 2))
  | 16 => .ok (.vmadd d a b (c.extractLsb' 0 3) (c.extractLsb' 3 2))
  | _ => .error .selector

/-- MAJ 0x21, VFP (Table 17). -/
def decodeVfp (fn c b a d : Reg) : Except Reject Instr :=
  match fn.toNat with
  | 0 => need ((c.extractLsb' 4 1) == 0#1) (.vfadd d a b (c.extractLsb' 0 3) (c.extractLsb' 3 1))
  | 1 => need ((c.extractLsb' 4 1) == 0#1) (.vfsub d a b (c.extractLsb' 0 3) (c.extractLsb' 3 1))
  | 2 => need ((c.extractLsb' 4 1) == 0#1) (.vfmul d a b (c.extractLsb' 0 3) (c.extractLsb' 3 1))
  | 3 => need ((c.extractLsb' 4 1) == 0#1) (.vfma d a b (c.extractLsb' 0 3) (c.extractLsb' 3 1))
  | 4 => need ((c.extractLsb' 4 1) == 0#1) (.vfmin d a b (c.extractLsb' 0 3) (c.extractLsb' 3 1))
  | 5 => need ((c.extractLsb' 4 1) == 0#1) (.vfmax d a b (c.extractLsb' 0 3) (c.extractLsb' 3 1))
  | 6 => need ((c.extractLsb' 3 2) == 0#2) (.vfceq d a b (c.extractLsb' 0 3))
  | 7 => need ((c.extractLsb' 3 2) == 0#2) (.vfclt d a b (c.extractLsb' 0 3))
  | 8 => need ((c.extractLsb' 3 2) == 0#2) (.vfcle d a b (c.extractLsb' 0 3))
  | 9 => need ((c.extractLsb' 4 1) == 0#1) (.vfdiv d a b (c.extractLsb' 0 3) (c.extractLsb' 3 1))
  | 10 => need ((c.extractLsb' 4 1) == 0#1 && b == 0#5) (.vfsqrt d a (c.extractLsb' 0 3) (c.extractLsb' 3 1))
  | 11 => need ((c.extractLsb' 4 1) == 0#1 && b == 0#5) (.vfrcp d a (c.extractLsb' 0 3) (c.extractLsb' 3 1))
  | 12 => need ((c.extractLsb' 4 1) == 0#1 && b == 0#5) (.vfexp2 d a (c.extractLsb' 0 3) (c.extractLsb' 3 1))
  | 13 => need ((c.extractLsb' 4 1) == 0#1 && b == 0#5) (.vflog2 d a (c.extractLsb' 0 3) (c.extractLsb' 3 1))
  | 14 => need ((c.extractLsb' 4 1) == 0#1 && b == 0#5) (.vfabs d a (c.extractLsb' 0 3) (c.extractLsb' 3 1))
  | 15 => need ((c.extractLsb' 4 1) == 0#1 && b == 0#5) (.vfneg d a (c.extractLsb' 0 3) (c.extractLsb' 3 1))
  | _ => .error .selector

/-- MAJ 0x22, VMEM (Table 17). -/
def decodeVmem (fn c b a d : Reg) : Except Reject Instr :=
  match fn.toNat with
  | 0 => need ((c.extractLsb' 3 2) == 0#2 && b == 0#5) (.vld d a (c.extractLsb' 0 3))
  | 1 => need ((c.extractLsb' 3 2) == 0#2 && b == 0#5) (.vst d a (c.extractLsb' 0 3))
  | 2 => need ((c.extractLsb' 3 2) == 0#2) (.vldx d a b (c.extractLsb' 0 3))
  | 3 => need ((c.extractLsb' 3 2) == 0#2) (.vstx d a b (c.extractLsb' 0 3))
  | 4 => need ((c.extractLsb' 4 1) == 0#1) (.vstxadd d a b (c.extractLsb' 0 3) (c.extractLsb' 3 1))
  | 5 => need ((c.extractLsb' 3 2) == 0#2 && b == 0#5) (.vldb d a (c.extractLsb' 0 3))
  | 6 => need ((c.extractLsb' 3 2) == 0#2) (.vldk d a b (c.extractLsb' 0 3))
  | 7 => need ((c.extractLsb' 3 2) == 0#2) (.vstk d a b (c.extractLsb' 0 3))
  | _ => .error .selector

/-- MAJ 0x23, VXF (Table 17). -/
def decodeVxf (fn c b a d : Reg) : Except Reject Instr :=
  match fn.toNat with
  | 0 => need ((c.extractLsb' 3 2) == 0#2 && b == 0#5) (.vbcast d a (c.extractLsb' 0 3))
  | 1 => need (c == 0#5) (.vext d a b)
  | 2 => need (c == 0#5) (.vins d a b)
  | 3 => need ((c.extractLsb' 3 2) == 0#2 && b == 0#5) (.vredaddI32 d a (c.extractLsb' 0 3))
  | 4 => need ((c.extractLsb' 3 2) == 0#2 && b == 0#5) (.vredaddF32 d a (c.extractLsb' 0 3))
  | 5 => need ((c.extractLsb' 4 1) == 0#1 && b == 0#5) (.vredmin d a (c.extractLsb' 0 3) (c.extractLsb' 3 1))
  | 6 => need ((c.extractLsb' 4 1) == 0#1 && b == 0#5) (.vredmax d a (c.extractLsb' 0 3) (c.extractLsb' 3 1))
  | 7 => need ((c.extractLsb' 3 2) == 0#2) (.vperm d a b (c.extractLsb' 0 3))
  | 8 => need ((c.extractLsb' 3 2) == 0#2) (.vslide d a b (c.extractLsb' 0 3))
  | 9 => need (c == 0#5 && b == 0#5) (.vmpop d a)
  | 10 => need (c == 0#5) (.vmand d a b)
  | 11 => need (c == 0#5) (.vmor d a b)
  | 12 => need (c == 0#5) (.vmxor d a b)
  | 13 => need (c == 0#5 && b == 0#5) (.vmnot d a)
  | 14 => need (c == 0#5 && b == 0#5) (.vmset d a)
  | 15 => need (c == 0#5 && b == 0#5) (.vmget d a)
  | 16 => need ((c.extractLsb' 3 2) == 0#2 && b == 0#5 && a == 0#5) (.vlane d (c.extractLsb' 0 3))
  | _ => .error .selector

/-- MAJ 0x24, CVT (Table 17). -/
def decodeCvt (fn c b a d : Reg) : Except Reject Instr :=
  match fn.toNat with
  | 0 => need ((c.extractLsb' 4 1) == 0#1 && b == 0#5) (.cvtF32I32 d a (c.extractLsb' 0 3) (c.extractLsb' 3 1))
  | 1 => need ((c.extractLsb' 4 1) == 0#1 && b == 0#5) (.cvtI32F32 d a (c.extractLsb' 0 3) (c.extractLsb' 3 1))
  | 2 => need (c == 0#5 && b == 0#5) (.cvtF64F32 d a)
  | 3 => need (c == 0#5 && b == 0#5) (.cvtF32F64 d a)
  | 4 => need ((c.extractLsb' 3 2) == 0#2) (.vcvtBf16F32 d a b (c.extractLsb' 0 3))
  | 5 => need ((c.extractLsb' 3 2) == 0#2) (.vcvtF32Bf16 d a b (c.extractLsb' 0 3))
  | 6 => .ok (.vdec d a b (c.extractLsb' 0 3) (c.extractLsb' 3 2))
  | 7 => .ok (.venc d a b (c.extractLsb' 0 3) (c.extractLsb' 3 2))
  | 8 => need ((c.extractLsb' 1 4) == 0#4) (.vqmx d a b (c.extractLsb' 0 1))
  | 9 => need ((c.extractLsb' 1 4) == 0#4) (.vdqmx d a b (c.extractLsb' 0 1))
  | _ => .error .selector

/-- MAJ 0x25, FALU (Table 17). -/
def decodeFalu (fn c b a d : Reg) : Except Reject Instr :=
  match (fn.extractLsb' 0 4).toNat with
  | 0 => need (c == 0#5) (.fadd d a b (fn.extractLsb' 4 1))
  | 1 => need (c == 0#5) (.fsub d a b (fn.extractLsb' 4 1))
  | 2 => need (c == 0#5) (.fmul d a b (fn.extractLsb' 4 1))
  | 3 => .ok (.fma d a b c (fn.extractLsb' 4 1))
  | 4 => need (c == 0#5) (.fdiv d a b (fn.extractLsb' 4 1))
  | 5 => need (c == 0#5 && b == 0#5) (.fsqrt d a (fn.extractLsb' 4 1))
  | 6 => need (c == 0#5) (.fmin d a b (fn.extractLsb' 4 1))
  | 7 => need (c == 0#5) (.fmax d a b (fn.extractLsb' 4 1))
  | 8 => need (c == 0#5) (.feq d a b (fn.extractLsb' 4 1))
  | 9 => need (c == 0#5) (.flt d a b (fn.extractLsb' 4 1))
  | 10 => need (c == 0#5) (.fle d a b (fn.extractLsb' 4 1))
  | 11 => need (c == 0#5 && b == 0#5) (.fabs d a (fn.extractLsb' 4 1))
  | 12 => need (c == 0#5 && b == 0#5) (.fneg d a (fn.extractLsb' 4 1))
  | 13 => need (c == 0#5 && b == 0#5) (.fclass d a (fn.extractLsb' 4 1))
  | _ => .error .selector

/-- MAJ 0x26, TBL (Table 17). -/
def decodeTbl (fn c b a d : Reg) : Except Reject Instr :=
  match fn.toNat with
  | 0 => need (c == 0#5 && b == 0#5 && (d.extractLsb' 2 3) == 0#3) (.tblld (d.extractLsb' 0 2) a)
  | 1 => need (c == 0#5 && (b.extractLsb' 2 3) == 0#3) (.tblrd d a (b.extractLsb' 0 2))
  | 2 => need (c == 0#5 && b == 0#5 && (d.extractLsb' 2 3) == 0#3) (.tblpre (d.extractLsb' 0 2) a)
  | _ => .error .selector

/-- MAJ 0x27, MAT (Table 17). -/
def decodeMat (fn c b a d : Reg) : Except Reject Instr :=
  match (fn.extractLsb' 2 3).toNat with
  | 0 => need ((d.extractLsb' 2 3) == 0#3) (.mma (d.extractLsb' 0 2) a b c (fn.extractLsb' 0 2))
  | 2 => need ((d.extractLsb' 2 3) == 0#3) (.mmaz (d.extractLsb' 0 2) a b c (fn.extractLsb' 0 2))
  | 4 => need ((d.extractLsb' 2 3) == 0#3) (.mstream (d.extractLsb' 0 2) a b c (fn.extractLsb' 0 2))
  | 6 => (match (fn.extractLsb' 0 2).toNat with
    | 0 => need (c == 0#5 && b == 0#5 && a == 0#5 && (d.extractLsb' 2 3) == 0#3) (.mzero (d.extractLsb' 0 2))
    | 1 => need (c == 0#5 && (d.extractLsb' 2 3) == 0#3) (.mstore (d.extractLsb' 0 2) a b)
    | 2 => need (c == 0#5 && (d.extractLsb' 2 3) == 0#3) (.mread (d.extractLsb' 0 2) a b)
    | 3 => need (c == 0#5 && (d.extractLsb' 2 3) == 0#3) (.mpeek (d.extractLsb' 0 2) a b)
    | _ => .error .selector)
  | 7 => (match (fn.extractLsb' 0 2).toNat with
    | 0 => need (c == 0#5 && b == 0#5 && a == 0#5 && d == 0#5) (.msync)
    | 1 => need (c == 0#5 && b == 0#5 && (d.extractLsb' 2 3) == 0#3) (.mload (d.extractLsb' 0 2) a)
    | _ => .error .selector)
  | _ => .error .selector

/-- MAJ 0x28, RULE (Table 17). -/
def decodeRule (fn c b a d : Reg) : Except Reject Instr :=
  match fn.toNat with
  | 0 => need (c == 0#5 && b == 0#5) (.rrun d a)
  | 1 => need (c == 0#5 && b == 0#5) (.rverify d a)
  | 2 => need (c == 0#5 && b == 0#5) (.rstat d a)
  | _ => .error .selector

/-- MAJ 0x29, COPY (Table 17). -/
def decodeCopy (fn c b a d : Reg) : Except Reject Instr :=
  match fn.toNat with
  | 0 => need (c == 0#5 && b == 0#5) (.cpy d a)
  | 1 => need (c == 0#5 && b == 0#5) (.cpyTry d a)
  | 2 => need (c == 0#5 && b == 0#5 && a == 0#5) (.cpyq d)
  | _ => .error .selector

/-- MAJ 0x2a, MSG (Table 17). -/
def decodeMsg (fn c b a d : Reg) : Except Reject Instr :=
  match fn.toNat with
  | 0 => need (c == 0#5 && d == 0#5) (.send a b)
  | 1 => need (d == 0#5) (.sendm a b c)
  | 2 => need (d == 0#5) (.arm a b c)
  | 3 => need (c == 0#5 && d == 0#5) (.bind a b)
  | 4 => need (c == 0#5 && d == 0#5) (.spawn a b)
  | 5 => need (d == 0#5) (.reply a b c)
  | _ => .error .selector

/-- MAJ 0x2b, TASK (Table 17). -/
def decodeTask (fn c b a d : Reg) : Except Reject Instr :=
  match fn.toNat with
  | 0 => need (c == 0#5 && b == 0#5 && d == 0#5) (.halt a)
  | 1 => need (c == 0#5 && b == 0#5 && a == 0#5) (.self d)
  | _ => .error .selector

/-- MAJ 0x2c, CLU (Table 17). -/
def decodeClu (fn c b a d : Reg) : Except Reject Instr :=
  match fn.toNat with
  | 0 => need (c == 0#5 && b == 0#5 && a == 0#5 && d == 0#5) (.detach)
  | 1 => need (c == 0#5 && b == 0#5 && d == 0#5) (.join a)
  | 2 => need (c == 0#5 && b == 0#5 && d == 0#5) (.bar a)
  | 3 => need (c == 0#5 && b == 0#5 && a == 0#5) (.lead d)
  | _ => .error .selector

/-- MAJ 0x2d, WS (Table 17). -/
def decodeWs (fn c b a d : Reg) : Except Reject Instr :=
  match fn.toNat with
  | 0 => need (c == 0#5 && b == 0#5 && d == 0#5) (.grow a)
  | 1 => need (c == 0#5 && b == 0#5 && d == 0#5) (.shrink a)
  | 2 => need (c == 0#5 && b == 0#5) (.swp d a)
  | 3 => need (c == 0#5) (.rdws d a b)
  | _ => .error .selector

/-- MAJ 0x2e, SYS (Table 17). -/
def decodeSys (fn c b a d : Reg) : Except Reject Instr :=
  match fn.toNat with
  | 0 => need (c == 0#5 && b == 0#5 && d == 0#5) (.trap a)
  | 1 => need (c == 0#5 && b == 0#5 && a == 0#5 && d == 0#5) (.eret)
  | 2 => need (c == 0#5 && b == 0#5 && d == 0#5) (.stop a)
  | 3 => need (c == 0#5 && d == 0#5) (.census a b)
  | 4 => need (c == 0#5 && b == 0#5 && a == 0#5 && d == 0#5) (.nop)
  | _ => .error .selector

/-- The instruction of a 32-bit word given by its fields (Table 17). -/
def decodeFields (maj : BitVec 6) (fn c b a d : Reg) : Except Reject Instr :=
  match maj.toNat with
  | 0 => decodeInt fn c b a d
  | 1 => .ok (.addi d a (fn ++ c ++ b))
  | 2 => .ok (.andi d a (fn ++ c ++ b))
  | 3 => .ok (.ori d a (fn ++ c ++ b))
  | 4 => .ok (.xori d a (fn ++ c ++ b))
  | 5 => need (fn == 0#5 && (c.extractLsb' 3 2) == 0#2) (.shi d a ((c.extractLsb' 0 1) ++ b) (c.extractLsb' 1 2))
  | 6 => .ok (.slti d a (fn ++ c ++ b))
  | 7 => .ok (.sltiu d a (fn ++ c ++ b))
  | 8 => .ok (.lui d (fn ++ c ++ b ++ a))
  | 9 => .ok (.addpc d (fn ++ c ++ b ++ a))
  | 10 => decodeCtl fn c b a d
  | 11 => decodeBr fn c b a d
  | 12 => decodeBx fn c b a d
  | 13 => .ok (.jal d (fn ++ c ++ b ++ a))
  | 14 => .ok (.jalr d a (fn ++ c ++ b))
  | 15 => .ok (.ldx d a b (c.extractLsb' 0 3) (c.extractLsb' 3 2) (fn.extractLsb' 0 3) (fn.extractLsb' 3 2))
  | 16 => .ok (.stx d a b (c.extractLsb' 0 3) (c.extractLsb' 3 2) (fn.extractLsb' 0 3) (fn.extractLsb' 3 2))
  | 17 => .ok (.ldb d a (fn ++ c ++ b))
  | 18 => .ok (.ldbz d a (fn ++ c ++ b))
  | 19 => .ok (.ldh d a (fn ++ c ++ b))
  | 20 => .ok (.ldhz d a (fn ++ c ++ b))
  | 21 => .ok (.ldw d a (fn ++ c ++ b))
  | 22 => .ok (.ldwz d a (fn ++ c ++ b))
  | 23 => .ok (.ldd d a (fn ++ c ++ b))
  | 24 => .ok (.stb d a (fn ++ c ++ b))
  | 25 => .ok (.sth d a (fn ++ c ++ b))
  | 26 => .ok (.stw d a (fn ++ c ++ b))
  | 27 => .ok (.std d a (fn ++ c ++ b))
  | 28 => decodeAmo fn c b a d
  | 29 => decodeFence fn c b a d
  | 30 => decodeWait fn c b a d
  | 31 => decodeBank fn c b a d
  | 32 => decodeValu fn c b a d
  | 33 => decodeVfp fn c b a d
  | 34 => decodeVmem fn c b a d
  | 35 => decodeVxf fn c b a d
  | 36 => decodeCvt fn c b a d
  | 37 => decodeFalu fn c b a d
  | 38 => decodeTbl fn c b a d
  | 39 => decodeMat fn c b a d
  | 40 => decodeRule fn c b a d
  | 41 => decodeCopy fn c b a d
  | 42 => decodeMsg fn c b a d
  | 43 => decodeTask fn c b a d
  | 44 => decodeClu fn c b a d
  | 45 => decodeWs fn c b a d
  | 46 => decodeSys fn c b a d
  | 47 => need ((fn.extractLsb' 3 2) == 0#2 && d == 0#5) (.rep a b c (fn.extractLsb' 0 3))
  | _ => .error .major

def decode32 (w : W32) : Except Reject Instr :=
  decodeFields (majOf w) (fnOf w) (cOf w) (bOf w) (aOf w) (dOf w)

/-- The instruction of a 16-bit word given by its fields (Table 18). -/
def decodeFields16 (op : BitVec 4) (hi : BitVec 6) (d : Reg) : Except Reject Instr :=
  match op.toNat with
  | 1 => need (hi.extractLsb' 5 1 == 0#1) (.cMov d (hi.extractLsb' 0 5))
  | 2 => .ok (.cAddi d hi)
  | 3 => .ok (.cLi d hi)
  | 4 => need (hi.extractLsb' 5 1 == 0#1) (.cLdd d (hi.extractLsb' 0 5))
  | 5 => need (hi.extractLsb' 5 1 == 0#1) (.cStd d (hi.extractLsb' 0 5))
  | 6 => need (hi.extractLsb' 5 1 == 0#1) (.cAdd d (hi.extractLsb' 0 5))
  | 7 => .ok (.cBeqz d hi)
  | 8 => .ok (.cBnez d hi)
  | 9 => .ok (.cJ (hi ++ d))
  | 10 => need (hi == 0#6 && d == 0#5) .once
  | 11 => need (hi == 0#6 && d == 0#5) .cHalt
  | 12 => need (hi.extractLsb' 4 2 == 0#2 && d == 0#5) (.cJoin (hi.extractLsb' 0 4))
  | 13 => need (hi == 0#6 && d == 0#5) .cRet
  | 14 => need (hi == 0#6 && d == 0#5) .cNop
  | _ => .error .major

def decode16 (h : Half) : Except Reject Instr := decodeFields16 (op4Of h) (hiOf h) (d16Of h)

/-- The instruction whose first halfword is `lo`; `hi` is its second halfword, used by the wide forms alone (R17, R34). -/
def decode (lo hi : Half) : Except Reject Instr := if isWide lo then decode32 (hi ++ lo) else decode16 lo

/-- The word of an encoded instruction, a 16-bit one in its low half; a step that no word encodes has none. -/
def encode : Instr → Option W32
  | .add d a b => some (pack 0#5 0#5 b a d 0#6)
  | .sub d a b => some (pack 1#5 0#5 b a d 0#6)
  | .and d a b => some (pack 2#5 0#5 b a d 0#6)
  | .or d a b => some (pack 3#5 0#5 b a d 0#6)
  | .xor d a b => some (pack 4#5 0#5 b a d 0#6)
  | .shl d a b => some (pack 5#5 0#5 b a d 0#6)
  | .shr d a b => some (pack 6#5 0#5 b a d 0#6)
  | .sra d a b => some (pack 7#5 0#5 b a d 0#6)
  | .rot d a b => some (pack 8#5 0#5 b a d 0#6)
  | .mul d a b => some (pack 9#5 0#5 b a d 0#6)
  | .mulh d a b => some (pack 10#5 0#5 b a d 0#6)
  | .mulhu d a b => some (pack 11#5 0#5 b a d 0#6)
  | .div d a b => some (pack 12#5 0#5 b a d 0#6)
  | .divu d a b => some (pack 13#5 0#5 b a d 0#6)
  | .rem d a b => some (pack 14#5 0#5 b a d 0#6)
  | .remu d a b => some (pack 15#5 0#5 b a d 0#6)
  | .slt d a b => some (pack 16#5 0#5 b a d 0#6)
  | .sltu d a b => some (pack 17#5 0#5 b a d 0#6)
  | .seq d a b => some (pack 18#5 0#5 b a d 0#6)
  | .min d a b => some (pack 19#5 0#5 b a d 0#6)
  | .max d a b => some (pack 20#5 0#5 b a d 0#6)
  | .minu d a b => some (pack 21#5 0#5 b a d 0#6)
  | .maxu d a b => some (pack 22#5 0#5 b a d 0#6)
  | .clz d a => some (pack 23#5 0#5 0#5 a d 0#6)
  | .ctz d a => some (pack 24#5 0#5 0#5 a d 0#6)
  | .popc d a => some (pack 25#5 0#5 0#5 a d 0#6)
  | .madd d a b c => some (pack 26#5 c b a d 0#6)
  | .csel d a b c => some (pack 27#5 c b a d 0#6)
  | .addi d a i => some (pack (i.extractLsb' 10 5) (i.extractLsb' 5 5) (i.extractLsb' 0 5) a d 1#6)
  | .andi d a i => some (pack (i.extractLsb' 10 5) (i.extractLsb' 5 5) (i.extractLsb' 0 5) a d 2#6)
  | .ori d a i => some (pack (i.extractLsb' 10 5) (i.extractLsb' 5 5) (i.extractLsb' 0 5) a d 3#6)
  | .xori d a i => some (pack (i.extractLsb' 10 5) (i.extractLsb' 5 5) (i.extractLsb' 0 5) a d 4#6)
  | .shi d a n k => some (pack 0#5 (0#2 ++ k ++ n.extractLsb' 5 1) (n.extractLsb' 0 5) a d 5#6)
  | .slti d a i => some (pack (i.extractLsb' 10 5) (i.extractLsb' 5 5) (i.extractLsb' 0 5) a d 6#6)
  | .sltiu d a i => some (pack (i.extractLsb' 10 5) (i.extractLsb' 5 5) (i.extractLsb' 0 5) a d 7#6)
  | .lui d i => some (pack (i.extractLsb' 15 5) (i.extractLsb' 10 5) (i.extractLsb' 5 5) (i.extractLsb' 0 5) d 8#6)
  | .addpc d i => some (pack (i.extractLsb' 15 5) (i.extractLsb' 10 5) (i.extractLsb' 5 5) (i.extractLsb' 0 5) d 9#6)
  | .crd d n => some (pack (0#3 ++ n.extractLsb' 10 2) (n.extractLsb' 5 5) (n.extractLsb' 0 5) 0#5 d 10#6)
  | .cwr a n => some (pack (1#3 ++ n.extractLsb' 10 2) (n.extractLsb' 5 5) (n.extractLsb' 0 5) a 0#5 10#6)
  | .cset d a n => some (pack (2#3 ++ n.extractLsb' 10 2) (n.extractLsb' 5 5) (n.extractLsb' 0 5) a d 10#6)
  | .cclr d a n => some (pack (3#3 ++ n.extractLsb' 10 2) (n.extractLsb' 5 5) (n.extractLsb' 0 5) a d 10#6)
  | .cswp d a n => some (pack (4#3 ++ n.extractLsb' 10 2) (n.extractLsb' 5 5) (n.extractLsb' 0 5) a d 10#6)
  | .beq x y o => some (pack (o.extractLsb' 7 5) (o.extractLsb' 2 5) (o.extractLsb' 0 2 ++ 0#3) y x 11#6)
  | .bne x y o => some (pack (o.extractLsb' 7 5) (o.extractLsb' 2 5) (o.extractLsb' 0 2 ++ 1#3) y x 11#6)
  | .blt x y o => some (pack (o.extractLsb' 7 5) (o.extractLsb' 2 5) (o.extractLsb' 0 2 ++ 2#3) y x 11#6)
  | .bge x y o => some (pack (o.extractLsb' 7 5) (o.extractLsb' 2 5) (o.extractLsb' 0 2 ++ 3#3) y x 11#6)
  | .bltu x y o => some (pack (o.extractLsb' 7 5) (o.extractLsb' 2 5) (o.extractLsb' 0 2 ++ 4#3) y x 11#6)
  | .bgeu x y o => some (pack (o.extractLsb' 7 5) (o.extractLsb' 2 5) (o.extractLsb' 0 2 ++ 5#3) y x 11#6)
  | .bok o => some (pack (o.extractLsb' 7 5) (o.extractLsb' 2 5) (o.extractLsb' 0 2 ++ 0#3) 0#5 0#5 12#6)
  | .bempty o => some (pack (o.extractLsb' 7 5) (o.extractLsb' 2 5) (o.extractLsb' 0 2 ++ 0#3) 1#5 0#5 12#6)
  | .bfull o => some (pack (o.extractLsb' 7 5) (o.extractLsb' 2 5) (o.extractLsb' 0 2 ++ 0#3) 2#5 0#5 12#6)
  | .babsent o => some (pack (o.extractLsb' 7 5) (o.extractLsb' 2 5) (o.extractLsb' 0 2 ++ 0#3) 3#5 0#5 12#6)
  | .bany m o => some (pack (o.extractLsb' 7 5) (o.extractLsb' 2 5) (o.extractLsb' 0 2 ++ 1#3) m 0#5 12#6)
  | .ball m o => some (pack (o.extractLsb' 7 5) (o.extractLsb' 2 5) (o.extractLsb' 0 2 ++ 2#3) m 0#5 12#6)
  | .bnone m o => some (pack (o.extractLsb' 7 5) (o.extractLsb' 2 5) (o.extractLsb' 0 2 ++ 3#3) m 0#5 12#6)
  | .bflag x o => some (pack (o.extractLsb' 7 5) (o.extractLsb' 2 5) (o.extractLsb' 0 2 ++ 4#3) 0#5 x 12#6)
  | .jal d o => some (pack (o.extractLsb' 15 5) (o.extractLsb' 10 5) (o.extractLsb' 5 5) (o.extractLsb' 0 5) d 13#6)
  | .jalr d a i => some (pack (i.extractLsb' 10 5) (i.extractLsb' 5 5) (i.extractLsb' 0 5) a d 14#6)
  | .ldx d a b s o c h => some (pack (h ++ c) (o ++ s) b a d 15#6)
  | .stx d a b s o c h => some (pack (h ++ c) (o ++ s) b a d 16#6)
  | .ldb d a i => some (pack (i.extractLsb' 10 5) (i.extractLsb' 5 5) (i.extractLsb' 0 5) a d 17#6)
  | .ldbz d a i => some (pack (i.extractLsb' 10 5) (i.extractLsb' 5 5) (i.extractLsb' 0 5) a d 18#6)
  | .ldh d a i => some (pack (i.extractLsb' 10 5) (i.extractLsb' 5 5) (i.extractLsb' 0 5) a d 19#6)
  | .ldhz d a i => some (pack (i.extractLsb' 10 5) (i.extractLsb' 5 5) (i.extractLsb' 0 5) a d 20#6)
  | .ldw d a i => some (pack (i.extractLsb' 10 5) (i.extractLsb' 5 5) (i.extractLsb' 0 5) a d 21#6)
  | .ldwz d a i => some (pack (i.extractLsb' 10 5) (i.extractLsb' 5 5) (i.extractLsb' 0 5) a d 22#6)
  | .ldd d a i => some (pack (i.extractLsb' 10 5) (i.extractLsb' 5 5) (i.extractLsb' 0 5) a d 23#6)
  | .stb d a i => some (pack (i.extractLsb' 10 5) (i.extractLsb' 5 5) (i.extractLsb' 0 5) a d 24#6)
  | .sth d a i => some (pack (i.extractLsb' 10 5) (i.extractLsb' 5 5) (i.extractLsb' 0 5) a d 25#6)
  | .stw d a i => some (pack (i.extractLsb' 10 5) (i.extractLsb' 5 5) (i.extractLsb' 0 5) a d 26#6)
  | .std d a i => some (pack (i.extractLsb' 10 5) (i.extractLsb' 5 5) (i.extractLsb' 0 5) a d 27#6)
  | .amoadd d a b o s w => some (pack (0#4 ++ w) (s ++ o) b a d 28#6)
  | .amoand d a b o s w => some (pack (1#4 ++ w) (s ++ o) b a d 28#6)
  | .amoor d a b o s w => some (pack (2#4 ++ w) (s ++ o) b a d 28#6)
  | .amoxor d a b o s w => some (pack (3#4 ++ w) (s ++ o) b a d 28#6)
  | .amomin d a b o s w => some (pack (4#4 ++ w) (s ++ o) b a d 28#6)
  | .amomax d a b o s w => some (pack (5#4 ++ w) (s ++ o) b a d 28#6)
  | .amominu d a b o s w => some (pack (6#4 ++ w) (s ++ o) b a d 28#6)
  | .amomaxu d a b o s w => some (pack (7#4 ++ w) (s ++ o) b a d 28#6)
  | .amoswap d a b o s w => some (pack (8#4 ++ w) (s ++ o) b a d 28#6)
  | .amocas d a b o s w => some (pack (9#4 ++ w) (s ++ o) b a d 28#6)
  | .amofadd d a b o s => some (pack 20#5 (s ++ o) b a d 28#6)
  | .amoincb d a b o s w => some (pack (11#4 ++ w) (s ++ o) b a d 28#6)
  | .fence s => some (pack 0#5 (0#2 ++ s) 0#5 0#5 0#5 29#6)
  | .pfence a b s => some (pack 1#5 (0#2 ++ s) b a 0#5 29#6)
  | .ifence => some (pack 2#5 0#5 0#5 0#5 0#5 29#6)
  | .waitge d a b => some (pack 0#5 0#5 b a d 30#6)
  | .waitp d a b c => some (pack 1#5 c b a d 30#6)
  | .sleep a => some (pack 2#5 0#5 0#5 a 0#5 30#6)
  | .fwait a v c => some (pack 3#5 c v a 0#5 30#6)
  | .fset a b c => some (pack 4#5 c b a 0#5 30#6)
  | .fclr a b c => some (pack 5#5 c b a 0#5 30#6)
  | .ftest d a => some (pack 6#5 0#5 0#5 a d 30#6)
  | .yield => some (pack 7#5 0#5 0#5 0#5 0#5 30#6)
  | .bpers d a b => some (pack 0#5 0#5 b a d 31#6)
  | .bquery d a => some (pack 1#5 0#5 0#5 a d 31#6)
  | .bgroup d a b c => some (pack 2#5 c b a d 31#6)
  | .bspread d a b => some (pack 3#5 0#5 b a d 31#6)
  | .bkeep a b c => some (pack 4#5 c b a 0#5 31#6)
  | .bclear d a => some (pack 5#5 0#5 0#5 a d 31#6)
  | .vadd d a b m t => some (pack 0#5 (t ++ m) b a d 32#6)
  | .vsub d a b m t => some (pack 1#5 (t ++ m) b a d 32#6)
  | .vmul d a b m t => some (pack 2#5 (t ++ m) b a d 32#6)
  | .vmin d a b m t => some (pack 3#5 (t ++ m) b a d 32#6)
  | .vmax d a b m t => some (pack 4#5 (t ++ m) b a d 32#6)
  | .vand d a b m t => some (pack 5#5 (t ++ m) b a d 32#6)
  | .vor d a b m t => some (pack 6#5 (t ++ m) b a d 32#6)
  | .vxor d a b m t => some (pack 7#5 (t ++ m) b a d 32#6)
  | .vshl d a b m t => some (pack 8#5 (t ++ m) b a d 32#6)
  | .vshr d a b m t => some (pack 9#5 (t ++ m) b a d 32#6)
  | .vsra d a b m t => some (pack 10#5 (t ++ m) b a d 32#6)
  | .vceq d a b m => some (pack 11#5 (0#2 ++ m) b a d 32#6)
  | .vclt d a b m => some (pack 12#5 (0#2 ++ m) b a d 32#6)
  | .vcle d a b m => some (pack 13#5 (0#2 ++ m) b a d 32#6)
  | .vsel d a b m t => some (pack 14#5 (t ++ m) b a d 32#6)
  | .vaddsat d a b m t => some (pack 15#5 (t ++ m) b a d 32#6)
  | .vmadd d a b m t => some (pack 16#5 (t ++ m) b a d 32#6)
  | .vfadd d a b m t => some (pack 0#5 (0#1 ++ t ++ m) b a d 33#6)
  | .vfsub d a b m t => some (pack 1#5 (0#1 ++ t ++ m) b a d 33#6)
  | .vfmul d a b m t => some (pack 2#5 (0#1 ++ t ++ m) b a d 33#6)
  | .vfma d a b m t => some (pack 3#5 (0#1 ++ t ++ m) b a d 33#6)
  | .vfmin d a b m t => some (pack 4#5 (0#1 ++ t ++ m) b a d 33#6)
  | .vfmax d a b m t => some (pack 5#5 (0#1 ++ t ++ m) b a d 33#6)
  | .vfceq d a b m => some (pack 6#5 (0#2 ++ m) b a d 33#6)
  | .vfclt d a b m => some (pack 7#5 (0#2 ++ m) b a d 33#6)
  | .vfcle d a b m => some (pack 8#5 (0#2 ++ m) b a d 33#6)
  | .vfdiv d a b m t => some (pack 9#5 (0#1 ++ t ++ m) b a d 33#6)
  | .vfsqrt d a m t => some (pack 10#5 (0#1 ++ t ++ m) 0#5 a d 33#6)
  | .vfrcp d a m t => some (pack 11#5 (0#1 ++ t ++ m) 0#5 a d 33#6)
  | .vfexp2 d a m t => some (pack 12#5 (0#1 ++ t ++ m) 0#5 a d 33#6)
  | .vflog2 d a m t => some (pack 13#5 (0#1 ++ t ++ m) 0#5 a d 33#6)
  | .vfabs d a m t => some (pack 14#5 (0#1 ++ t ++ m) 0#5 a d 33#6)
  | .vfneg d a m t => some (pack 15#5 (0#1 ++ t ++ m) 0#5 a d 33#6)
  | .vld d a m => some (pack 0#5 (0#2 ++ m) 0#5 a d 34#6)
  | .vst d a m => some (pack 1#5 (0#2 ++ m) 0#5 a d 34#6)
  | .vldx d a b m => some (pack 2#5 (0#2 ++ m) b a d 34#6)
  | .vstx d a b m => some (pack 3#5 (0#2 ++ m) b a d 34#6)
  | .vstxadd d a b m t => some (pack 4#5 (0#1 ++ t ++ m) b a d 34#6)
  | .vldb d a m => some (pack 5#5 (0#2 ++ m) 0#5 a d 34#6)
  | .vldk d a b m => some (pack 6#5 (0#2 ++ m) b a d 34#6)
  | .vstk d a b m => some (pack 7#5 (0#2 ++ m) b a d 34#6)
  | .vbcast d a m => some (pack 0#5 (0#2 ++ m) 0#5 a d 35#6)
  | .vext d a n => some (pack 1#5 0#5 n a d 35#6)
  | .vins d a n => some (pack 2#5 0#5 n a d 35#6)
  | .vredaddI32 d a m => some (pack 3#5 (0#2 ++ m) 0#5 a d 35#6)
  | .vredaddF32 d a m => some (pack 4#5 (0#2 ++ m) 0#5 a d 35#6)
  | .vredmin d a m t => some (pack 5#5 (0#1 ++ t ++ m) 0#5 a d 35#6)
  | .vredmax d a m t => some (pack 6#5 (0#1 ++ t ++ m) 0#5 a d 35#6)
  | .vperm d a b m => some (pack 7#5 (0#2 ++ m) b a d 35#6)
  | .vslide d a b m => some (pack 8#5 (0#2 ++ m) b a d 35#6)
  | .vmpop d a => some (pack 9#5 0#5 0#5 a d 35#6)
  | .vmand d a b => some (pack 10#5 0#5 b a d 35#6)
  | .vmor d a b => some (pack 11#5 0#5 b a d 35#6)
  | .vmxor d a b => some (pack 12#5 0#5 b a d 35#6)
  | .vmnot d a => some (pack 13#5 0#5 0#5 a d 35#6)
  | .vmset d a => some (pack 14#5 0#5 0#5 a d 35#6)
  | .vmget d a => some (pack 15#5 0#5 0#5 a d 35#6)
  | .vlane d m => some (pack 16#5 (0#2 ++ m) 0#5 0#5 d 35#6)
  | .cvtF32I32 d a m v => some (pack 0#5 (0#1 ++ v ++ m) 0#5 a d 36#6)
  | .cvtI32F32 d a m v => some (pack 1#5 (0#1 ++ v ++ m) 0#5 a d 36#6)
  | .cvtF64F32 d a => some (pack 2#5 0#5 0#5 a d 36#6)
  | .cvtF32F64 d a => some (pack 3#5 0#5 0#5 a d 36#6)
  | .vcvtBf16F32 d a b m => some (pack 4#5 (0#2 ++ m) b a d 36#6)
  | .vcvtF32Bf16 d a h m => some (pack 5#5 (0#2 ++ m) h a d 36#6)
  | .vdec d a n m t => some (pack 6#5 (t ++ m) n a d 36#6)
  | .venc d a n m t => some (pack 7#5 (t ++ m) n a d 36#6)
  | .vqmx d a b h => some (pack 8#5 (0#4 ++ h) b a d 36#6)
  | .vdqmx d a b h => some (pack 9#5 (0#4 ++ h) b a d 36#6)
  | .fadd d a b t => some (pack (t ++ 0#4) 0#5 b a d 37#6)
  | .fsub d a b t => some (pack (t ++ 1#4) 0#5 b a d 37#6)
  | .fmul d a b t => some (pack (t ++ 2#4) 0#5 b a d 37#6)
  | .fma d a b c t => some (pack (t ++ 3#4) c b a d 37#6)
  | .fdiv d a b t => some (pack (t ++ 4#4) 0#5 b a d 37#6)
  | .fsqrt d a t => some (pack (t ++ 5#4) 0#5 0#5 a d 37#6)
  | .fmin d a b t => some (pack (t ++ 6#4) 0#5 b a d 37#6)
  | .fmax d a b t => some (pack (t ++ 7#4) 0#5 b a d 37#6)
  | .feq d a b t => some (pack (t ++ 8#4) 0#5 b a d 37#6)
  | .flt d a b t => some (pack (t ++ 9#4) 0#5 b a d 37#6)
  | .fle d a b t => some (pack (t ++ 10#4) 0#5 b a d 37#6)
  | .fabs d a t => some (pack (t ++ 11#4) 0#5 0#5 a d 37#6)
  | .fneg d a t => some (pack (t ++ 12#4) 0#5 0#5 a d 37#6)
  | .fclass d a t => some (pack (t ++ 13#4) 0#5 0#5 a d 37#6)
  | .tblld t a => some (pack 0#5 0#5 0#5 a (0#3 ++ t) 38#6)
  | .tblrd d a t => some (pack 1#5 0#5 (0#3 ++ t) a d 38#6)
  | .tblpre t p => some (pack 2#5 0#5 0#5 p (0#3 ++ t) 38#6)
  | .mma d a b c p => some (pack (0#3 ++ p) c b a (0#3 ++ d) 39#6)
  | .mmaz d a b c p => some (pack (2#3 ++ p) c b a (0#3 ++ d) 39#6)
  | .mstream d a b c p => some (pack (4#3 ++ p) c b a (0#3 ++ d) 39#6)
  | .mzero d => some (pack 24#5 0#5 0#5 0#5 (0#3 ++ d) 39#6)
  | .mstore d a b => some (pack 25#5 0#5 b a (0#3 ++ d) 39#6)
  | .mread d a b => some (pack 26#5 0#5 b a (0#3 ++ d) 39#6)
  | .mpeek d a b => some (pack 27#5 0#5 b a (0#3 ++ d) 39#6)
  | .msync => some (pack 28#5 0#5 0#5 0#5 0#5 39#6)
  | .mload d a => some (pack 29#5 0#5 0#5 a (0#3 ++ d) 39#6)
  | .rrun d a => some (pack 0#5 0#5 0#5 a d 40#6)
  | .rverify d a => some (pack 1#5 0#5 0#5 a d 40#6)
  | .rstat d a => some (pack 2#5 0#5 0#5 a d 40#6)
  | .cpy d a => some (pack 0#5 0#5 0#5 a d 41#6)
  | .cpyTry d a => some (pack 1#5 0#5 0#5 a d 41#6)
  | .cpyq d => some (pack 2#5 0#5 0#5 0#5 d 41#6)
  | .send a b => some (pack 0#5 0#5 b a 0#5 42#6)
  | .sendm a b c => some (pack 1#5 c b a 0#5 42#6)
  | .arm a b c => some (pack 2#5 c b a 0#5 42#6)
  | .bind a b => some (pack 3#5 0#5 b a 0#5 42#6)
  | .spawn a b => some (pack 4#5 0#5 b a 0#5 42#6)
  | .reply a b c => some (pack 5#5 c b a 0#5 42#6)
  | .halt k => some (pack 0#5 0#5 0#5 k 0#5 43#6)
  | .self d => some (pack 1#5 0#5 0#5 0#5 d 43#6)
  | .detach => some (pack 0#5 0#5 0#5 0#5 0#5 44#6)
  | .join k => some (pack 1#5 0#5 0#5 k 0#5 44#6)
  | .bar k => some (pack 2#5 0#5 0#5 k 0#5 44#6)
  | .lead d => some (pack 3#5 0#5 0#5 0#5 d 44#6)
  | .grow n => some (pack 0#5 0#5 0#5 n 0#5 45#6)
  | .shrink n => some (pack 1#5 0#5 0#5 n 0#5 45#6)
  | .swp d a => some (pack 2#5 0#5 0#5 a d 45#6)
  | .rdws d a b => some (pack 3#5 0#5 b a d 45#6)
  | .trap n => some (pack 0#5 0#5 0#5 n 0#5 46#6)
  | .eret => some (pack 1#5 0#5 0#5 0#5 0#5 46#6)
  | .stop n => some (pack 2#5 0#5 0#5 n 0#5 46#6)
  | .census a c => some (pack 3#5 0#5 c a 0#5 46#6)
  | .nop => some (pack 4#5 0#5 0#5 0#5 0#5 46#6)
  | .rep a l s g => some (pack (0#2 ++ g) s l a 0#5 47#6)
  | .cMov d r => some (pack16 (0#1 ++ r) d 1#4 |>.zeroExtend 32)
  | .cAddi d i => some (pack16 i d 2#4 |>.zeroExtend 32)
  | .cLi d i => some (pack16 i d 3#4 |>.zeroExtend 32)
  | .cLdd d r => some (pack16 (0#1 ++ r) d 4#4 |>.zeroExtend 32)
  | .cStd d r => some (pack16 (0#1 ++ r) d 5#4 |>.zeroExtend 32)
  | .cAdd d r => some (pack16 (0#1 ++ r) d 6#4 |>.zeroExtend 32)
  | .cBeqz d i => some (pack16 i d 7#4 |>.zeroExtend 32)
  | .cBnez d i => some (pack16 i d 8#4 |>.zeroExtend 32)
  | .cJ o => some (pack16 (o.extractLsb' 5 6) (o.extractLsb' 0 5) 9#4 |>.zeroExtend 32)
  | .once => some (pack16 0#6 0#5 10#4 |>.zeroExtend 32)
  | .cHalt => some (pack16 0#6 0#5 11#4 |>.zeroExtend 32)
  | .cJoin k => some (pack16 (0#2 ++ k) 0#5 12#4 |>.zeroExtend 32)
  | .cRet => some (pack16 0#6 0#5 13#4 |>.zeroExtend 32)
  | .cNop => some (pack16 0#6 0#5 14#4 |>.zeroExtend 32)
  | .waitSatisfied _ _ => none
  | .engineTrap _ => none
  | .driftDetach _ => none
  | .messageArrival _ => none
  | .bankOperationRequest _ => none
  | .accessResponse _ _ => none
  | .retryReissue _ => none
  | .retryTimeout _ => none
  | .backoffReissue _ => none
  | .inboxItemHandle _ => none
  | .activationStart _ => none
  | .readyPromotion _ _ => none
  | .groupStart _ => none
  | .coreLaunchEnd _ => none
  | .recordRetry _ => none
  | .bankConversionEnd _ => none
  | .spreadWindowClose _ _ => none
  | .matrixRamp _ => none
  | .matrixGrant _ => none
  | .matrixRetire _ _ _ => none
  | .matrixPortCommand _ => none
  | .tileWriteEnd _ => none
  | .copyStart _ => none
  | .copyEnd _ _ => none
  | .ruleJobStart _ => none
  | .ruleJobEnd _ => none
  | .memoryRequest _ _ => none
  | .bankBlockEnd _ _ _ => none
  | .refreshWindowStart _ => none
  | .hbmScrub _ _ => none
  | .storeScrub _ _ _ => none
  | .translationRequest _ => none
  | .walkStepComplete _ => none
  | .queueReserve _ _ _ _ _ _ => none
  | .queueEntryWrite _ _ _ _ _ => none
  | .entryDiscard _ => none
  | .launchTake _ => none
  | .launchPlace _ => none
  | .replayEntryStart _ => none
  | .launchComplete _ => none
  | .evictionStart _ => none
  | .saveStreamStart _ => none
  | .saveComplete _ => none
  | .resumption _ => none
  | .dieLinkFailure _ _ _ _ => none
  | .filestenPortFailure _ _ _ => none
  | .dedupEntryExpiry _ => none
  | .coreSeal _ _ => none
  | .coreTestComplete _ _ => none
  | .clusterRetire _ => none
  | .stopAtBoundary _ => none
  | .serviceStopRequest _ => none
  | .serviceRelease _ => none
  | .dlyselCopy _ => none
  | .dlyselClear _ => none
  | .hostMemoryRead _ _ _ _ => none
  | .hostMemoryWrite _ _ _ _ => none
  | .hostFetchadd _ _ _ _ _ => none
  | .hostSwap _ _ _ _ _ => none
  | .hostCas _ _ _ _ _ _ => none
  | .configRequest => none
  | .recoveryImageWrite _ _ => none
  | .recoveryImageComplete => none
  | .peerRead _ _ _ => none
  | .peerWrite _ _ _ => none
  | .peerAtomic _ _ _ _ _ _ _ _ _ => none
  | .controlPathWrite _ _ _ => none
  | .invalidateSlot _ _ => none
  | .invalidateRange _ _ => none
  | .invalidationComplete => none
  | .faccept _ _ => none
  | .attcmd _ _ => none
  | .attestationComplete => none
  | .powerWindow _ => none
  | .perstAssert => none
  | .perstDeassert _ => none
  | .bootVerifyComplete => none
  | .powerWave => none
  | .hbmTrainingComplete => none
  | .unassignedEncoding _ _ => none
  | .fetchFault _ => none
  | .bootRomReadComplete => none
  | .restoreComplete _ => none
  | .droppedWindowAccess _ _ _ => none

/-- Whether an instruction is a 16-bit one (R34, R104). -/
def isShort : Instr → Bool
  | .cMov _ _ => true
  | .cAddi _ _ => true
  | .cLi _ _ => true
  | .cLdd _ _ => true
  | .cStd _ _ => true
  | .cAdd _ _ => true
  | .cBeqz _ _ => true
  | .cBnez _ _ => true
  | .cJ _ => true
  | .once => true
  | .cHalt => true
  | .cJoin _ => true
  | .cRet => true
  | .cNop => true
  | _ => false

/-- The bytes an instruction takes (R79). -/
def Instr.len (i : Instr) : Nat := if isShort i then 2 else 4

/-- The word that ILLEGAL reports: the instruction word, or the halfword, zero-extended (R184). -/
def Instr.word (i : Instr) : Word := ((encode i).getD 0).zeroExtend 64

/-- The decoder on an opcode-table row's word: `w` holds the first halfword in its low bits. -/
def decodeTableWord (_nbits w : Nat) : Option Instr :=
  match decode (BitVec.ofNat 16 w) (BitVec.ofNat 16 (w / 65536)) with
  | .ok i => some i
  | .error _ => none

end Sys2Proof
end

