-- ==== Sys2Proof/Machine/Operands.lean ====
section
/-! DEFINITION. The operands of each instruction: which register of which class each field names and whether it is read or
written (the entries of spec/05 to spec/08), the field values that R35 and R38 forbid, and the replaced fields of a `rep`
body (R102). -/
namespace Sys2Proof

/-- The register fields of a word; `x` marks a register that no staggered field names (the mask operand, the second
register of a pair, the third source). -/
inductive Pos where
  | d | a | b | x
deriving DecidableEq, Repr

/-- The register classes of R18; `run` is the first of the four request registers of a copy (R102). -/
inductive Cls where
  | s | v | m | acc | tbl | run
deriving DecidableEq, Repr

/-- One register named by an instruction. -/
structure Use where
  pos : Pos
  cls : Cls
  num : Nat
  rd : Bool
  wr : Bool
deriving DecidableEq, Repr

/-- A register read. -/
def rdr (p : Pos) (c : Cls) (n : Reg) : Use := ⟨p, c, n.toNat, true, false⟩
/-- A register written. -/
def wrr (p : Pos) (c : Cls) (n : Reg) : Use := ⟨p, c, n.toNat, false, true⟩
/-- A register read and written. -/
def rwr (p : Pos) (c : Cls) (n : Reg) : Use := ⟨p, c, n.toNat, true, true⟩
/-- The mask operand C[2:0]: `m0` means all lanes and is not read (R18). -/
def mop (m : BitVec 3) : List Use := if m = 0#3 then [] else [⟨.x, .m, m.toNat, true, false⟩]
/-- The mask operand of a keyed access, which its results replace, `m0` among them (R142). -/
def mopw (m : BitVec 3) : List Use := [⟨.x, .m, m.toNat, m != 0#3, true⟩]
/-- A two-bit accumulator or table field. -/
def low2 (p : Pos) (c : Cls) (n : BitVec 2) : Use := ⟨p, c, n.toNat, false, false⟩
/-- The register after the one a pair field names (R134). -/
def nextr (c : Cls) (n : Reg) (rd wr : Bool) : Use := ⟨.x, c, n.toNat + 1, rd, wr⟩

/-- Every register an instruction names in its fields. -/
def Instr.uses : Instr → List Use
  | .add d a b | .sub d a b | .and d a b | .or d a b | .xor d a b | .shl d a b | .shr d a b | .sra d a b | .rot d a b
  | .mul d a b | .mulh d a b | .mulhu d a b | .div d a b | .divu d a b | .rem d a b | .remu d a b | .slt d a b
  | .sltu d a b | .seq d a b | .min d a b | .max d a b | .minu d a b | .maxu d a b =>
      [wrr .d .s d, rdr .a .s a, rdr .b .s b]
  | .clz d a | .ctz d a | .popc d a => [wrr .d .s d, rdr .a .s a]
  | .madd d a b c | .csel d a b c => [wrr .d .s d, rdr .a .s a, rdr .b .s b, rdr .x .s c]
  | .addi d a _ | .andi d a _ | .ori d a _ | .xori d a _ | .slti d a _ | .sltiu d a _ | .jalr d a _ =>
      [wrr .d .s d, rdr .a .s a]
  | .shi d a _ _ => [wrr .d .s d, rdr .a .s a]
  | .lui d _ | .addpc d _ | .jal d _ | .crd d _ => [wrr .d .s d]
  | .cwr a _ => [rdr .a .s a]
  | .cset d a _ | .cclr d a _ | .cswp d a _ => [wrr .d .s d, rdr .a .s a]
  | .beq x y _ | .bne x y _ | .blt x y _ | .bge x y _ | .bltu x y _ | .bgeu x y _ => [rdr .d .s x, rdr .a .s y]
  | .bok _ | .bempty _ | .bfull _ | .babsent _ => []
  | .bany m _ | .ball m _ | .bnone m _ => [rdr .a .m m]
  | .bflag x _ => [rdr .d .s x]
  | .ldx d a b _ _ _ _ => [wrr .d .s d, rdr .a .s a, rdr .b .s b]
  | .stx d a b _ _ _ _ => [rdr .d .s d, rdr .a .s a, rdr .b .s b]
  | .ldb d a _ | .ldbz d a _ | .ldh d a _ | .ldhz d a _ | .ldw d a _ | .ldwz d a _ | .ldd d a _ =>
      [wrr .d .s d, rdr .a .s a]
  | .stb d a _ | .sth d a _ | .stw d a _ | .std d a _ => [rdr .d .s d, rdr .a .s a]
  | .amoadd d a b _ _ _ | .amoand d a b _ _ _ | .amoor d a b _ _ _ | .amoxor d a b _ _ _ | .amomin d a b _ _ _
  | .amomax d a b _ _ _ | .amominu d a b _ _ _ | .amomaxu d a b _ _ _ | .amoswap d a b _ _ _ | .amoincb d a b _ _ _ =>
      [wrr .d .s d, rdr .a .s a, rdr .b .s b]
  | .amocas d a b _ _ _ => [rwr .d .s d, rdr .a .s a, rdr .b .s b]
  | .amofadd d a b _ _ => [wrr .d .s d, rdr .a .s a, rdr .b .s b]
  | .fence _ | .pfence _ _ _ | .ifence | .yield => []
  | .waitge d a b => [wrr .d .s d, rdr .a .s a, rdr .b .s b]
  | .waitp d a b c => [wrr .d .s d, rdr .a .s a, rdr .b .s b, rdr .x .s c]
  | .sleep a => [rdr .a .s a]
  | .fwait a _ _ => [rdr .a .s a]
  | .fset a b _ | .fclr a b _ => [rdr .a .s a, rdr .b .s b]
  | .ftest d a => [wrr .d .s d, rdr .a .s a]
  | .bpers d a b => [wrr .d .s d, rdr .a .s a, rdr .b .s b]
  | .bquery d a | .bclear d a => [wrr .d .s d, rdr .a .s a]
  | .bgroup d a b _ => [wrr .d .s d, rdr .a .s a, rdr .b .s b]
  | .bspread d a _ => [wrr .d .s d, rdr .a .s a]
  | .bkeep a b _ => [rdr .a .s a, rdr .b .s b]
  | .vadd d a b m _ | .vsub d a b m _ | .vmul d a b m _ | .vmin d a b m _ | .vmax d a b m _ | .vand d a b m _
  | .vor d a b m _ | .vxor d a b m _ | .vshl d a b m _ | .vshr d a b m _ | .vsra d a b m _ | .vsel d a b m _
  | .vaddsat d a b m _ => [wrr .d .v d, rdr .a .v a, rdr .b .v b] ++ mop m
  | .vmadd d a b m _ => [rwr .d .v d, rdr .a .v a, rdr .b .v b] ++ mop m
  | .vceq d a b m | .vclt d a b m | .vcle d a b m | .vfceq d a b m | .vfclt d a b m | .vfcle d a b m =>
      [wrr .d .m d, rdr .a .v a, rdr .b .v b] ++ mop m
  | .vfadd d a b m _ | .vfsub d a b m _ | .vfmul d a b m _ | .vfmin d a b m _ | .vfmax d a b m _ | .vfdiv d a b m _ =>
      [wrr .d .v d, rdr .a .v a, rdr .b .v b] ++ mop m
  | .vfma d a b m _ => [rwr .d .v d, rdr .a .v a, rdr .b .v b] ++ mop m
  | .vfsqrt d a m _ | .vfrcp d a m _ | .vfexp2 d a m _ | .vflog2 d a m _ | .vfabs d a m _ | .vfneg d a m _ =>
      [wrr .d .v d, rdr .a .v a] ++ mop m
  | .vld d a m | .vldb d a m => [wrr .d .v d, rdr .a .s a] ++ mop m
  | .vst d a m => [rdr .d .v d, rdr .a .s a] ++ mop m
  | .vldx d a b m => [wrr .d .v d, rdr .a .s a, rdr .b .v b] ++ mop m
  | .vldk d a b m => [wrr .d .v d, rdr .a .s a, rdr .b .v b] ++ mopw m
  | .vstx d a b m => [rdr .d .v d, rdr .a .s a, rdr .b .v b] ++ mop m
  | .vstk d a b m => [rdr .d .v d, rdr .a .s a, rdr .b .v b] ++ mopw m
  | .vstxadd d a b m _ => [rdr .d .v d, rdr .a .s a, rdr .b .v b] ++ mop m
  | .vbcast d a m => [wrr .d .v d, rdr .a .s a] ++ mop m
  | .vext d a _ => [wrr .d .s d, rdr .a .v a]
  | .vins d a _ => [wrr .d .v d, rdr .a .s a]
  | .vredaddI32 d a m | .vredaddF32 d a m => [wrr .d .s d, rdr .a .v a] ++ mop m
  | .vredmin d a m _ | .vredmax d a m _ => [wrr .d .s d, rdr .a .v a] ++ mop m
  | .vperm d a b m => [wrr .d .v d, rdr .a .v a, rdr .b .v b] ++ mop m
  | .vslide d a b m => [wrr .d .v d, rdr .a .v a, rdr .b .s b] ++ mop m
  | .vmpop d a | .vmget d a => [wrr .d .s d, rdr .a .m a]
  | .vmand d a b | .vmor d a b | .vmxor d a b => [wrr .d .m d, rdr .a .m a, rdr .b .m b]
  | .vmnot d a => [wrr .d .m d, rdr .a .m a]
  | .vmset d a => [wrr .d .m d, rdr .a .s a]
  | .vlane d m => wrr .d .v d :: mop m
  | .cvtF32I32 d a m v | .cvtI32F32 d a m v =>
      if v = 0#1 then [wrr .d .s d, rdr .a .s a] else [wrr .d .v d, rdr .a .v a] ++ mop m
  | .cvtF64F32 d a | .cvtF32F64 d a => [wrr .d .s d, rdr .a .s a]
  | .vcvtBf16F32 d a b m => [wrr .d .v d, rdr .a .v a, rdr .b .v b] ++ mop m
  | .vcvtF32Bf16 d a _ m => [wrr .d .v d, rdr .a .v a] ++ mop m
  | .vdec d a _ m _ => [wrr .d .v d, rdr .a .v a] ++ mop m
  | .venc d a _ m _ => [rwr .d .v d, rdr .a .v a] ++ mop m
  | .vqmx d a b _ => [wrr .d .v d, rdr .a .v a, wrr .b .s b, nextr .v a true false]
  | .vdqmx d a b _ => [wrr .d .v d, rdr .a .v a, rdr .b .s b, nextr .v d false true]
  | .fadd d a b _ | .fsub d a b _ | .fmul d a b _ | .fdiv d a b _ | .fmin d a b _ | .fmax d a b _ | .feq d a b _
  | .flt d a b _ | .fle d a b _ => [wrr .d .s d, rdr .a .s a, rdr .b .s b]
  | .fma d a b c _ => [wrr .d .s d, rdr .a .s a, rdr .b .s b, rdr .x .s c]
  | .fsqrt d a _ | .fabs d a _ | .fneg d a _ | .fclass d a _ => [wrr .d .s d, rdr .a .s a]
  | .tblld t a => [low2 .d .tbl t, rdr .a .s a]
  | .tblrd d a t => [wrr .d .s d, rdr .a .s a, low2 .b .tbl t]
  | .tblpre t _ => [low2 .d .tbl t]
  | .mma d a b c _ | .mmaz d a b c _ => [low2 .d .acc d, rdr .a .s a, rdr .b .s b, rdr .x .s c]
  | .mstream d a b c _ => [low2 .d .acc d, rdr .a .s a, rdr .b .s b, rdr .x .s c, nextr .s c true false]
  | .mzero d => [low2 .d .acc d]
  | .mstore d a b => [low2 .d .acc d, rdr .a .s a, rdr .b .s b]
  | .mread d a b | .mpeek d a b => [low2 .d .acc d, wrr .a .v a, rdr .b .s b]
  | .msync => []
  | .mload d a => [low2 .d .acc d, rdr .a .s a]
  | .rrun d a | .rverify d a | .rstat d a => [wrr .d .s d, rdr .a .s a]
  | .cpy d a | .cpyTry d a =>
      [wrr .d .s d, ⟨.a, .run, a.toNat, true, false⟩, ⟨.x, .s, a.toNat + 1, true, false⟩, ⟨.x, .s, a.toNat + 2, true, false⟩,
       ⟨.x, .s, a.toNat + 3, true, false⟩]
  | .cpyq d | .self d | .lead d => [wrr .d .s d]
  | .send a b => [rdr .a .s a, ⟨.b, .s, b.toNat, false, false⟩]
  | .sendm a b c => [rdr .a .s a, ⟨.b, .s, b.toNat, false, false⟩, rdr .x .s c]
  | .reply a b c => [rdr .a .s a, ⟨.b, .s, b.toNat, false, false⟩, rdr .x .s c]
  | .arm a b c => [rdr .a .s a, rdr .b .s b, rdr .x .s c]
  | .bind a b | .spawn a b => [rdr .a .s a, rdr .b .s b]
  | .halt _ | .detach | .join _ | .bar _ | .grow _ | .shrink _ => []
  | .swp d a => [wrr .d .s d, rdr .a .s a]
  | .rdws d a b =>
      [wrr .d .s d, ⟨.a, if b = 2#5 then .v else if b = 1#5 then .m else .s, a.toNat, false, false⟩]
  | .trap _ | .eret | .stop _ | .nop => []
  | .census a _ => [rdr .a .s a]
  | .rep a _ _ _ => [rdr .a .s a]
  | .cMov d r | .cLdd d r => [wrr .d .s d, rdr .a .s r]
  | .cAddi d _ => [rwr .d .s d]
  | .cLi d _ => [wrr .d .s d]
  | .cStd d r => [rdr .d .s d, rdr .a .s r]
  | .cAdd d r => [rwr .d .s d, rdr .a .s r]
  | .cBeqz d _ | .cBnez d _ => [rdr .d .s d]
  | .cRet => [⟨.x, .s, 1, true, false⟩]
  | _ => []

/-- A register field whose number lies outside its class is an encoding fault (R38). -/
def Use.legal (u : Use) : Bool :=
  match u.pos, u.cls with
  | .x, _ => true
  | _, .v => u.num < 16
  | _, .m => u.num < 8
  | _, .run => u.num ≤ 28
  | _, _ => true

/-- Field values that the entry of an instruction allows (R35, R38 and the entries' ILLEGAL lines), apart from the register
fields and the feature bits. -/
def Instr.fieldsLegal : Instr → Bool
  | .ldx _ _ _ s o c h =>
      s != 7#3 && (o == 0#2 && c == 7#3 || o == 1#2 && c != 7#3) && h != 3#2
  | .stx _ _ _ s o c h =>
      s.toNat ≤ 3 && (o == 0#2 && c == 7#3 || o == 2#2 && c != 7#3) && h != 3#2
  | .shi _ _ _ _ => true
  | .amoadd _ _ _ _ s _ | .amoand _ _ _ _ s _ | .amoor _ _ _ _ s _ | .amoxor _ _ _ _ s _ | .amomin _ _ _ _ s _
  | .amomax _ _ _ _ s _ | .amominu _ _ _ _ s _ | .amomaxu _ _ _ _ s _ | .amoswap _ _ _ _ s _ | .amocas _ _ _ _ s _
  | .amoincb _ _ _ _ s _ => s != 7#3
  | .amofadd _ _ _ _ s => s != 7#3
  | .fence s => s != 7#3
  | .pfence a b s => a.toNat ≤ 6 && b.toNat ≤ 6 && s != 7#3
  | .fwait _ v c => v.toNat ≤ 1 && c.toNat ≤ 7
  | .fset _ _ c | .fclr _ _ c => c.toNat ≤ 7
  | .bgroup _ _ _ c => 1 ≤ c.toNat && c.toNat ≤ 3
  | .bspread _ _ b => b.toNat ≤ 3
  | .bkeep _ _ c => 1 ≤ c.toNat && c.toNat ≤ 3
  | .vadd _ _ _ _ t | .vsub _ _ _ _ t | .vmul _ _ _ _ t | .vmin _ _ _ _ t | .vmax _ _ _ _ t | .vand _ _ _ _ t
  | .vor _ _ _ _ t | .vxor _ _ _ _ t | .vshl _ _ _ _ t | .vshr _ _ _ _ t | .vsra _ _ _ _ t | .vsel _ _ _ _ t
  | .vaddsat _ _ _ _ t | .vmadd _ _ _ _ t => t != 3#2
  | .vext _ _ n | .vins _ _ n => n.toNat < 16
  | .cvtF32I32 _ _ m v | .cvtI32F32 _ _ m v => v == 1#1 || m == 0#3
  | .vcvtF32Bf16 _ _ h _ => h.toNat ≤ 1
  | .vdec _ _ n _ _ | .venc _ _ n _ _ => n.toNat ≤ 3
  | .tblpre _ p => p.toNat ≤ 2
  | .mstream _ _ _ c _ => c != 0#5 && c != 31#5
  | .halt k => k.toNat ≤ 3
  | .join k | .bar k => k.toNat < 16
  | .grow n | .shrink n => n.toNat ≤ 16 && n.toNat % 2 == 0
  | .rdws _ _ b => b.toNat ≤ 2
  | .census _ c => c.toNat ≤ 1
  | .rep _ l s _ => 1 ≤ l.toNat && l.toNat ≤ 16 && 1 ≤ s.toNat && s.toNat ≤ 4
  | _ => true

/-- The feature bits of `FEAT0` that an instruction needs, as a mask (R3, Table 3 of spec/00). -/
def Instr.features : Instr → Nat
  | .mma _ _ _ _ p | .mmaz _ _ _ _ p | .mstream _ _ _ _ p => if p.toNat ≥ 2 then 0b1001 else 1
  | .mzero _ | .mstore _ _ _ | .mread _ _ _ | .mpeek _ _ _ | .msync | .mload _ _ => 1
  | .rrun _ _ | .rverify _ _ | .rstat _ _ => 2
  | .vqmx _ _ _ _ | .vdqmx _ _ _ _ => 8
  | .bspread _ _ _ => 16
  | .census _ _ => 128
  | _ => 0

/-- An encoding that the tables and the entry of its instruction assign, under feature word `f` (R38). -/
def Instr.legal (f : Word) (i : Instr) : Bool :=
  i.uses.all Use.legal && i.fieldsLegal && (f.toNat &&& i.features == i.features)

/-! ## Kinds of instruction that `once` and `rep` refuse -/

/-- Branches and jumps of any width (R91, R101). -/
def Instr.isBranch : Instr → Bool
  | .beq _ _ _ | .bne _ _ _ | .blt _ _ _ | .bge _ _ _ | .bltu _ _ _ | .bgeu _ _ _ | .bok _ | .bempty _ | .bfull _
  | .babsent _ | .bany _ _ | .ball _ _ | .bnone _ _ | .bflag _ _ | .jal _ _ | .jalr _ _ _ | .cBeqz _ _ | .cBnez _ _
  | .cJ _ | .cRet => true
  | _ => false

/-- The branches that can choose among several next addresses, and `rep` (R89). -/
def Instr.decides : Instr → Bool
  | .jal _ _ | .cJ _ => false
  | .rep _ _ _ _ => true
  | i => i.isBranch

/-- The CLU, TASK and WS families, `c.halt` and `c.join` (R91, R101). -/
def Instr.isGroupTask : Instr → Bool
  | .detach | .join _ | .bar _ | .lead _ | .halt _ | .self _ | .grow _ | .shrink _ | .swp _ _ | .rdws _ _ _ | .cHalt
  | .cJoin _ => true
  | _ => false

/-- What `once` may not govern (R91). -/
def Instr.onceRefuses (i : Instr) : Bool :=
  i.isBranch || i.isGroupTask || i.uses.any (fun u => u.cls == .v && u.wr) ||
  match i with
  | .once | .rep _ _ _ _ | .cwr _ _ | .cset _ _ _ | .cclr _ _ _ | .cswp _ _ _ | .eret | .stop _ => true
  | _ => false

/-- What a `rep` body may not hold (R101). -/
def Instr.repRefuses (i : Instr) : Bool :=
  i.isBranch || i.isGroupTask ||
  match i with
  | .once | .rep _ _ _ _ | .trap _ | .eret | .stop _ => true
  | _ => false

/-! ## Staggered fields (R102) -/

/-- The first bit of a register field in the word. -/
def Pos.bit (short : Bool) : Pos → Nat
  | .d => if short then 5 else 7
  | .a => if short then 10 else 12
  | _ => 17

/-- Whether the stagger mask (bit 2 D, bit 1 A, bit 0 B) names a field. -/
def Pos.staggered (g : BitVec 3) : Pos → Bool
  | .d => g.getLsbD 2
  | .a => g.getLsbD 1
  | .b => g.getLsbD 0
  | .x => false

/-- The largest number that a replaced field of a class may hold. -/
def Cls.limit (nv : Nat) : Cls → Nat
  | .s => 31
  | .v => nv - 1
  | .m => 7
  | .acc => 3
  | .tbl => 3
  | .run => 28

/-- The word with one field raised by `k`. -/
def raiseField (w : W32) (bit k : Nat) : W32 := w + BitVec.ofNat 32 (k <<< bit)

/-- The instruction of a pass whose staggered fields are raised by `k`; a number outside its class is the error (R102). DESIGN CHOICE
(notes/assumptions/43): of several such numbers the error is that of D, then of A, then of B. -/
def Instr.stagger (i : Instr) (g : BitVec 3) (k nv : Nat) : Except Nat Instr :=
  let fs := i.uses.filter fun u => u.pos.staggered g
  match fs.find? fun u => decide (u.num + k > u.cls.limit nv) || (u.cls == .v && nv == 0) with
  | some u => .error (u.num + k)
  | none =>
    match encode i with
    | none => .ok i
    | some w =>
      let w' := fs.foldl (fun w u => raiseField w (u.pos.bit (isShort i)) k) w
      match decode (w'.extractLsb' 0 16) (w'.extractLsb' 16 16) with
      | .ok j => .ok j
      | .error _ => .ok i

end Sys2Proof
end

