-- ==== Sys2Proof/Machine/Float.lean ====
section
/-! DEFINITION. Floating point: IEEE 754 values as exact numbers m·2^e, one rounding at the end (R27, R41 to R44, R115, R135,
R137, R145). Flags are a mask of five bits in the order of `FPC` [8:4]: NV, DZ, OF, UF, NX. -/
namespace Sys2Proof.Machine

/-- A binary format: exponent bits and fraction bits (R41, R42). -/
structure Fmt where
  eb : Nat
  mb : Nat
deriving DecidableEq, Repr

def f32 : Fmt := ⟨8, 23⟩
def f64 : Fmt := ⟨11, 52⟩
def bf16 : Fmt := ⟨8, 7⟩

/-- A number as the arithmetic sees it: finite values are ±m·2^e exactly. -/
inductive Fp where
  | nan (signalling : Bool)
  | inf (neg : Bool)
  | fin (neg : Bool) (m : Nat) (e : Int)
deriving DecidableEq, Repr

def flNV : Nat := 1
def flDZ : Nat := 2
def flOF : Nat := 4
def flUF : Nat := 8
def flNX : Nat := 16

/-- Width of a format in bits. -/
def Fmt.width (f : Fmt) : Nat := f.eb + f.mb + 1
/-- The exponent of the smallest normal number. -/
def Fmt.emin (f : Fmt) : Int := 2 - 2 ^ (f.eb - 1)
/-- The bits of +infinity. -/
def Fmt.infBits (f : Fmt) : Nat := (2 ^ f.eb - 1) * 2 ^ f.mb
/-- The canonical NaN (R41). -/
def Fmt.nan (f : Fmt) : Nat := f.infBits + 2 ^ (f.mb - 1)
/-- The sign bit's weight. -/
def Fmt.signBit (f : Fmt) : Nat := 2 ^ (f.eb + f.mb)
/-- Bits with a sign. -/
def Fmt.signed (f : Fmt) (neg : Bool) (b : Nat) : Nat := if neg then f.signBit + b else b

/-- The value of a bit pattern. -/
def Fmt.value (f : Fmt) (x : Nat) : Fp :=
  let neg := x / f.signBit % 2 == 1
  let ex := x / 2 ^ f.mb % 2 ^ f.eb
  let fr := x % 2 ^ f.mb
  if ex = 2 ^ f.eb - 1 then (if fr = 0 then .inf neg else .nan (fr < 2 ^ (f.mb - 1)))
  else if ex = 0 then .fin neg fr (f.emin - f.mb)
  else .fin neg (2 ^ f.mb + fr) (f.emin - f.mb + (ex - 1 : Nat))

/-- A subnormal pattern: flushed on input under FTZ (R27). -/
def Fmt.isSub (f : Fmt) (x : Nat) : Bool := x / 2 ^ f.mb % 2 ^ f.eb == 0 && x % 2 ^ f.mb != 0

/-- An operand under `FPC`.FTZ, with the UF of a flush (R27). -/
def Fmt.operand (f : Fmt) (ftz : Bool) (x : Nat) : Fp × Nat :=
  if ftz && f.isSub x then (.fin (x / f.signBit % 2 == 1) 0 0, flUF) else (f.value x, 0)

/-- m·2^e (and a little more when `sticky`) as a multiple of 2^q, rounded; and whether it was inexact. -/
def roundAt (rm : Nat) (neg : Bool) (m : Nat) (e q : Int) (sticky : Bool) : Nat × Bool :=
  if q ≤ e then
    let r := m * 2 ^ (e - q).toNat
    (if sticky && (rm == 2 && !neg || rm == 3 && neg) then r + 1 else r, sticky)
  else
    let k := (q - e).toNat
    let r := m / 2 ^ k
    let rem := m % 2 ^ k
    let inexact := rem != 0 || sticky
    let half := 2 ^ (k - 1)
    let up :=
      if rm = 0 then decide (rem > half) || rem == half && (sticky || r % 2 == 1)
      else if rm = 1 then false
      else if rm = 2 then inexact && !neg
      else inexact && neg
    (if up then r + 1 else r, inexact)

/-- Round ±m·2^e to a format in mode `rm` (0 RNE, 1 RTZ, 2 RUP, 3 RDN), tininess after rounding, FTZ flush of a subnormal
result (R27, R41). -/
def Fmt.round (f : Fmt) (rm : Nat) (ftz neg : Bool) (m : Nat) (e : Int) (sticky : Bool) : Nat × Nat :=
  if m = 0 then (f.signed neg 0, 0)
  else
    let E : Int := e + Nat.log2 m
    let qmin : Int := f.emin - f.mb
    let q : Int := E - f.mb
    let unb := (roundAt rm neg m e q sticky).1
    let tiny := decide (E < f.emin) && !(decide (E + 1 = f.emin) && unb == 2 ^ (f.mb + 1))
    let q' := max q qmin
    let (r, inexact) := roundAt rm neg m e q' sticky
    let b := r + (q' - qmin).toNat * 2 ^ f.mb
    if b ≥ f.infBits then
      let toInf := rm == 0 || rm == 2 && !neg || rm == 3 && neg
      (f.signed neg (if toInf then f.infBits else f.infBits - 1), flOF ||| flNX)
    else if ftz && f.isSub b then (f.signed neg 0, flUF ||| flNX)
    else (f.signed neg b, (if inexact then flNX else 0) ||| (if tiny && inexact then flUF else 0))

/-- Integer value of m at exponent e over a common lower exponent. -/
def scaled (neg : Bool) (m : Nat) (e lo : Int) : Int :=
  let v : Int := (m * 2 ^ (e - lo).toNat : Nat)
  if neg then -v else v

/-- Sum of two finite numbers, rounded once; an exact zero takes the sign R41 gives. -/
def Fmt.sumFin (f : Fmt) (rm : Nat) (ftz n1 : Bool) (m1 : Nat) (e1 : Int) (n2 : Bool) (m2 : Nat) (e2 : Int) : Nat × Nat :=
  if m1 = 0 ∧ m2 = 0 then (f.signed (if n1 = n2 then n1 else rm == 3) 0, 0)
  else
    let lo := if m1 = 0 then e2 else if m2 = 0 then e1 else min e1 e2
    let t := (if m1 = 0 then 0 else scaled n1 m1 e1 lo) + (if m2 = 0 then 0 else scaled n2 m2 e2 lo)
    if t = 0 then (f.signed (rm == 3) 0, 0) else f.round rm ftz (decide (t < 0)) t.natAbs lo false

/-- NV of signalling NaN operands. -/
def Fp.snan : Fp → Nat
  | .nan true => flNV
  | _ => 0

/-- Change of sign. -/
def Fp.negate : Fp → Fp
  | .inf n => .inf (!n)
  | .fin n m e => .fin (!n) m e
  | x => x

/-- a + b. -/
def Fmt.add (f : Fmt) (rm : Nat) (ftz : Bool) (a b : Fp) : Nat × Nat :=
  let fl := a.snan ||| b.snan
  match a, b with
  | .nan _, _ => (f.nan, fl)
  | _, .nan _ => (f.nan, fl)
  | .inf x, .inf y => if x = y then (f.signed x f.infBits, 0) else (f.nan, flNV)
  | .inf x, _ => (f.signed x f.infBits, 0)
  | _, .inf y => (f.signed y f.infBits, 0)
  | .fin n1 m1 e1, .fin n2 m2 e2 => f.sumFin rm ftz n1 m1 e1 n2 m2 e2

/-- a × b. -/
def Fmt.mul (f : Fmt) (rm : Nat) (ftz : Bool) (a b : Fp) : Nat × Nat :=
  let fl := a.snan ||| b.snan
  match a, b with
  | .nan _, _ => (f.nan, fl)
  | _, .nan _ => (f.nan, fl)
  | .inf x, .inf y => (f.signed (x != y) f.infBits, 0)
  | .inf x, .fin y m _ => if m = 0 then (f.nan, flNV) else (f.signed (x != y) f.infBits, 0)
  | .fin x m _, .inf y => if m = 0 then (f.nan, flNV) else (f.signed (x != y) f.infBits, 0)
  | .fin x m1 e1, .fin y m2 e2 => f.round rm ftz (x != y) (m1 * m2) (e1 + e2) false

/-- a × b + c with one rounding; ∞ × 0 sets NV even beside a quiet NaN (R135). -/
def Fmt.fma (f : Fmt) (rm : Nat) (ftz : Bool) (a b c : Fp) : Nat × Nat :=
  let fl := a.snan ||| b.snan ||| c.snan
  let zeroInf : Bool := match a, b with
    | .inf _, .fin _ m _ => m == 0
    | .fin _ m _, .inf _ => m == 0
    | _, _ => false
  if zeroInf then (f.nan, fl ||| flNV)
  else match a, b, c with
  | .nan _, _, _ => (f.nan, fl)
  | _, .nan _, _ => (f.nan, fl)
  | _, _, .nan _ => (f.nan, fl)
  | .fin x m1 e1, .fin y m2 e2, .fin z m3 e3 => f.sumFin rm ftz (x != y) (m1 * m2) (e1 + e2) z m3 e3
  | .fin _ _ _, .fin _ _ _, .inf z => (f.signed z f.infBits, 0)
  | p, q, c =>
    let neg : Bool := (match p with | .inf n => n | .fin n _ _ => n | .nan _ => false) !=
      (match q with | .inf n => n | .fin n _ _ => n | .nan _ => false)
    match c with
    | .inf z => if z = neg then (f.signed z f.infBits, 0) else (f.nan, flNV)
    | _ => (f.signed neg f.infBits, 0)

/-- a ÷ b. -/
def Fmt.div (f : Fmt) (rm : Nat) (ftz : Bool) (a b : Fp) : Nat × Nat :=
  let fl := a.snan ||| b.snan
  match a, b with
  | .nan _, _ => (f.nan, fl)
  | _, .nan _ => (f.nan, fl)
  | .inf _, .inf _ => (f.nan, flNV)
  | .inf x, .fin y _ _ => (f.signed (x != y) f.infBits, 0)
  | .fin x _ _, .inf y => (f.signed (x != y) 0, 0)
  | .fin x m1 e1, .fin y m2 e2 =>
    if m2 = 0 then (if m1 = 0 then (f.nan, flNV) else (f.signed (x != y) f.infBits, flDZ))
    else if m1 = 0 then (f.signed (x != y) 0, 0)
    else
      let k := Nat.log2 m2 + f.mb + 4
      let n := m1 * 2 ^ k
      f.round rm ftz (x != y) (n / m2) (e1 - e2 - k) (n % m2 != 0)

/-- The integer square root below 2^k, digit by digit. -/
def isqrt (n : Nat) : Nat → Nat → Nat
  | 0, r => r
  | k + 1, r => let t := r + 2 ^ k; isqrt n k (if t * t ≤ n then t else r)

/-- √a. -/
def Fmt.sqrt (f : Fmt) (rm : Nat) (ftz : Bool) (a : Fp) : Nat × Nat :=
  match a with
  | .nan s => (f.nan, if s then flNV else 0)
  | .inf false => (f.infBits, 0)
  | .inf true => (f.nan, flNV)
  | .fin neg m e =>
    if m = 0 then (f.signed neg 0, 0)
    else if neg then (f.nan, flNV)
    else
      let k := 2 * (f.mb + 4) + (if e % 2 = 0 then 0 else 1)
      let n := m * 2 ^ k
      let r := isqrt n (Nat.log2 n / 2 + 1) 0
      f.round rm ftz false r ((e - k) / 2) (r * r != n)

/-- Order of two numbers that are not NaN: −1, 0 or 1; the zeros are equal. -/
def Fp.cmp : Fp → Fp → Int
  | .inf x, .inf y => if x = y then 0 else if x then -1 else 1
  | .inf x, _ => if x then -1 else 1
  | _, .inf y => if y then 1 else -1
  | .fin n1 m1 e1, .fin n2 m2 e2 =>
    let lo := min e1 e2
    let d := scaled n1 m1 e1 lo - scaled n2 m2 e2 lo
    if d < 0 then -1 else if d = 0 then 0 else 1
  | _, _ => 0

/-- Whether a value is a NaN. -/
def Fp.isNan : Fp → Bool
  | .nan _ => true
  | _ => false

/-- The sign of a value. -/
def Fp.neg : Fp → Bool
  | .inf n => n
  | .fin n _ _ => n
  | .nan _ => false

/-- The bits of a value that a format holds exactly. -/
def Fmt.bits (f : Fmt) (a : Fp) : Nat :=
  match a with
  | .nan _ => f.nan
  | .inf n => f.signed n f.infBits
  | .fin n m e => (f.round 0 false n m e false).1

/-- `fmin` and `fmax` (R135): −0 below +0; one NaN gives the other operand. -/
def Fmt.minmax (f : Fmt) (isMax : Bool) (a b : Fp) : Nat × Nat :=
  let fl := a.snan ||| b.snan
  match a.isNan, b.isNan with
  | true, true => (f.nan, fl)
  | true, false => (f.bits b, fl)
  | false, true => (f.bits a, fl)
  | false, false =>
    let c := a.cmp b
    let aLess := if c = 0 then a.neg && !b.neg else decide (c < 0)
    (f.bits (if aLess != isMax then a else b), 0)

/-- `feq`, `flt`, `fle` (R135): 0 equal, 1 less, 2 less or equal. -/
def fpCompare (k : Nat) (a b : Fp) : Bool × Nat :=
  if a.isNan || b.isNan then (false, if k = 0 then a.snan ||| b.snan else flNV)
  else
    let c := a.cmp b
    (if k = 0 then c == 0 else if k = 1 then decide (c < 0) else decide (c ≤ 0), 0)

/-- Sign cleared, or inverted, without a flag; NaN gives the canonical NaN, and a signalling one sets NV (`fabs`, `fneg`; R41, R135). -/
def Fmt.signOp (f : Fmt) (invert : Bool) (x : Nat) : Nat × Nat :=
  match f.value x with
  | .nan s => (f.nan, if s then flNV else 0)
  | _ =>
    let y := x % 2 ^ f.width
    (if invert then (if y ≥ f.signBit then y - f.signBit else y + f.signBit) else y % f.signBit, 0)

/-- `signOp` on an operand that `FTZ` flushes first: a subnormal becomes a zero of its sign and sets UF (`vfabs`, `vfneg`; R27, R137). -/
def Fmt.signFlushed (f : Fmt) (ftz invert : Bool) (x : Nat) : Nat × Nat :=
  if ftz && f.isSub x then ((f.signOp invert (f.signed (x / f.signBit % 2 == 1) 0)).1, flUF) else f.signOp invert x

/-- Conversion of a value from another format, rounded once. -/
def Fmt.convert (f : Fmt) (rm : Nat) (ftz : Bool) (a : Fp) : Nat × Nat :=
  match a with
  | .nan s => (f.nan, if s then flNV else 0)
  | .inf n => (f.signed n f.infBits, 0)
  | .fin n m e => f.round rm ftz n m e false

/-- `fclass` (Table 2 of spec/07). -/
def Fmt.classWord (f : Fmt) (x : Nat) : Word :=
  let sign := if x / f.signBit % 2 = 1 then 8 else 0
  match f.value x with
  | .nan s => BitVec.ofNat 64 (sign + if s then 5 else 4)
  | .inf _ => BitVec.ofNat 64 (sign + 3)
  | .fin _ m e =>
    if m = 0 then BitVec.ofNat 64 (sign + 16)
    else
      let ex := e + Nat.log2 m
      let isInt := decide (0 ≤ e) || m % 2 ^ (-e).toNat == 0
      BitVec.ofNat 64 ((ex % 65536).toNat * 65536 + (if isInt then 16 else 0) + sign + (if f.isSub x then 1 else 2))

/-- FP32 to a signed 32-bit integer (R145). -/
def toI32 (rm : Nat) (a : Fp) : W32 × Nat :=
  match a with
  | .nan _ => (0, flNV)
  | .inf n => (if n then 0x80000000#32 else 0x7FFFFFFF#32, flNV)
  | .fin n m e =>
    let (r, inexact) := roundAt rm n m e 0 false
    let v : Int := if n then -(r : Int) else r
    if v > 2147483647 then (0x7FFFFFFF#32, flNV)
    else if v < -2147483648 then (0x80000000#32, flNV)
    else (BitVec.ofInt 32 v, if inexact then flNX else 0)

/-! ## 2^a and log2 a, from a fixed-point value below the exact one (R137; notes/assumptions/10) -/

/-- Fraction bits of the fixed-point work. -/
def workBits : Nat := 320

/-- The product of 2^(2^−i) over the bits set in `frac`, whose highest bit has weight 2^−1; `root` is 2^(2^−(i−1)). -/
def exp2Frac (frac : Nat) : Nat → Nat → Nat → Nat
  | 0, _, acc => acc
  | k + 1, root, acc =>
    let r := isqrt (root * 2 ^ workBits) (workBits + 2) 0
    exp2Frac frac k r (if frac / 2 ^ k % 2 = 1 then acc * r / 2 ^ workBits else acc)

/-- 2^a. -/
def Fmt.exp2 (f : Fmt) (rm : Nat) (ftz : Bool) (a : Fp) : Nat × Nat :=
  match a with
  | .nan s => (f.nan, if s then flNV else 0)
  | .inf n => (if n then 0 else f.infBits, 0)
  | .fin neg m e =>
    if m = 0 then f.round rm ftz false 1 0 false
    else if decide (0 ≤ e + Nat.log2 m - 12) then
      (if neg then f.round rm ftz false 1 (-4096) true else f.round rm ftz false 1 4096 true)
    else if decide (0 ≤ e) || m % 2 ^ (-e).toNat == 0 then
      f.round rm ftz false 1 (scaled neg m e (min e 0) / 2 ^ (-(min e 0)).toNat) false
    else
      let k := (-e).toNat
      let whole : Int := if neg then -((m / 2 ^ k + 1 : Nat) : Int) else (m / 2 ^ k : Nat)
      let frac := if neg then 2 ^ k - m % 2 ^ k else m % 2 ^ k
      let x := exp2Frac frac k (2 * 2 ^ workBits) (2 ^ workBits)
      f.round rm ftz false x (whole - workBits) true

/-- `n` binary digits of log2 x for x in [1, 2) held with `workBits` fraction bits. -/
def log2Digits : Nat → Nat → Nat → Nat
  | 0, _, acc => acc
  | n + 1, x, acc =>
    let y := x * x / 2 ^ workBits
    if y ≥ 2 * 2 ^ workBits then log2Digits n (y / 2) (2 * acc + 1) else log2Digits n y (2 * acc)

/-- log2 a. -/
def Fmt.log2 (f : Fmt) (rm : Nat) (ftz : Bool) (a : Fp) : Nat × Nat :=
  match a with
  | .nan s => (f.nan, if s then flNV else 0)
  | .inf n => if n then (f.nan, flNV) else (f.infBits, 0)
  | .fin neg m e =>
    if m = 0 then (f.signed true f.infBits, flDZ)
    else if neg then (f.nan, flNV)
    else
      let l := Nat.log2 m
      let E : Int := e + l
      if m = 2 ^ l then f.round rm ftz (decide (E < 0)) E.natAbs 0 false
      else
        let d := log2Digits 120 (m * 2 ^ workBits / 2 ^ l) 0
        let n : Int := E * 2 ^ 120 + d
        if n < 0 then f.round rm ftz true (n.natAbs - 1) (-120) true else f.round rm ftz false n.natAbs (-120) true

/-- `amofadd` and every RNE sum of the memory side and the rule engine: no flush, no flag (R115, R57). -/
def rneAdd32 (a b : W32) : W32 := BitVec.ofNat 32 (f32.add 0 false (f32.value a.toNat) (f32.value b.toNat)).1

end Sys2Proof.Machine
end

