-- ==== Sys2Proof/Config.lean ====
section
/-! DEFINITION. What the spec leaves open: values that nothing in the model constrains, and functions that other standards
define and this spec only names. None has a body, so a statement about one holds whatever it is
(notes/assumptions/2, 3, 8, 9, 15). -/
namespace Sys2Proof.Config

/-- A decoded page image before scaling: width, height, channels and samples in row-major order, channels interleaved
(R219, R220). -/
structure Image where
  w : Nat
  h : Nat
  c : Nat
  px : List Byte
deriving DecidableEq, Repr, Inhabited

/-- A free value per use (DESIGN CHOICE, notes/assumptions/3). -/
opaque freeWord : Nat → Word
/-- Cycles that pass with a step beyond the first, fewer than 2^32, so that the clock moves forward (DESIGN CHOICE, notes/assumptions/2). -/
opaque delay : Nat → BitVec 32
/-- Whether a fetch of a changed halfword still returns the old content (R119; notes/assumptions/9). -/
opaque staleHalf : Nat → Nat → Bool
/-- Whether a read of a changed doubleword through a read buffer or path returns the old value (R118, R255;
notes/assumptions/15). -/
opaque staleWord : Nat → Nat → Bool
/-- What lies outside the module answers to an engine's n-th request of a step (R308; notes/assumptions/14). -/
opaque outside : Nat → Nat → Answer
/-- The next element that an engine takes, of those left (R165; notes/assumptions/14). -/
opaque pick : Nat → Nat → Nat
/-- How many elements or words after its first a command of the copy unit or the rule engine does in a step (R165, R225;
notes/assumptions/14). -/
opaque portion : Nat → Nat
/-- Whether a waiting burst joins the opening of its row (R331; notes/assumptions/20). -/
opaque joins : Nat → Nat → Bool
/-- The cycle at which the first refresh window of a stack starts (R332; notes/assumptions/20). -/
opaque refreshPhase : Nat → Nat
/-- The doubleword of its bank at which an entry of a structured bank stands, by the bank's personality word (R60, R318;
notes/assumptions/24). -/
opaque entryWord : Nat → Word → Nat
/-- The column of a die at which its memory edge takes the requests of a stack (R10, R11; notes/assumptions/13). -/
opaque edgeColumn : Nat → Nat
/-- The die-to-die links on the way between two clusters around failed links (R10; notes/assumptions/13). -/
opaque detour : List Nat → Nat → Nat → List Nat
/-- What a save block holds in forms that the device does not publish: a set and an offset (R301; notes/assumptions/18). -/
opaque hidden : Nat → Nat → Word
/-- The digest of the vendor's public key in the boot ROM (R348). -/
opaque vendorDigest : List Byte
/-- The 64 samples, row by row, of a JPEG block with some dequantised coefficients in zigzag order (R219): ISO/IEC 10918-1 fixes the inverse
transform within a tolerance only (notes/assumptions/8). -/
opaque idct : List Int → List Byte
/-- The feature bits that a verified configuration image offers (R347). -/
opaque offered : List Byte → Word
/-- The repair map of a verified configuration image: failed clusters, each with its substitute counted on its die (R5). -/
opaque repairMap : List Byte → List Nat

end Sys2Proof.Config
end

