-- ==== Sys2Proof/Machine/State.lean ====
section
/-! DEFINITION. The state of the module: everything the spec gives it, as plain data, and the state after reset
(INVENTORY.md, '## State'). -/
namespace Sys2Proof.Machine

/-- Entries by number; a number without an entry holds the value its accessor names (Sys2Proof/Machine/Ops.lean). -/
abbrev Assoc (α : Type) := List (Nat × α)

/-- Bytes by address, strictly rising and never 0, which an unlisted address reads as (R236; notes/assumptions/4), and the
numbers of the poisoned 8-byte words, strictly rising (R318). -/
structure Memory where
  cells : List Host.Cell
  poison : List Nat
deriving DecidableEq, Repr

/-! ## Banks -/

/-- A slot of a bank of 64·n-byte items that is not free (R66). -/
inductive SlotSt where
  | reserved | item | acquired | released
deriving DecidableEq, Repr

/-- A bank of a local store beside its bytes (R58 to R66, R129). `items` are the entries of a structured bank in the order of
its ordered view's source (head first, top first, by key, by priority): key or word in [31:0], value or count in [63:32].
`ring` are the slots held: of a QUEUE in reservation order, of a STACK with the top first. -/
structure Bank where
  pers : W32
  items : List Word
  ring : List (Nat × SlotSt)
  nextSlot : Nat
  first : Nat
  gsize : Nat
  shard : Bool
  keepClass : Option Nat
  converting : Bool
deriving DecidableEq, Repr

/-! ## Activations -/

/-- The running activation (R20, R201): its frame offset, class, priority, kind, slot, starting item and start `CYC`, and the record
bank of the item's sender (R76). -/
structure Act where
  frame : Nat
  cls : Nat
  prio : Nat
  cluster : Bool
  slot : Nat
  item : List Word
  start : Word
  recq : Option Nat
deriving DecidableEq, Repr

/-- What a wait waits for (R120 to R125, R160, R161). The first four are tried again at each turn: `retry` is a stall at a full
engine queue or on a converting bank (R97, R152), `port` one at a wait port (R70), `order` stands behind earlier stores, where a
core is not blocked (R111, R117, R118, R205), and `converting` is a wait that a sibling's converting bank answers RETRY, since a `CYC` (R230). -/
inductive Cond where
  | retry
  | port
  | order
  | converting (since : Word)
  | counter (core off : Nat) (target : Word)
  | time (t : Word)
  | flag (f : Nat) (v : Bool)
  | matrix (acc : Option Nat)
deriving DecidableEq, Repr

/-- A parked activation and its condition (R202). -/
structure Parked where
  act : Act
  cond : Cond
deriving DecidableEq, Repr

/-- A ready entry (R199): a new activation, or one that resumes. `item` is the inbox slot it holds. -/
structure Ready where
  cls : Nat
  level : Nat
  resume : Option Act
  slot : Nat
  item : Option Nat
  arg : Word
  stamp : Word
  since : Word
deriving DecidableEq, Repr

/-- The states of a trigger slot (R197). -/
inductive TrigSt where
  | disarmed | armed | pending
deriving DecidableEq, Repr

/-- A trigger slot (R171, R197). -/
structure Trig where
  st : TrigSt
  remaining : W32
  early : W32
  binding : Option Nat
  arg : Word
  item : Option Nat
deriving DecidableEq, Repr

/-- A valid class entry (R198, R269). -/
structure ClassE where
  routine : Word
  nv : Nat
  prio : Nat
  cluster : Bool
deriving DecidableEq, Repr

/-- What a core is doing (R203, R207, R324). -/
inductive Run where
  /-- no launch on the core -/
  | off
  /-- no activation runs -/
  | idle
  /-- an activation runs -/
  | running
  /-- a cluster entry is accepted and waits for the group (R203) -/
  | accepted
  /-- arrived at the join point in force (R93) -/
  | joining
  /-- halted in a cluster task (R93) -/
  | halted
  /-- sealed (R324) -/
  | sealed
deriving DecidableEq, Repr

/-! ## Accesses on their way -/

/-- What an access does at its home. -/
inductive AccOp where
  | load (size : Nat) (signed : Bool)
  | store (size : Nat) (data : Word)
  | amo (fn size : Nat) (b d : Word)
  | vload (mask : BitVec 16)
  | vstore (mask : BitVec 16) (data : List W32)
  | keyed (isStore : Bool) (mask : BitVec 16) (keys data : List W32)
deriving DecidableEq, Repr

/-- The answer to an access: a value with the bank result it sets, the lanes of a vector access with the lanes that gave OK,
or the trap it raises. -/
inductive Resp where
  | value (w : Word) (br : Option Nat)
  | lanes (l : List W32) (ok : BitVec 16) (br : Option Nat)
  | trap (cause : Nat) (tval : Word)
deriving DecidableEq, Repr

/-- How far an access has come (R105, R107, R289, R308, R334): waiting for translation, on another request's walk of its page, or for a
page-table read, on its way to the home of a physical address, sent out of the module by a port (36 is the host link), at the owner of a
bank, answered RETRY (under the limit of R230 or not) or back-off, or answered. `seen` are the entries of a walk as they stood when it began, from
its level down: an entry made valid later is not seen by it (R290). -/
inductive Stage where
  | translate
  | waiting
  | walk (level table : Nat) (till : Word) (seen : List Word)
  | home (phys : Nat)
  | sent (phys port : Nat)
  | bank
  | retry (limited : Bool)
  | backoff (phys : Nat) (till : Word)
  | answered (a : Resp)
deriving DecidableEq, Repr

/-- The operands of a vector access read at its start, with the flags of each merged group (R141) and the results so far of one that
runs lane by lane (R140 to R142). -/
structure Lanes where
  base : Word
  idx : List W32
  data : List W32
  mask : BitVec 16
  flags : List Nat
  ok : BitVec 16
  br : Nat
deriving DecidableEq, Repr

/-- The outstanding access of a core. `addr` is the address as issued; a format-MX access to a mesh base carries `idx` and
`scale` (R108). `lane` is 16 for a scalar access and 17 for a vector access made whole; `vec` goes with a vector access. `spread` names the descriptor of a spread-window access and `probe` counts
its probes (R235). `since` is the `CYC` of the first RETRY that the limit of R230 counts. `reissue` marks a request that carries the tag of a LINK-LOST record (R116). `rel` is the scope of a release that is posted once its
translation is granted (R111). `far` says that it was performed across a die edge (R116), and `joined` that an earlier burst has opened its
row for it (R331); `counted` says that the error its data met has been counted (R335). `asked` is the address and the index or key with which
the instruction sent it, which a LINK-LOST record keeps (R116). -/
structure Access where
  op : AccOp
  instr : Instr
  addr : Word
  idx : Word
  asked : Word × Word
  scale : Nat
  hint : Nat
  lane : Nat
  vec : Option Lanes
  spread : Option Nat
  probe : Nat
  tag : Nat
  reissue : Bool
  since : Option Word
  rel : Option Nat
  far : Bool
  joined : Bool
  counted : Bool
  stage : Stage
deriving DecidableEq, Repr

/-- What a posted item carries; `record` is a record bound for another core's record bank (R168, R294). -/
inductive FBody where
  | store (off : Nat) (op : AccOp)
  | flag (f : Nat) (v : Bool)
  | msg (item : List Word)
  | gstore (phys : Nat) (op : AccOp) (hint : Nat)
  | record (item : List Word)
deriving DecidableEq, Repr

/-- The engine command whose write an item is (R118, R254): its path (Table 5 of spec/06), its number among its core's commands, and the tag of
its records. -/
structure EngineWrite where
  path : Nat
  seq : Nat
  tag : Nat
deriving DecidableEq, Repr

/-- A posted store, flag request, message or record that has left its core, or a write of an engine to a home outside its cluster (R254), not
yet performed (R72, R125, R168). `rel` is the scope of a release, which waits for the earlier posted items of its source (R111). `launch` and
`pid` are the launch and the context for which it was posted (R296), `issue` is the next tag when a global store was granted, by which it stands
among the AMOs of its module (R253), `backed` says that it has been answered with a back-off reply (R334), and `joined` is as in an access. -/
structure Flight where
  rel : Option Nat
  src : CoreRef
  fromStation : Bool
  slot : Nat
  vc : Nat
  core : Nat
  chan : Nat
  body : FBody
  addr : Word
  recq : Nat
  since : Option Word
  launch : Nat
  pid : Nat
  issue : Nat
  eng : Option EngineWrite
  backed : Bool
  joined : Bool
  stage : Stage
deriving DecidableEq, Repr

/-- The reissue record that a LINK-LOST trap keeps (R116). -/
structure Reissue where
  tag : Nat
  addr : Word
  idx : Word
  op : AccOp
  instr : Instr
  cyc : Word
deriving DecidableEq, Repr

/-! ## Engines -/

/-- How far a matrix command has come (R209 to R211, R159). `written` is the tile waiting for the write port. -/
inductive MStage where
  | queued
  | granted
  | writing
deriving DecidableEq, Repr

/-- An accumulator: 1,024 elements (an empty list stands for all +0) and their poison bits (R18, R19). -/
structure Acc where
  vals : List W32
  poison : BitVec 1024
deriving DecidableEq, Repr

/-- Counts that one command or instruction adds at its site (R54, R342). -/
structure Counts where
  nan : Nat := 0
  inf : Nat := 0
  sat : Nat := 0
  unf : Nat := 0
deriving DecidableEq, Repr

/-- A queued matrix command with the values read at issue (R152), and the operands and tables captured at its grant
(R211, R212): `poisA` and `poisB` are the poisoned words of the operands, bit 28 of a captured table entry marks a poisoned
entry (R319), and `bad` is the DETAIL of a failed check (R155). `item` says that the failed check is that of the stream's A item. `tile` are the sums of a stream's tile, which no snapshot shows (R161), and `since` is the
`CYC` from which a converting bank has held it up (R230). `tabO` is the table that a t8 output is encoded with, as it stood at the first grant of
a stream or when an `mstore` started (R150), and `counts` are the census counts of a stream that has not retired (R342). -/
structure MCmd where
  instr : Instr
  site : Word
  sa : Word
  sb : Word
  sc : Word
  sc1 : Word
  arb : Nat
  nsat : Bool
  recq : Nat
  stage : MStage
  opA : List Byte
  opB : List Byte
  poisA : List Nat
  poisB : List Nat
  tabA : List W32
  tabB : List W32
  began : Bool
  bad : Option Word
  item : Bool
  tile : Option Acc
  since : Option Word
  tabO : List W32
  counts : Counts
deriving DecidableEq, Repr

/-- A copy request (R165): its four words, the `CPATTERN` and `RECQ` read at issue, its promise, and what was read at its
start (R214, R218); `seq` is its number among its core's copy requests and rule jobs (R154), `seed` fixes the order of its elements
(R165), `moved` counts the elements moved or, of a page image, read and written, `got` is an element read and not yet written, and `image`
what has been read of a page image (R219); `since` is the `CYC` of the first RETRY that the limit of R230 counts, `till` the end of a
back-off (R334). -/
structure CReq where
  w0 : Word
  w1 : Word
  w2 : Word
  w3 : Word
  pattern : Word
  recq : Nat
  promise : Word
  started : Bool
  block : List Word
  coords : List Word
  seq : Nat
  seed : Nat
  moved : Nat
  got : Option Word
  image : List Byte
  since : Option Word
  till : Word
deriving DecidableEq, Repr

/-- Where a job stands in its segment (R223, R224): 0 before the first LEVEL or ROWS, 1 in the levels, 2 in the rows, 3 behind END-SEGMENT;
the levels opened, whether a rule or row is open, its sums, and how many rules an earlier level defined. The values of the rules stand in the
scratch file. -/
structure Med where
  phase : Nat
  levels : Nat
  isOpen : Bool
  acc : List W32
  defined : Nat
deriving DecidableEq, Repr

/-- A rule job (R163): number, descriptor address, issuing core, and the descriptor and decode table as read at its start; `off` is the
offset of the next word of its segment, `got` the words of an operand read so far and `row` the values of a row still to be written;
`seq`, `since` and `till` as in a copy request. -/
structure Job where
  num : Nat
  desc : Word
  core : Nat
  verify : Bool
  recq : Nat
  running : Bool
  words : List Word
  table : List W32
  seq : Nat
  off : Nat
  med : Med
  got : List W32
  row : Option (List W32)
  since : Option Word
  till : Word
deriving DecidableEq, Repr

/-- A line of 64 bytes in the rule engine's read buffer (R255): where it was read, its bytes and its poisoned words. -/
structure Line where
  key : Nat
  bytes : List Byte
  poison : List Nat
deriving DecidableEq, Repr

/-- A record that its bank has not yet taken (R76), with the counter that is marked with a class once it is committed: core, offset and class
(R254). -/
structure Held where
  bank : Nat
  words : List Word
  mark : Option (Nat × Nat × Nat)
deriving DecidableEq, Repr

/-- A census entry (R342). -/
structure Census where
  site : Word
  nan : Nat
  inf : Nat
  sat : Nat
  unf : Nat
deriving DecidableEq, Repr

/-- A delay-table entry (R338). -/
structure Delay where
  src : Word
  n : Word
  trn : Word
  qw : Word
  run : Word
deriving DecidableEq, Repr

/-! ## The front end -/

/-- What a fetch delivers: an instruction, a word that no table assigns, or the address that could not be fetched. -/
inductive Fetched where
  | instr (i : Instr)
  | bad (w : W32) (half : Bool)
  | fault (a : Word)
deriving DecidableEq, Repr

/-- An instruction issued to an attached core and not yet delivered (R204), with the mask of the cores that receive it (R96) and the
allotment that the lowest-numbered of them has at it (R23). A `once` carries its record; a `rep` its body, and the count of the
deciding core once it is known (R103); an instruction of a `rep` body its position and pass (R100). A privately fetched instruction
has an empty mask. -/
structure Issued where
  addr : Word
  what : Fetched
  once : Option Nat
  count : Option Nat
  mask : Nat
  nv : Nat
  body : List (Word × Fetched)
  pass : Option (Nat × Nat)
deriving DecidableEq, Repr

/-- The posted results of a governed instruction (R90): destination class and number, its value, BR, and flags raised. -/
structure Posting where
  dst : Option (Bool × Nat × Word)
  br : Option Nat
  flags : Nat
deriving DecidableEq, Repr

/-- A `once` issued to the group (R90): the address of its governed instruction, its receivers that have not dropped out and
have not yet passed it, the elected core, and the results once they exist. `failed` marks an elected core that was sealed
(R189). -/
structure OnceRec where
  id : Nat
  addr : Word
  receivers : List Nat
  elected : Option Nat
  result : Option Posting
  failed : Bool
deriving DecidableEq, Repr

/-- Why the front end issues nothing (R204): nothing holds it, an instruction that decides the next address or the count is
not yet resolved, an `ifence` refetches what follows it (R119), or a `join` or `bar` was issued or the next instruction cannot be
fetched. -/
inductive Hold where
  | none
  | branch
  | rep
  | ifence
  | stop
deriving DecidableEq, Repr

/-- The front end's repetition buffer (R100): the body of the `rep` it replays, the position and pass to issue next, and the count. -/
structure RepRun where
  body : List (Word × Fetched)
  pos : Nat
  pass : Nat
  count : Nat
deriving DecidableEq, Repr

/-- The group's stream (R204 to R206): whether it runs, the next address to issue, what holds it, the join point in force
with whether it is a `bar`, and the repetition buffer while a `rep` is issued. -/
structure Group where
  active : Bool
  pc : Word
  hold : Hold
  join : Option (Nat × Bool)
  rep : Option RepRun
deriving DecidableEq, Repr

/-! ## Cores and clusters -/

/-- What a core's write of a control register leaves to do before its next instruction (R234, R339). -/
inductive After where
  | dlyClear
  | dlyCopy
  | spreadClose (d : Nat)
deriving DecidableEq, Repr

/-- What the lanes below `VPROG` of a keyed access in a spread window gave, at its address and progress lane (R140, R142). -/
structure LanesDone where
  pc : Word
  lane : Nat
  ok : BitVec 16
  br : Nat
deriving DecidableEq, Repr

/-- A core. `after` holds the steps that its own write of a control register leaves to do before its next instruction (R234,
R339); `inboxRecq` the record bank of the sender of each inbox item (R76), and `redeliver` the items that a restart delivers again, each with that bank (R326). `flagPoison` are the poisoned words of the flag page (R317), and `engSeq` counts the copy requests and rule
jobs issued (R154). `lanesDone` are the results of unfinished keyed
accesses, by workspace (R142). `past` says that the core has halted in the cluster task
of its group, which goes on (R174, R207); `fell` is the address of the deciding instruction that it has just fallen through (R89,
R186). -/
structure Core where
  store : Memory
  flags : BitVec 256
  flagPoison : List Nat
  banks : Assoc Bank
  cr : Assoc Word
  att : Bool
  why : Nat
  jpt : Nat
  pc : Word
  run : Run
  act : Option Act
  wait : Option Cond
  parked : List Parked
  ready : List Ready
  freeHead : Word
  trigs : Assoc Trig
  classes : Assoc ClassE
  keeps : Assoc (BitVec 16 × Nat)
  pend : Option Access
  conv : Option (Reg × Word × Nat)
  mq : List MCmd
  accs : Assoc Acc
  copies : List CReq
  promise : Word
  held : List Held
  engSeq : Nat
  engPend : Bool
  engSlot : Option Word
  reissue : Option Reissue
  closed : List Nat
  delays : List Delay
  delayPid : Option Nat
  buf : List Issued
  taken : Option Issued
  governed : Option Nat
  obligation : Option Nat
  repBuf : List (Word × Fetched)
  repCount : Nat
  transfer : Option Word
  stopReq : Option Nat
  stopped : Bool
  shadowEpc : Option Word
  redeliver : List (List Word × Option Nat)
  inboxRecq : Assoc Nat
  after : List After
  launch : Nat
  brSet : Bool
  flagsRaised : Nat
  past : Bool
  fell : Option Word
  lanesDone : Assoc LanesDone
deriving DecidableEq, Repr

/-- Where a cluster stands in an eviction (R299). -/
inductive Evict where
  | none | moving | streaming
deriving DecidableEq, Repr

/-- A cluster, by its physical number. `port` lists the cores whose tiles wait for the write port, in order (R210), `errors` counts what R328
counts, and `failed` says that the cluster has failed the test of R327 and is to be evicted. -/
structure Cluster where
  powered : Bool
  launch : Nat
  slot : Nat
  pid : Nat
  vc : Nat
  cores : Assoc Core
  group : Group
  onces : List OnceRec
  nextOnce : Nat
  tables : Assoc (List W32)
  tablePoison : List (Nat × Nat)
  census : List Census
  jobs : List Job
  nextJob : Nat
  jobEnds : List (Nat × Nat)
  scratch : List (List W32)
  scratchPoison : List Nat
  ruleBuf : List Line
  ramped : Bool
  rampAt : Word
  lastGrant : Nat
  lastCopy : Nat
  port : List Nat
  credits : Assoc Nat
  opBuf : List (Nat × List Byte)
  icache : List (Nat × Half)
  evict : Evict
  errors : Nat
  failed : Bool
deriving DecidableEq, Repr

/-! ## Translation and placement -/

/-- The copy of a context slot that the stations keep while the context is live (R283). -/
structure CtxCopy where
  pid : Nat
  root : Nat
  loc : Nat
deriving DecidableEq, Repr

/-- A placement entry (R293): absent when not listed. -/
structure Placement where
  moving : Bool
  phys : Nat
deriving DecidableEq, Repr

/-- A cached leaf or pointer entry of a station (R289): its context slot, the first virtual page it covers, log2 of the
pages it covers, the level it stands at, and the entry. -/
structure Cached where
  station : Nat
  slot : Nat
  page : Nat
  span : Nat
  level : Nat
  entry : Word
deriving DecidableEq, Repr

/-! ## Launches -/

/-- An entry of a launch queue that is reserved and not yet taken (R266). -/
structure QEntry where
  ticket : Nat
  words : Assoc Word
  at_ : Word
  peer : Option Nat
  pushed : Option Nat
deriving DecidableEq, Repr

/-- A launch queue (R265). -/
structure Queue where
  take : Nat
  resv : Nat
  refused : Nat
  discarded : Nat
  entries : List QEntry
deriving DecidableEq, Repr

/-- What a launch station keeps of a code object (R269): its address, where its text starts, personalities, classes and slots. -/
structure CodeObj where
  base : Word
  text : Word
  pers : List W32
  classes : Assoc ClassE
  slots : List (Nat × Option Nat × W32)
deriving DecidableEq, Repr

/-- A launch that has been taken and has not ended (R268 to R278). `path` holds the regions from its own to the root with
their resolved budgets; `next` counts the clusters placed; `cores` lists the cores that received a task message and have
not ended. `ctx` is the context slot as read at its take (R283), `held` the clusters that R278 holds for it while it waits, and
`ended` says that its end has been reported. -/
structure Launch where
  id : Nat
  queue : Nat
  order : Nat
  path : List (Nat × Nat)
  pid : Nat
  slot : Nat
  prio : Nat
  policy : Nat
  vb : Nat
  need : Nat
  count : Nat
  cluster : Bool
  cohort : Bool
  cls : Nat
  nv : Nat
  frames : Nat
  param : Word
  counter : Word
  tag : Word
  code : CodeObj
  next : Nat
  firstPlaced : Option Nat
  vcs : List Nat
  cores : List (Nat × Nat)
  replay : Option Nat
  ctx : CtxCopy
  held : List Nat
  ended : Bool
deriving DecidableEq, Repr

/-- A replay chain in progress (R279): its entries still to run, as packets with their snapshot addresses. -/
structure Replay where
  id : Nat
  queue : Nat
  order : Nat
  pid : Nat
  ctx : CtxCopy
  counter : Word
  entries : List (List Word)
  current : Option Nat
deriving DecidableEq, Repr

/-- A cluster being evicted, evicted, or restored (R297 to R304). `save` is what the save block keeps in forms that the
device does not publish (R301; notes/assumptions/18). -/
structure Evicted where
  set : Nat
  launch : Nat
  vc : Nat
  phys : Nat
  block : Nat
  forLaunch : Option Nat
  prio : Nat
  saved : Bool
  save : Option Cluster
  outbound : List Flight
  target : Option Nat
  spareDie : Option Nat
deriving DecidableEq, Repr

/-! ## Memory side, reliability, host, platform -/

/-- A bank blocked for refresh management and the rows still to be served after it (R333). -/
structure Blocked where
  stack : Nat
  chan : Nat
  bank : Nat
  till : Word
  rows : List Nat
deriving DecidableEq, Repr

/-- A deduplication entry (R116, R313), with its owner: the module for a peer's, else a core's bank controller or a stack's base die. -/
structure Dedup where
  owner : Nat
  mod : Nat
  core : Nat
  tag : Nat
  result : Resp
  at_ : Word
deriving DecidableEq, Repr

/-- What the module answers to the host or a peer, or sends to them (R306 to R312). -/
inductive Reply where
  | readData (bytes : List Byte) (poisoned : Bool)
  | atomic (w : Word)
  | done
  | unsupported
  | abort
  | retryStatus
  | config
  | refused
  | expired
  | retry
  | busWrite (a : Nat) (bytes : List Byte)
  | busRequest (svc space a : Nat) (op : AccOp)
deriving DecidableEq, Repr

/-- What a request of the host or a peer does at HBM, or one of the host in BAR0 (R306, R307, R312): `tag` are the core, tag and reissue mark of
a peer's atomic (R313). -/
inductive GuestOp where
  | read (len : Nat)
  | write (bytes : List (Option Byte))
  | amo (fn size : Nat) (b d : Word) (tag : Option (Nat × Nat × Bool))
  | window (op : AccOp)
deriving DecidableEq, Repr

/-- A request of the host, through a service core, or of a peer module that has arrived and is not yet performed (R252, R253, R306, R334). -/
structure Guest where
  svc : Nat
  peer : Option Nat
  a : Nat
  op : GuestOp
  backed : Bool
  till : Word
deriving DecidableEq, Repr

/-- What a service core is told (R178, R193, R324). -/
inductive Report where
  | sealedCore (r : CoreRef) (cause : Nat)
  | double (r : CoreRef) (cause : Nat) (epc tval : Word)
  | stop (r : CoreRef) (code : Nat)
deriving DecidableEq, Repr

/-- The replay-protected flash (R349, R352, R327); `idSecret` is the private identity key, from which the device signs (R352). -/
structure Flash where
  firmware : List (List Byte)
  config : List (List Byte)
  minFirmware : Nat
  minConfig : Nat
  sigIndex : Nat
  idKey : List Byte
  idSecret : List Byte
  repairs : List Nat
deriving DecidableEq, Repr

/-- Boot and platform state (R347 to R353); `pwrLimit` is the limit that the power window in progress has latched (R353). -/
structure Boot where
  state : Nat
  slot : Nat
  version : Nat
  minVersion : Nat
  straps : Word
  inReset : Bool
  romRead : Bool
  waves : Nat
  recovery : List (Nat × Byte)
  checking : Bool
  image : List Byte
  configImage : List Byte
  accepted : Bool
  duty : Nat
  pwrLimit : Word
  attesting : Option (Word × List Byte)
  exhausted : Bool
deriving DecidableEq, Repr

/-! ## The module -/

/-- An error that the hardware's codes meet (R317, R336): where it stands, and whether they cannot correct it. One of HBM is found by the next
burst that reads its word, or by a scrub; the others are found as they arise. -/
inductive Upset where
  | hbm (a : Nat) (bad : Bool)
  | store (r : CoreRef) (off : Nat) (bad : Bool)
  | controller (r : CoreRef) (bad : Bool)
  | acc (r : CoreRef) (n e : Nat) (bad : Bool)
  | table (cl t e : Nat) (bad : Bool)
  | scratch (cl id : Nat) (bad : Bool)
  | icache (cl a : Nat) (bad : Bool)
  | repBuffer (cl : Nat) (bad : Bool)
  | matrixLine (cl key : Nat)
  | ruleLine (cl key : Nat)
  | census (cl n : Nat) (bad : Bool)
  | delay (r : CoreRef) (n : Nat) (bad : Bool)
deriving DecidableEq, Repr

/-- Who moves next: a core, the front end of a cluster, a step of another agent, a core whose floating-point result at a lane its shadow
unit forms anew, or an error of the hardware (notes/assumptions/1, 12, 17). -/
inductive Turn where
  | core (r : CoreRef)
  | front (cl : Nat)
  | shadow (r : CoreRef) (x : Shadow)
  | upset (u : Upset)
  | event (i : Instr)
deriving DecidableEq, Repr

/-- The module. `guests` are the requests of the host and of peers in the order of their arrival, `deadLinks` the die-to-die links that have failed
(R10, R251), and `flaws` the words of HBM that hold an error not yet found, with whether it cannot be corrected (R336). `rows` gives for each row the refresh window of its
last activation and its count in it (R332), and `rfms` how many refresh-management commands it has been given (R346). -/
structure State where
  agenda : List Turn
  cur : CoreRef
  shadowHit : Option Shadow
  free : Nat
  cyc : Word
  feat0 : Word
  clusters : Assoc Cluster
  hbm : Memory
  edge : List Nat
  rows : Assoc (Nat × Nat)
  rfms : Assoc Nat
  blocked : List Blocked
  ctl : Assoc Word
  contexts : Assoc CtxCopy
  placement : Assoc Placement
  cached : List Cached
  invalidating : Option (Word × Word)
  flight : List Flight
  guests : List Guest
  deadLinks : List Nat
  flaws : Assoc Bool
  queues : Assoc Queue
  launches : List Launch
  replays : List Replay
  nextLaunch : Nat
  pushes : Nat
  evicted : List Evicted
  nextSet : Nat
  nextTag : Nat
  dedup : List Dedup
  marks : Assoc Nat
  replies : List Reply
  reports : List (Nat × Report)
  repaired : List Nat
  outOfService : List Nat
  flash : Flash
  boot : Boot
deriving DecidableEq, Repr

/-- Why the machine stops. No meaning raises it: every stop the spec describes is a trap, a seal or a record, and so a next
state (INVENTORY.md, '## Faults'). -/
inductive Fault where
  /-- Raised by nothing; it stands for a physical failure of the module as a whole. Safe. -/
  | moduleLost
deriving DecidableEq, Repr

/-- Why an instruction has no meaning. -/
inductive Refusal where
  /-- Raised by an arm of exec whose instruction has no meaning yet. Safe: nothing is claimed of it. -/
  | notModelled (mnemonic : String)
deriving DecidableEq, Repr

/-- Empty memory. -/
def Memory.empty : Memory := ⟨[], []⟩

/-- The flash of a module whose images, keys and repairs are not given (DESIGN CHOICE, notes/assumptions/7). -/
def Flash.blank : Flash := ⟨[], [], 0, 0, 0, [], [], []⟩

/-- Boot state under reset (R350, R347; the duty is a DESIGN CHOICE, notes/assumptions/5). -/
def Boot.reset : Boot :=
  { state := 0, slot := 0, version := 0, minVersion := 0, straps := 0, inReset := true, romRead := false, waves := 0,
    recovery := [], checking := false, image := [], configImage := [], accepted := false, duty := 16, pwrLimit := 5400, attesting := none,
    exhausted := false }

/-- The module right after the assertion of PERST#: everything but the flash is lost (R350). DESIGN CHOICE (notes/assumptions/5): `FEAT0`, whose
reset the spec calls negotiated, is 0 until the first write of FACCEPT (R2, R3), as an attestation report before that write shows. -/
def State.resetWith (fl : Flash) : State :=
  { agenda := [], cur := ⟨0, 0⟩, shadowHit := none, free := 0, cyc := 0, feat0 := 0, clusters := [], hbm := Memory.empty,
    edge := [], rows := [], rfms := [], blocked := [], ctl := [], contexts := [], placement := [], cached := [], invalidating := none,
    flight := [], guests := [], deadLinks := [], flaws := [], queues := [], launches := [], replays := [], nextLaunch := 1, pushes := 0, evicted := [], nextSet := 0,
    nextTag := 1, dedup := [], marks := [], replies := [], reports := [], repaired := [], outOfService := [], flash := fl,
    boot := Boot.reset }

/-- The state after reset. -/
def State.reset : State := State.resetWith Flash.blank

end Sys2Proof.Machine
end

