-- ==== Sys2Proof/Machine/Mem.lean ====
section
/-! DEFINITION. Entries by number, and bytes by address: the only reads and writes of lists and memories (R17, R238). -/
namespace Sys2Proof.Machine

/-! ## Entries by number -/

/-- The entry of a number, or the value it holds when none is listed. -/
def aget {α : Type} (d : α) : Assoc α → Nat → α
  | [], _ => d
  | (j, v) :: t, k => if j = k then v else aget d t k

/-- Write the entry of a number. -/
def aput {α : Type} : Assoc α → Nat → α → Assoc α
  | [], k, v => [(k, v)]
  | (j, w) :: t, k, v => if j = k then (k, v) :: t else (j, w) :: aput t k v

/-- The entry of a number, if listed. -/
def afind {α : Type} : Assoc α → Nat → Option α
  | [], _ => none
  | (j, v) :: t, k => if j = k then some v else afind t k

/-- Drop the entry of a number. -/
def adel {α : Type} (l : Assoc α) (k : Nat) : Assoc α := l.filter fun p => p.1 != k

/-- Replace the element at a place of a list. -/
def setAt {α : Type} : List α → Nat → α → List α
  | [], _, _ => []
  | _ :: t, 0, v => v :: t
  | x :: t, n + 1, v => x :: setAt t n v

/-- Drop the element at a place of a list. -/
def dropAt {α : Type} : List α → Nat → List α
  | [], _ => []
  | _ :: t, 0 => t
  | x :: t, n + 1 => x :: dropAt t n

/-! ## Bytes -/

/-- The byte of an address; an unlisted one is 0 (R236; notes/assumptions/4). -/
def cellGet : List Host.Cell → Nat → Byte
  | [], _ => 0
  | (b, v) :: t, a => if b = a then v else cellGet t a

/-- List a byte at its place in rising order. -/
def cellPut : List Host.Cell → Nat → Byte → List Host.Cell
  | [], a, v => [(a, v)]
  | (b, w) :: t, a, v => if b = a then (a, v) :: t else if a < b then (a, v) :: (b, w) :: t else (b, w) :: cellPut t a v

/-- Write a byte: a 0 is not listed. -/
def cellSet (l : List Host.Cell) (a : Nat) (v : Byte) : List Host.Cell :=
  if v = 0 then l.filter fun p => p.1 != a else cellPut l a v

/-- Insert a number into a rising list. -/
def riseInsert : List Nat → Nat → List Nat
  | [], a => [a]
  | b :: t, a => if b = a then b :: t else if a < b then a :: b :: t else b :: riseInsert t a

/-- Addresses strictly rising and no byte listed as 0. -/
def cellsOk : List Host.Cell → Bool
  | [] => true
  | [(_, v)] => v != 0
  | (a, v) :: (b, w) :: t => v != 0 && decide (a < b) && cellsOk ((b, w) :: t)

/-- Numbers strictly rising. -/
def risingOk : List Nat → Bool
  | [] => true
  | [_] => true
  | a :: b :: t => decide (a < b) && risingOk (b :: t)

/-- The canonical form of a memory. -/
def Memory.wf (m : Memory) : Bool := cellsOk m.cells && risingOk m.poison

/-- Read one byte. -/
def Memory.get (m : Memory) (a : Nat) : Byte := cellGet m.cells a

/-- Write one byte. -/
def Memory.set (m : Memory) (a : Nat) (v : Byte) : Memory := { m with cells := cellSet m.cells a v }

/-- `n` bytes from an address, little-endian (R17). -/
def Memory.readLE (m : Memory) (a : Nat) : Nat → Nat
  | 0 => 0
  | n + 1 => (m.get a).toNat + 256 * m.readLE (a + 1) n

/-- Write `n` bytes from an address, little-endian (R17). -/
def Memory.writeLE (m : Memory) (a : Nat) : Nat → Nat → Memory
  | 0, _ => m
  | n + 1, v => (m.set a (BitVec.ofNat 8 v)).writeLE (a + 1) n (v / 256)

/-- Whether an access of `n` bytes meets a poisoned word (R318). -/
def Memory.poisoned (m : Memory) (a n : Nat) : Bool :=
  m.poison.any fun w => decide (a < 8 * w + 8 ∧ 8 * w < a + n)

/-- Mark a word poisoned (R318). -/
def Memory.mark (m : Memory) (w : Nat) : Memory := { m with poison := riseInsert m.poison w }

/-- Clear a word's poison: all 8 bytes have been stored (R318). -/
def Memory.unmark (m : Memory) (w : Nat) : Memory := { m with poison := m.poison.filter fun x => x != w }

/-- A store of `n` bytes at an aligned address; 8 bytes clear the word's poison (R318). -/
def Memory.store (m : Memory) (a n v : Nat) : Memory :=
  if n = 8 then (m.writeLE a 8 v).unmark (a / 8) else m.writeLE a n v

/-- A doubleword. -/
def Memory.read8 (m : Memory) (a : Nat) : Word := BitVec.ofNat 64 (m.readLE a 8)

/-- A 32-bit word. -/
def Memory.read4 (m : Memory) (a : Nat) : W32 := BitVec.ofNat 32 (m.readLE a 4)

/-- A run of bytes. -/
def Memory.bytes (m : Memory) (a : Nat) : Nat → List Byte
  | 0 => []
  | n + 1 => m.get a :: m.bytes (a + 1) n

/-- Write a run of bytes. -/
def Memory.putBytes (m : Memory) (a : Nat) : List Byte → Memory
  | [] => m
  | b :: t => (m.set a b).putBytes (a + 1) t

/-- Clear the poison of every word that lies wholly in a range. -/
def Memory.unmarkRange (m : Memory) (a n : Nat) : Memory :=
  { m with poison := m.poison.filter fun w => !decide (a ≤ 8 * w ∧ 8 * w + 8 ≤ a + n) }

/-- Write a run of bytes as stores: words written whole lose their poison (R318). -/
def Memory.storeBytes (m : Memory) (a : Nat) (l : List Byte) : Memory := (m.putBytes a l).unmarkRange a l.length

/-- Make a range read zero, and clear its poison. -/
def Memory.zero (m : Memory) (a n : Nat) : Memory :=
  { cells := m.cells.filter fun p => !decide (a ≤ p.1 ∧ p.1 < a + n)
    poison := m.poison.filter fun w => !decide (a ≤ 8 * w ∧ 8 * w < a + n) }

/-- Doublewords from an address. -/
def Memory.words (m : Memory) (a : Nat) : Nat → List Word
  | 0 => []
  | n + 1 => m.read8 a :: m.words (a + 8) n

/-- Write doublewords from an address. -/
def Memory.putWords (m : Memory) (a : Nat) : List Word → Memory
  | [] => m
  | w :: t => (m.store a 8 w.toNat).putWords (a + 8) t

/-! ## Bits of words -/

/-- Bits [lo + len − 1 : lo] of a word, as a number. -/
def bits (w : Word) (lo len : Nat) : Nat := (w.toNat >>> lo) % 2 ^ len

/-- A bit of a word. -/
def bit (w : Word) (i : Nat) : Bool := w.getLsbD i

/-- A word with bits [lo + len − 1 : lo] replaced. -/
def setBits (w : Word) (lo len v : Nat) : Word :=
  BitVec.ofNat 64 (w.toNat - bits w lo len * 2 ^ lo + (v % 2 ^ len) * 2 ^ lo)

/-- x taken as `n` bits, extended to 64 bits with its sign (Table 1 of spec/02). -/
def sext (x n : Nat) : Word :=
  let y := x % 2 ^ n
  if y < 2 ^ (n - 1) then BitVec.ofNat 64 y else BitVec.ofNat 64 (2 ^ 64 - 2 ^ n + y)

/-- Sum of two counts that stays at all ones (R325, R335, R338). -/
def satAdd (w : Word) (n : Nat) : Word := if w.toNat + n ≥ 2 ^ 64 then BitVec.allOnes 64 else w + BitVec.ofNat 64 n

/-- The bytes of a number, little-endian. -/
def bytesLE (v : Nat) : Nat → List Byte
  | 0 => []
  | n + 1 => BitVec.ofNat 8 v :: bytesLE (v / 256) n

end Sys2Proof.Machine
end

