-- ==== Sys2Proof/Machine/Regs.lean ====
section
/-! DEFINITION. Clusters and cores by number, the control registers (R24 to R29, R84, R337) and the registers of the running
activation, which are words of its frame (R18 to R22). -/
namespace Sys2Proof.Machine

/-! ## Cores and clusters -/

/-- Personality words a bank takes where no directive names it (R59). -/
def defaultPers (b : Nat) : W32 := if b = 14 then 0x00400001#32 else if b = 15 then 0x00800001#32 else 0

/-- A bank that holds nothing. -/
def Bank.blank (b : Nat) (p : W32) : Bank :=
  { pers := p, items := [], ring := [], nextSlot := 0, first := b, gsize := 0, shard := false, keepClass := none,
    converting := false }

/-- A core that no launch has reached (notes/assumptions/5). -/
def Core.blank : Core :=
  { store := Memory.empty, flags := 0, banks := [], cr := [], att := false, why := 0, jpt := 0, pc := 0, run := .off,
    act := none, wait := none, parked := [], ready := [], freeHead := BitVec.allOnes 64, trigs := [], classes := [],
    keeps := [], pend := none, conv := none, mq := [], accs := [], copies := [], promise := 0, held := [],
    engPend := false, engSlot := none, reissue := none, closed := [], delays := [], delayPid := none,
    buf := [], taken := none, governed := none, obligation := none, repBuf := [], repCount := 0, transfer := none, stopReq := none,
    stopped := false, shadowEpc := none, flagPoison := [], engSeq := 0, redeliver := [], inboxRecq := [], after := [], launch := 0, brSet := false, flagsRaised := 0,
    past := false, fell := none, lanesDone := [] }

/-- A group that issues nothing. -/
def Group.blank : Group := ⟨false, 0, .none, none, none⟩

/-- A cluster that no launch has reached; unpowered until its power wave (R5, R350). -/
def Cluster.blank : Cluster :=
  { powered := false, launch := 0, slot := 0, pid := 0, vc := 0, cores := [], group := Group.blank, onces := [],
    nextOnce := 0, tables := [], tablePoison := [], census := [], jobs := [], nextJob := 0, jobEnds := [], scratch := [],
    scratchPoison := [], ruleBuf := [],
    ramped := false, rampAt := 0, lastGrant := 7, lastCopy := 7, port := [], credits := [], opBuf := [], icache := [], evict := .none, errors := 0,
    failed := false }

/-- A cluster by its physical number. -/
def State.cluster (s : State) (k : Nat) : Cluster := aget Cluster.blank s.clusters k

/-- Write a cluster. -/
def State.setCluster (s : State) (k : Nat) (c : Cluster) : State := { s with clusters := aput s.clusters k c }

/-- A core of a cluster. -/
def Cluster.core (c : Cluster) (k : Nat) : Core := aget Core.blank c.cores k

/-- Write a core of a cluster. -/
def Cluster.setCore (c : Cluster) (k : Nat) (x : Core) : Cluster := { c with cores := aput c.cores k x }

/-- A core of the module. -/
def State.core (s : State) (r : CoreRef) : Core := (s.cluster r.cl).core r.core

/-- Write a core of the module. -/
def State.setCore (s : State) (r : CoreRef) (x : Core) : State := s.setCluster r.cl ((s.cluster r.cl).setCore r.core x)

/-- The core whose instruction a step runs. -/
def State.me (s : State) : Core := s.core s.cur

/-- Its cluster. -/
def State.mine (s : State) : Cluster := s.cluster s.cur.cl

/-- Change the core whose instruction a step runs. -/
def State.upd (s : State) (f : Core → Core) : State := s.setCore s.cur (f s.me)

/-- Change a core. -/
def State.updCore (s : State) (r : CoreRef) (f : Core → Core) : State := s.setCore r (f (s.core r))

/-- Change a cluster. -/
def State.updCluster (s : State) (k : Nat) (f : Cluster → Cluster) : State := s.setCluster k (f (s.cluster k))

/-- The quadrant of a cluster, and so its service core (R4). -/
def quadrant (cl : Nat) : Nat := cl % 128 / 64 + 2 * (cl / 128 / 32)

/-- The die of a cluster (R4). -/
def dieOf (cl : Nat) : Nat := cl % 128 / 32 + 4 * (cl / 128 / 32)

/-- The translation station that serves a cluster, numbered over the module (R11, R289). -/
def stationOf (cl : Nat) : Nat := 8 * dieOf cl + cl % 32 / 4

/-- The mesh address of an offset in a core's store (Table 9 of spec/02). -/
def meshAddr (vc core off : Nat) : Word := BitVec.ofNat 64 (2 ^ 62 + vc * 2 ^ 24 + core * 2 ^ 21 + off)

/-- A bank of a core. -/
def Core.bank (c : Core) (b : Nat) : Bank := aget (Bank.blank b (defaultPers b)) c.banks b

/-- Write a bank of a core. -/
def Core.setBank (c : Core) (b : Nat) (x : Bank) : Core := { c with banks := aput c.banks b x }

/-- KIND of a personality word (Table 1 of spec/04). -/
def kindOf (p : W32) : Nat := p.toNat % 8

/-- ITEM bytes of a personality word. -/
def itemOf (p : W32) : Nat := p.toNat / 65536

/-- Every byte of a range lies in ARRAY banks of the store. -/
def Core.arrayRange (c : Core) (a n : Nat) : Bool :=
  decide (a + n ≤ 0x40000) &&
  (List.range 16).all fun b => decide (b * 0x4000 + 0x4000 ≤ a ∨ a + n ≤ b * 0x4000) || kindOf (c.bank b).pers == 0

/-! ## Control registers -/

namespace Cr
abbrev stat : Nat := 0x000
abbrev cause : Nat := 0x001
abbrev epc : Nat := 0x002
abbrev tval : Nat := 0x003
abbrev tvec : Nat := 0x004
abbrev bsrc : Nat := 0x005
abbrev wp : Nat := 0x006
abbrev wsize : Nat := 0x007
abbrev cyc : Nat := 0x008
abbrev cid : Nat := 0x009
abbrev gid : Nat := 0x00A
abbrev launch : Nat := 0x00B
abbrev twp : Nat := 0x00C
abbrev twpsave : Nat := 0x00D
abbrev mode : Nat := 0x00E
abbrev repstate : Nat := 0x00F
abbrev fpc : Nat := 0x010
abbrev arb : Nat := 0x011
abbrev cpattern : Nat := 0x012
abbrev recq : Nat := 0x013
abbrev spread0 : Nat := 0x014
abbrev vprog : Nat := 0x018
abbrev backoff : Nat := 0x019
abbrev dbgctl : Nat := 0x020
abbrev trlost : Nat := 0x021
abbrev dlysel : Nat := 0x022
abbrev dlysrc : Nat := 0x023
abbrev dbgm0 : Nat := 0x028
end Cr

/-- The value a control register holds at the start of a launch (Table 4 of spec/02, R337). -/
def crReset (n : Nat) : Word := if n = Cr.arb then 1 else if n = Cr.recq then 14 else if n = Cr.dbgctl then 13 <<< 8 else 0

/-- The stored value of a control register. `STAT` is stored without ATT, whose one home is the attached bit of the core. -/
def Core.cr_ (c : Core) (n : Nat) : Word := aget (crReset n) c.cr n

/-- Store a control register. -/
def Core.setCr (c : Core) (n : Nat) (v : Word) : Core := { c with cr := aput c.cr n v }

/-- `STAT` (Table 5 of spec/02). -/
def Core.stat (c : Core) : Word := c.cr_ Cr.stat ||| (if c.att then 4 else 0)

/-- `MODE` (Table 7 of spec/02); DRIFT counts the undelivered instructions (R204). -/
def Core.mode (c : Core) : Word :=
  BitVec.ofNat 64 ((if c.att then 1 else 0) + c.why * 2 + c.jpt * 32 + c.buf.length * 512)

/-- In trap mode: `STAT`.TM (R26). -/
def Core.tm (c : Core) : Bool := bit (c.cr_ Cr.stat) 3

/-- nv, the vector allotment in `WSIZE`. -/
def Core.nv (c : Core) : Nat := bits (c.cr_ Cr.wsize) 0 5

/-- `WP`. -/
def Core.wp (c : Core) : Nat := (c.cr_ Cr.wp).toNat

/-- `STAT`.BR. -/
def Core.br (c : Core) : Nat := bits (c.cr_ Cr.stat) 0 2

/-- Set `STAT`.BR; the results of `once` record that it was set (R26, R90). -/
def Core.setBr (c : Core) (v : Nat) : Core := { c.setCr Cr.stat (setBits (c.cr_ Cr.stat) 0 2 v) with brSet := true }

/-- Set sticky flags of `FPC` [8:4], given as a mask of five bits NV, DZ, OF, UF, NX (R27). -/
def Core.raise (c : Core) (fl : Nat) : Core :=
  { c.setCr Cr.fpc (c.cr_ Cr.fpc ||| BitVec.ofNat 64 (fl * 16)) with flagsRaised := c.flagsRaised ||| fl }

/-- The bits of a control register that a write changes, and those that it may not set; none for a number that is not
listed; no writable bit for a register whose access is ro (Tables 4 to 8 of spec/02, R234, R217, R337). -/
def crLayout (n : Nat) : Option (Word × Word) :=
  let all : Word := BitVec.allOnes 64
  let lo (k : Nat) : Word := BitVec.ofNat 64 (2 ^ k - 1)
  if n = Cr.stat then some (0x3F3#64, ~~~(lo 10))
  else if n = Cr.cause then some (0xFF#64, ~~~(lo 8))
  else if n = Cr.epc ∨ n = Cr.tval ∨ n = Cr.bsrc ∨ n = Cr.twpsave then some (all, 0)
  else if n = Cr.tvec then some (~~~1#64, 1)
  else if 6 ≤ n ∧ n ≤ 0xB ∨ n = Cr.mode then some (0, all)
  else if n = Cr.twp then some (~~~(lo 7), lo 7)
  else if n = Cr.repstate then some (lo 46, ~~~(lo 46))
  else if n = Cr.fpc then some (lo 9, ~~~(lo 9))
  else if n = Cr.arb ∨ n = Cr.recq ∨ n = Cr.vprog then some (lo 4, ~~~(lo 4))
  else if n = Cr.cpattern then some (lo 50 &&& ~~~(lo 16), ~~~(lo 50) ||| lo 16)
  else if 0x14 ≤ n ∧ n ≤ 0x17 then some (1 <<< 63, lo 43 &&& ~~~(lo 34))
  else if n = Cr.backoff ∨ n = Cr.trlost then some (all, 0)
  else if n = Cr.dbgctl then some (0xF03#64, ~~~0xF03#64)
  else if n = Cr.dlysel then some (lo 7, ~~~(lo 7))
  else if 0x23 ≤ n ∧ n ≤ 0x27 then some (0, all)
  else if 0x28 ≤ n ∧ n ≤ 0x2F then some (~~~((lo 62 &&& ~~~(lo 57)) ||| 1), (lo 62 &&& ~~~(lo 57)) ||| 1)
  else if 0x40 ≤ n ∧ n ≤ 0x4F then some (0, all)
  else none

/-- What `crd` reads (R84); CLR of `DLYSEL` reads zero. -/
def crRead (s : State) (c : Core) (n : Nat) : Word :=
  if n = Cr.stat then c.stat
  else if n = Cr.mode then c.mode
  else if n = Cr.cyc then s.cyc
  else if n = 0x40 then s.feat0
  else c.cr_ n

/-! ## Registers of the running activation -/

/-- The store offset of scalar register j (R20). -/
def sAddr (c : Core) (j : Nat) : Nat := c.wp + 128 + 8 * j
/-- The store offset of mask register j. -/
def mAddr (c : Core) (j : Nat) : Nat := c.wp + 384 + 2 * j
/-- The store offset of vector register j. -/
def vAddr (c : Core) (j : Nat) : Nat := c.wp + 448 + 64 * j

/-- S(j): `s0` reads zero (R18). -/
def Core.s (c : Core) (j : Nat) : Word := if j = 0 then 0 else c.store.read8 (sAddr c j)

/-- S(j) := v: a write of `s0` is discarded (R18). -/
def Core.setS (c : Core) (j : Nat) (v : Word) : Core :=
  if j = 0 then c else { c with store := c.store.store (sAddr c j) 8 v.toNat }

/-- M(j). -/
def Core.m (c : Core) (j : Nat) : BitVec 16 := BitVec.ofNat 16 (c.store.readLE (mAddr c j) 2)

/-- M(j) := v. -/
def Core.setM (c : Core) (j : Nat) (v : BitVec 16) : Core := { c with store := c.store.store (mAddr c j) 2 v.toNat }

/-- Lane i of V(j). -/
def Core.v (c : Core) (j i : Nat) : W32 := c.store.read4 (vAddr c j + 4 * i)

/-- All lanes of V(j). -/
def Core.vec (c : Core) (j : Nat) : List W32 := (List.range 16).map (c.v j)

/-- Write lane i of V(j). -/
def Core.setV (c : Core) (j i : Nat) (x : W32) : Core :=
  { c with store := c.store.store (vAddr c j + 4 * i) 4 x.toNat }

/-- Write the listed lanes of V(j). -/
def Core.setLanes (c : Core) (j : Nat) : List (Nat × W32) → Core
  | [] => c
  | (i, x) :: t => (c.setV j i x).setLanes j t

/-- Write lanes of V(j) as one access: a doubleword written whole loses its poison (R21, R318). -/
def Core.writeV (c : Core) (j : Nat) (l : List (Nat × W32)) : Core :=
  let c := c.setLanes j l
  { c with store := l.foldl (fun m p =>
      if p.1 % 2 = 0 && l.any (fun q => q.1 == p.1 + 1) then m.unmark ((vAddr c j + 4 * p.1) / 8) else m) c.store }

/-- Lane i is active under mask operand k: `m0` means all lanes (R134). -/
def Core.active (c : Core) (k i : Nat) : Bool := k == 0 || (c.m k).getLsbD i

/-- The active lanes, ascending. -/
def Core.lanes (c : Core) (k : Nat) : List Nat := (List.range 16).filter (c.active k)

/-- A flag of the core's flag page (R31). -/
def Core.flag (c : Core) (f : Nat) : Bool := c.flags.getLsbD f

/-- Write a flag (R125). -/
def Core.setFlag (c : Core) (f : Nat) (v : Bool) : Core :=
  { c with flags := if v then c.flags ||| (1#256 <<< f) else c.flags &&& ~~~(1#256 <<< f) }

/-- Bytes of the flag page: bit f is bit f mod 8 of byte f div 8 (R113). -/
def Core.flagsRead (c : Core) (off n : Nat) : Nat := (c.flags.toNat >>> (8 * off)) % 2 ^ (8 * n)

/-- Write bytes of the flag page. -/
def Core.flagsWrite (c : Core) (off n v : Nat) : Core :=
  { c with flags := BitVec.ofNat 256 (c.flags.toNat - c.flagsRead off n * 2 ^ (8 * off) + v % 2 ^ (8 * n) * 2 ^ (8 * off)) }

/-- The source word of a core: the value `self` gives (R175, R194). -/
def sourceWord (s : State) (r : CoreRef) : Word := meshAddr (s.cluster r.cl).vc r.core 0

end Sys2Proof.Machine
end

