-- ==== Sys2Proof/Machine/Banks.lean ====
section
/-! DEFINITION. One access to a core's store, flag page or bank ports, as the bank controller performs it (R62 to R74, R113 to
R115, R231). -/
namespace Sys2Proof.Machine

/-! ## Structures -/

/-- A QUEUE or STACK of 64·n-byte items, held in slots (R60). -/
def isSlotBank (p : W32) : Bool := (kindOf p == 1 || kindOf p == 2) && itemOf p ≥ 64

/-- A personality word that keeps Table 1 of spec/04 (R58), as a 64-bit operand. -/
def persOk (w : Word) : Bool :=
  let p := w.extractLsb' 0 32
  let it := itemOf p
  w.toNat < 2 ^ 32 && p.toNat / 8 % 8192 == 0 && kindOf p ≤ 5 &&
  if kindOf p = 1 ∨ kindOf p = 2 then it == 4 || it == 8 || (it % 64 == 0 && 64 ≤ it && it ≤ 8192) else it == 0

/-- Banks of a structure of size code `g` (Table 7 of spec/06). -/
def groupSize (g : Nat) : Nat := 2 ^ g

/-- Slots of a structure (R60, R231). -/
def slotCount (p : W32) (g : Nat) : Nat := (groupSize g * 16384 - 64) / itemOf p

/-- Entries a structured bank or group holds at most (R60, R231). -/
def capacity (p : W32) (g : Nat) : Nat :=
  let n := groupSize g
  if isSlotBank p then slotCount p g
  else match kindOf p with
    | 1 | 2 => if itemOf p = 4 then n * 4096 else n * 2048
    | 3 => n * 1536
    | 4 => n * 2048 - 1
    | _ => n * 4096

/-- Word, key, priority or bin of an entry (R227). -/
def keyOf (e : Word) : Nat := e.toNat % 2 ^ 32
/-- Value or count of an entry. -/
def valOf (e : Word) : Nat := e.toNat / 2 ^ 32
/-- An entry. -/
def entry (k v : Nat) : Word := BitVec.ofNat 64 (k % 2 ^ 32 + v % 2 ^ 32 * 2 ^ 32)

/-- The items of a slot bank that have joined and are not released, head or top first (R66). -/
def Bank.joined (b : Bank) : List (Nat × SlotSt) :=
  if kindOf b.pers = 1 then (b.ring.takeWhile fun p => p.2 != .reserved).filter fun p => p.2 != .released
  else b.ring.filter fun p => p.2 == .item || p.2 == .acquired

/-- What the count port returns (R64 to R66). -/
def Bank.count (b : Bank) : Nat :=
  if kindOf b.pers = 0 then 0 else if isSlotBank b.pers then b.joined.length else b.items.length

/-- A bank with nothing in its structure (R67). -/
def Bank.emptied (b : Bank) : Bank := { b with items := [], ring := [], nextSlot := 0 }

/-- Results of a structured access (R26). -/
def brOK : Nat := 0
def brEMPTY : Nat := 1
def brFULL : Nat := 2
def brABSENT : Nat := 3

/-- Reserve a slot (R66). -/
def Bank.reserve (b : Bank) : Option (Nat × Bank) :=
  let n := slotCount b.pers b.gsize
  if kindOf b.pers = 1 then
    if b.ring.any fun p => p.1 == b.nextSlot then none
    else some (b.nextSlot, { b with ring := b.ring ++ [(b.nextSlot, .reserved)], nextSlot := (b.nextSlot + 1) % n })
  else match (List.range n).find? fun j => !b.ring.any fun p => p.1 == j with
    | none => none
    | some j => some (j, { b with ring := b.ring ++ [(j, .reserved)] })

/-- Commit a reserved slot (R66). -/
def Bank.commit (b : Bank) (j : Nat) : Option Bank :=
  if b.ring.any fun p => p.1 == j && p.2 == .reserved then
    some (if kindOf b.pers = 1 then { b with ring := b.ring.map fun p => if p.1 = j then (j, .item) else p }
      else { b with ring := (j, .item) :: b.ring.filter fun p => p.1 != j })
  else none

/-- Acquire the oldest or topmost item not yet acquired (R66). -/
def Bank.acquire (b : Bank) : Option (Nat × Bank) :=
  match b.joined.find? fun p => p.2 == .item with
  | none => none
  | some (j, _) => some (j, { b with ring := b.ring.map fun p => if p.1 = j then (j, .acquired) else p })

/-- Release an acquired slot (R66): a QUEUE's slots become free in order from the head. -/
def Bank.release (b : Bank) (j : Nat) : Option Bank :=
  if b.ring.any fun p => p.1 == j && p.2 == .acquired then
    some (if kindOf b.pers = 1 then
        { b with ring := (b.ring.map fun p => if p.1 = j then (j, SlotSt.released) else p).dropWhile
                   fun p => p.2 == .released }
      else { b with ring := b.ring.filter fun p => p.1 != j })
  else none

/-- Put an entry into a list in rising key order, behind equal keys (R65, R227). -/
def insertKey (k v : Nat) : List Word → List Word
  | [] => [entry k v]
  | e :: t => if k < keyOf e then entry k v :: e :: t else e :: insertKey k v t

/-- Set the value of a key in a list in rising key order, inserting it where it is absent. -/
def setKey (k v : Nat) (l : List Word) : List Word :=
  if l.any fun e => keyOf e == k then l.map fun e => if keyOf e = k then entry k v else e else insertKey k v l

/-- The value of a key. -/
def findKey (k : Nat) (l : List Word) : Option Nat := (l.find? fun e => keyOf e == k).map valOf

/-- Add to a HIST bin (R65): the sum, and whether it stayed within 32 bits. -/
def Bank.addBin (b : Bank) (k v : Nat) : Bank × Bool :=
  let old := (findKey k b.items).getD 0
  let sum := old + v
  let new := min sum 0xFFFFFFFF
  (if new = 0 then b else { b with items := setKey k new b.items }, decide (sum ≤ 0xFFFFFFFF))

/-- Address of slot j in own-core form, or in the mesh form that `base` gives (R66, R72). -/
def slotAddr (b : Bank) (base : Word) (j : Nat) : Word :=
  base + BitVec.ofNat 64 (b.first * 0x4000 + 0x40 + itemOf b.pers * j)

/-- The slot whose address a data word names exactly, in own-core form or in the mesh form of its owner (R66). -/
def slotNamed (b : Bank) (mesh d : Word) : Option Nat :=
  (List.range (slotCount b.pers b.gsize)).find? fun j => d == slotAddr b 0 j || d == slotAddr b mesh j

/-- Extension of a loaded value (R109). -/
def extend (size : Nat) (signed : Bool) (v : Nat) : Word :=
  if signed && size < 8 then sext v (8 * size) else BitVec.ofNat 64 (v % 2 ^ (8 * size))

/-- A key whose bits [63:32] are nonzero at a port of a MAP or a HEAP, which refuses it (R63). -/
def Bank.keyRefused (b : Bank) (key : Word) : Bool := (kindOf b.pers == 3 || kindOf b.pers == 4) && decide (2 ^ 32 ≤ key.toNat)

/-- A load at a port (Tables 3 to 6 of spec/04): value, result, bank afterwards; none where the port refuses it. `base` is 0
for the owning core and its mesh base for others. DESIGN CHOICE (notes/assumptions/43): a load at 0x10 of an empty HEAP with a key
other than 0 gives ABSENT, where Table 5 names EMPTY and ABSENT and no order between them. -/
def portLoad (b : Bank) (p size : Nat) (signed : Bool) (key base : Word) : Option (Word × Nat × Bank) :=
  let kd := kindOf b.pers
  let it := itemOf b.pers
  if b.keyRefused key then none
  else if p = 0x18 then
    (if size = 4 ∨ size = 8 then some (extend size signed b.count, brOK, b) else none)
  else if isSlotBank b.pers then
    if size ≠ 8 then none
    else if p = 0x28 then
      some (match b.reserve with | some (j, b') => (slotAddr b base j, brOK, b') | none => (0, brFULL, b))
    else if p = 0x38 ∨ p = 0x08 then
      some (match b.acquire with | some (j, b') => (slotAddr b base j, brOK, b') | none => (0, brEMPTY, b))
    else if p = 0x10 then
      some (match b.joined[key.toNat]? with | some (j, _) => (slotAddr b base j, brOK, b) | none => (0, brABSENT, b))
    else none
  else if p ≠ 0 ∧ p ≠ 0x08 ∧ p ≠ 0x10 then none
  else match kd with
  | 1 | 2 =>
    if size ≠ it then none
    else if p = 0x10 then
      some (match b.items[key.toNat]? with | some e => (extend size signed e.toNat, brOK, b) | none => (0, brABSENT, b))
    else some (match b.items with
      | e :: t => (extend size signed e.toNat, brOK, { b with items := t })
      | [] => (0, brEMPTY, b))
  | 3 =>
    if size ≠ 4 then none
    else some (match (if key.toNat = 0xFFFFFFFF then none else findKey key.toNat b.items) with
      | none => (0, brABSENT, b)
      | some v => (extend 4 signed v, brOK,
          if p = 0x10 then { b with items := b.items.filter fun e => keyOf e != key.toNat } else b))
  | 4 =>
    if size ≠ 4 ∧ size ≠ 8 then none
    else if p = 0x10 ∧ key ≠ 0 then some (0, brABSENT, b)
    else some (match b.items with
      | [] => (0, brEMPTY, b)
      | e :: t => (if size = 8 then entry (valOf e) (keyOf e) else extend 4 signed (valOf e), brOK,
          if p = 0x10 then b else { b with items := t }))
  | 5 =>
    if size ≠ 4 ∨ p = 0x08 then none
    else if key.toNat ≥ capacity b.pers b.gsize then some (0, brABSENT, b)
    else some (extend 4 signed ((findKey key.toNat b.items).getD 0), brOK,
      if p = 0x10 then { b with items := b.items.filter fun e => keyOf e != key.toNat } else b)
  | _ => none

/-- A store at a port: result and bank afterwards; none where the port refuses it. `held` says that R67 refuses a clear. -/
def portStore (b : Bank) (p size : Nat) (data key mesh : Word) (held : Bool) : Option (Nat × Bank) :=
  let kd := kindOf b.pers
  let it := itemOf b.pers
  let v := data.toNat % 2 ^ (8 * size)
  if b.keyRefused key then none
  else if p = 0x20 then
    (if size = 4 ∨ size = 8 then some (if held then (brFULL, b) else (brOK, b.emptied)) else none)
  else if isSlotBank b.pers then
    if size ≠ 8 then none
    else if p = 0x30 then
      some (match (slotNamed b mesh data).bind b.commit with | some b' => (brOK, b') | none => (brABSENT, b))
    else if p = 0 then
      some (match (slotNamed b mesh data).bind b.release with | some b' => (brOK, b') | none => (brABSENT, b))
    else none
  else if p ≠ 0 ∧ p ≠ 0x08 then none
  else match kd with
  | 1 | 2 =>
    if size ≠ it then none
    else if b.items.length ≥ capacity b.pers b.gsize then some (brFULL, b)
    else some (brOK, { b with items := if kd = 1 then b.items ++ [BitVec.ofNat 64 v] else BitVec.ofNat 64 v :: b.items })
  | 3 =>
    if size ≠ 4 then none
    else if key.toNat = 0xFFFFFFFF then some (brABSENT, b)
    else if (findKey key.toNat b.items).isNone && b.items.length ≥ capacity b.pers b.gsize then some (brFULL, b)
    else some (brOK, { b with items := setKey key.toNat v b.items })
  | 4 =>
    if size ≠ 4 then none
    else if b.items.length ≥ capacity b.pers b.gsize then some (brFULL, b)
    else some (brOK, { b with items := insertKey key.toNat v b.items })
  | 5 =>
    if size ≠ 4 ∨ p = 0x08 then none
    else if key.toNat ≥ capacity b.pers b.gsize then some (brABSENT, b)
    else match b.addBin key.toNat v with
      | (b', true) => some (brOK, b')
      | (b', false) => some (brFULL, b')
  | _ => none

/-! ## Where an offset of a store lies -/

/-- What an access of `size` bytes at a store offset meets (R62, R231). -/
inductive Hit where
  | plain
  | port (first p : Nat)
  | refused
deriving DecidableEq, Repr

/-- The slot that an access falls wholly inside is held: from its reservation until its release, though a QUEUE's slot is free only once
every older item is released (R66). -/
def Bank.inSlot (b : Bank) (off size : Nat) : Bool :=
  let base := b.first * 0x4000 + 0x40
  let it := itemOf b.pers
  isSlotBank b.pers && decide (base ≤ off) &&
    (let j := (off - base) / it
     decide (off + size ≤ base + it * (j + 1)) && b.ring.any fun p => p.1 == j && p.2 != .released)

/-- Decode an access to the local store (R62). -/
def Core.hit (c : Core) (off size : Nat) : Hit :=
  let n := off / 0x4000
  let m := c.bank n
  let b := c.bank m.first
  if kindOf m.pers = 0 then .plain
  else if b.inSlot off size then .plain
  else if n = m.first ∧ off % 0x4000 < 0x40 ∧ off % 8 = 0 then .port n (off % 0x4000)
  else .refused

/-- Whether the offset names a port of a structured bank: only the first bank of a group has ports (R108, R231). -/
def Core.isPort (c : Core) (off : Nat) : Bool :=
  let b := c.bank (off / 0x4000)
  kindOf b.pers != 0 && b.first == off / 0x4000 && off % 0x4000 < 0x40

/-- A counter must lie, 8-aligned, in an ARRAY bank or a held slot (R121, R165). -/
def Core.counterPlace (c : Core) (off : Nat) : Bool :=
  off % 8 == 0 && decide (off + 8 ≤ 0x40000) && c.hit off 8 == .plain

/-! ## Atomic operations -/

/-- A value of `size` bytes as a signed integer. -/
def signedOf (size v : Nat) : Int := if v < 2 ^ (8 * size - 1) then v else (v : Int) - 2 ^ (8 * size)

/-- The value an AMO writes (Table 3 of spec/06). -/
def amoNew (fn size old b d : Nat) : Nat :=
  match fn with
  | 0 => (old + b) % 2 ^ (8 * size)
  | 1 => old &&& b
  | 2 => old ||| b
  | 3 => old ^^^ b
  | 4 => if signedOf size b < signedOf size old then b else old
  | 5 => if signedOf size old < signedOf size b then b else old
  | 6 => min old b
  | 7 => max old b
  | 8 => b
  | 9 => if old = d then b else old
  | 10 => (rneAdd32 (BitVec.ofNat 32 old) (BitVec.ofNat 32 b)).toNat
  | _ => if old < b then old + 1 else 0

/-- The trap codes of R184. -/
def tILLEGAL : Nat := 0x01
def tREGISTER : Nat := 0x02
def tALIGN : Nat := 0x03
def tLOCALBOUNDS : Nat := 0x04
def tBANKPORT : Nat := 0x05
def tBANKBUSY : Nat := 0x06
def tTRANSLATION : Nat := 0x07
def tPERMISSION : Nat := 0x08
def tFETCH : Nat := 0x09
def tMESH : Nat := 0x0A
def tPROMISEMISSED : Nat := 0x0B
def tTABLE : Nat := 0x0C
def tJOINMISMATCH : Nat := 0x0D
def tFP : Nat := 0x0E
def tSHADOW : Nat := 0x0F
def tENGINE : Nat := 0x10
def tPOISON : Nat := 0x11
def tREMOTEERROR : Nat := 0x12
def tLINKLOST : Nat := 0x13
def tSOFTWARE : Nat := 0x14
def tDEBUGSTOP : Nat := 0x15
def tDOUBLE : Nat := 0x16
def tLINKEXPIRED : Nat := 0x17

/-- Size of an access. -/
def AccOp.size : AccOp → Nat
  | .load n _ => n
  | .store n _ => n
  | .amo _ n _ _ => n
  | .vload _ => 64
  | .vstore _ _ => 64
  | .keyed _ _ _ _ => 4

/-- The lanes of a mask, ascending. -/
def maskLanes (m : BitVec 16) : List Nat := (List.range 16).filter m.getLsbD

/-- Write the lanes of a 64-byte store; a doubleword written whole loses its poison (R138, R318). -/
def Memory.storeLanes (m : Memory) (a : Nat) (mask : BitVec 16) (data : List W32) : Memory :=
  let m1 := (maskLanes mask).foldl (fun (m : Memory) i => m.writeLE (a + 4 * i) 4 (data.getD i 0).toNat) m
  (List.range 8).foldl (fun (m : Memory) j =>
    if mask.getLsbD (2 * j) && mask.getLsbD (2 * j + 1) then m.unmark (a / 8 + j) else m) m1

/-- An access to plain memory of a store (R64, R107, R114, R318). DESIGN CHOICE (notes/assumptions/43): a 64-byte access, and a read of a
vector register, sees and changes all its words at once, where R21 allows some 8-byte words to be old and others new. -/
def memAccess (m : Memory) (op : AccOp) (off : Nat) (tval : Word) : Resp × Memory :=
  match op with
  | .load n sg => (if m.poisoned off n then .trap tPOISON tval else .value (extend n sg (m.readLE off n)) none, m)
  | .store n d => (.value 0 none, m.store off n (d.toNat % 2 ^ (8 * n)))
  | .amo fn n b d =>
    if m.poisoned off n then (.trap tPOISON tval, m)
    else
      let old := m.readLE off n
      (.value (BitVec.ofNat 64 old) none,
        m.store off n (amoNew fn n old (b.toNat % 2 ^ (8 * n)) (d.toNat % 2 ^ (8 * n))))
  | .vload mask =>
    match (maskLanes mask).find? fun i => m.poisoned (off + 4 * i) 4 with
    | some i => (.trap tPOISON (tval + BitVec.ofNat 64 (4 * i)), m)
    | none => (.lanes ((List.range 16).map fun i => m.read4 (off + 4 * i)) mask none, m)
  | .vstore mask data => (.value 0 none, m.storeLanes off mask data)
  | .keyed _ _ _ _ => (.trap tBANKPORT tval, m)

/-- An access to the flag page (R113); its words can be poisoned as those of the store (R317, R318). -/
def flagAccess (c : Core) (op : AccOp) (o : Nat) (tval : Word) : Resp × Core :=
  let bad := c.flagPoison.contains (o / 8)
  match op with
  | .load n sg => (if bad then .trap tPOISON tval else .value (extend n sg (c.flagsRead o n)) none, c)
  | .store n d =>
    (.value 0 none,
      { c.flagsWrite o n d.toNat with flagPoison := if n = 8 then c.flagPoison.filter (· != o / 8) else c.flagPoison })
  | .amo fn n b d =>
    if bad then (.trap tPOISON tval, c)
    else
      let old := c.flagsRead o n
      (.value (BitVec.ofNat 64 old) none,
        c.flagsWrite o n (amoNew fn n old (b.toNat % 2 ^ (8 * n)) (d.toNat % 2 ^ (8 * n))))
  | .vload _ | .vstore _ _ | .keyed _ _ _ _ => (.trap tLOCALBOUNDS tval, c)

/-! ### Poisoned entries of structured banks (R318; notes/assumptions/24) -/

/-- The doubleword of the store at which an entry stands: that of a MAP or HIST stays where it is while its value changes. -/
def Bank.placeOf (b : Bank) (e : Word) : Nat :=
  let e := if kindOf b.pers = 3 ∨ kindOf b.pers = 5 then e &&& 0xFFFFFFFF#64 else e
  b.first * 2048 + Config.entryWord b.pers.toNat e % (groupSize b.gsize * 2048)

/-- The entry that a load at a port reads, if any. -/
def Bank.entryRead (b : Bank) (p : Nat) (key : Word) : Option Word :=
  if isSlotBank b.pers ∨ ¬ (p = 0 ∨ p = 0x08 ∨ p = 0x10) then none
  else match kindOf b.pers with
    | 1 | 2 => if p = 0x10 then b.items[key.toNat]? else b.items.head?
    | 4 => b.items.head?
    | _ => b.items.find? fun e => keyOf e == key.toNat

/-- The entry that a store at a port writes with all of its 8 bytes, if any. -/
def Bank.entryWritten (b : Bank) (p : Nat) (data key : Word) : Option Word :=
  if isSlotBank b.pers ∨ ¬ (p = 0 ∨ p = 0x08) then none
  else match kindOf b.pers with
    | 1 | 2 => if itemOf b.pers = 8 then some data else none
    | 3 | 4 => some (entry key.toNat data.toNat)
    | _ => none

/-- A load at a port reads a poisoned word. -/
def Memory.entryPoisoned (m : Memory) (b : Bank) (p : Nat) (key : Word) : Bool :=
  match b.entryRead p key with
  | some e => m.poison.contains (b.placeOf e)
  | none => false

/-- The store after a store at a port has written an entry: a word written whole loses its poison. -/
def Memory.entryStored (m : Memory) (b : Bank) (p : Nat) (data key : Word) : Memory :=
  match b.entryWritten p data key with
  | some e => m.unmark (b.placeOf e)
  | none => m

/-- One structured operation per lane, in ascending order (R142): the loaded words, the lanes that gave OK, the result of the
lowest that did not, the bank and the store's poison; or the trap of a port that refuses the access or of a poisoned word. -/
def keyedRun (p : Nat) (isStore : Bool) (mesh : Word) (keys data : List W32) :
    List Nat → Bank → Memory → List (Nat × W32) → BitVec 16 → Nat → Except Nat (List (Nat × W32) × BitVec 16 × Nat × Bank × Memory)
  | [], b, m, got, ok, br => .ok (got, ok, br, b, m)
  | i :: t, b, m, got, ok, br =>
    let key : Word := (keys.getD i 0).zeroExtend 64
    let d : Word := (data.getD i 0).zeroExtend 64
    let r : Option (Word × Nat × Bank) :=
      if isStore then (portStore b p 4 d key mesh false).map fun x => (0, x.1, x.2) else portLoad b p 4 false key 0
    match r with
    | none => .error tBANKPORT
    | some (w, x, b') =>
      if !isStore && m.entryPoisoned b p key then .error tPOISON
      else
        keyedRun p isStore mesh keys data t b' (if isStore && x == brOK then m.entryStored b p d key else m)
          (got ++ [(i, if x = brOK then w.truncate 32 else 0)])
          (if x = brOK then ok ||| (1#16 <<< i) else ok) (if br = brOK then x else br)

/-- The address of the lowest active lane of a whole vector access, else that of the access (R74, R138; notes/assumptions/27). -/
def AccOp.first (op : AccOp) (a : Word) : Word :=
  match op with
  | .vload m | .vstore m _ => a + BitVec.ofNat 64 (4 * (maskLanes m).headD 0)
  | _ => a

/-- What the controller holds after a program's store at a port of a bank: an inbox item that the program has released starts no activation
(R75). -/
def Core.itemsGone (c : Core) (f : Nat) : Core :=
  let kept (j : Option Nat) : Bool := match j with
    | some n => (c.bank 15).ring.any fun p => p.1 == n && p.2 == .acquired
    | none => true
  if f = 15 then
    { c with
      ready := c.ready.filter fun e => kept e.item
      trigs := c.trigs.map fun p => if kept p.2.item then p else (p.1, { p.2 with st := .disarmed, item := none }) }
  else c

/-- One access to a core's store or flag page at its place in the bank order (R69). `base` is 0 for the owning core and its
mesh base for others; `mesh` is the owner's mesh base; `held` refuses a clear (R67). -/
def storeAccess (c : Core) (op : AccOp) (off : Nat) (key base mesh : Word) (held : Nat → Bool) (tval : Word) :
    Resp × Core :=
  let n := op.size
  if 0x40000 ≤ off ∧ off + n ≤ 0x40020 then
    (match op with
    | .keyed _ _ _ _ => (.trap tBANKPORT tval, c)
    | _ => flagAccess c op (off - 0x40000) tval)
  else if 0x40000 < off + n then (.trap tLOCALBOUNDS tval, c)
  else match c.hit off n with
  | .plain => ((memAccess c.store op off tval).1, { c with store := (memAccess c.store op off tval).2 })
  | .refused => (.trap tBANKPORT (op.first tval), c)
  | .port f p =>
    match op with
    | .load n sg =>
      (match portLoad (c.bank f) p n sg key base with
      | some (v, br, b) =>
        if c.store.entryPoisoned (c.bank f) p key then (.trap tPOISON tval, c)
        else (.value (if br = brOK then v else 0) (some br), c.setBank f b)
      | none => (.trap tBANKPORT tval, c))
    | .store n d =>
      (match portStore (c.bank f) p n d key mesh (held f) with
      | some (br, b) =>
        (.value 0 (some br),
          ({ c.setBank f b with store := if br = brOK then c.store.entryStored (c.bank f) p d key else c.store } : Core).itemsGone f)
      | none => (.trap tBANKPORT tval, c))
    | .keyed st mask keys data =>
      if p = 0 ∨ p = 0x10 then
        (match keyedRun p st mesh keys data (maskLanes mask) (c.bank f) c.store [] 0 brOK with
        | .ok (got, ok, br, b, m) =>
          (.lanes ((List.range 16).map fun i => aget 0 got i) ok (some br), { c.setBank f b with store := m })
        | .error e => (.trap e tval, c))
      else (.trap tBANKPORT tval, c)
    | _ => (.trap tBANKPORT (op.first tval), c)

/-- Whether a wait-port access of the owning core must stall rather than give its result (R70). -/
def waitsAt (c : Core) (off size : Nat) (key : Word) (r : Resp) : Bool :=
  match c.hit off size, r with
  | .port f 0x08, .value _ (some br) =>
    br == brEMPTY || br == brFULL ||
      (br == brABSENT && kindOf (c.bank f).pers == 3 && key.toNat != 0xFFFFFFFF)
  | _, _ => false

end Sys2Proof.Machine
end

