-- ==== Sys2Proof/Machine/Walk.lean ====
section
/-! DEFINITION. Address spaces (R31), page tables and translation (R283 to R291), placement (R293, R294) and where a physical
address lies (R287, R288, R330). -/
namespace Sys2Proof.Machine

/-! ## The three spaces of a core -/

/-- Where an address of a core lies (Table 9 of spec/02). -/
inductive Place where
  | own (off : Nat)
  | window (d p : Nat)
  | mesh (vc core off : Nat)
  | global (va : Nat)
deriving DecidableEq, Repr

/-- An offset in a local store or flag page. -/
def inStore (off : Nat) : Bool := off < 0x40020

/-- The place of an address, or the trap of an address outside every window (R31). -/
def placeOf (a : Word) : Except Nat Place :=
  if bits a 62 2 = 0 then
    if inStore a.toNat then .ok (.own a.toNat)
    else if 0x41000 ≤ a.toNat ∧ a.toNat < 0x41400 then .ok (.window ((a.toNat - 0x41000) / 0x100) (a.toNat % 0x100))
    else .error tLOCALBOUNDS
  else if bits a 62 2 = 1 then
    if bits a 37 25 = 0 ∧ bits a 20 1 = 0 ∧ inStore (bits a 0 20) then
      .ok (.mesh (bits a 24 13) (bits a 21 3) (bits a 0 20))
    else .error tMESH
  else if bits a 57 6 = 0 then .ok (.global (bits a 0 57))
  else .error tTRANSLATION

/-- A global address in the form a core issues. -/
def isGlobal (a : Word) : Bool := bit a 63

/-! ## Physical addresses -/

/-- The space of a physical address (R287). -/
def spaceOf (p : Nat) : Nat := p / 2 ^ 48 % 16

/-- The stack that holds an HBM address (R288). -/
def stackOf (p : Nat) : Nat := (p / 2 ^ 12 % 16) ^^^ (p / 2 ^ 16 % 16)

/-- Channel, bank and row within the stack (Table 1 of spec/24). -/
def channelOf (p : Nat) : Nat := p / 2 ^ 6 % 32
def hbmBankOf (p : Nat) : Nat := p / 2 ^ 16 % 32
def rowOf (p : Nat) : Nat := p / 2 ^ 24 % 65536

/-- The number under which a row's counter stands. -/
def rowKey (stack chan bank row : Nat) : Nat := ((stack * 32 + chan) * 32 + bank) * 65536 + row

/-! ## Page tables -/

/-- What an entry of a level gives (Table 2 of spec/19, R284, R290). -/
inductive Pte where
  | none
  | pointer (table : Nat)
  | leaf (base pageBits : Nat) (r w x : Bool)
deriving DecidableEq, Repr

/-- log2 of the page size of a SIZE code. -/
def pageBits (size : Nat) : Nat :=
  match size with
  | 0 => 12 | 1 => 14 | 2 => 16 | 3 => 18 | 4 => 21 | 5 => 25 | 6 => 30 | _ => 34

/-- The level a SIZE code belongs to. -/
def sizeLevel (size : Nat) : Nat := if size ≤ 3 then 0 else if size ≤ 5 then 1 else 2

/-- Read an entry: V 0 and malformed entries give no mapping. -/
def pteOf (level : Nat) (e : Word) : Pte :=
  if !bit e 0 || bits e 52 12 != 0 || bits e 8 4 != 0 then .none
  else if bit e 1 then
    let sz := bits e 5 3
    let pb := pageBits sz
    let base := bits e 12 40 * 4096
    if sizeLevel sz != level || base % 2 ^ pb != 0 then .none else .leaf base pb (bit e 2) (bit e 3) (bit e 4)
  else if level = 0 ∨ bits e 2 6 ≠ 0 then .none
  else .pointer (bits e 12 40 * 4096)

/-- Where a level's table holds the entry for an address (R284). -/
def entryAt (table level va : Nat) : Nat := table + 8 * (va / 2 ^ (12 + 9 * level) % 512)

/-- The entry of a level's table for an address; a table outside HBM, or a poisoned entry, gives none. -/
def pteRead (s : State) (table level va : Nat) : Word :=
  let a := entryAt table level va
  if a + 8 ≤ 2 ^ 40 ∧ s.hbm.poisoned a 8 = false then s.hbm.read8 a else 0

/-- What an access needs of a mapping (Table 3 of spec/19). -/
inductive Need where
  | read | write | both | fetch
deriving DecidableEq, Repr

/-- The physical address that a leaf gives for an access, or its refusal (R285 to R287). -/
def leafAccess (pte : Pte) (va : Nat) (n : Need) : Except Nat Nat :=
  match pte with
  | .leaf base pb r w x =>
    let p := base + va % 2 ^ pb
    if spaceOf p ≥ 4 ∨ spaceOf p = 0 ∧ p ≥ 2 ^ 40 then .error tTRANSLATION
    else
      let ok := match n with | .read => r | .write => w | .both => r && w | .fetch => x
      if ok then .ok p else .error tPERMISSION
  | _ => .error tTRANSLATION

/-- Walk from a level's table down (R284). -/
def walk (s : State) (va : Nat) : Nat → Nat → Pte
  | level, table =>
    match level with
    | 0 => pteOf 0 (pteRead s table 0 va)
    | l + 1 => match pteOf (l + 1) (pteRead s table (l + 1) va) with
      | .pointer t => walk s va l t
      | e => e

/-- The entries that a walk from a level's table down reads, as they stand (R284, R290). -/
def walkSeen (s : State) (va : Nat) : Nat → Nat → List Word
  | level, table =>
    let e := pteRead s table level va
    match level with
    | 0 => [e]
    | l + 1 => match pteOf (l + 1) e with
      | .pointer t => e :: walkSeen s va l t
      | _ => [e]

/-- Whether a cached entry of a station covers an address of a context slot (R289, R296). -/
def Cached.covers (e : Cached) (st slot va : Nat) : Bool :=
  e.station == st && e.slot == slot && e.page ≤ va / 4096 && va / 4096 < e.page + 2 ^ e.span

/-- A leaf of a station's translation cache. -/
def cachedLeaf (s : State) (st slot va : Nat) : Option Pte :=
  (s.cached.find? fun e => e.covers st slot va && bit e.entry 1).map fun e => pteOf e.level e.entry

/-- The deepest cached pointer of a station's walk cache: the level to read next and its table. -/
def cachedPointer (s : State) (st slot va : Nat) : Option (Nat × Nat) :=
  let ps := s.cached.filter fun e => e.covers st slot va && !bit e.entry 1
  let best := ps.foldl (fun (b : Option Cached) e => match b with
    | none => some e
    | some x => if e.level < x.level then some e else b) none
  best.map fun e => (e.level - 1, bits e.entry 12 40 * 4096)

/-- A leaf that gives a mapping (R287): only such a leaf is cached (R290). -/
def Pte.maps : Pte → Bool
  | .leaf base _ _ _ _ => decide (spaceOf base < 4) && (spaceOf base != 0 || decide (base < 2 ^ 40))
  | .pointer _ => true
  | .none => false

/-- The root table of a context slot's kept copy (R283). -/
def rootOf (s : State) (slot : Nat) : Option Nat := (afind s.contexts slot).map (·.root)

/-- Where a walk starts: at the deepest cached table, or at the root (R289). -/
def walkStart (s : State) (st slot va : Nat) : Option (Nat × Nat) :=
  (cachedPointer s st slot va).or ((rootOf s slot).map fun t => (4, t))

/-- Translation of a request by a cluster's station, from its cache or its tables. -/
def translate (s : State) (cl slot va : Nat) (n : Need) : Except Nat Nat :=
  match cachedLeaf s (stationOf cl) slot va with
  | some pte => leafAccess pte va n
  | none =>
    match walkStart s (stationOf cl) slot va with
    | none => .error tTRANSLATION
    | some (l, t) => leafAccess (walk s va l t) va n

/-- Keep an entry in a station's cache, within its capacity of leaves or pointers (R289; notes/assumptions/20). -/
def keepCached (s : State) (e : Cached) : State :=
  let same (x : Cached) : Bool := x.station == e.station && bit x.entry 1 == bit e.entry 1
  let lim := if bit e.entry 1 then 4096 else 512
  let l := if (s.cached.filter same).length ≥ lim then s.cached.filter fun x => !same x else s.cached
  { s with cached := e :: l }

/-! ## Placement -/

/-- The placement entry of a virtual cluster of a context slot (R293). -/
def placed (s : State) (slot vc : Nat) : Option Placement := if vc < 8192 then afind s.placement (slot * 8192 + vc) else none

/-- The core that a mesh address of a context reaches: none when absent, and whether the entry is moving (R294). -/
def meshTarget (s : State) (slot vc core : Nat) : Option (CoreRef × Bool) :=
  (placed s slot vc).map fun p => (⟨p.phys, core⟩, p.moving)

/-- A scope covers two clusters (R237). -/
def scopeCovers (scope : Nat) (a b : CoreRef) : Bool :=
  match scope with
  | 0 => a == b
  | 1 => a.cl == b.cl
  | 2 => quadrant a.cl == quadrant b.cl
  | 3 => dieOf a.cl == dieOf b.cl
  | _ => true

end Sys2Proof.Machine
end

