-- ==== Sys2Proof/Machine/Records.lean ====
section
/-! DEFINITION. What the hardware writes into a core's store on its own: engine records (R76, R153), counter adds and marks
(R154), trace records (R340), census counts (R342), delay charges (R338); and the health counts (R325). -/
namespace Sys2Proof.Machine

/-! ## Items of slot banks -/

/-- Put an item into a bank of slots of the item size given, by reserve and commit (R66); none when the bank does not take it. -/
def pushSlot (c : Core) (bank size : Nat) (ws : List Word) : Option (Core × Nat) :=
  let b := c.bank bank
  if isSlotBank b.pers ∧ itemOf b.pers = size ∧ b.first = bank ∧ b.converting = false then
    match b.reserve with
    | none => none
    | some (j, b1) =>
      match b1.commit j with
      | none => none
      | some b2 => some ({ c.setBank bank b2 with store := c.store.putWords (slotAddr b 0 j).toNat ws }, j)
  else none

/-- Put an item into a QUEUE: an inbox or a record bank (R75, R76). -/
def pushItem (c : Core) (bank size : Nat) (ws : List Word) : Option (Core × Nat) :=
  if kindOf (c.bank bank).pers = 1 then pushSlot c bank size ws else none

/-! ## Health counts -/

/-! Offsets of station control path registers (R309, R325, R335, R347). -/
namespace Reg
abbrev regbase : Nat := 0x000
abbrev slotbase : Nat := 0x008
abbrev evbase : Nat := 0x010
abbrev evcount : Nat := 0x018
abbrev invaddr : Nat := 0x020
abbrev invcmd : Nat := 0x028
abbrev invstat : Nat := 0x030
abbrev modid : Nat := 0x038
abbrev peerref : Nat := 0x040
abbrev health : Nat := 0x048
abbrev spares : Nat := 0x050
abbrev corr : Nat := 0x058
abbrev uncorr : Nat := 0x060
abbrev check : Nat := 0x068
abbrev sealed : Nat := 0x070
abbrev ramth : Nat := 0x080
abbrev ramwin : Nat := 0x088
abbrev alerts : Nat := 0x100
abbrev backoffs : Nat := 0x108
abbrev scorr : Nat := 0x110
abbrev suncorr : Nat := 0x118
abbrev foffer : Nat := 0x400
abbrev faccept : Nat := 0x408
abbrev pwrlim : Nat := 0x410
abbrev pwrstat : Nat := 0x418
abbrev bootstat : Nat := 0x420
abbrev straps : Nat := 0x428
abbrev attcmd : Nat := 0x430
abbrev attstat : Nat := 0x438
abbrev attnonce : Nat := 0x440
abbrev idkey : Nat := 0x460
end Reg

/-- Reset values of the control path (R309, R335, R347). -/
def ctlReset (off : Nat) : Word := if off = Reg.ramth then 2048 else if off = Reg.ramwin then 60800000 else if off = Reg.pwrlim then 5400 else 0

/-- A stored control path register. -/
def State.ctlGet (s : State) (off : Nat) : Word := aget (ctlReset off) s.ctl off

/-- Store a control path register. -/
def State.ctlPut (s : State) (off : Nat) (v : Word) : State := { s with ctl := aput s.ctl off v }

/-- Add to a count that saturates (R325, R335). -/
def State.bump (s : State) (off n : Nat) : State := s.ctlPut off (satAdd (s.ctlGet off) n)

/-- Count an event of a cluster toward its retirement (R328). -/
def State.clusterError (s : State) (cl n : Nat) : State := s.updCluster cl fun c => { c with errors := c.errors + n }

/-- An uncorrectable error met in a cluster (R325, R328). -/
def State.uncorrectable (s : State) (cl : Nat) : State := (s.bump Reg.uncorr 1).clusterError cl 1

/-! ## Records -/

/-- Units of Table 1 of spec/08. -/
def uMatrix : Nat := 0
def uCopy : Nat := 1
def uRule : Nat := 2
def uIntake : Nat := 3
def uBank : Nat := 4
def uMesh : Nat := 5

/-- Record classes beyond the trap codes (Table 2 of spec/08). -/
def kMATRIXFORMAT : Nat := 0x20
def kMATRIXPOISON : Nat := 0x21
def kCOPYPARAM : Nat := 0x22
def kRULEORDER : Nat := 0x23
def kRULEDEPTH : Nat := 0x24
def kRULECAPACITY : Nat := 0x25
def kRULEFORMAT : Nat := 0x26
def kINTAKESTREAM : Nat := 0x27
def kNOHANDLER : Nat := 0x28
def kMATRIXRESIDUE : Nat := 0x29

/-- An engine record (Table 1 of spec/08). -/
def mkRecord (tag unit core cls : Nat) (addr detail time : Word) : List Word :=
  [BitVec.ofNat 64 (tag % 2 ^ 32 * 2 ^ 32 + unit * 4096 + core * 256 + cls), addr, detail, time]

/-- A core's record is committed in a slot: the oldest since the last ENGINE trap is kept, and the ENGINE request is pending while
`STAT`.AEE is 1 (R191). -/
def Core.recordCommitted (c : Core) (slot : Word) : Core :=
  { c with engPend := c.engPend || bit (c.cr_ Cr.stat) 4, engSlot := some (c.engSlot.getD slot) }

/-- A record goes into its bank, if it takes it now (R76). -/
def Core.commitRecord (c : Core) (h : Held) : Option Core :=
  (pushItem c h.bank 64 (h.words ++ [0, 0, 0, 0])).map fun p => p.1.recordCommitted (slotAddr (c.bank h.bank) 0 p.2)

/-- A record waits at the bank controller behind those already held, which makes the ENGINE request pending (R76, R191). -/
def Core.hold (c : Core) (h : Held) : Core := { c with engPend := true, held := c.held ++ [h] }

/-- The record bank that `RECQ` names. -/
def Core.recq (c : Core) : Nat := bits (c.cr_ Cr.recq) 0 4

/-! ## Completion counters -/

/-- The hardware changes bits of a doubleword: a poisoned one stays so (R318). -/
def Memory.change (m : Memory) (off : Nat) (w : Word) : Memory :=
  let m1 := m.store off 8 w.toNat
  if m.poisoned off 8 then m1.mark (off / 8) else m1

/-- Add a count to bits [47:0] of a counter in a store (R154). -/
def Core.counterAdd (c : Core) (off n : Nat) : Core :=
  let w := c.store.read8 off
  { c with store := c.store.change off (setBits w 0 48 (bits w 0 48 + n)) }

/-- A counter with its error marked (R154, R270). -/
def markedCounter (w : Word) (cls : Nat) : Word := if bit w 63 then w else setBits (setBits w 48 8 cls) 63 1 1

/-- Mark a counter in a store. -/
def Core.counterMark (c : Core) (off cls : Nat) : Core :=
  { c with store := c.store.change off (markedCounter (c.store.read8 off) cls) }

/-- Mark a counter of a cluster's core, when it lies where a counter may and its core is not sealed (R154, R324). -/
def State.markCounter (s : State) (cl : Nat) (at_ : Nat × Nat) (cls : Nat) : State :=
  s.updCore ⟨cl, at_.1⟩ fun c => if c.run != .sealed && c.counterPlace at_.2 then c.counterMark at_.2 cls else c

/-- The mark that follows the commit of a record (R254). -/
def State.markHeld (s : State) (cl : Nat) (h : Held) : State :=
  match h.mark with
  | some (j, off, cls) => s.markCounter cl (j, off) cls
  | none => s

/-- Push a record into a core's bank, or hold it; the mark of its counter is performed once it is committed (R76, R254). A sealed core's
records are dropped (R324). -/
def State.pushRecord (s : State) (r : CoreRef) (h : Held) : State :=
  let c := s.core r
  if c.run = .sealed then s.markHeld r.cl h
  else match if c.held = [] then c.commitRecord h else none with
    | some c1 => (s.setCore r c1).markHeld r.cl h
    | none => s.setCore r (c.hold h)

/-- Form a record for a core and push it, with the counter that it marks. One that reports poisoned data counts in UNCORR (R325;
notes/assumptions/37). -/
def State.recordMark (s : State) (r : CoreRef) (bank tag unit cls : Nat) (addr detail : Word) (mark : Option (Nat × Nat)) : State :=
  let s := if cls = 0x11 ∨ cls = kMATRIXPOISON then s.uncorrectable r.cl else s
  s.pushRecord r ⟨bank, mkRecord tag unit r.core cls addr detail s.cyc, mark.map fun m => (m.1, m.2, cls)⟩

/-- Push a record for a core that marks no counter. -/
def State.record (s : State) (r : CoreRef) (bank tag unit cls : Nat) (addr detail : Word) : State :=
  s.recordMark r bank tag unit cls addr detail none

/-! ## Census, trace and delays -/

/-- Sum of counts. -/
def Counts.plus (a b : Counts) : Counts := ⟨a.nan + b.nan, a.inf + b.inf, a.sat + b.sat, a.unf + b.unf⟩

/-- A halfword count saturates (R342). -/
def sat16 (n : Nat) : Nat := min n 0xFFFF

/-- An empty census entry: one never taken, or one cleared because of an error (R317). -/
def Census.empty : Census := ⟨0, 0, 0, 0, 0⟩

/-- An empty entry of a delay table. -/
def Delay.empty : Delay := ⟨0, 0, 0, 0, 0⟩

/-- Add counts at a site: its entry, else the lowest empty one, else entry 63 (R342). -/
def censusAdd (l : List Census) (site : Word) (k : Counts) : List Census :=
  let add (e : Census) (w : Word) : Census :=
    ⟨w, sat16 (e.nan + k.nan), sat16 (e.inf + k.inf), sat16 (e.sat + k.sat), sat16 (e.unf + k.unf)⟩
  if k = ⟨0, 0, 0, 0⟩ then l
  else if l.any fun e => e.site == site then l.map fun e => if e.site = site then add e site else e
  else match (l.take 63).findIdx? (· == Census.empty) with
    | some i => setAt l i (add Census.empty site)
    | none =>
      if l.length < 63 then l ++ [add Census.empty site]
      else if l.length = 63 then l ++ [add Census.empty (BitVec.allOnes 64)]
      else setAt l 63 (add (l.getD 63 Census.empty) (BitVec.allOnes 64))

/-- Add census counts of a cluster while the feature is on (R147, R342). -/
def State.census (s : State) (cl : Nat) (site : Word) (k : Counts) : State :=
  if bit s.feat0 7 then s.updCluster cl fun c => { c with census := censusAdd c.census site k } else s

/-- Write a trace record for an activation event while TREN is 1 (R340). -/
def State.trace (s : State) (r : CoreRef) (ev : Nat) : State :=
  let c := s.core r
  if bit (c.cr_ Cr.dbgctl) 1 then
    let k := s.cluster r.cl
    let w0 := BitVec.ofNat 64 (ev + r.core * 16 + r.cl % 128 * 128 + r.cl / 128 * 16384 + k.vc * 2 ^ 20 + k.pid * 2 ^ 33)
    let tag := match c.act with | some a => a.item.headD 0 | none => 0
    let ent := match c.act with | some a => (match afind c.classes a.cls with | some e => e.routine | none => 0) | none => 0
    match pushSlot c (bits (c.cr_ Cr.dbgctl) 8 4) 64 [w0, tag, ent, s.cyc, 0, 0, 0, 0] with
    | some (c', _) => s.setCore r c'
    | none => s.setCore r (c.setCr Cr.trlost (satAdd (c.cr_ Cr.trlost) 1))
  else s

/-- Charge a halting activation's item to its sender's entry (R338). -/
def Core.charge (c : Core) (a : Act) (now : Word) : Core :=
  match a.item with
  | _ :: src :: sent :: came :: _ =>
    let add (e : Delay) (w : Word) : Delay :=
      ⟨w, satAdd e.n 1, satAdd e.trn (came - sent).toNat, satAdd e.qw (a.start - came).toNat, satAdd e.run (now - a.start).toNat⟩
    let l := c.delays
    { c with delays :=
        if l.any fun e => e.src == src then l.map fun e => if e.src = src then add e src else e
        else match l.findIdx? (· == Delay.empty) with
          | some i => setAt l i (add Delay.empty src)
          | none =>
            if l.length < 64 then l ++ [add Delay.empty src]
            else setAt l 63 (add (l.getD 63 Delay.empty) (BitVec.allOnes 64)) }
  | _ => c

/-- Tell a quadrant's service core (R178, R193, R324). -/
def State.report (s : State) (cl : Nat) (x : Report) : State := { s with reports := s.reports ++ [(quadrant cl, x)] }

end Sys2Proof.Machine
end

