-- ==== Sys2Proof/Machine/Rows.lean ====
section
/-! DEFINITION. Global memory at its home: the edge buffer (R11, R112), rows, alerts and blocks (R330 to R335), and errors
(R336). -/
namespace Sys2Proof.Machine

/-! ## Where a physical address leads (R287, R308, R310) -/

/-- The home of a physical address: this module's HBM, its device window, the host, or another module. -/
inductive Home where
  | hbm (a : Nat)
  | device (off : Nat)
  | host (a : Nat)
  | peer (m : Nat)
deriving DecidableEq, Repr

/-- This module's number in the pod. -/
def State.modid (s : State) : Nat := (s.ctlGet Reg.modid).toNat % 256

/-- The home of a physical address; spaces 2 and 3 name this module by its number (R308). -/
def State.homeOf (s : State) (p : Nat) : Home :=
  let m := p / 2 ^ 40 % 256
  match spaceOf p with
  | 0 => .hbm p
  | 1 => .host (p % 2 ^ 48)
  | 2 => if m = s.modid then .hbm (p % 2 ^ 40) else .peer m
  | _ => if m = s.modid then .device (p % 2 ^ 40) else .peer m

/-- Where a physical address of this module's HBM lies, whether named in space 0 or as this module in space 2. -/
def ownHbm (s : State) (p : Nat) : Option Nat := match s.homeOf p with | .hbm a => some a | _ => none

/-- The other module that a physical address names. -/
def State.otherModule (s : State) (p : Nat) : Option Nat := match s.homeOf p with | .peer m => some m | _ => none

/-- An address lies in this module: its HBM or its device window. -/
def Home.isOwn : Home → Bool
  | .hbm _ | .device _ => true
  | _ => false

/-- One number for a location, under whatever name it is reached (R239). -/
def State.locKey (s : State) (p : Nat) : Nat :=
  match s.homeOf p with
  | .hbm a => a
  | .device o => 3 * 2 ^ 48 + o
  | _ => p

/-- The aligned 8-byte words that an operation at a location touches (R238). -/
def AccOp.words (op : AccOp) (at_ : Nat) : List Nat :=
  match op with
  | .vload m | .vstore m _ => (maskLanes m).map fun l => (at_ + 4 * l) / 8
  | _ => [at_ / 8]

/-- Two operations at two physical addresses share a word (R239, R240). -/
def State.overlap (s : State) (p : Nat) (x : AccOp) (q : Nat) (y : AccOp) : Bool :=
  (x.words (s.locKey p)).any fun w => (y.words (s.locKey q)).contains w

/-- The hint of an access at its home: HINT has no effect outside space 0 (R308). -/
def hintAt (p hint : Nat) : Nat := if spaceOf p = 0 then hint else 0

/-- A scope of a cluster covers the home of a physical address (R237, Table 1 of spec/14). -/
def State.scopeCoversPhys (s : State) (scope cl p : Nat) : Bool :=
  match s.homeOf p with
  | .hbm a => (match scope with
    | 0 | 1 => false
    | 2 => stackOf a / 4 == quadrant cl
    | 3 => stackOf a / 2 == dieOf cl
    | _ => true)
  | .device _ => decide (4 ≤ scope)
  | .host _ => decide (5 ≤ scope)
  | .peer _ => decide (6 ≤ scope)

/-- The port mask toward a module. -/
def State.routeMask (s : State) (m : Nat) : Nat := bits (s.ctlGet (0x1000 + 8 * m)) 0 36

/-- The number under which the host link stands among the ports. -/
def hostPort : Nat := 36

/-- The port by which a request to an address outside the module leaves now (R310): none where the mask toward its module is 0. -/
def State.portFor (s : State) (p : Nat) : Option Nat :=
  match s.homeOf p with
  | .peer m =>
    let ps := (List.range 36).filter fun i => s.routeMask m / 2 ^ i % 2 == 1
    if ps = [] then none else some (ps.getD (p / 2 ^ 12 % 256 % ps.length) 0)
  | .host _ => some hostPort
  | _ => none

/-- A request that leaves the module; one to the host goes through the service core of a quadrant (R308). -/
def State.sendOutside (s : State) (svc p : Nat) (op : AccOp) : State :=
  { s with replies := s.replies ++ [.busRequest svc (spaceOf p) (p % 2 ^ 48) op] }

/-! ## The edge buffer -/

/-- Lines of 64 bytes that the edge buffer of a stack holds (R11). -/
def edgeLines : Nat := 262144

/-- An edge buffer holds the line of an address. -/
def State.edgeHit (s : State) (p : Nat) : Bool := s.edge.contains (p / 64)

/-- The edge buffer after an access (R112): hint 1 leaves it, hint 2 puts a missing line at the lowest rank, and any other puts the
line at the highest. A full buffer drops its stack's lowest line (notes/assumptions/20). -/
def State.touchEdge (s : State) (p hint : Nat) : State :=
  let l := p / 64
  if hint = 1 ∨ (hint = 2 ∧ s.edgeHit p = true) then s
  else
    let rest := s.edge.filter fun x => x != l
    let mine := rest.filter fun x => stackOf (64 * x) == stackOf p
    let rest := if mine.length ≥ edgeLines then (match mine with | x :: _ => rest.filter fun y => y != x | [] => rest) else rest
    { s with edge := if hint = 2 then l :: rest else rest ++ [l] }

/-! ## Rows (R331 to R335) -/

/-- When the block that is in progress at a time ends: its own, or that of a further row, which follows at once (R333). -/
def Blocked.endsAt (b : Blocked) (now : Word) : Option Word :=
  if now < b.till then some b.till
  else
    let k := (now - b.till).toNat / 608 + 1
    if k ≤ b.rows.length then some (b.till + BitVec.ofNat 64 (608 * k)) else none

/-- Whether a bank of a stack is blocked, and until when (R333, R334). -/
def State.blockOf (s : State) (p : Nat) : Option Word :=
  (s.blocked.find? fun b => b.stack == stackOf p && b.chan == channelOf p && b.bank == hbmBankOf p).bind (·.endsAt s.cyc)

/-- The counter of an address's row. -/
def keyOfRow (p : Nat) : Nat := rowKey (stackOf p) (channelOf p) (hbmBankOf p) (rowOf p)

/-- Offsets of a stack's counts (R335). -/
def stackReg (base stack : Nat) : Nat := base + 32 * stack

/-- Add a block of a bank, or a row to be served after the block in progress (R333). -/
def State.block (s : State) (p : Nat) : State :=
  let here (b : Blocked) : Bool := b.stack == stackOf p && b.chan == channelOf p && b.bank == hbmBankOf p
  if (s.blockOf p).isSome then
    { s with blocked := s.blocked.map fun (b : Blocked) => if here b then { b with rows := b.rows ++ [rowOf p] } else b }
  else { s with blocked := (s.blocked.filter fun b => !here b) ++ [⟨stackOf p, channelOf p, hbmBankOf p, s.cyc + 608, []⟩] }

/-- Cycles of a refresh window (R332). -/
def windowCycles : Nat := 60800000

/-- The number of the refresh window of a stack in progress (R332). -/
def State.windowNo (s : State) (stack : Nat) : Nat :=
  let phase := Config.refreshPhase stack % windowCycles
  if s.cyc.toNat < phase then 0 else (s.cyc.toNat - phase) / windowCycles + 1

/-- The counter of a row: what it has counted in the window in progress (R332). -/
def State.rowCount (s : State) (p : Nat) : Nat :=
  match afind s.rows (keyOfRow p) with
  | some (w, n) => if w = s.windowNo (stackOf p) then n else 0
  | none => 0

/-- Two HBM addresses lie in one bank. -/
def sameBank (p q : Nat) : Bool := stackOf p == stackOf q && channelOf p == channelOf q && hbmBankOf p == hbmBankOf q

/-- Whether a waiting burst at an address has joined the opening of a row: one of the same row may, and one of another row of that bank has
been left behind when the row was closed (R331). -/
def joinedAt (opened q : Nat) (now free : Bool) : Bool :=
  if keyOfRow q = keyOfRow opened then now || free else if sameBank q opened then false else now

/-- The requests waiting at the banks when a row is opened (R331): each that waits for it may join. -/
def State.openRow (s : State) (p : Nat) : State :=
  let at_ (st : Stage) : Option Nat := match st with | .home q => ownHbm s q | _ => none
  { s with
    clusters := s.clusters.map fun k => (k.1, { k.2 with cores := k.2.cores.map fun c => (c.1, match c.2.pend with
      | some a => (match at_ a.stage with
        | some q => { c.2 with pend := some { a with joined := joinedAt p q a.joined (Config.joins s.free (8 * k.1 + c.1)) } }
        | none => c.2)
      | none => c.2) })
    flight := (List.range s.flight.length).filterMap fun i => s.flight[i]?.map fun (f : Flight) => match at_ f.stage with
      | some q => { f with joined := joinedAt p q f.joined (Config.joins s.free (65536 + i)) }
      | none => f }

/-- The neighbours of a row to which a block gives refresh-management commands (R333). -/
def neighbours (row : Nat) : List Nat := ([row + 1, row + 2] ++ (if 1 ≤ row then [row - 1] else []) ++ (if 2 ≤ row then [row - 2] else [])).filter (· < 65536)

/-- The refresh-management commands of a block (R333, R346). -/
def State.manage (s : State) (p : Nat) : State :=
  { s with rfms := (neighbours (rowOf p)).foldl (fun (m : Assoc Nat) r =>
      let k := rowKey (stackOf p) (channelOf p) (hbmBankOf p) r
      aput m k (aget 0 m k + 1)) s.rfms }

/-- Activate the row of an address (R331 to R333). -/
def State.activate (s : State) (p : Nat) : State :=
  let s := s.openRow p
  let n := s.rowCount p + 1
  if n ≥ (s.ctlGet Reg.ramth).toNat then
    ((({ s with rows := adel s.rows (keyOfRow p) } : State).bump (stackReg Reg.alerts (stackOf p)) 1).manage p).block p
  else { s with rows := aput s.rows (keyOfRow p) (s.windowNo (stackOf p), n) }

/-- What the codes find in the word of an address (R317, R335, R336). -/
def State.eccAt (s : State) (p : Nat) (e : Ecc) : State :=
  match e with
  | .clean => s
  | .corrected => (s.bump (stackReg Reg.scorr (stackOf p)) 1).bump Reg.corr 1
  | .uncorrectable =>
    let s := (s.bump (stackReg Reg.suncorr (stackOf p)) 1).bump Reg.uncorr 1
    { s with hbm := s.hbm.mark (p / 8) }

/-- The errors that stand in the line of an address are found (R336). -/
def State.findFlaws (s : State) (p : Nat) : State :=
  if s.flaws = [] then s
  else (s.flaws.filter fun x => x.1 / 8 == p / 64).foldl
    (fun (s : State) x => s.eccAt (8 * x.1) (if x.2 then .uncorrectable else .corrected))
    { s with flaws := s.flaws.filter fun x => x.1 / 8 != p / 64 }

/-- One burst: the edge buffer serves it, or it has joined an earlier one, or its row is activated (R331, R307); the codes find the errors
of its line (R336). -/
def State.burstOf (s : State) (joined : Bool) (p hint : Nat) : State :=
  let s1 := if s.edgeHit p || joined then s else s.activate p
  (s1.touchEdge p hint).findFlaws p

/-- A burst that has joined none. -/
def State.burst (s : State) (p hint : Nat) : State := s.burstOf false p hint

/-- A request that the edge buffer does not serve meets a blocked bank (R334). -/
def State.backsOff (s : State) (p : Nat) : Option Word := if s.edgeHit p then none else s.blockOf p

/-- A back-off reply of a stack (R334, R335), which counts at a core (R107). -/
def State.backoffReply (s : State) (p : Nat) (r : Option CoreRef) : State :=
  let s := s.bump (stackReg Reg.backoffs (stackOf p)) 1
  match r with
  | some r => s.updCore r fun c => c.setCr Cr.backoff (c.cr_ Cr.backoff + 1)
  | none => s

/-- A range that is read where no core traps: a word in it that was already poisoned before the read counts (R325; notes/assumptions/37). -/
def State.meetsPoison (s before : State) (a n : Nat) : State := if before.hbm.poisoned a n then s.bump Reg.uncorr 1 else s

/-- Blocks that may follow one another at most. -/
def State.blockFuel (s : State) : Nat := s.blocked.foldl (fun n b => n + b.rows.length + 1) 0

/-- A request of a unit that waits at a bank within its own step: each back-off reply is followed by its reissue at the cycle at which the
block ends (R334). -/
def State.waitOut (s : State) (p : Nat) (r : Option CoreRef) : Nat → State
  | 0 => s
  | n + 1 => match s.backsOff p with
    | none => s
    | some t => ({ s.backoffReply p r with cyc := t } : State).waitOut p r n

/-! ## Walks within a step (R289, R290) -/

/-- Keep a table entry of a walk where it may be cached: a valid, well-formed one that gives a mapping (R290). -/
def State.keepEntry (s : State) (st slot va level : Nat) (e : Word) : State :=
  let keep (pages : Nat) : State := keepCached s ⟨st, slot, va / 4096 / 2 ^ pages * 2 ^ pages, pages, level, e⟩
  let p := pteOf level e
  if p.maps then
    match p with
    | .pointer _ => keep (9 * level)
    | .leaf _ pb _ _ _ => keep (pb - 12)
    | .none => s
  else s

/-- The read of one table entry (R290, R331, R334): no core's count takes its back-off replies (notes/assumptions/40). -/
def State.readEntry (s : State) (table level va : Nat) : State :=
  let a := entryAt table level va
  if a + 8 ≤ 2 ^ 40 then (let s1 := s.waitOut a none s.blockFuel; (s1.burst a 0).meetsPoison s1 a 8) else s

/-- The reads of a walk from a level's table down; a station caches what it reads. -/
def State.walkReads (s : State) (keep : Option (Nat × Nat)) (va : Nat) : Nat → Nat → State
  | 0, table =>
    let s1 := s.readEntry table 0 va
    (match keep with | some (st, slot) => s1.keepEntry st slot va 0 (pteRead s1 table 0 va) | none => s1)
  | l + 1, table =>
    let s1 := s.readEntry table (l + 1) va
    let e := pteRead s1 table (l + 1) va
    let s2 := match keep with | some (st, slot) => s1.keepEntry st slot va (l + 1) e | none => s1
    match pteOf (l + 1) e with
    | .pointer t => s2.walkReads keep va l t
    | _ => s2

/-- Walks that a station has in progress at once (R289). A core has one access outstanding at a time, so that no station holds 4,096
requests of the 1,024 cores it serves. -/
def walksMax : Nat := 256

/-- The outstanding accesses of the cores that a station serves. -/
def State.pendsAt (s : State) (st : Nat) : List (CoreRef × Access) :=
  (s.clusters.filter fun k => stationOf k.1 == st).flatMap fun k =>
    k.2.cores.filterMap fun c => c.2.pend.map fun a => (⟨k.1, c.1⟩, a)

/-- An access whose walk is in progress. -/
def Access.walks (a : Access) : Bool := match a.stage with | .walk _ _ _ _ => true | _ => false

/-- A walk of the page of an address is in progress for a context slot (R289). -/
def State.pageWalks (s : State) (st slot va : Nat) : Bool :=
  (s.pendsAt st).any fun x => x.2.walks && (s.cluster x.1.cl).slot == slot && bits x.2.addr 0 57 / 4096 == va / 4096

/-- A request of an engine or a fetch waits on the walk of its page that is in progress, or for a place among the station's walks (R289). -/
def State.walkHeld (s : State) (cl slot va : Nat) : Bool :=
  let st := stationOf cl
  (cachedLeaf s st slot va).isNone &&
    (s.pageWalks st slot va || decide (walksMax ≤ ((s.pendsAt st).filter fun x => x.2.walks).length))

/-- The walk of a request of an engine or a fetch, when its station does not hold its leaf; one of a page whose walk is in progress shares that
walk's reads (R289). -/
def State.walkFor (s : State) (cl slot va : Nat) : State :=
  let st := stationOf cl
  match cachedLeaf s st slot va with
  | some _ => s
  | none => if s.pageWalks st slot va then s else match walkStart s st slot va with
    | some (l, t) => s.walkReads (some (st, slot)) va l t
    | none => s

end Sys2Proof.Machine
end

