-- ==== Sys2Proof/Machine/Fetch.lean ====
section
/-! DEFINITION. Fetching instructions (R33, R34, R119, R286), the group's stream (R89, R204 to R206) and the receivers of a
`once` (R90). -/
namespace Sys2Proof.Machine

/-! ## Fetch -/

/-- Where the halfword of an address lies for a fetch of a cluster; none where it cannot be fetched (R33, R286). -/
def fetchPlace (s : State) (cl : Nat) (a : Word) : Option Nat :=
  if bit a 63 && bits a 57 6 == 0 && !bit a 0 then
    match translate s cl (s.cluster cl).slot (bits a 0 57) .fetch with
    | .error _ => none
    | .ok p => ownHbm s p
  else none

/-- One halfword of code for a cluster, with the location it was read from; none where it cannot be fetched (R33, R286). A
halfword that the cache holds may be read instead of a changed one (R119; notes/assumptions/9); one that holds an uncorrectable error
cannot be fetched (R336; notes/assumptions/37). -/
def fetchHalf (s : State) (cl : Nat) (a : Word) : Option (Nat × Half) :=
  match fetchPlace s cl a with
  | none => none
  | some h =>
    let now := if s.hbm.poisoned h 2 then none else some (h, BitVec.ofNat 16 (s.hbm.readLE h 2))
    match afind (s.cluster cl).icache h with
    | some old => if now = some (h, old) then now else if Config.staleHalf s.free h then some (h, old) else now
    | none => now

/-- A halfword that is a 16-bit instruction. -/
def isHalf (lo : Half) : Bool := !lo.getLsbD 0

/-- What a cluster fetches at an address, and its length. -/
def fetchAt (s : State) (cl : Nat) (a : Word) : Fetched × Nat :=
  match fetchHalf s cl a with
  | none => (.fault a, 2)
  | some (_, lo) =>
    if isHalf lo then
      (match decode lo 0 with
      | .ok i => (.instr i, 2)
      | .error _ => (.bad (lo.zeroExtend 32) true, 2))
    else match fetchHalf s cl (a + 2) with
      | none => (.fault (a + 2), 4)
      | some (_, hi) => match decode lo hi with
        | .ok i => (.instr i, 4)
        | .error _ => (.bad (hi ++ lo) false, 4)

/-- Halfwords that the instruction cache holds (R6). -/
def icacheMax : Nat := 32768

/-- A halfword in the instruction cache, which then holds no more than it can: what it gives up the spec leaves open (R6; notes/assumptions/9). -/
def Cluster.cacheHalf (k : Cluster) (seed h : Nat) (x : Half) : Cluster :=
  let l := if decide (icacheMax ≤ k.icache.length) && (afind k.icache h).isNone then dropAt k.icache (Config.pick seed h % k.icache.length)
    else k.icache
  { k with icache := aput l h x }

/-- A fetch waits for a walk of its page that is in progress (R289). -/
def State.fetchHeld (s : State) (cl : Nat) (a : Word) : Bool :=
  bit a 63 && bits a 57 6 == 0 && s.walkHeld cl (s.cluster cl).slot (bits a 0 57)

/-- What a fetch of a halfword does: a walk where its page is not cached, and a burst where the halfword is not, after any block of its
bank; a back-off reply counts at the core that fetches for itself (R289, R331, R334). -/
def fetchEffect (s : State) (cl : Nat) (r : Option CoreRef) (a : Word) : State :=
  let s1 := s.walkFor cl (s.cluster cl).slot (bits a 0 57)
  match fetchPlace s1 cl a with
  | none => s1
  | some h =>
    let s2 := if (afind (s.cluster cl).icache h).isSome then s1 else (s1.waitOut h r s1.blockFuel).burst h 0
    match fetchHalf s2 cl a with
    | some (h, x) => s2.updCluster cl fun k => k.cacheHalf s.free h x
    | none => s2.meetsPoison s1 h 2

/-- The state after a fetch at an address. -/
def cacheAfter (s : State) (cl : Nat) (r : Option CoreRef) (a : Word) : State :=
  let s1 := fetchEffect s cl r a
  match fetchHalf s1 cl a with
  | some (_, lo) => if isHalf lo then s1 else fetchEffect s1 cl r (a + 2)
  | none => s1

/-- Length of what was fetched. -/
def Fetched.len : Fetched → Nat
  | .instr i => i.len
  | .bad _ half => if half then 2 else 4
  | .fault _ => 2

/-! ## Repetition state (R29, R100) -/

/-- A `rep` body is in progress: `REPSTATE`.ACT, with the body held or to be decoded afresh (R188). In trap mode a handler's own write of
ACT begins nothing (R29). -/
def Core.inRep (c : Core) : Bool := bit (c.cr_ Cr.repstate) 45 && (c.repBuf != [] || !c.tm)
def Core.repStag (c : Core) : Nat := bits (c.cr_ Cr.repstate) 42 3
def Core.repStride (c : Core) : Nat := bits (c.cr_ Cr.repstate) 40 2 + 1
def Core.repLen (c : Core) : Nat := bits (c.cr_ Cr.repstate) 36 4
def Core.repPos (c : Core) : Nat := bits (c.cr_ Cr.repstate) 32 4
def Core.repPass (c : Core) : Nat := bits (c.cr_ Cr.repstate) 0 32

/-- A `REPSTATE` value. -/
def repState (stag str len pos pass : Nat) : Word :=
  BitVec.ofNat 64 (2 ^ 45 + stag % 8 * 2 ^ 42 + str % 4 * 2 ^ 40 + len % 16 * 2 ^ 36 + pos % 16 * 2 ^ 32 + pass % 2 ^ 32)

/-- The address of the instruction that a core executes: its place in the body while a `rep` runs (R82, R342). -/
def Core.instrAddr (c : Core) : Word :=
  if c.inRep then (match c.repBuf[c.repPos]? with | some (a, _) => a | none => c.pc) else c.pc

/-- The address after a `rep` body. -/
def afterBody (l : List (Word × Fetched)) (pc : Word) : Word :=
  match l.getLast? with
  | some (a, f) => a + BitVec.ofNat 64 f.len
  | none => pc

/-! ## The attached cores -/

/-- The attached cores, ascending. -/
def Cluster.attached (k : Cluster) : List Nat := (List.range 8).filter fun j => (k.core j).att

/-- The lowest-numbered attached core. -/
def Cluster.leader (k : Cluster) : Option Nat := k.attached.head?

/-- A receiver that waits for `once` results (R90). -/
def Cluster.waitsOnce (k : Cluster) (j : Nat) : Bool :=
  match (k.core j).governed with
  | none => false
  | some id => match k.onces.find? fun o => o.id == id with
    | none => false
    | some o => o.elected != some j && o.result.isNone && !o.failed

/-- A core waits or stalls where R205 counts it as blocked: everywhere but behind its own earlier stores. -/
def Core.waits (c : Core) : Bool :=
  match c.wait with
  | none | some .order => false
  | _ => true

/-- A core that is blocked (R205), or that a stop holds in such a wait (notes/assumptions/29). -/
def Cluster.blocked (k : Cluster) (j : Nat) : Bool :=
  let c := k.core j
  c.run == .running && (c.waits || c.conv.isSome || c.stopped || k.waitsOnce j)

/-- Drop a receiver from `once` records; a record without receivers is done with (R90). -/
def dropReceiver (l : List OnceRec) (ids : List Nat) (j : Nat) : List OnceRec :=
  (l.map fun o => if ids.contains o.id then { o with receivers := o.receivers.filter fun x => x != j } else o).filter
    fun o => o.receivers != []

/-- Drop a core from the receivers of one `once`. -/
def Cluster.dropOnce (k : Cluster) (id j : Nat) : Cluster := { k with onces := dropReceiver k.onces [id] j }

/-- The `once` instructions issued to a core that it has not got past. -/
def Core.oncesAhead (c : Core) : List Nat := (c.taken.bind (·.once)).toList ++ c.buf.filterMap (·.once)

/-- Discard what was issued to a core and not delivered (R206); it drops out of every `once` among it, and of one at which it stops
(R90). -/
def Cluster.dropBuf (k : Cluster) (j : Nat) : Cluster :=
  let c := k.core j
  { k.setCore j { c with buf := [] } with onces := dropReceiver k.onces c.oncesAhead j }

/-- Leave the group with a reason; only a core left behind keeps its buffered instructions (R205, R207). The end of a divergence is
charged to the instruction at which the core diverged (R186). -/
def Cluster.detach (k : Cluster) (j why : Nat) : Cluster :=
  let k := if why = 2 then k else k.dropBuf j
  let c := k.core j
  k.setCore j { c with att := false, why := why, transfer := if why = 1 then c.transfer.or c.fell else c.transfer }

/-- Whether a core has delivered everything issued to it. -/
def Core.caughtUp (c : Core) : Bool := c.buf == [] && c.taken.isNone

/-- The next address of an attached core must be the next one issued to it; otherwise it has diverged (R89, R103, R206). -/
def Cluster.compare (k : Cluster) (j : Nat) : Cluster :=
  let c := k.core j
  if c.att && c.run == .running && c.taken.isNone && !c.inRep then
    match c.buf with
    | e :: _ => if e.addr = c.pc then k else k.detach j 1
    | [] => if k.group.hold = .branch ∨ k.group.pc = c.pc then k else k.detach j 1
  else k

/-- The first attached core that is past the `ifence` at the end of the stream, having executed it or taken the results of one that a `once`
governs, lets the stream go on (R90, R119; notes/assumptions/29). -/
def Cluster.passIfence (k : Cluster) : Cluster :=
  if k.group.hold == .ifence && k.attached.any fun j => (k.core j).caughtUp then { k with group := { k.group with hold := .none } } else k

/-- Let the lowest-numbered attached core decide when it has computed its outcome, and let every other core compare once
(R89, R103, R206). -/
def Cluster.settleOnce (k : Cluster) : Cluster :=
    let k1 : Cluster := match k.leader with
      | none => k
      | some j =>
        let c := k.core j
        if c.caughtUp then
          match k.group.hold with
          | .branch => { k with group := { k.group with hold := .none, pc := c.pc } }
          | .rep =>
            let n := some c.repCount
            let k2 := { k with group := { k.group with
              hold := .none, rep := if c.repCount = 0 then none else k.group.rep.map fun (x : RepRun) => { x with count := c.repCount } } }
            k2.attached.foldl (fun (k : Cluster) j =>
              let d := k.core j
              if d.caughtUp then (if d.repCount != c.repCount then k.detach j 1 else k)
              else k.setCore j { d with buf := d.buf.map fun (e : Issued) => match e.what with
                | .instr (.rep _ _ _ _) => { e with count := e.count.or n }
                | _ => e }) k2
          | _ => k
        else k
    k1.attached.foldl Cluster.compare k1

/-- Compare again as long as a core leaves the group, since the next one may already have got past what the stream waits for (R206). -/
def Cluster.settleFrom : Nat → Cluster → Cluster
  | 0, k => k
  | n + 1, k =>
    let k1 := k.settleOnce
    if k1.attached = k.attached then k1 else settleFrom n k1

/-- Let the lowest-numbered attached core decide, and let every other core compare, until no further core leaves the group
(R89, R103, R206, R208). -/
def Cluster.settle (k : Cluster) : Cluster :=
  if k.group.active then (settleFrom 8 k).passIfence else k

/-! ## Issue (R204) -/

/-- The target of a jump that is the same for every core (R88, R89). -/
def jumpTarget (a : Word) : Instr → Option Word
  | .jal _ o => some (a + sext (2 * o.toNat) 21)
  | .cJ o => some (a + sext (2 * o.toNat) 12)
  | _ => none

/-- Addresses of a body of `n` instructions from an address, as far as it can be fetched, and the address after it. -/
def bodyAt (s : State) (cl : Nat) (a : Word) : Nat → List (Word × Fetched)
  | 0 => []
  | n + 1 =>
    let f := (fetchAt s cl a).1
    (a, f) :: bodyAt s cl (a + BitVec.ofNat 64 f.len) n

/-- The state after the fetch of a body of `n` instructions from an address (R101, R331, R336). -/
def bodyAfter (s : State) (cl : Nat) (r : Option CoreRef) (a : Word) : Nat → State
  | 0 => s
  | n + 1 =>
    let s1 := cacheAfter s cl r a
    bodyAfter s1 cl r (a + BitVec.ofNat 64 (fetchAt s1 cl a).1.len) n

/-- Why the stream holds behind an issued instruction (R93, R119, R204, R206). -/
def holdAfter (f : Fetched) : Hold :=
  match f with
  | .instr (.rep _ _ _ _) => .rep
  | .instr (.join _) | .instr (.bar _) | .instr (.cJoin _) => .stop
  | .instr .ifence => .ifence
  | .instr i => if i.decides then .branch else .none
  | .bad _ _ => .none
  | .fault _ => .stop

/-- The allotment that an instruction of the stream leaves behind (R97). -/
def nvAfter (nv : Nat) (e : Issued) : Nat :=
  match e.what with
  | .instr (.grow n) => if nv ≤ n.toNat ∧ n.toNat ≤ 16 ∧ n.toNat % 2 = 0 then n.toNat else nv
  | .instr (.shrink n) => if n.toNat ≤ nv ∧ n.toNat % 2 = 0 then n.toNat else nv
  | _ => nv

/-- The allotment that a core has at the next instruction issued to it. -/
def Core.nvAhead (c : Core) : Nat := (c.taken.toList ++ c.buf).foldl nvAfter c.nv

/-- The allotment of the group's lowest-numbered attached core at the next instruction of the stream (R23; notes/assumptions/29). -/
def Cluster.groupNv (k : Cluster) : Nat :=
  match k.leader with
  | some j => (k.core j).nvAhead
  | none => 0

/-- The attached cores as a mask (R96). -/
def Cluster.attMask (k : Cluster) : Nat := k.attached.foldl (fun m j => m + 2 ^ j) 0

/-- Issue an entry to every attached core. -/
def Cluster.toAll (k : Cluster) (e : Issued) : Cluster :=
  k.attached.foldl (fun (k : Cluster) j => let c := k.core j; k.setCore j { c with buf := c.buf ++ [e] }) k

/-- The next instruction of the repetition buffer is issued (R100). -/
def Cluster.issueBody (k : Cluster) (x : RepRun) : Cluster :=
  match x.body[x.pos]? with
  | none => { k with group := { k.group with rep := none } }
  | some (a, f) =>
    let y : RepRun := if x.pos + 1 < x.body.length then { x with pos := x.pos + 1 } else { x with pos := 0, pass := x.pass + 1 }
    let k1 : Cluster := { k with group := { k.group with rep := if y.pass < y.count then some y else none } }
    k1.toAll ⟨a, f, none, none, k.attMask, k.groupNv, [], some (x.pos, x.pass)⟩

/-- The body that a `rep` fetched at an address repeats (R101), and the state after its fetch; a refused one has none. -/
def bodyOf (s : State) (cl : Nat) (a : Word) : Fetched → State × List (Word × Fetched)
  | .instr (.rep ad l zf b) =>
    if (Instr.rep ad l zf b).legal s.feat0 then let s1 := bodyAfter s cl none a l.toNat; (s1, bodyAt s1 cl a l.toNat)
    else (s, [])
  | _ => (s, [])

/-- The address at which the stream goes on behind what was fetched at an address (R88, R100, R204). -/
def nextOf (a : Word) (f : Fetched) (body : List (Word × Fetched)) : Word :=
  let after := a + BitVec.ofNat 64 f.len
  match f with
  | .instr i => if body = [] then (jumpTarget a i).getD after else afterBody body after
  | _ => after

/-- The record that a `once` begins (R90). -/
def Fetched.isOnce : Fetched → Bool
  | .instr .once => true
  | _ => false

/-- What was fetched at an address is issued to every attached core. -/
def Cluster.issueAt (k : Cluster) (a : Word) (f : Fetched) (body : List (Word × Fetched)) : Cluster :=
  let e : Issued := ⟨a, f, if f.isOnce then some k.nextOnce else none, none, k.attMask, k.groupNv, body, none⟩
  let g : Group := { k.group with
    pc := nextOf a f body, hold := holdAfter f, rep := if body = [] then none else some ⟨body, 0, 0, 0⟩ }
  let k1 : Cluster :=
    if f.isOnce then
      { k with onces := k.onces ++ [⟨k.nextOnce, a + BitVec.ofNat 64 f.len, k.attached, none, none, false⟩], nextOnce := k.nextOnce + 1 }
    else k
  ({ k1 with group := g } : Cluster).toAll e

/-- Issue the next instruction of the group's stream to every attached core. -/
def State.issue (s : State) (cl : Nat) : State :=
  let k := s.cluster cl
  match k.group.rep with
  | some x => s.setCluster cl (k.issueBody x)
  | none =>
    let a := k.group.pc
    if s.fetchHeld cl a then s
    else
      let s1 := cacheAfter s cl none a
      let f := (fetchAt s1 cl a).1
      let x := bodyOf s1 cl (a + BitVec.ofNat 64 f.len) f
      x.1.updCluster cl fun k => k.issueAt a f x.2

/-- The front end may issue (R204); that detached cores wait at a join does not stop it. -/
def Cluster.mayIssue (k : Cluster) : Bool :=
  k.group.active && k.group.hold == .none && k.attached != [] &&
    k.attached.all fun j => decide ((k.core j).buf.length < 16)

end Sys2Proof.Machine
end

