-- ==== Sys2Proof/Machine/Launching.lean ====
section
/-! DEFINITION. The end of launches and the return of what they hold (R59, R174, R236, R270, R273, R274, R283); the start of a
launch on a core (R59, R198, R200). -/
namespace Sys2Proof.Machine

/-! ## Banks at the end and the start of a launch -/

/-- The banks of the structure that a bank belongs to. -/
def members (b : Bank) : List Nat := (List.range (2 ^ b.gsize)).map fun i => b.first + i

/-- A bank that stays powered: recorded for keep with its whole group, for one class (R174, R236). -/
def Core.keptFor (c : Core) (b : Nat) : Option Nat :=
  match (c.bank b).keepClass with
  | none => none
  | some k => if b ≠ 15 ∧ (members (c.bank b)).all (fun j => (c.bank j).keepClass == some k) then some k else none

/-- Power a bank down: it reads zero when next powered (R174, R236). -/
def Core.powerDown (c : Core) (b : Nat) : Core :=
  { c with store := c.store.zero (b * 0x4000) 0x4000, banks := adel c.banks b }

/-- The records held at the end of a launch whose bank stays powered; the others end with their bank, which powers down (R76, R174;
notes/assumptions/25). -/
def Core.heldOn (c : Core) : List Held :=
  (c.held.filter fun h => (c.keptFor h.bank).isSome).map fun h => { h with mark := none }

/-- The end of a launch on a core: banks that no keep record names power down (R174). -/
def Core.endLaunch (c : Core) : Core :=
  let c := { c with run := .off, act := none, wait := none, parked := [], ready := [], att := false, buf := [], taken := none,
                    governed := none, obligation := none, repBuf := [], pend := none, conv := none, mq := [], copies := [], held := c.heldOn, engPend := false, engSlot := none, classes := [],
                    trigs := [], redeliver := [], after := [] }
  (List.range 16).foldl (fun c b => if (c.keptFor b).isSome then c else c.powerDown b) c

/-- A kept bank at the next launch: marks, reservations and acquisitions do not survive, and the next reserve takes slot 0 (R66,
R236). -/
def Bank.carried (b : Bank) : Bank :=
  let live := b.ring.filter fun p => p.2 == .item || p.2 == .acquired
  { b with shard := false, keepClass := none, converting := false, ring := live.map fun p => (p.1, .item), nextSlot := 0 }

/-- The frames of the launch on the free list, ascending: the link word of each (R200). -/
def linkFrames (m : Memory) (stride : Nat) : Nat → Nat → Memory
  | _, 0 => m
  | j, n + 1 =>
    let next : Nat := if n = 0 then 2 ^ 64 - 1 else (j + 1) * stride
    linkFrames (m.store (j * stride + 40) 8 next) stride (j + 1) n

/-- Bytes of the frame area of F frames with allotment nvL (R200). -/
def frameArea (f nvL : Nat) : Nat := f * (512 + 64 * nvL)

/-- A core at the start of a launch (R19, R24, R59, R198, R200, R236, R337, R338): kept banks whose class is the entry class stay,
the others power up empty under the code object's directives. A record held for a kept bank goes on waiting (R76). The flag page is cleared (DESIGN CHOICE,
notes/assumptions/5). -/
def Core.startLaunch (c : Core) (pers : List W32) (classes : Assoc ClassE) (slots : List (Nat × Option Nat × W32))
    (entry frames nvL pid launch : Nat) (cid gid param : Word) : Core :=
  let area := frameArea frames nvL
  let stays (b : Nat) : Bool := c.keptFor b == some entry && (members (c.bank b)).all fun j => decide (area ≤ j * 0x4000)
  let store := (List.range 16).foldl (fun (m : Memory) b => if stays b then m else m.zero (b * 0x4000) 0x4000) c.store
  let banks : Assoc Bank := (List.range 16).map fun b =>
    (b, if stays b then (c.bank b).carried else Bank.blank b (pers.getD b (defaultPers b)))
  { Core.blank with
    store := linkFrames store (512 + 64 * nvL) 0 frames
    banks := banks
    freeHead := if frames = 0 then BitVec.allOnes 64 else 0
    held := c.held.filter fun h => stays h.bank
    engPend := c.held.any fun h => stays h.bank
    run := .idle
    classes := classes
    trigs := slots.map fun p => (p.1, ⟨.armed, p.2.2, 0, p.2.1, 0, none⟩)
    cr := [(Cr.cid, cid), (Cr.gid, gid), (Cr.launch, param)]
    delays := if c.delayPid = some pid then c.delays else []
    delayPid := some pid
    stopped := c.stopped
    stopReq := c.stopReq
    launch := launch }

/-! ## Regions (R272, R273) -/

/-- REGION of a packet. -/
def regionOf (w0 : Word) : Nat := bits w0 48 16

/-- A region block's word (R272). -/
def State.regionWord (s : State) (r j : Nat) : Word :=
  let a := bits (s.ctlGet Reg.regbase) 6 46 * 64 + 64 * r + 8 * j
  if a + 8 ≤ 2 ^ 40 then s.hbm.read8 a else 0

/-- A field of a region resolved upward within 16 regions (R273). -/
def State.regionField (s : State) (ovr word lo len : Nat) : Nat → Nat → Nat
  | 0, _ => 0
  | n + 1, r =>
    let w0 := s.regionWord r 0
    if bit w0 (8 + ovr) || bits w0 48 16 == 0xFFFF then bits (s.regionWord r word) lo len
    else s.regionField ovr word lo len n (bits w0 48 16)

/-- The PID that a region resolves to. -/
def State.regionPid (s : State) (r : Nat) : Nat := s.regionField 0 0 32 16 16 r

/-! ## Context slots (R283) -/

/-- A word of a context slot as the directory holds it (R283). -/
def State.slotWord (s : State) (slot j : Nat) : Word :=
  let a := bits (s.ctlGet Reg.slotbase) 6 46 * 64 + 64 * slot + 8 * j
  if a + 8 ≤ 2 ^ 40 then s.hbm.read8 a else 0

/-- The context slots that are valid and hold a PID, as the directory stands (R283). -/
def State.slotsOf (s : State) (pid : Nat) : List Nat :=
  (List.range 256).filter fun i =>
    let w0 := s.slotWord i 0
    let w1 := s.slotWord i 1
    bit w0 16 && bits w0 0 16 == pid && pid != 0xFFFF && bits w0 19 45 == 0 && bits w0 17 2 != 3 &&
      bits w1 52 12 == 0 && bits w1 0 12 == 0 && ((List.range 6).all fun j => s.slotWord i (j + 2) == 0)

/-- A slot of the directory as the stations copy it. -/
def State.slotCopy (s : State) (slot : Nat) : CtxCopy :=
  ⟨bits (s.slotWord slot 0) 0 16, bits (s.slotWord slot 1) 12 40 * 4096, bits (s.slotWord slot 0) 17 2⟩

/-- The kept copy of a live context, with its slot. -/
def State.liveCopy (s : State) (pid : Nat) : Option (Nat × CtxCopy) := s.contexts.find? fun p => p.2.pid == pid

/-- The slot and copy under which a PID is admitted and its station accesses go: the kept copy of a live context, else the one
valid slot of the directory. -/
def State.contextOf (s : State) (pid : Nat) : Option (Nat × CtxCopy) :=
  match s.liveCopy pid with
  | some p => some p
  | none => match s.slotsOf pid with
    | [i] => some (i, s.slotCopy i)
    | _ => none

/-- The copy under which a launch of a PID works: the kept one, else the one read at its take. -/
def State.copyFor (s : State) (pid : Nat) (c : CtxCopy) : CtxCopy := match s.liveCopy pid with | some p => p.2 | none => c

/-- Whether a context slot's copy is still needed: it holds a placed or a suspended cluster (R283). -/
def State.contextHeld (s : State) (slot : Nat) : Bool :=
  (s.clusters.any fun p => p.2.launch != 0 && p.2.slot == slot) ||
    s.evicted.any fun e => match s.launches.find? fun l => l.id == e.launch with
      | some l => l.slot == slot
      | none => false

/-- A context that stops being live: the stations drop its copy and every cached entry tagged with its slot, so that nothing of it serves a
context that lives there later (R283; notes/assumptions/20). -/
def State.contextCheck (s : State) (slot : Nat) : State :=
  if s.contextHeld slot then s
  else { s with contexts := adel s.contexts slot, cached := s.cached.filter fun e => e.slot != slot }

/-! ## Waiting launches and clusters (R273 to R278) -/

/-- A taken launch that has groups to place. -/
def Launch.waiting (l : Launch) : Bool := decide (l.next < l.need)

/-- A launch is served before another (R275). -/
def Launch.before (a b : Launch) : Bool := decide (b.prio < a.prio) || (a.prio == b.prio && decide (a.order < b.order))

/-- Two paths share a region. -/
def Launch.shares (a b : Launch) : Bool := a.path.any fun x => b.path.any fun y => x.1 == y.1

/-- The COHORT launches that wait as the highest-priority oldest of their path (R278). -/
def State.topCohorts (s : State) : List Launch :=
  let ws := s.launches.filter fun l => l.cohort && l.waiting
  ws.filter fun l => ws.all fun m => m.id == l.id || !l.shares m || l.before m

/-- A cluster released on a path is held for the COHORT launch that waits there (R278). -/
def State.holdFor (s : State) (cl : Nat) (x : Launch) : State :=
  match s.topCohorts.find? fun l => l.id != x.id && l.shares x with
  | none => s
  | some l => { s with launches := s.launches.map fun (m : Launch) => if m.id = l.id then { m with held := m.held ++ [cl] } else m }

/-- The launch of a number. -/
def State.launchNo (s : State) (id : Nat) : Option Launch := s.launches.find? fun l => l.id == id

/-- The clusters that a launch holds, by physical number. -/
def State.clustersOf (s : State) (id : Nat) : List Nat := (s.clusters.filter fun p => p.2.launch == id).map (·.1)

/-- Drop a launch that has ended and been reported, once it holds no cluster. -/
def State.dropLaunch (s : State) (id : Nat) : State :=
  match s.launchNo id with
  | none => s
  | some l =>
    if l.ended && s.clustersOf id == [] then { s with launches := s.launches.filter fun x => x.id != id } else s

/-- What a cluster keeps when a launch leaves it: its power, its cores, and what belongs to the physical cluster. Its instruction cache is
loaded anew for the next launch (R282). -/
def Cluster.vacated (k : Cluster) : Cluster :=
  { Cluster.blank with
    powered := k.powered, cores := k.cores, errors := k.errors, failed := k.failed, lastGrant := k.lastGrant, lastCopy := k.lastCopy }

/-- Free a cluster: its launch has ended on its cores (R273). Cores keep what outlives launches. -/
def State.freeCluster (s : State) (cl : Nat) : State :=
  let k := s.cluster cl
  let s1 := match s.launchNo k.launch with | some l => s.holdFor cl l | none => s
  let s2 := s1.setCluster cl k.vacated
  ({ s2 with placement := adel s2.placement (k.slot * 8192 + k.vc) }.contextCheck k.slot).dropLaunch k.launch

/-! ## Reporting a launch (R270) -/

/-- Add 1 to REFUSED of a queue (R265, R270). -/
def State.refusedAt (s : State) (q : Nat) : State :=
  let x := aget ⟨0, 0, 0, 0, []⟩ s.queues q
  { s with queues := aput s.queues q { x with refused := x.refused + 1 } }

/-- Translation of a station's access of a doubleword under a context's root table. -/
def stationTranslate (s : State) (root : Nat) (a : Word) (n : Need) : Except Nat Nat :=
  if bit a 63 && bits a 57 6 == 0 && bits a 0 3 == 0 then leafAccess (walk s (bits a 0 57) 4 root) (bits a 0 57) n
  else .error tTRANSLATION

/-- A station's change of a counter outside the module, by the AMOs that its home performs there (R308): a FetchAdd of 1, or a read and a CAS
that marks it when bit 63 was 0; the CAS shown is the one whose comparand the counter still held. One that the other side refuses counts in
REFUSED. -/
def State.counterOutside (s : State) (q p : Nat) (code : Option Nat) : State :=
  match s.portFor p, Config.outside s.free p with
  | some _, .data w =>
    match code with
    | none => s.sendOutside (q / 16) p (.amo 0 8 1 0)
    | some c =>
      let t := s.sendOutside (q / 16) p (.load 8 false)
      if bit w 63 then t else t.sendOutside (q / 16) p (.amo 9 8 (markedCounter w c) w)
  | _, _ => s.refusedAt q

/-- Add 1 to bits [47:0] of a counter (R270). -/
def addOne (w : Word) : Word := setBits w 0 48 (bits w 0 48 + 1)

/-- A station's change of a counter at its home, an add or a mark with a code; one that cannot be translated or written counts in REFUSED
(R270). -/
def State.stationCounter (s : State) (q : Nat) (root : Option Nat) (a : Word) (code : Option Nat) : State :=
  match root with
  | none => s.refusedAt q
  | some root =>
    let s := s.walkReads none (bits a 0 57) 4 root
    match stationTranslate s root a .both with
    | .error _ => s.refusedAt q
    | .ok p => match s.homeOf p with
      | .hbm h =>
        let s1 := s.waitOut h none s.blockFuel
        let t := (s1.burst h 0).meetsPoison s1 h 8
        if t.hbm.poisoned h 8 then t.refusedAt q
        else
          let w := t.hbm.read8 h
          { t with hbm := t.hbm.store h 8 (match code with | none => addOne w | some c => markedCounter w c).toNat }
      | .device _ => s.refusedAt q
      | _ => s.counterOutside q p code

/-- Report the end of a launch (R270). -/
def State.reportLaunch (s : State) (q : Nat) (root : Option Nat) (counter : Word) (code : Option Nat) : State :=
  s.stationCounter q root counter code

/-- Launch codes (Table 5 of spec/18). -/
def lFORMAT : Nat := 0x30
def lCOHORT : Nat := 0x31
def lFRAME : Nat := 0x32
def lREGION : Nat := 0x33
def lDEPENDENCY : Nat := 0x34
def lACCESS : Nat := 0x35
def lKILLED : Nat := 0x36

/-- End a replay with a code (R279). -/
def State.failReplay (s : State) (id : Option Nat) (code : Nat) : State :=
  match id with
  | none => s
  | some r =>
    match s.replays.find? fun x => x.id == r with
    | none => s
    | some x =>
      { s with replays := s.replays.filter fun y => y.id != r }.reportLaunch x.queue (some (s.copyFor x.pid x.ctx).root) x.counter
        (some code)

/-- Kill a launch: every group ends, and its counter is marked (R274). -/
def State.killLaunch (s : State) (id : Nat) : State :=
  match s.launchNo id with
  | none => s
  | some l =>
    let root := (s.copyFor l.pid l.ctx).root
    let s := (s.clustersOf id).foldl (fun (s : State) cl =>
      (s.updCluster cl fun k => (List.range 8).foldl (fun (k : Cluster) j =>
        if (k.core j).run = .sealed then k else k.setCore j (k.core j).endLaunch) k).freeCluster cl) s
    let gone := s.evicted.filter fun e => e.launch == id
    let s := { s with
      flight := s.flight.filter fun f => !(f.fromStation && f.slot == l.slot && l.vcs.contains f.vc)
      placement := gone.foldl (fun (p : Assoc Placement) (e : Evicted) => adel p (l.slot * 8192 + e.vc)) s.placement
      evicted := s.evicted.filter fun e => e.launch != id }
    let s := if l.ended then s else s.reportLaunch l.queue (some root) l.counter (some lKILLED)
    let s := s.failReplay l.replay lKILLED
    { s with launches := s.launches.filter fun x => x.id != id }.contextCheck l.slot

/-- Report for a packet that has no launch (R270). -/
def State.reportPacket (s : State) (q pid : Nat) (counter : Word) (code : Nat) : State :=
  s.reportLaunch q ((s.contextOf pid).map fun p => p.2.root) counter (some code)

/-- Pass over tickets whose entries are gone (R266, R274). -/
def Queue.skip (x : Queue) : Nat → Queue
  | 0 => x
  | n + 1 => if x.take < x.resv ∧ x.entries.any (fun e => e.ticket == x.take) = false then
      ({ x with take := x.take + 1 } : Queue).skip n else x

/-- Kill every launch of a PID, and discard its queued packets with the same mark (R274). -/
def State.killContext (s : State) (pid : Nat) : State :=
  let s := (s.launches.filter fun l => l.pid == pid).foldl (fun (s : State) l => s.killLaunch l.id) s
  let s := (s.replays.filter fun x => x.pid == pid).foldl (fun (s : State) x => s.failReplay (some x.id) lKILLED) s
  (List.range 64).foldl (fun (s : State) q =>
    let x := aget ⟨0, 0, 0, 0, []⟩ s.queues q
    let gone := x.entries.filter fun e => e.words.length == 8 && s.regionPid (regionOf (aget 0 e.words 0)) == pid
    if gone = [] then s
    else
      let s := { s with queues := aput s.queues q (({ x with entries := x.entries.filter fun e => !gone.contains e } : Queue).skip 32) }
      gone.foldl (fun (s : State) e => s.reportPacket q pid (aget 0 e.words 3) lKILLED) s) s

/-- The launch that a cluster runs. -/
def State.launchOf (s : State) (cl : Nat) : Option Launch := s.launches.find? fun l => l.id == (s.cluster cl).launch

end Sys2Proof.Machine
end

