-- ==== Sys2Proof/Machine/Ops.lean ====
section
/-! DEFINITION. Taking an exception (R181 to R193), sealing a core (R324), parking and blocking (R120, R202), completing an
instruction, posting the results of `once` (R90), and completing a join (R93). -/
namespace Sys2Proof.Machine

/-! ## Joins and the end of a cluster task -/

/-- A core that counts as arrived: it waits at the join, is sealed or has halted (R93); one that a stop holds, or is about to hold, does
not (R341). -/
def Core.arrived (c : Core) : Bool :=
  match c.run with
  | .sealed => true
  | .joining => !c.stopped
  | _ => c.past && !c.stopped && (c.act.isSome || c.stopReq.isNone)

/-- Complete a join when every core has arrived: the waiting cores re-attach, and the stream resumes at the next address of the
lowest-numbered of them. When all eight have halted the cluster task ends (R93, R207). -/
def Cluster.completeJoin (k : Cluster) : Cluster :=
  if k.group.active && (List.range 8).all fun j => (k.core j).arrived then
    match (List.range 8).find? fun j => (k.core j).run == .joining with
    | some lead =>
      let pc := (k.core lead).pc
      let jpt := match k.group.join with | some (n, _) => n | none => 0
      let k1 := { k with group := { k.group with pc := pc, hold := .none, join := none, rep := none } }
      (List.range 8).foldl (fun (k : Cluster) j =>
        let c := k.core j
        if c.run = .joining then k.setCore j { c with run := .running, att := true, why := 0, jpt := jpt, pc := pc, buf := [] }
        else k) k1
    | none =>
      let k1 := { k with group := Group.blank, onces := [] }
      (List.range 8).foldl (fun (k : Cluster) j =>
        let c := k.core j
        k.setCore j { c with past := false, run := if c.run = .halted then .idle else c.run }) k1
  else k

/-! ## Sealing (R320, R324, R326) -/

/-- The contents of an inbox slot. -/
def Core.inboxItem (c : Core) (j : Nat) : List Word := c.store.words (slotAddr (c.bank 15) 0 j).toNat 16

/-- Put an item in its place by the `CYC` of its commit (R326). -/
def insertItem (x : List Word × Option Nat) : List (List Word × Option Nat) → List (List Word × Option Nat)
  | [] => [x]
  | y :: t => if (x.1.getD 3 0).toNat < (y.1.getD 3 0).toNat then x :: y :: t else y :: insertItem x t

/-- An inbox slot with its item and the record bank of its sender (R76, R326). -/
def Core.inboxPair (c : Core) (j : Nat) : List Word × Option Nat := (c.inboxItem j, afind c.inboxRecq j)

/-- The starting items of the activations on a core and the items not yet handled, in commit order (R326). -/
def Core.restartItems (c : Core) : List (List Word × Option Nat) :=
  let acts := ((match c.act with | some a => [a] | none => []) ++ c.parked.map (·.act)).map fun a => (a.item, a.recq)
  let ready := c.ready.map fun e => match e.resume, e.item with
    | some a, _ => (a.item, a.recq)
    | none, some j => c.inboxPair j
    | none, none => ([], none)
  let waiting := ((c.bank 15).joined.filter fun p => p.2 == .item).map fun p => c.inboxPair p.1
  ((acts ++ ready ++ waiting).filter fun l => l.1 != []).foldl (fun l x => insertItem x l) []

/-- A cluster-kind activation stands on a core (R326). -/
def Core.hasClusterAct (c : Core) : Bool :=
  (match c.act with | some a => a.cluster | none => false) || c.parked.any (fun p => p.act.cluster) ||
    c.ready.any fun e => match afind c.classes e.cls with | some x => x.cluster | none => false

/-- Where the counter of a copy request lies: core and offset (R165). -/
def CReq.counter (q : CReq) : Nat × Nat := (bits q.w3 50 3, bits q.w3 32 18)

/-- The words of a job's descriptor: as read at its start, or as they stand (R152, R162). -/
def Job.desc4 (j : Job) (k : Cluster) : List Word :=
  if j.words != [] then j.words else (k.core j.core).store.words j.desc.toNat 4

/-- Where the counter of a rule job lies (R162). -/
def counterOfDesc (ws : List Word) : Nat × Nat := let w := ws.getD 3 0; (bits w 50 3, bits w 32 18)

/-- A core none of whose banks is being converted. -/
def Core.unconverted (c : Core) : Core :=
  (List.range 16).foldl (fun (c : Core) b =>
    if (c.bank b).converting then c.setBank b { c.bank b with converting := false } else c) c

/-- Seal a core (R324): its work stops, its engine commands are discarded and their counters marked, with those of its held records, its siblings
are released from it, and the policy of its launch is applied (R274, R326). -/
def State.seal (s : State) (r : CoreRef) (cause : Nat) : State :=
  let c := s.core r
  if c.run = .sealed then s
  else
    let k := s.cluster r.cl
    let jobs := k.jobs.filter fun j => j.core == r.core
    let s := (s.bump Reg.sealed 1).report r.cl (.sealedCore r cause)
    let s := s.updCore r fun c => { c with run := .sealed, redeliver := c.restartItems }
    let s := c.copies.foldl (fun (s : State) q => s.markCounter r.cl q.counter tREMOTEERROR) s
    let s := jobs.foldl (fun (s : State) j => s.markCounter r.cl (counterOfDesc (j.desc4 k)) tREMOTEERROR) s
    let s := c.held.foldl (fun (s : State) h => s.markHeld r.cl h) s
    let s := s.updCluster r.cl fun k =>
      let k := k.dropBuf r.core
      let k : Cluster := { k with
        port := k.port.filter (· != r.core)
        jobs := k.jobs.filter fun j => j.core != r.core
        jobEnds := jobs.map (fun (j : Job) => (j.num, tREMOTEERROR)) ++ k.jobEnds
        onces := (k.onces.map fun (o : OnceRec) =>
          if o.elected = some r.core then { o with failed := o.failed || o.result.isNone, receivers := o.receivers.filter (· != r.core) }
          else { o with receivers := o.receivers.filter (· != r.core) }).filter fun o => o.receivers != [] }
      let k := k.setCore r.core { (k.core r.core).unconverted with
        att := false, act := none, wait := none, parked := [], ready := [], mq := [], copies := [], held := [],
        engPend := false, engSlot := none, pend := none, conv := none, taken := none, governed := none,
        obligation := none, repBuf := [], past := false }
      k.settle.completeJoin
    match s.launchOf r.cl with
    | none => s
    | some l =>
      if l.policy = 2 then s.killContext l.pid
      else if l.policy = 1 ∨ c.hasClusterAct then s.killLaunch l.id
      else s

/-- Double(c): the core stops at the boundary and is sealed (R193). -/
def State.double (s : State) (r : CoreRef) (c : Nat) (e v : Word) : State :=
  ((s.updCore r fun k => k.setCr Cr.cause (BitVec.ofNat 64 tDOUBLE)).report r.cl (.double r c e v)).seal r tDOUBLE

/-! ## Taking a trap -/

/-- Save PC, `STAT`, `FPC`, `WSIZE` and `REPSTATE` in a frame header (R20, R181, R202). -/
def Core.saveHeader (c : Core) (h : Nat) (pc : Word) : Core :=
  { c with store := ((((c.store.store h 8 pc.toNat).store (h + 8) 8 c.stat.toNat).store (h + 16) 8 (c.cr_ Cr.fpc).toNat).store
      (h + 24) 8 (c.cr_ Cr.wsize).toNat).store (h + 32) 8 (c.cr_ Cr.repstate).toNat }

/-- A trap cannot be taken: trap mode, no vector, no trap frame, or a trap frame outside ARRAY banks (R30, R181, R193). -/
def Core.cannotTrap (c : Core) : Bool :=
  c.tm || c.cr_ Cr.tvec == 0 || c.cr_ Cr.twp == 0 || !c.arrayRange (c.cr_ Cr.twp).toNat 448

/-- Trap entry for a core already detached (R181). -/
def Core.enterTrap (c : Core) (cause : Nat) (e v : Word) : Core :=
  let c := c.saveHeader (c.cr_ Cr.twp).toNat e
  let c := (((c.setCr Cr.epc e).setCr Cr.cause (BitVec.ofNat 64 cause)).setCr Cr.tval v).setCr Cr.twpsave (c.cr_ Cr.wp)
  let c := c.setCr Cr.wp (c.cr_ Cr.twp)
  let c := c.setCr Cr.stat (BitVec.ofNat 64 (8 + c.br))
  let c := ((c.setCr Cr.fpc 0).setCr Cr.wsize 0).setCr Cr.repstate 0
  { c with pc := c.cr_ Cr.tvec, wait := none, taken := none, repBuf := [], transfer := none, fell := none,
           obligation := c.governed.or c.obligation, governed := none }

/-- Set `BSRC` under R186: at a FETCH of the instruction at the boundary itself, the instruction that transferred to it, or 0; at a FETCH
of a second halfword or of a `rep` body (R33, R101), 0. -/
def Core.noteFetch (c : Core) (cause : Nat) (e v : Word) : Core :=
  if cause = tFETCH then c.setCr Cr.bsrc (if v = e then c.transfer.getD 0 else 0) else c

/-- Counts that a trap adds: a poisoned word read, a shadow divergence (R325, R328). -/
def State.countTrap (s : State) (cl cause : Nat) : State :=
  if cause = tPOISON then s.uncorrectable cl
  else if cause = tSHADOW then (s.bump Reg.check 1).clusterError cl 1
  else s

/-- A trap of a core for a cause, at a boundary address and with a trap value, once it is counted (R181, R190, R193, R320). -/
def State.takeTrap (s : State) (r : CoreRef) (cause : Nat) (e v : Word) : State :=
  let c := s.core r
  if c.cannotTrap then s.double r cause e v
  else if cause = tSHADOW ∧ c.shadowEpc = some e then s.seal r tSHADOW
  else
    let s1 := s.updCluster r.cl fun k => if c.att then k.detach r.core 4 else k.dropBuf r.core
    let s2 := s1.updCore r fun c =>
      let c := (c.noteFetch cause e v).enterTrap cause e v
      if cause = tSHADOW then { c with shadowEpc := some e } else c
    let s3 := if c.att then s2.updCluster r.cl Cluster.settle else s2
    s3.trace r 5

/-- A trap of a core. -/
def State.trapAt (s : State) (r : CoreRef) (cause : Nat) (e v : Word) : State := (s.countTrap r.cl cause).takeTrap r cause e v

/-- A trap of the core whose instruction runs, at that instruction (R184, R187). -/
def State.raise (s : State) (cause : Nat) (v : Word) : State := s.trapAt s.cur cause s.me.pc v

/-! ## Completing an instruction -/

/-- The place in the program after an instruction: next, or the next position or pass of a `rep` (R79, R100). -/
def Core.advance (c : Core) (len : Nat) : Core :=
  if c.inRep then
    let rs := c.cr_ Cr.repstate
    if c.repPos < c.repLen then c.setCr Cr.repstate (setBits rs 32 4 (c.repPos + 1))
    else if c.repPass + 1 < c.repCount then
      c.setCr Cr.repstate (setBits (setBits rs 32 4 0) 0 32 (c.repPass + 1))
    else { c.setCr Cr.repstate 0 with pc := afterBody c.repBuf c.pc, repBuf := [] }
  else { c with pc := c.pc + BitVec.ofNat 64 len }

/-- A core that has completed an instruction of a length. -/
def Core.retired (c : Core) (len : Nat) : Core :=
  ({ c with wait := none, taken := none, transfer := none } : Core).advance len

/-- A core that has completed an instruction, and where it fell through one that decides (R79, R89, R186). -/
def Core.passed (c : Core) (i : Instr) : Core := { c.retired i.len with fell := if i.decides then some c.pc else none }

/-- A core that has completed a control transfer (R186). -/
def Core.jumped (c : Core) (t : Word) : Core :=
  { c with wait := none, taken := none, transfer := some c.pc, fell := none, pc := t }

/-- The posted results of a governed instruction that has completed (R90): its scalar or mask destination, BR when it was set,
and the flags it raised. -/
def Core.posting (c : Core) (i : Instr) : Posting :=
  { dst := match i.uses.find? fun u => u.wr && (u.cls == .s || u.cls == .m) with
      | some u => if u.cls == .m then some (true, u.num, (c.m u.num).zeroExtend 64) else some (false, u.num, c.s u.num)
      | none => none
    br := if c.brSet then some c.br else none
    flags := c.flagsRaised }

/-- Results exist for the receivers of a `once`; the elected core is done with it. -/
def Cluster.post (k : Cluster) (id j : Nat) (p : Posting) : Cluster :=
  let k : Cluster := { k with onces := k.onces.map fun (o : OnceRec) => if o.id = id then { o with result := some p } else o }
  let k := k.setCore j { k.core j with governed := none, obligation := none }
  k.dropOnce id j

/-- A posting that leaves destination and BR unchanged (R189). -/
def Posting.blank : Posting := ⟨none, none, 0⟩

/-- Take posted results as accesses of the sibling's own activation (R90). -/
def Core.takePosting (c : Core) (p : Posting) : Core :=
  let c := match p.dst with
    | some (true, n, w) => c.setM n (w.truncate 16)
    | some (false, n, w) => c.setS n w
    | none => c
  let c := match p.br with | some b => c.setBr b | none => c
  c.raise p.flags

/-- Discharge the posting obligation or governed position of a core that goes elsewhere (R183, R189). -/
def Cluster.discharge (k : Cluster) (j id : Nat) : Cluster :=
  match k.onces.find? fun o => o.id == id with
  | none => k.setCore j { k.core j with governed := none, obligation := none }
  | some o =>
    if o.elected = some j then k.post id j Posting.blank
    else (k.setCore j { k.core j with governed := none, obligation := none }).dropOnce id j

/-- What an instruction does once it is legal and its registers exist. -/
inductive Eff where
  /-- It completes, and the next instruction follows. -/
  | next (s : State)
  /-- It completes, and control goes to an address. -/
  | jump (s : State) (t : Word)
  /-- It raises a trap and has performed nothing. -/
  | trap (cause : Nat) (v : Word)
  /-- It raises a trap, and R185 keeps what the state holds. -/
  | kept (s : State) (cause : Nat) (v : Word)
  /-- It has not completed, or its completion is already in the state. -/
  | stay (s : State)
deriving DecidableEq, Repr

/-- The state after an instruction has completed: the core past it, `once` results posted, the group compared. -/
def State.finish (s : State) (i : Instr) : State :=
  let c := s.me
  let s1 := s.upd fun c => c.passed i
  let s2 := match c.governed with
    | some id => s1.updCluster s.cur.cl fun k => k.post id s.cur.core (c.posting i)
    | none => s1
  if c.att then s2.updCluster s.cur.cl Cluster.settle else s2

/-- The state after a control transfer. -/
def State.goto (s : State) (t : Word) : State :=
  let s1 := s.upd fun c => c.jumped t
  if s.me.att then s1.updCluster s.cur.cl Cluster.settle else s1

/-- The state that an effect leaves; a trap is taken in the state before it, or in what R185 keeps, of which a DOUBLE keeps nothing
(R193). -/
def Eff.apply (s : State) (i : Instr) : Eff → State
  | .next t => t.finish i
  | .jump t a => t.goto a
  | .trap c v => s.raise c v
  | .kept t c v => if s.me.cannotTrap then s.raise c v else t.raise c v
  | .stay t => t

/-- An instruction names a vector register that is not allotted: its number (R22). -/
def regFault (i : Instr) (c : Core) : Option Nat :=
  (i.uses.find? fun u => u.cls == .v && decide (c.nv ≤ u.num)).map (·.num)

/-- An instruction that arrived at an attached core whose allotment differs from the leader's at that instruction: the value that R23
gives. -/
def nvClash (s : State) : Option Word :=
  let c := s.me
  match c.taken with
  | some e => if c.att = false ∨ e.nv = c.nv then none else some (BitVec.ofNat 64 (c.nv + e.nv * 256 + 65536))
  | none => none

/-- Execute an encoded instruction on the current core in the order of R39: what its entry refuses as a whole, FETCH or ILLEGAL;
REGISTER; then the traps and the effect of its entry. -/
def State.execute (s : State) (i : Instr) (refused : Option (Nat × Word)) (body : State → Eff) : State :=
  if i.legal s.feat0 = false then s.raise tILLEGAL i.word
  else match refused with
  | some x => s.raise x.1 x.2
  | none => match nvClash s with
    | some v => (s.updCluster s.cur.cl fun k => (k.detach s.cur.core 5).settle).raise tREGISTER v
    | none => match regFault i s.me with
      | some n => s.raise tREGISTER (BitVec.ofNat 64 n)
      | none => (body s).apply s i

/-- The outcome of an encoded instruction that its entry may refuse: always a next state. -/
def retireUnless (i : Instr) (refused : Option (Nat × Word)) (s : State) (body : State → Eff) : Host.Outcome State Fault Refusal :=
  .next (s.execute i refused body)

/-- The outcome of an encoded instruction: always a next state. -/
def retire (i : Instr) (s : State) (body : State → Eff) : Host.Outcome State Fault Refusal := retireUnless i none s body

/-- An encoded instruction gets to the traps and the effect of its entry (R39). -/
def reaches (i : Instr) (refused : Option (Nat × Word)) (s : State) : Bool :=
  i.legal s.feat0 && refused.isNone && (nvClash s).isNone && (regFault i s.me).isNone

/-- An effect that changes only the current core. -/
def local_ (s : State) (f : Core → Core) : Eff := .next (s.upd f)

/-! ## Waits (R120, R202) -/

/-- The running activation belongs to a core task. -/
def Core.coreTask (c : Core) : Bool :=
  match c.act with
  | some a => !a.cluster
  | none => false

/-- How a core stands at an activation boundary: idle, or halted in a cluster task that goes on (R174, R207). -/
def Core.resting (c : Core) : Run := if c.past then .halted else .idle

/-- Park the running activation at its place with a condition (R187, R202). -/
def Core.park (c : Core) (cond : Cond) : Core :=
  match c.act with
  | some a => { c.saveHeader c.wp c.pc with
      parked := c.parked ++ [⟨{ a with frame := c.wp }, cond⟩], act := none, run := c.resting, wait := none, taken := none, repBuf := [], transfer := none }
  | none => c

/-- Wait for a condition: a core task parks, a cluster task and a core in trap mode block (R120, R182). -/
def State.waitFor (s : State) (cond : Cond) : Eff :=
  if s.me.coreTask && !s.me.tm then .stay ((s.trace s.cur 2).upd fun c => c.park cond)
  else .stay (s.upd fun c => { c with wait := some cond })

/-- A scope of a core covers the home of a posted item on its way (R237, R250). -/
def Flight.homeCovered (s : State) (r : CoreRef) (scope : Nat) (f : Flight) : Bool :=
  match f.body with
  | .gstore p _ _ => s.scopeCoversPhys scope r.cl p
  | .record _ => false
  | _ => match meshTarget s f.slot f.vc f.core with
    | some (t, _) => scopeCovers scope r t
    | none => true

/-- A scope of its own core covers the home of a posted item (R250). -/
def Flight.covered (s : State) (scope : Nat) (f : Flight) : Bool := f.homeCovered s f.src scope

/-- Everything that a core has posted to homes that a scope covers has been performed (R246, R250). -/
def State.drained (s : State) (r : CoreRef) (scope : Nat) : Bool :=
  s.flight.all fun f => f.fromStation || f.eng.isSome || f.src != r || !f.covered s scope

/-- Stall at this instruction: it is tried again. -/
def stallFor (w : Cond) (s : State) : Eff := .stay (s.upd fun c => { c with wait := some w })

/-- Stall at a full queue or on a converting bank (R97, R152). -/
def stall (s : State) : Eff := stallFor .retry s

end Sys2Proof.Machine
end

