-- ==== Sys2Proof/Machine/Integer.lean ====
section
/-! DEFINITION. Integer operations: INT, the immediate forms, `lui` and `addpc` (R79 to R82), and the 16-bit forms of `addi` and
`add` (R104). -/
namespace Sys2Proof.Machine

/-- 1 or 0. -/
def flag1 (b : Bool) : Word := if b then 1 else 0

/-- Signed division, truncated toward zero; division by zero gives all ones, and the overflow wraps (Table 1 of spec/05). -/
def divSigned (a b : Word) : Word := if b = 0 then BitVec.allOnes 64 else a.sdiv b

/-- Unsigned division; division by zero gives all ones. -/
def divUnsigned (a b : Word) : Word := if b = 0 then BitVec.allOnes 64 else a / b

/-- S(D) := f(S(A), S(B)). -/
def alu2 (d a b : Reg) (f : Word → Word → Word) (s : State) : Eff :=
  local_ s fun c => c.setS d.toNat (f (c.s a.toNat) (c.s b.toNat))

/-- S(D) := f(S(A)). -/
def alu1 (d a : Reg) (f : Word → Word) (s : State) : Eff := local_ s fun c => c.setS d.toNat (f (c.s a.toNat))

/-- S(D) := a value. -/
def put (d : Reg) (w : Word) (s : State) : Eff := local_ s fun c => c.setS d.toNat w

/-- Number of leading zero bits of x among the n lowest. -/
def clzFrom (x : Word) : Nat → Nat
  | 0 => 0
  | n + 1 => if x.getLsbD n then 0 else 1 + clzFrom x n

/-- Number of trailing zero bits from bit 64 − n. -/
def ctzFrom (x : Word) : Nat → Nat
  | 0 => 0
  | n + 1 => if x.getLsbD (63 - n) then 0 else 1 + ctzFrom x n

/-- Number of one bits among the n lowest. -/
def popFrom (x : Word) : Nat → Nat
  | 0 => 0
  | n + 1 => (if x.getLsbD n then 1 else 0) + popFrom x n

/-- Shift or rotate by a kind: 0 shl, 1 shr, 2 sra, 3 rot (R81). -/
def shiftBy (k : BitVec 2) (a : Word) (n : Nat) : Word :=
  match k with
  | 0#2 => a <<< n
  | 1#2 => a >>> n
  | 2#2 => a.sshiftRight n
  | _ => a.rotateLeft n

/-- The immediate of format I (R81). -/
def imm15 (i : BitVec 15) : Word := i.signExtend 64

/-- sext(IMM20, 20) × 4,096 (R82). -/
def imm20 (i : BitVec 20) : Word := i.signExtend 64 <<< 12

/-- `add` (R80). -/
def execAdd (d a b : Reg) (s : State) : Host.Outcome State Fault Refusal :=
  retire (.add d a b) s (alu2 d a b fun a b => a + b)

/-- `sub` (R80). -/
def execSub (d a b : Reg) (s : State) : Host.Outcome State Fault Refusal :=
  retire (.sub d a b) s (alu2 d a b fun a b => a - b)

/-- `and` (R80). -/
def execAnd (d a b : Reg) (s : State) : Host.Outcome State Fault Refusal :=
  retire (.and d a b) s (alu2 d a b fun a b => a &&& b)

/-- `or` (R80). -/
def execOr (d a b : Reg) (s : State) : Host.Outcome State Fault Refusal :=
  retire (.or d a b) s (alu2 d a b fun a b => a ||| b)

/-- `xor` (R80). -/
def execXor (d a b : Reg) (s : State) : Host.Outcome State Fault Refusal :=
  retire (.xor d a b) s (alu2 d a b fun a b => a ^^^ b)

/-- `shl` (R80). -/
def execShl (d a b : Reg) (s : State) : Host.Outcome State Fault Refusal :=
  retire (.shl d a b) s (alu2 d a b fun a b => a <<< (b.toNat % 64))

/-- `shr` (R80). -/
def execShr (d a b : Reg) (s : State) : Host.Outcome State Fault Refusal :=
  retire (.shr d a b) s (alu2 d a b fun a b => a >>> (b.toNat % 64))

/-- `sra` (R80). -/
def execSra (d a b : Reg) (s : State) : Host.Outcome State Fault Refusal :=
  retire (.sra d a b) s (alu2 d a b fun a b => a.sshiftRight (b.toNat % 64))

/-- `rot` (R80). -/
def execRot (d a b : Reg) (s : State) : Host.Outcome State Fault Refusal :=
  retire (.rot d a b) s (alu2 d a b fun a b => a.rotateLeft (b.toNat % 64))

/-- `mul` (R80). -/
def execMul (d a b : Reg) (s : State) : Host.Outcome State Fault Refusal :=
  retire (.mul d a b) s (alu2 d a b fun a b => a * b)

/-- `mulh` (R80). -/
def execMulh (d a b : Reg) (s : State) : Host.Outcome State Fault Refusal :=
  retire (.mulh d a b) s (alu2 d a b fun a b => BitVec.ofInt 64 (a.toInt * b.toInt / 2 ^ 64))

/-- `mulhu` (R80). -/
def execMulhu (d a b : Reg) (s : State) : Host.Outcome State Fault Refusal :=
  retire (.mulhu d a b) s (alu2 d a b fun a b => BitVec.ofNat 64 (a.toNat * b.toNat / 2 ^ 64))

/-- `div` (R80). -/
def execDiv (d a b : Reg) (s : State) : Host.Outcome State Fault Refusal :=
  retire (.div d a b) s (alu2 d a b fun a b => divSigned a b)

/-- `divu` (R80). -/
def execDivu (d a b : Reg) (s : State) : Host.Outcome State Fault Refusal :=
  retire (.divu d a b) s (alu2 d a b fun a b => divUnsigned a b)

/-- `rem` (R80). -/
def execRem (d a b : Reg) (s : State) : Host.Outcome State Fault Refusal :=
  retire (.rem d a b) s (alu2 d a b fun a b => a - b * divSigned a b)

/-- `remu` (R80). -/
def execRemu (d a b : Reg) (s : State) : Host.Outcome State Fault Refusal :=
  retire (.remu d a b) s (alu2 d a b fun a b => a - b * divUnsigned a b)

/-- `slt` (R80). -/
def execSlt (d a b : Reg) (s : State) : Host.Outcome State Fault Refusal :=
  retire (.slt d a b) s (alu2 d a b fun a b => flag1 (a.slt b))

/-- `sltu` (R80). -/
def execSltu (d a b : Reg) (s : State) : Host.Outcome State Fault Refusal :=
  retire (.sltu d a b) s (alu2 d a b fun a b => flag1 (a.ult b))

/-- `seq` (R80). -/
def execSeq (d a b : Reg) (s : State) : Host.Outcome State Fault Refusal :=
  retire (.seq d a b) s (alu2 d a b fun a b => flag1 (a == b))

/-- `min` (R80). -/
def execMin (d a b : Reg) (s : State) : Host.Outcome State Fault Refusal :=
  retire (.min d a b) s (alu2 d a b fun a b => if a.slt b then a else b)

/-- `max` (R80). -/
def execMax (d a b : Reg) (s : State) : Host.Outcome State Fault Refusal :=
  retire (.max d a b) s (alu2 d a b fun a b => if b.slt a then a else b)

/-- `minu` (R80). -/
def execMinu (d a b : Reg) (s : State) : Host.Outcome State Fault Refusal :=
  retire (.minu d a b) s (alu2 d a b fun a b => if a.ult b then a else b)

/-- `maxu` (R80). -/
def execMaxu (d a b : Reg) (s : State) : Host.Outcome State Fault Refusal :=
  retire (.maxu d a b) s (alu2 d a b fun a b => if b.ult a then a else b)

/-- `clz` (R80). -/
def execClz (d a : Reg) (s : State) : Host.Outcome State Fault Refusal :=
  retire (.clz d a) s (alu1 d a fun a => BitVec.ofNat 64 (clzFrom a 64))

/-- `ctz` (R80). -/
def execCtz (d a : Reg) (s : State) : Host.Outcome State Fault Refusal :=
  retire (.ctz d a) s (alu1 d a fun a => BitVec.ofNat 64 (ctzFrom a 64))

/-- `popc` (R80). -/
def execPopc (d a : Reg) (s : State) : Host.Outcome State Fault Refusal :=
  retire (.popc d a) s (alu1 d a fun a => BitVec.ofNat 64 (popFrom a 64))

/-- `madd` (R80). -/
def execMadd (d a b c : Reg) (s : State) : Host.Outcome State Fault Refusal :=
  retire (.madd d a b c) s fun s =>
    local_ s fun k => k.setS d.toNat (k.s a.toNat * k.s b.toNat + k.s c.toNat)

/-- `csel` (R80). -/
def execCsel (d a b c : Reg) (s : State) : Host.Outcome State Fault Refusal :=
  retire (.csel d a b c) s fun s =>
    local_ s fun k => k.setS d.toNat (if k.s c.toNat = 0 then k.s b.toNat else k.s a.toNat)

/-- `addi` (R81). -/
def execAddi (d a : Reg) (i : BitVec 15) (s : State) : Host.Outcome State Fault Refusal :=
  retire (.addi d a i) s (alu1 d a fun a => a + imm15 i)

/-- `andi` (R81). -/
def execAndi (d a : Reg) (i : BitVec 15) (s : State) : Host.Outcome State Fault Refusal :=
  retire (.andi d a i) s (alu1 d a fun a => a &&& imm15 i)

/-- `ori` (R81). -/
def execOri (d a : Reg) (i : BitVec 15) (s : State) : Host.Outcome State Fault Refusal :=
  retire (.ori d a i) s (alu1 d a fun a => a ||| imm15 i)

/-- `xori` (R81). -/
def execXori (d a : Reg) (i : BitVec 15) (s : State) : Host.Outcome State Fault Refusal :=
  retire (.xori d a i) s (alu1 d a fun a => a ^^^ imm15 i)

/-- `slti` (R81). -/
def execSlti (d a : Reg) (i : BitVec 15) (s : State) : Host.Outcome State Fault Refusal :=
  retire (.slti d a i) s (alu1 d a fun a => flag1 (a.slt (imm15 i)))

/-- `sltiu` (R81). -/
def execSltiu (d a : Reg) (i : BitVec 15) (s : State) : Host.Outcome State Fault Refusal :=
  retire (.sltiu d a i) s (alu1 d a fun a => flag1 (a.ult (imm15 i)))

/-- `shi` (R81). -/
def execShi (d a : Reg) (n : BitVec 6) (k : BitVec 2) (s : State) : Host.Outcome State Fault Refusal :=
  retire (.shi d a n k) s (alu1 d a fun a => shiftBy k a n.toNat)

/-- `lui` (R82). -/
def execLui (d : Reg) (i : BitVec 20) (s : State) : Host.Outcome State Fault Refusal :=
  retire (.lui d i) s (put d (imm20 i))

/-- `addpc` (R82). -/
def execAddpc (d : Reg) (i : BitVec 20) (s : State) : Host.Outcome State Fault Refusal :=
  retire (.addpc d i) s fun s => put d (s.me.instrAddr + imm20 i) s

/-- `c.mov` (R104). -/
def execCMov (d r : Reg) (s : State) : Host.Outcome State Fault Refusal :=
  retire (.cMov d r) s (alu1 d r fun a => a)

/-- `c.addi` (R104). -/
def execCAddi (d : Reg) (i : BitVec 6) (s : State) : Host.Outcome State Fault Refusal :=
  retire (.cAddi d i) s (alu1 d d fun a => a + i.signExtend 64)

/-- `c.li` (R104). -/
def execCLi (d : Reg) (i : BitVec 6) (s : State) : Host.Outcome State Fault Refusal :=
  retire (.cLi d i) s (put d (i.signExtend 64))

/-- `c.add` (R104). -/
def execCAdd (d r : Reg) (s : State) : Host.Outcome State Fault Refusal :=
  retire (.cAdd d r) s (alu2 d d r fun a b => a + b)

end Sys2Proof.Machine
end

