-- ==== Sys2Proof/Machine/Control.lean ====
section
/-! DEFINITION. Control registers (R24, R84, R85), branches and jumps (R86 to R89, R104). -/
namespace Sys2Proof.Machine

/-! ## Control registers -/

/-- Whether a write form may put a value into a control register (R24, R85, R234). -/
def crWritable (c : Core) (n : Nat) (v : Word) : Bool :=
  match crLayout n with
  | none => false
  | some (w, res) =>
    w != 0 && v &&& res == 0 && (n != Cr.repstate || c.tm) &&
      !(decide (0x14 ≤ n ∧ n ≤ 0x17) && bit v 63 && !bit (c.cr_ n) 63)

/-- The bits that a write leaves as they were: the ro fields of a rw register (R24). -/
def crMerge (n : Nat) (old v : Word) : Word :=
  match crLayout n with
  | none => old
  | some (w, _) => (old &&& ~~~w) ||| (v &&& w)

/-- Write a control register. A write of `DLYSEL` leaves its copy, and a write that closes a spread window its closing, to the
step that follows (R234, R339). -/
def Core.crWrite (c : Core) (n : Nat) (v : Word) : Core :=
  let new := crMerge n (c.cr_ n) v
  if n = Cr.dlysel then
    { c.setCr n (setBits new 6 1 0) with
      after := c.after ++ (if bit new 6 then [.dlyClear, .dlyCopy] else [.dlyCopy]) }
  else if 0x14 ≤ n ∧ n ≤ 0x17 then
    (if bit (c.cr_ n) 63 && !bit v 63 then { c with after := c.after ++ [.spreadClose (n - 0x14)] } else c)
  else c.setCr n new

/-- The value that a form reads from a control register (R84). -/
def crOld (s : State) (n : Nat) : Word := crRead s s.me n

/-- A write form: `new` from the old value, and S(D) := old where the form returns it; a value that the register does not take is
refused (R24, R84). -/
def crForm (i : Instr) (n : Nat) (d : Option Reg) (new : Word → Word) (s : State) : Host.Outcome State Fault Refusal :=
  let old := crOld s n
  let v := new old
  retireUnless i (if crWritable s.me n v then none else some (tILLEGAL, i.word)) s fun s =>
    local_ s fun c =>
      let c := c.crWrite n v
      match d with
      | some d => c.setS d.toNat old
      | none => c

/-- `crd` (R84). -/
def execCrd (d : Reg) (n : BitVec 12) (s : State) : Host.Outcome State Fault Refusal :=
  retireUnless (.crd d n) (if (crLayout n.toNat).isSome then none else some (tILLEGAL, (Instr.crd d n).word)) s fun s =>
    put d (crOld s n.toNat) s

/-- `cwr` (R84). -/
def execCwr (a : Reg) (n : BitVec 12) (s : State) : Host.Outcome State Fault Refusal :=
  crForm (.cwr a n) n.toNat none (fun _ => s.me.s a.toNat) s

/-- `cset` (R84). -/
def execCset (d a : Reg) (n : BitVec 12) (s : State) : Host.Outcome State Fault Refusal :=
  crForm (.cset d a n) n.toNat (some d) (fun old => old ||| s.me.s a.toNat) s

/-- `cclr` (R84). -/
def execCclr (d a : Reg) (n : BitVec 12) (s : State) : Host.Outcome State Fault Refusal :=
  crForm (.cclr d a n) n.toNat (some d) (fun old => old &&& ~~~ s.me.s a.toNat) s

/-- `cswp` (R84). -/
def execCswp (d a : Reg) (n : BitVec 12) (s : State) : Host.Outcome State Fault Refusal :=
  crForm (.cswp d a n) n.toNat (some d) (fun _ => s.me.s a.toNat) s

/-- An entry of a core's delay table, or an empty one. -/
def Core.delayEntry (c : Core) (n : Nat) : Delay := c.delays.getD n ⟨0, 0, 0, 0, 0⟩

/-- Drop a step that a core's write has left to do. -/
def Core.doneAfter (c : Core) (i : After) : Core := { c with after := c.after.erase i }

/-- A write of `DLYSEL` copies entry ENTRY into 0x023 to 0x027 (R339). -/
def execDlyselCopy (r : CoreRef) (s : State) : Host.Outcome State Fault Refusal :=
  if (s.core r).after.head? = some .dlyCopy then
    .next (s.updCore r fun c =>
      let e := c.delayEntry (bits (c.cr_ Cr.dlysel) 0 6)
      (((((c.setCr 0x23 e.src).setCr 0x24 e.n).setCr 0x25 e.trn).setCr 0x26 e.qw).setCr 0x27 e.run).doneAfter .dlyCopy)
  else .next s

/-- A write of `DLYSEL` with CLR 1 empties every entry first (R339). -/
def execDlyselClear (r : CoreRef) (s : State) : Host.Outcome State Fault Refusal :=
  if (s.core r).after.head? = some .dlyClear then
    .next (s.updCore r fun c => { c.doneAfter .dlyClear with delays := [] })
  else .next s

/-- Writing V as 0 to a `SPREAD` register closes its window (R234). -/
def execSpreadWindowClose (r : CoreRef) (d : Nat) (s : State) : Host.Outcome State Fault Refusal :=
  if (s.core r).after.head? = some (.spreadClose d) then
    .next (s.updCore r fun c =>
      (c.setCr (Cr.spread0 + d) (setBits (c.cr_ (Cr.spread0 + d)) 63 1 0)).doneAfter (.spreadClose d))
  else .next s

/-! ## Branches -/

/-- 2·sext(OFF12, 12) (R86). -/
def off12 (o : BitVec 12) : Word := o.signExtend 64 <<< 1

/-- Redirect when taken (R86, R87). -/
def branch (taken : Bool) (off : Word) (s : State) : Eff := if taken then .jump s (s.me.pc + off) else .next s

/-- A BR branch (R86). -/
def cmpBranch (x y : Reg) (o : BitVec 12) (f : Word → Word → Bool) (s : State) : Eff :=
  branch (f (s.me.s x.toNat) (s.me.s y.toNat)) (off12 o) s

/-- `beq` (R86). -/
def execBeq (x y : Reg) (o : BitVec 12) (s : State) : Host.Outcome State Fault Refusal :=
  retire (.beq x y o) s fun s => cmpBranch x y o (fun a b => a == b) s

/-- `bne` (R86). -/
def execBne (x y : Reg) (o : BitVec 12) (s : State) : Host.Outcome State Fault Refusal :=
  retire (.bne x y o) s fun s => cmpBranch x y o (fun a b => a != b) s

/-- `blt` (R86). -/
def execBlt (x y : Reg) (o : BitVec 12) (s : State) : Host.Outcome State Fault Refusal :=
  retire (.blt x y o) s fun s => cmpBranch x y o (fun a b => a.slt b) s

/-- `bge` (R86). -/
def execBge (x y : Reg) (o : BitVec 12) (s : State) : Host.Outcome State Fault Refusal :=
  retire (.bge x y o) s fun s => cmpBranch x y o (fun a b => !a.slt b) s

/-- `bltu` (R86). -/
def execBltu (x y : Reg) (o : BitVec 12) (s : State) : Host.Outcome State Fault Refusal :=
  retire (.bltu x y o) s fun s => cmpBranch x y o (fun a b => a.ult b) s

/-- `bgeu` (R86). -/
def execBgeu (x y : Reg) (o : BitVec 12) (s : State) : Host.Outcome State Fault Refusal :=
  retire (.bgeu x y o) s fun s => cmpBranch x y o (fun a b => !a.ult b) s

/-- `bok` (R87). -/
def execBok (o : BitVec 12) (s : State) : Host.Outcome State Fault Refusal :=
  retire (.bok o) s fun s => branch (s.me.br == 0) (off12 o) s

/-- `bempty` (R87). -/
def execBempty (o : BitVec 12) (s : State) : Host.Outcome State Fault Refusal :=
  retire (.bempty o) s fun s => branch (s.me.br == 1) (off12 o) s

/-- `bfull` (R87). -/
def execBfull (o : BitVec 12) (s : State) : Host.Outcome State Fault Refusal :=
  retire (.bfull o) s fun s => branch (s.me.br == 2) (off12 o) s

/-- `babsent` (R87). -/
def execBabsent (o : BitVec 12) (s : State) : Host.Outcome State Fault Refusal :=
  retire (.babsent o) s fun s => branch (s.me.br == 3) (off12 o) s

/-- `bany` (R87). -/
def execBany (m : Reg) (o : BitVec 12) (s : State) : Host.Outcome State Fault Refusal :=
  retire (.bany m o) s fun s => branch (s.me.m m.toNat != 0) (off12 o) s

/-- `ball` (R87). -/
def execBall (m : Reg) (o : BitVec 12) (s : State) : Host.Outcome State Fault Refusal :=
  retire (.ball m o) s fun s => branch (s.me.m m.toNat == 0xFFFF#16) (off12 o) s

/-- `bnone` (R87). -/
def execBnone (m : Reg) (o : BitVec 12) (s : State) : Host.Outcome State Fault Refusal :=
  retire (.bnone m o) s fun s => branch (s.me.m m.toNat == 0) (off12 o) s

/-- `bflag`: a flag of the own page; a number beyond it raises LOCAL-BOUNDS (R87). DESIGN CHOICE (notes/assumptions/28): in a poisoned word of the
page it reads the bit that stands there and raises nothing, as the list of traps in R87 names no POISON. -/
def execBflag (x : Reg) (o : BitVec 12) (s : State) : Host.Outcome State Fault Refusal :=
  retire (.bflag x o) s fun s =>
    if bits (s.me.s x.toNat) 8 56 ≠ 0 then .trap tLOCALBOUNDS (s.me.s x.toNat)
    else branch (s.me.flag (s.me.s x.toNat).toNat) (off12 o) s

/-- `c.beqz` (R104). -/
def execCBeqz (d : Reg) (i : BitVec 6) (s : State) : Host.Outcome State Fault Refusal :=
  retire (.cBeqz d i) s fun s => branch (s.me.s d.toNat == 0) (i.signExtend 64 <<< 1) s

/-- `c.bnez` (R104). -/
def execCBnez (d : Reg) (i : BitVec 6) (s : State) : Host.Outcome State Fault Refusal :=
  retire (.cBnez d i) s fun s => branch (s.me.s d.toNat != 0) (i.signExtend 64 <<< 1) s

/-! ## Jumps -/

/-- `jal` (R88). -/
def execJal (d : Reg) (o : BitVec 20) (s : State) : Host.Outcome State Fault Refusal :=
  retire (.jal d o) s fun s =>
    .jump (s.upd fun c => c.setS d.toNat (c.pc + 4)) (s.me.pc + (o.signExtend 64 <<< 1))

/-- `jalr`: the target is read before the link write; an odd one raises ALIGN (R88). -/
def execJalr (d a : Reg) (i : BitVec 15) (s : State) : Host.Outcome State Fault Refusal :=
  retire (.jalr d a i) s fun s =>
    let t := s.me.s a.toNat + imm15 i
    if bit t 0 then .trap tALIGN t else .jump (s.upd fun c => c.setS d.toNat (c.pc + 4)) t

/-- `c.j` (R104). -/
def execCJ (o : BitVec 11) (s : State) : Host.Outcome State Fault Refusal :=
  retire (.cJ o) s fun s => .jump s (s.me.pc + (o.signExtend 64 <<< 1))

/-- `c.ret`: `jalr s0, s1, 0` (R104). -/
def execCRet (s : State) : Host.Outcome State Fault Refusal :=
  retire (.cRet) s fun s =>
    let t := s.me.s 1
    if bit t 0 then .trap tALIGN t else .jump s t

end Sys2Proof.Machine
end

