-- ==== Sys2Proof/Machine/Group.lean ====
section
/-! DEFINITION. The cluster group: `once`, `detach`, `join`, `bar`, `lead` (R90 to R96), `rep` (R100 to R103, R188), and the
detachment of a core left behind (R205, R206). -/
namespace Sys2Proof.Machine

/-! ## once -/

/-- What stands behind a `once`: as issued to this core, or as it is fetched (R90). -/
def governedWhat (s : State) : Fetched :=
  let a := s.me.pc + 2
  match s.me.buf with
  | e :: _ => if e.addr = a then e.what else (fetchAt s s.cur.cl a).1
  | [] => (fetchAt s s.cur.cl a).1

/-- The instruction may not be governed (R91). -/
def onceRefused : Fetched → Bool
  | .instr i => i.onceRefuses
  | _ => false

/-- Take delivery of a `once`: the lowest-numbered receiver that has not dropped out is elected (R90). -/
def Cluster.takeOnce (k : Cluster) (id j : Nat) : Cluster :=
  let k : Cluster := { k with onces := k.onces.map fun (o : OnceRec) =>
    if o.id = id ∧ o.elected = none ∧ o.receivers.head? = some j then { o with elected := some j } else o }
  k.setCore j { k.core j with governed := some id, brSet := false, flagsRaised := 0 }

/-- What a `once` refuses as a whole (R91). -/
def onceRefusal (s : State) : Option (Nat × Word) := if onceRefused (governedWhat s) then some (tILLEGAL, Instr.once.word) else none

/-- `once` (R90, R91). -/
def execOnce (s : State) : Host.Outcome State Fault Refusal :=
  retireUnless .once (onceRefusal s) s fun s =>
    match s.me.taken.bind (·.once) with
    | some id => .stay ((s.upd fun c => c.retired 2).updCluster s.cur.cl fun k => k.takeOnce id s.cur.core)
    | none => .next s

/-! ## Leaving and joining -/

/-- `detach` (R92). -/
def execDetach (s : State) : Host.Outcome State Fault Refusal :=
  retire .detach s fun s =>
    if s.me.att then .next (s.updCluster s.cur.cl fun k => (k.detach s.cur.core 3).settle) else .next s

/-- `join k` and `bar k` at a core: its task decides (R93 to R95). -/
def joinAt (i : Instr) (n : Nat) (isBar : Bool) (s : State) : Eff :=
  if isBar && !s.drained s.cur 1 then stallFor .order s
  else if s.me.coreTask then local_ s fun c => { c with jpt := n }
  else
    let g := s.mine.group
    match g.join with
    | some (p, b) =>
      if p = n ∧ b = isBar then
        .stay ((s.upd fun c => { c.retired i.len with run := .joining }).updCluster s.cur.cl Cluster.completeJoin)
      else .trap tJOINMISMATCH (BitVec.ofNat 64 (p + n * 16))
    | none =>
      .stay (((s.upd fun c => { c.retired i.len with run := .joining }).updCluster s.cur.cl fun k =>
        { k with group := { k.group with join := some (n, isBar) } }).updCluster s.cur.cl Cluster.completeJoin)

/-- `join` (R93, R94). -/
def execJoin (k : Reg) (s : State) : Host.Outcome State Fault Refusal :=
  retire (.join k) s (joinAt (.join k) k.toNat false)

/-- `c.join` (R104). -/
def execCJoin (k : BitVec 4) (s : State) : Host.Outcome State Fault Refusal :=
  retire (.cJoin k) s (joinAt (.cJoin k) k.toNat false)

/-- `bar` (R95). -/
def execBar (k : Reg) (s : State) : Host.Outcome State Fault Refusal :=
  retire (.bar k) s (joinAt (.bar k) k.toNat true)

/-- What `lead` reads from the mask of the cores that receive it (R96). -/
def leadWord (mask self : Nat) : Word :=
  if mask = 0 then BitVec.ofNat 64 self
  else
    let low := ((List.range 8).find? fun j => mask / 2 ^ j % 2 == 1).getD 0
    BitVec.ofNat 64 (low + mask % 256 * 256)

/-- `lead` (R96). -/
def execLead (d : Reg) (s : State) : Host.Outcome State Fault Refusal :=
  retire (.lead d) s fun s => put d (leadWord (match s.me.taken with | some e => e.mask | none => 0) s.cur.core) s

/-- A blocked attached core at drift 16, or one that must decide a branch, detaches with WHY 2 and keeps what was issued to it
(R205, R206). -/
def mustDrift (k : Cluster) (j : Nat) : Bool :=
  (k.core j).att && k.blocked j &&
    (decide (16 ≤ (k.core j).buf.length) ||
      ((k.group.hold == .branch || k.group.hold == .rep) && k.leader == some j))

/-- A blocked core left behind detaches (R205, R206). -/
def execDriftDetach (r : CoreRef) (s : State) : Host.Outcome State Fault Refusal :=
  if mustDrift (s.cluster r.cl) r.core then
    .next (s.updCluster r.cl fun k => (k.detach r.core 2).settle)
  else .next s

/-! ## rep -/

/-- Why a `rep` refuses its body: a halfword that cannot be fetched, or the first refused word (R101). DESIGN CHOICE (notes/assumptions/43): a
word of CTL whose control register is not listed, or not writable, is refused at its pass and not here. -/
def bodyRefused (f : Word) (l : List (Word × Fetched)) : Option (Nat × Word) :=
  match l.findSome? fun p => match p.2 with | .fault a => some a | _ => none with
  | some a => some (tFETCH, a)
  | none => l.findSome? fun p => match p.2 with
    | .bad w _ => some (tILLEGAL, w.zeroExtend 64)
    | .instr i => if i.repRefuses || !i.legal f then some (tILLEGAL, i.word) else none
    | .fault _ => none

/-- Begin the passes of a `rep` (R100); a count of 0 skips the body. -/
def Core.beginRep (c : Core) (g : BitVec 3) (str len count : Nat) (body : List (Word × Fetched)) : Core :=
  let c := { c with wait := none, taken := none, transfer := none, fell := none, repCount := count }
  if count = 0 then { c.setCr Cr.repstate 0 with pc := afterBody body c.pc, fell := some c.pc }
  else { c.setCr Cr.repstate (repState g.toNat (str - 1) (len - 1) 0 0) with repBuf := body }

/-- The body of a `rep`: as the front end has decoded it for the group, or as it is fetched (R40, R100). -/
def repBody (l : Reg) (s : State) : List (Word × Fetched) :=
  let own := bodyAt s s.cur.cl (s.me.pc + 4) l.toNat
  match s.me.taken with
  | some e => if e.body = [] then own else e.body
  | none => own

/-- A core that is to execute a `rep` whose body the front end has not decoded fetches it (R101, R331, R336). -/
def State.fetchBody (s : State) : Fetched → State
  | .instr (.rep ad l zf b) =>
    if (Instr.rep ad l zf b).legal s.feat0 ∧ (s.me.taken.map (·.body)).getD [] = [] then bodyAfter s s.cur.cl (some s.cur) (s.me.pc + 4) l.toNat else s
  | _ => s

/-- `rep` (R100 to R103). -/
def execRep (a l w1 : Reg) (g : BitVec 3) (s : State) : Host.Outcome State Fault Refusal :=
  retireUnless (.rep a l w1 g) (bodyRefused s.feat0 (repBody l s)) s fun s =>
    let count := (s.me.s a.toNat).toNat % 2 ^ 32
    let s1 := s.upd fun c => c.beginRep g w1.toNat l.toNat count (repBody l s)
    if s.me.att then
      let differs := match s.me.taken.bind (·.count) with | some n => n != count | none => false
      .stay (s1.updCluster s.cur.cl fun k => (if differs then k.detach s.cur.core 1 else k).settle)
    else .stay s1

/-- The state after the fetch of a `rep` at which execution resumes, with its body (R188, R331, R336). -/
def State.fetchRep (s : State) : State :=
  let s1 := cacheAfter s s.cur.cl (some s.cur) s.me.pc
  match (fetchAt s1 s.cur.cl s.me.pc).1 with
  | .instr (.rep _ l _ _) => bodyAfter s1 s.cur.cl (some s.cur) (s.me.pc + 4) l.toNat
  | _ => s1

/-- What happens when execution resumes at an address with `REPSTATE`.ACT 1 (R188): a trap, the end of the `rep`, or a core
whose repetition buffer holds the body again. -/
def resumeRep (s : State) : Except (Nat × Word) Core :=
  let c := s.me
  let f := (fetchAt s s.cur.cl c.pc).1
  match f with
  | .fault a => .error (tFETCH, a)
  | .bad w _ => .error (tILLEGAL, w.zeroExtend 64)
  | .instr (.rep a l w1 g) =>
    if l.toNat = c.repLen + 1 ∧ w1.toNat = c.repStride ∧ g.toNat = c.repStag then
      let body := bodyAt s s.cur.cl (c.pc + 4) l.toNat
      match bodyRefused s.feat0 body with
      | some e => .error e
      | none =>
        let count := (c.s a.toNat).toNat % 2 ^ 32
        if c.repPass ≥ count then
          .ok { c.setCr Cr.repstate 0 with repCount := count, transfer := none, pc := afterBody body c.pc }
        else .ok { c with repBuf := body, repCount := count, transfer := none }
    else .error (tILLEGAL, (Instr.rep a l w1 g).word)
  | .instr i => .error (tILLEGAL, i.word)

end Sys2Proof.Machine
end

