-- ==== Sys2Proof/Machine/Workspace.lean ====
section
/-! DEFINITION. Workspace: `grow`, `shrink`, `swp`, `rdws` (R97 to R99). -/
namespace Sys2Proof.Machine

/-- The first bank of a range of store bytes that is not ARRAY. -/
def Core.notArray (c : Core) (a n : Nat) : Option Nat :=
  (List.range 16).find? fun b =>
    decide (b * 0x4000 < a + n ∧ a < b * 0x4000 + 0x4000) && kindOf (c.bank b).pers != 0

/-- A bank of a range is being converted. -/
def Core.convertingIn (c : Core) (a n : Nat) : Bool :=
  (List.range 16).any fun b => decide (b * 0x4000 < a + n ∧ a < b * 0x4000 + 0x4000) && (c.bank b).converting

/-- `grow` (R97). -/
def execGrow (n : Reg) (s : State) : Host.Outcome State Fault Refusal :=
  retire (.grow n) s fun s =>
    let c := s.me
    let len := 448 + 64 * n.toNat
    if n.toNat < c.nv then .trap tREGISTER (n.zeroExtend 64)
    else if c.wp + len - 1 > 0x3FFFF then .trap tLOCALBOUNDS (BitVec.ofNat 64 (c.wp + len - 1))
    else if c.convertingIn c.wp len then stall s
    else match c.notArray c.wp len with
      | some b => .trap tBANKPORT (BitVec.ofNat 64 (b * 0x4000))
      | none => local_ s fun c => c.setCr Cr.wsize (n.zeroExtend 64)

/-- `shrink` (R97). -/
def execShrink (n : Reg) (s : State) : Host.Outcome State Fault Refusal :=
  retire (.shrink n) s fun s =>
    if n.toNat > s.me.nv then .trap tREGISTER (n.zeroExtend 64)
    else local_ s fun c => c.setCr Cr.wsize (n.zeroExtend 64)

/-- `swp` (R98): the old `WP` is written into the new frame. -/
def execSwp (d a : Reg) (s : State) : Host.Outcome State Fault Refusal :=
  retire (.swp d a) s fun s =>
    let c := s.me
    let new := c.s a.toNat
    let len := 448 + 64 * c.nv
    let last := new.toNat + len - 1
    if bits new 62 2 ≠ 0 ∨ new.toNat > 0x3FFFF then .trap tLOCALBOUNDS new
    else if new.toNat % 128 ≠ 0 then .trap tALIGN new
    else if last > 0x3FFFF then .trap tLOCALBOUNDS (BitVec.ofNat 64 last)
    else if c.convertingIn new.toNat len then stall s
    else match c.notArray new.toNat len with
      | some b => .trap tBANKPORT (BitVec.ofNat 64 (b * 0x4000))
      | none => local_ s fun c => (c.setCr Cr.wp new).setS d.toNat (c.cr_ Cr.wp)

/-- The store offset of the frame word of a register of a class: 0 scalar, 1 mask, 2 vector (R99). -/
def frameWord (c : Core) (cls j : Nat) : Nat := if cls = 0 then sAddr c j else if cls = 1 then mAddr c j else vAddr c j

/-- `rdws` (R99). -/
def execRdws (d a b : Reg) (s : State) : Host.Outcome State Fault Refusal :=
  retire (.rdws d a b) s fun s => put d (BitVec.ofNat 64 (frameWord s.me b.toNat a.toNat)) s

end Sys2Proof.Machine
end

