-- ==== Sys2Proof/Machine/Activation.lean ====
section
/-! DEFINITION. The ready queue, trigger slots, frames and the start and end of activations (R171, R174, R194 to R203). -/
namespace Sys2Proof.Machine

/-! ## Ready queue -/

/-- Entries that the ready queue holds at most (R199). -/
def readyMax : Nat := 64

/-- The ready queue takes no entry more (R195). -/
def Core.readyFull (c : Core) : Bool := decide (readyMax ≤ c.ready.length)

/-- A valid class entry (R198). -/
def Core.classOf (c : Core) (n : Nat) : Option ClassE := afind c.classes n

/-- A new activation enters the ready queue behind the entries of equal priority (R199). -/
def Core.enqueue (c : Core) (cls slot : Nat) (item : Option Nat) (arg now : Word) : Core :=
  match c.classOf cls with
  | none => c
  | some e => { c with ready := c.ready ++ [⟨cls, e.prio, none, slot, item, arg, now, now⟩] }

/-- A parked activation enters the ready queue at its class priority (R199, R202). -/
def Core.requeue (c : Core) (a : Act) (now : Word) : Core :=
  { c with ready := c.ready ++ [⟨a.cls, a.prio, some a, a.slot, none, 0, now, now⟩] }

/-- The head of the highest non-empty level: its place in the queue (R199). -/
def Core.choice (c : Core) : Option Nat :=
  let top := c.ready.foldl (fun m e => max m e.level) 0
  c.ready.findIdx? fun e => e.level == top

/-! ## Inbox items -/

/-- Release an inbox item that the controller holds (R75, R196). -/
def Core.releaseItem (c : Core) (j : Nat) : Core :=
  match (c.bank 15).release j with
  | some b => { c.setBank 15 b with inboxRecq := adel c.inboxRecq j }
  | none => c

/-- A source word that names a core: its virtual cluster and core number (R173, R175). -/
def sourceCore (w : Word) : Option (Nat × Nat) :=
  if bits w 62 2 = 1 ∧ bits w 37 25 = 0 ∧ bits w 0 21 = 0 then some (bits w 24 13, bits w 21 3) else none

/-- The channel number of records on their way, which no message has (R169). -/
def recordChan : Nat := 8

/-- Report a message that no class handles to its sender, by a record on its way to the sender's bank (R294), or to the own record bank when
there is no item (R168, R173, R196, R197). DESIGN CHOICE (notes/assumptions/43): its UNIT is the bank controller. -/
def State.noHandler (s : State) (r : CoreRef) (item : Option Nat) : State :=
  match item with
  | none => s.record r (s.core r).recq 0 uBank kNOHANDLER 0 0
  | some j =>
    let it := (s.core r).inboxItem j
    let h := it.headD 0
    if bits h 46 2 = 3 then s
    else match sourceCore (it.getD 1 0) with
      | none => s
      | some (vc, n) =>
        let item := mkRecord (bits h 32 32) uBank n kNOHANDLER 0 h s.cyc
        let f : Flight :=
          { rel := none, src := r, fromStation := false, slot := (s.cluster r.cl).slot, vc := vc, core := n, chan := recordChan,
            body := .record item, addr := 0, recq := aget 14 (s.core r).inboxRecq j, since := none, launch := (s.cluster r.cl).launch, pid := (s.cluster r.cl).pid, issue := 0,
            eng := none, backed := false, joined := false, stage := .bank }
        { s with flight := s.flight ++ [f] }

/-! ## Trigger slots -/

/-- A trigger slot; unlisted ones are disarmed (R198). -/
def Core.trig (c : Core) (k : Nat) : Trig := aget ⟨.disarmed, 0, 0, none, 0, none⟩ c.trigs k

/-- Write a trigger slot. -/
def Core.setTrig (c : Core) (k : Nat) (t : Trig) : Core := { c with trigs := aput c.trigs k t }

/-- A Fire of this slot would put an entry into the ready queue (R171). -/
def Core.fireAdds (c : Core) (t : Trig) : Bool :=
  match t.binding with
  | some n => (c.classOf n).isSome
  | none => false

/-- Fire(k) (R171, R197): the slot holds its item, if any. -/
def State.fire (s : State) (r : CoreRef) (k : Nat) : State :=
  let c := s.core r
  let t := c.trig k
  match t.binding with
  | none => s.updCore r fun c => c.setTrig k { t with st := .pending }
  | some n =>
    if (c.classOf n).isSome then
      s.updCore r fun c => (c.setTrig k { t with st := .disarmed, item := none }).enqueue n k t.item t.arg s.cyc
    else
      let s := s.noHandler r t.item
      s.updCore r fun c =>
        let c := c.setTrig k { t with st := .disarmed, item := none }
        match t.item with | some j => c.releaseItem j | none => c

/-- A 32-bit count that saturates (R197). -/
def sat32 (n : Nat) : W32 := BitVec.ofNat 32 (min n 0xFFFFFFFF)

/-- `arm` at a slot (R171, R197). -/
def State.arm (s : State) (r : CoreRef) (k cnt : Nat) (arg : Word) : State :=
  let c := s.core r
  let br (s : State) (v : Nat) : State := s.updCore r fun c => c.setBr v
  if k > 62 then br s brABSENT
  else
    let t := c.trig k
    if t.st ≠ .disarmed then br s brFULL
    else if cnt ≤ t.early.toNat then
      if c.fireAdds t && c.readyFull then br s brFULL
      else
        let s := s.updCore r fun c =>
          c.setTrig k { t with early := BitVec.ofNat 32 (t.early.toNat - cnt), arg := arg, item := none }
        br (s.fire r k) brOK
    else
      br (s.updCore r fun c =>
        c.setTrig k { t with st := .armed, remaining := BitVec.ofNat 32 (cnt - t.early.toNat), early := 0, arg := arg }) brOK

/-- `bind` at a slot (R171). -/
def State.bindSlot (s : State) (r : CoreRef) (k : Nat) (v : Word) : State :=
  let c := s.core r
  let br (s : State) (x : Nat) : State := s.updCore r fun c => c.setBr x
  if k > 62 ∨ bits v 5 59 ≠ 0 then br s brABSENT
  else
    let t : Trig := { c.trig k with binding := if bit v 4 then none else some (bits v 0 4) }
    if t.st = .pending ∧ t.binding ≠ none then
      if c.fireAdds t && c.readyFull then br s brFULL
      else br ((s.updCore r fun c => c.setTrig k t).fire r k) brOK
    else br (s.updCore r fun c => c.setTrig k t) brOK

/-- Handle the item at the head of the inbox (R196, R197): none while the ready queue is full and the item would add an
entry (R195). -/
def State.handleItem (s : State) (r : CoreRef) : Option State :=
  let c := s.core r
  match (c.bank 15).acquire with
  | none => none
  | some (j, b) =>
    let h := (c.inboxItem j).headD 0
    let k := bits h 34 6
    let held := s.updCore r fun c => c.setBank 15 b
    if k = 63 then
      let n := bits h 40 4
      match c.classOf n with
      | some _ => if c.readyFull then none else some (held.updCore r fun c => c.enqueue n 63 (some j) 0 s.cyc)
      | none => some ((held.noHandler r (some j)).updCore r fun c => c.releaseItem j)
    else
      let d := bits h 26 8
      let t := c.trig k
      let drop (s : State) : State := s.updCore r fun c => c.releaseItem j
      if d = 0 then some (drop held)
      else match t.st with
        | .armed =>
          if d < t.remaining.toNat then
            some (drop (held.updCore r fun c => c.setTrig k { t with remaining := BitVec.ofNat 32 (t.remaining.toNat - d) }))
          else if c.fireAdds t && c.readyFull then none
          else
            let t' : Trig := { t with early := BitVec.ofNat 32 (d - t.remaining.toNat), remaining := 0, item := some j }
            some ((held.updCore r fun c => c.setTrig k t').fire r k)
        | _ => some (drop (held.updCore r fun c => c.setTrig k { t with early := sat32 (t.early.toNat + d) }))

/-! ## Frames -/

/-- Return a frame to the free list (R20, R174). -/
def Core.freeFrame (c : Core) (h : Nat) : Core :=
  { c with store := c.store.store (h + 40) 8 c.freeHead.toNat, freeHead := BitVec.ofNat 64 h }

/-- The activation info of offset 48 (R20). -/
def actInfo (slot cls prio : Nat) (cluster : Bool) : Nat := slot % 64 + cls % 16 * 64 + prio % 4 * 1024 + (if cluster then 4096 else 0)

/-- Set up a frame for a new activation (R201): the item's words, or those of an activation without one. -/
def Core.setUpFrame (c : Core) (h : Nat) (e : Ready) (k : ClassE) (item : List Word) (self : Word) : Core :=
  let m := (c.store.zero (h + 56) 72).zero (h + 128) 320
  let m := (m.zero (h + 448) (64 * k.nv)).store (h + 48) 8 (actInfo e.slot e.cls k.prio k.cluster)
  let pay := if item = [] then List.replicate 8 0 else (item.drop 4).take 8
  let regs := pay ++ [if item = [] then self else item.getD 1 0, if item = [] then e.stamp else item.getD 2 0,
    if e.slot = 63 && item != [] then 0 else e.arg]
  { c with store := m.putWords (h + 136) regs }

/-- Start the activation of a ready entry in a frame (R201, R203): a core entry runs, a cluster entry is accepted. -/
def Core.startAct (c : Core) (e : Ready) (k : ClassE) (now self : Word) : Core :=
  let h := c.freeHead.toNat
  let item := match e.item with | some j => c.inboxItem j | none => []
  let next := c.store.read8 (h + 40)
  let c := { c with freeHead := next }
  let c := c.setUpFrame h e k item self
  let c := match e.item with | some j => c.releaseItem j | none => c
  let c := ((c.setCr Cr.wp (BitVec.ofNat 64 h)).setCr Cr.wsize (BitVec.ofNat 64 k.nv)).setCr Cr.stat 0
  let c := ((c.setCr Cr.fpc 0).setCr Cr.repstate 0).setCr Cr.vprog 0
  let a : Act := ⟨h, e.cls, k.prio, k.cluster, e.slot, item, now, e.item.bind (afind c.inboxRecq)⟩
  { c with act := some a, pc := k.routine, att := false, why := if k.cluster then 0 else 6,
           run := if k.cluster then .accepted else .running, wait := none, taken := none, repBuf := [], transfer := none, fell := none }

/-- Load PC, `STAT`, `FPC`, `WSIZE` and `REPSTATE` from a frame header (R202). -/
def Core.loadHeader (c : Core) (h : Nat) : Core :=
  let rd (o : Nat) : Word := c.store.read8 (h + o)
  let c := ((c.setCr Cr.stat (rd 8 &&& 0x3FB#64)).setCr Cr.fpc (rd 16 &&& 0x1FF#64)).setCr Cr.wsize (BitVec.ofNat 64 (bits (rd 24) 0 5))
  { c.setCr Cr.repstate (rd 32) with pc := rd 0 }

/-- Resume a parked activation, which is a core task's (R202, R188, R207). -/
def Core.resumeAct (c : Core) (a : Act) : Core :=
  let c := (c.loadHeader a.frame).setCr Cr.wp (BitVec.ofNat 64 a.frame)
  { c.setCr Cr.vprog 0 with
    act := some a, run := .running, att := false, why := 6, wait := none, taken := none, repBuf := [], transfer := none, fell := none }

/-- The core may take an entry: it stands at an activation boundary, and no stop holds it (R199, R341). -/
def Core.mayStart (c : Core) : Bool := (c.run == .idle || c.run == .halted) && c.act.isNone && !c.stopped && c.stopReq.isNone

/-- A ready entry is taken and starts or resumes (R201, R202): none while the queue is empty or no frame is free (R200). -/
def State.startReady (s : State) (r : CoreRef) : Option State :=
  let c := s.core r
  if c.mayStart then
    match c.choice with
    | none => none
    | some i => match c.ready[i]? with
      | none => none
      | some e =>
        let c0 := { c with ready := dropAt c.ready i }
        match e.resume with
        | some a => some ((s.setCore r (c0.resumeAct a)).trace r 3)
        | none => match c.classOf e.cls with
          | none => none
          | some k =>
            if c.freeHead = BitVec.allOnes 64 then none
            else some ((s.setCore r (c0.startAct e k s.cyc (sourceWord s r))).trace r 1)
  else none

/-! ## The end of an activation -/

/-- The banks that a `halt` keeps record its successor class (R174, R236). -/
def Core.keep (c : Core) (k : Nat) : Core :=
  match afind c.keeps k with
  | none => c
  | some (mask, cls) =>
    (List.range 15).foldl (fun c b => if mask.getLsbD b then c.setBank b { c.bank b with keepClass := some cls } else c) c

/-- End the running activation of a core (R174, R338): its frame is freed, its item charged, its keep set recorded. -/
def Core.haltAct (c : Core) (k : Nat) (now : Word) : Core :=
  let h := if c.tm then (c.cr_ Cr.twpsave).toNat else c.wp
  let cluster := match c.act with | some a => a.cluster | none => false
  let c := match c.act with | some a => c.charge a now | none => c
  let c := (c.freeFrame h).keep k
  let c : Core := { c.setCr Cr.stat (setBits (c.cr_ Cr.stat) 3 1 0) with past := c.past || cluster }
  { c with act := none, run := c.resting, att := false, wait := none, taken := none, repBuf := [], transfer := none, fell := none }

end Sys2Proof.Machine
end

