-- ==== Sys2Proof/Machine/Tasks.lean ====
section
/-! DEFINITION. Messages and tasks as programs issue them (R167 to R175). -/
namespace Sys2Proof.Machine

/-! ## Posting (R72, R168, R251) -/

/-- The number under which a core remembers a closed channel to a core of its context (R251) or to a module (R311). -/
def chanKey (vc core : Nat) : Nat := vc * 8 + core
def moduleKey (m : Nat) : Nat := 65536 + m

/-- Post an item; on a closed channel it is dropped with a LINK-LOST record (R251). The DETAIL of a lost message is a free
value (notes/assumptions/24). -/
def State.post (s : State) (f : Flight) : State :=
  if (s.core f.src).closed.contains (chanKey f.vc f.core) then
    match f.body with
    | .msg it => s.record f.src f.recq (bits (it.headD 0) 32 32) uMesh tLINKLOST 0 (Config.freeWord s.free)
    | _ => s.record f.src f.recq 0 uMesh tLINKLOST f.addr f.addr
  else { s with flight := s.flight ++ [f] }

/-- A message as an inbox item before its arrival is stamped (Table 1 of spec/10). -/
def msgItem (h src now : Word) (pay : List Word) : List Word :=
  [h, src, now, 0] ++ (pay ++ List.replicate 8 0).take 8 ++ [0, 0, 0, 0]

/-- A message of the current core on its way to a core of its context. -/
def msgFlight (s : State) (h : Word) (core : Nat) (pay : List Word) : Flight :=
  { rel := none, src := s.cur, fromStation := false, slot := s.mine.slot, vc := bits h 51 13, core := core,
    chan := bits h 44 2, body := .msg (msgItem h (sourceWord s s.cur) s.cyc pay), addr := 0, recq := s.me.recq,
    since := none, launch := s.mine.launch, pid := s.mine.pid, issue := 0, eng := none, backed := false, joined := false, stage := .bank }

/-! ## send, sendm, reply -/

/-- The checks of `send` on a header and its first payload register (R168). -/
def sendFault (s : State) (h : Word) (b : Reg) (kindOk : Bool) : Option (Nat × Word) :=
  let n := bits h 22 4
  if n ≠ 0 ∧ b = 0#5 then some (tREGISTER, 0)
  else if n ≠ 0 ∧ b.toNat + n - 1 > 31 then some (tREGISTER, BitVec.ofNat 64 (b.toNat + n - 1))
  else if n > 8 ∨ bits h 0 22 ≠ 0 ∨ kindOk = false ∨ (placed s s.mine.slot (bits h 51 13)).isNone then some (tMESH, h)
  else none

/-- The payload words of a message (R168). -/
def payload (c : Core) (h : Word) (b : Reg) : List Word := (List.range (bits h 22 4)).map fun i => c.s (b.toNat + i)

/-- A header aimed at a core. -/
def aimed (h : Word) (core : Nat) : Word := setBits h 48 3 core

/-- `send` (R168, R169). -/
def execSend (a b : Reg) (s : State) : Host.Outcome State Fault Refusal :=
  retire (.send a b) s fun s =>
    let h := s.me.s a.toNat
    match sendFault s h b (bits h 46 2 == 0) with
    | some (c, v) => .trap c v
    | none => .next (s.post (msgFlight s h (bits h 48 3) (payload s.me h b)))

/-- `sendm`: one message to each core of a mask (R170). -/
def execSendm (a b c : Reg) (s : State) : Host.Outcome State Fault Refusal :=
  retire (.sendm a b c) s fun s =>
    let h := s.me.s a.toNat
    let mask := s.me.s c.toNat
    match sendFault s h b (bits h 46 2 == 0 && bits mask 8 56 == 0) with
    | some (c, v) => .trap c v
    | none =>
      .next (((List.range 8).filter fun j => bit mask j).foldl (fun (t : State) j =>
        t.post (msgFlight s (aimed h j) j (payload s.me h b))) s)

/-- `reply`: a message of kind 3 to the core that a source word names (R173). -/
def execReply (a b c : Reg) (s : State) : Host.Outcome State Fault Refusal :=
  retire (.reply a b c) s fun s =>
    let w := s.me.s c.toNat
    let dst := sourceCore w
    let h := match dst with
      | some (vc, n) => setBits (setBits (setBits (s.me.s a.toNat) 51 13 vc) 48 3 n) 46 2 3
      | none => s.me.s a.toNat
    match sendFault s h b dst.isSome with
    | some (c, v) => .trap c v
    | none => .next (s.post (msgFlight s h (bits h 48 3) (payload s.me h b)))

/-! ## arm, bind, spawn -/

/-- `arm` (R171). -/
def execArm (a b c : Reg) (s : State) : Host.Outcome State Fault Refusal :=
  retire (.arm a b c) s fun s =>
    .next (s.arm s.cur (s.me.s a.toNat).toNat ((s.me.s b.toNat).toNat % 2 ^ 32) (s.me.s c.toNat))

/-- `bind` (R171). -/
def execBind (a b : Reg) (s : State) : Host.Outcome State Fault Refusal :=
  retire (.bind a b) s fun s => .next (s.bindSlot s.cur (s.me.s a.toNat).toNat (s.me.s b.toNat))

/-- `spawn` at a core (R172). -/
def Core.spawn (c : Core) (cls arg now : Word) : Core :=
  match if bits cls 4 60 = 0 then c.classOf cls.toNat else none with
  | none => c.setBr brABSENT
  | some e =>
    if e.cluster then c.setBr brABSENT
    else if c.readyFull then c.setBr brFULL
    else (c.enqueue cls.toNat 63 none arg now).setBr brOK

/-- `spawn` (R172). -/
def execSpawn (a b : Reg) (s : State) : Host.Outcome State Fault Refusal :=
  retire (.spawn a b) s fun s => local_ s fun c => c.spawn (c.s a.toNat) (c.s b.toNat) s.cyc

/-! ## halt and self -/

/-- End the running activation; in a cluster task the core counts as arrived from now on (R174, R93, R183). -/
def haltState (k : Nat) (s : State) : State :=
  let s := s.trace s.cur 4
  let s := match s.me.governed.or s.me.obligation with
    | some id => s.updCluster s.cur.cl fun x => x.discharge s.cur.core id
    | none => s
  let s := s.updCluster s.cur.cl fun x => x.dropBuf s.cur.core
  let cluster := match s.me.act with | some a => a.cluster | none => false
  let s := s.upd fun c => c.haltAct k s.cyc
  if cluster then s.updCluster s.cur.cl fun x => x.settle.completeJoin else s

/-- `halt` (R174). -/
def execHalt (k : Reg) (s : State) : Host.Outcome State Fault Refusal :=
  retire (.halt k) s fun s => .stay (haltState k.toNat s)

/-- `c.halt` (R104). -/
def execCHalt (s : State) : Host.Outcome State Fault Refusal := retire .cHalt s fun s => .stay (haltState 0 s)

/-- `self` (R175). -/
def execSelf (d : Reg) (s : State) : Host.Outcome State Fault Refusal :=
  retire (.self d) s fun s => put d (sourceWord s s.cur) s

end Sys2Proof.Machine
end

