-- ==== Sys2Proof/Machine/System.lean ====
section
/-! DEFINITION. `trap`, `eret`, `stop`, `census`, `nop` (R176 to R180, R104), ILLEGAL of an unassigned encoding (R38), FETCH (R33,
R186) and the ENGINE trap (R191, R192). -/
namespace Sys2Proof.Machine

/-- `trap n` raises SOFTWARE (R176). -/
def execTrap (n : Reg) (s : State) : Host.Outcome State Fault Refusal :=
  retire (.trap n) s fun _ => .trap tSOFTWARE (n.zeroExtend 64)

/-- What `eret` loads breaks R20 or R29 (R177). -/
def Core.eretBad (c : Core) : Bool :=
  let nv := bits (c.store.read8 (c.wp + 24)) 0 5
  let rs := c.store.read8 (c.wp + 32)
  let w := (c.cr_ Cr.twpsave).toNat
  w % 128 != 0 || nv % 2 != 0 || decide (nv > 16) || !c.arrayRange w (448 + 64 * nv) || bits rs 46 18 != 0 ||
    bit rs 45 && decide (bits rs 32 4 > bits rs 36 4)

/-- The registers that `eret` restores (R177). ATT is not one of them: its home is the attached bit (notes/assumptions/36). -/
def Core.leaveTrap (c : Core) : Core :=
  let h := c.wp
  let rd (o : Nat) : Word := c.store.read8 (h + o)
  let c := ((c.setCr Cr.stat (rd 8 &&& 0x3F3#64)).setCr Cr.fpc (rd 16 &&& 0x1FF#64)).setCr Cr.wsize (BitVec.ofNat 64 (bits (rd 24) 0 5))
  let c := (c.setCr Cr.repstate (rd 32)).setCr Cr.wp (c.cr_ Cr.twpsave)
  { c with repBuf := [], shadowEpc := if c.shadowEpc = some (c.cr_ Cr.epc) then c.shadowEpc else none }

/-- Take up the governed instruction again at its address, or discharge the obligation (R189). -/
def Cluster.resumeOnce (k : Cluster) (j : Nat) (e : Word) : Cluster :=
  let c := k.core j
  match c.obligation with
  | none => k
  | some id =>
    if k.onces.any fun o => o.id == id && o.addr == e then
      k.setCore j { c with governed := some id, obligation := none, brSet := false, flagsRaised := 0 }
    else k.discharge j id

/-- `eret` (R177, R183, R189). -/
def execEret (s : State) : Host.Outcome State Fault Refusal :=
  retireUnless .eret (if s.me.tm = false ∨ s.me.eretBad = true then some (tILLEGAL, Instr.eret.word) else none) s fun s =>
    let e := s.me.cr_ Cr.epc
    let s1 := s.upd Core.leaveTrap
    .jump (if s.me.obligation.isSome then s1.updCluster s.cur.cl fun k => k.resumeOnce s.cur.core e else s1) e

/-- `stop n`: a stop is requested when stops are enabled (R178, R341). -/
def execStop (n : Reg) (s : State) : Host.Outcome State Fault Refusal :=
  retire (.stop n) s fun s =>
    local_ s fun c => if bit (c.cr_ Cr.dbgctl) 0 then { c with stopReq := some n.toNat } else c

/-- The two words of a census entry (R179). -/
def Census.words (e : Census) : List Word :=
  [e.site, BitVec.ofNat 64 (e.nan + e.inf * 2 ^ 16 + e.sat * 2 ^ 32 + e.unf * 2 ^ 48)]

/-- The 128 words of a census table (R179). -/
def censusWords (l : List Census) : List Word :=
  (l.flatMap Census.words ++ List.replicate 128 0).take 128

/-- `census` (R179). -/
def execCensus (a c : Reg) (s : State) : Host.Outcome State Fault Refusal :=
  retire (.census a c) s fun s =>
    let addr := s.me.s a.toNat
    if addr.toNat > 0x3FFFF then .trap tLOCALBOUNDS addr
    else if addr.toNat % 1024 ≠ 0 then .trap tALIGN addr
    else if s.me.arrayRange addr.toNat 1024 = false then .trap tBANKPORT addr
    else
      let tab := s.mine.census
      let s1 := s.upd fun k => { k with store := k.store.putWords addr.toNat (censusWords tab) }
      .next (if c = 1#5 then s1.updCluster s.cur.cl fun k => { k with
          census := k.census.map fun (e : Census) => { e with nan := 0, inf := 0, sat := 0, unf := 0 } }
        else s1)

/-- `nop` (R180). -/
def execNop (s : State) : Host.Outcome State Fault Refusal := retire .nop s fun s => .next s

/-- `c.nop` (R104). -/
def execCNop (s : State) : Host.Outcome State Fault Refusal := retire .cNop s fun s => .next s

/-- A word or halfword that no table assigns raises ILLEGAL before any effect (R38). -/
def execUnassignedEncoding (w : W32) (_half : Bool) (s : State) : Host.Outcome State Fault Refusal :=
  .next (s.raise tILLEGAL (w.zeroExtend 64))

/-- A fetch that fails raises FETCH at the instruction, with the address that could not be fetched (R33, R186). -/
def execFetchFault (a : Word) (s : State) : Host.Outcome State Fault Refusal := .next (s.raise tFETCH a)

/-- A pending ENGINE request may be taken: a boundary of a running activation, outside trap mode (R191). -/
def Core.engineDue (c : Core) : Bool :=
  c.engPend && !c.tm && c.run == .running && c.pend.isNone && c.conv.isNone

/-- The trap value of ENGINE: the slot of the oldest record committed since the last ENGINE trap, or 0 while a record is held (R191). -/
def Core.engineValue (c : Core) : Word := if c.held = [] then c.engSlot.getD 0 else 0

/-- A posted store or flag request of a core to itself is on its way: the core's own accesses keep their order (R72, R240, R245). -/
def State.selfPosted (s : State) (r : CoreRef) : Bool :=
  s.flight.any fun f => !f.fromStation && f.src == r && match f.body with
    | .store _ _ | .flag _ _ => (match meshTarget s f.slot f.vc f.core with | some (t, _) => t == r | none => false)
    | _ => false

/-- A pending ENGINE request is taken at the next instruction boundary; a wait in progress is abandoned (R191). The header stores of the
entry follow the core's own posted stores to itself (R181, R240). -/
def execEngineTrap (r : CoreRef) (s : State) : Host.Outcome State Fault Refusal :=
  let c := s.core r
  if c.engineDue && !c.stopped && !s.selfPosted r then
    .next ((s.updCore r fun c => { c with engPend := false, engSlot := none }).trapAt r tENGINE c.pc c.engineValue)
  else .next s

end Sys2Proof.Machine
end

