-- ==== Sys2Proof/Machine/Spread.lean ====
section
/-! DEFINITION. Spread structures: the fields of `SPREAD` registers, shard positions and routing (R217, R233 to R235). -/
namespace Sys2Proof.Machine

def spV (w : Word) : Bool := bit w 63
def spKind (w : Word) : Nat := bits w 60 3
def spBank (w : Word) : Nat := bits w 55 4
def spBins (w : Word) : Nat := bits w 43 12 + 1
def spVcBase (w : Word) : Nat := bits w 21 13
def spVcCount (w : Word) : Nat := bits w 8 13
def spCores (w : Word) : Nat := bits w 0 8

/-- The shard personality that a `SPREAD` register describes. -/
def spPers (w : Word) : W32 :=
  BitVec.ofNat 32 (spKind w + (if spKind w = 1 then (if bit w 59 then 8 else 4) else 0) * 65536)

/-- The cores of a core mask, ascending. -/
def maskCores (m : Nat) : List Nat := (List.range 8).filter fun j => m / 2 ^ j % 2 == 1

/-- The position p of R217 in clusters from `base` and the cores of a mask: virtual cluster and core. -/
def positionOf (base cores p : Nat) : Nat × Nat :=
  let cs := maskCores cores
  let n := max cs.length 1
  (base + p / n, cs.getD (p % n) 0)

/-- Shards of a structure (R233). -/
def spShards (w : Word) : Nat := (maskCores (spCores w)).length * (spVcCount w + 1)

/-- The shard index of a core, if it is a member. -/
def spIndex (w : Word) (vc core : Nat) : Option Nat :=
  let cs := maskCores (spCores w)
  match cs.findIdx? fun j => j == core with
  | some i => if spVcBase w ≤ vc ∧ vc ≤ spVcBase w + spVcCount w then some ((vc - spVcBase w) * cs.length + i) else none
  | none => none

/-- The descriptor of an owner matches the kind and bank that a request carries; a window that the owner has closed still does (R234,
R235). -/
def spMatches (owner w : Word) : Bool := spKind owner == spKind w && spBank owner == spBank w

/-- Where a window access goes (Table 7 of spec/12): a shard with its key there and whether it probes further shards, or ABSENT
at once. -/
inductive Route where
  | shard (i : Nat) (key : Word) (probes : Bool)
  | absent
deriving DecidableEq, Repr

/-- Routing of an access at port p from home shard h. -/
def spRoute (w : Word) (h p : Nat) (isStore : Bool) (key : Word) : Route :=
  let S := spShards w
  if p = 0x18 ∨ p = 0x20 then .shard h key false
  else match spKind w with
  | 3 => .shard (key.toNat * 0x9E3779B1 % 2 ^ 32 * S / 2 ^ 32) key false
  | 5 =>
    if key.toNat ≥ S * spBins w then .absent
    else .shard (key.toNat / spBins w) (BitVec.ofNat 64 (key.toNat % spBins w)) false
  | 1 => .shard h key (!isStore && p != 0x10)
  | _ => .shard h key (!isStore)

/-- The window refuses an access: its port, size or key (R63, R235). -/
def spRefuses (w : Word) (p : Nat) (op : AccOp) (key : Word) : Bool :=
  let b := Bank.blank 0 (spPers w)
  !([0, 8, 0x10, 0x18, 0x20].contains p) ||
  match op with
  | .load n sg => (portLoad b p n sg key 0).isNone
  | .store n d => (portStore b p n d key 0 false).isNone
  | _ => true

end Sys2Proof.Machine
end

