-- ==== Sys2Proof/Machine/Pins.lean ====
section
/-! DEFINITION. Descriptors of engine commands as far as they name banks (R77, R155, R158, R162, R165), and the banks that they
pin (R67, R127, R212). -/
namespace Sys2Proof.Machine

/-! ## Matrix descriptors -/

/-- KIND of a descriptor: 0 ring, 1 array. -/
def dKind (d : Word) : Nat := bits d 62 2
def dCore (d : Word) : Nat := bits d 59 3
def dBank (d : Word) : Nat := bits d 55 4
def dPops (d : Word) : Nat := bits d 52 3
def dOff (d : Word) : Nat := bits d 48 4
/-- K blocks of an operand descriptor. -/
def dKb (d : Word) : Nat := bits d 46 2 + 1
def dTbl (d : Word) : Nat := bits d 42 2
def dAddr (d : Word) : Nat := bits d 0 18
def oFmt (d : Word) : Nat := bits d 52 3
def oTbl (d : Word) : Nat := bits d 50 2
def oRows (d : Word) : Nat := bits d 43 5 + 1
def oCols (d : Word) : Nat := bits d 38 5 + 1

/-- Bytes of a slab of a format pair: 0 bf16, 1 t8, 2 mx8, 3 fp4 (Table 9 of spec/04). -/
def slabBytes (p : Nat) : Nat := match p with | 0 => 2048 | 1 => 1056 | 2 => 1056 | _ => 544

/-- Bytes of an operand item (R77). -/
def operandBytes (p kb : Nat) : Nat := 64 + slabBytes p * kb

/-- Bytes of an output tile (R159). -/
def tileBytes (o : Nat) : Nat := match o with | 0 => 4160 | 1 => 2112 | _ => 1120

/-- The banks that a byte range of a store touches. -/
def banksOf (a n : Nat) : List Nat :=
  (List.range 16).filter fun b => decide (b * 0x4000 < a + max n 1 ∧ a < b * 0x4000 + 0x4000)

/-- Cores and banks that a descriptor names: a ring, or the banks of an array of `n` bytes. -/
def namedBanks (d : Word) (n : Nat) : List (Nat × Nat) :=
  if dKind d = 0 then [(dCore d, dBank d)] else (banksOf (dAddr d) n).map fun b => (dCore d, b)

/-- The ring banks among the descriptors of a queued command (R67, R212). -/
def MCmd.rings (q : MCmd) : List (Nat × Nat) :=
  let ring (d : Word) : List (Nat × Nat) := if dKind d = 0 then [(dCore d, dBank d)] else []
  match q.instr with
  | .mma _ _ _ _ _ | .mmaz _ _ _ _ _ => ring q.sa ++ ring q.sb
  | .mstream _ _ _ _ _ => ring q.sa ++ ring q.sb ++ ring q.sc1
  | .mstore _ _ _ => ring q.sa
  | _ => []

/-- The banks of a cluster's cores that a queued or running matrix command of a core pins (R127). -/
def MCmd.pins (core : Nat) (q : MCmd) : List (Nat × Nat) :=
  let op (d : Word) (p : Nat) : List (Nat × Nat) := namedBanks d (operandBytes p (dKb d))
  match q.instr with
  | .mma _ _ _ _ p | .mmaz _ _ _ _ p => op q.sa p.toNat ++ op q.sb p.toNat
  | .mstream _ _ _ _ p => op q.sa p.toNat ++ op q.sb p.toNat ++ namedBanks q.sc1 0
  | .mstore _ _ _ => namedBanks q.sa (tileBytes (oFmt q.sa))
  | .mload _ _ => if bits q.sa 18 46 = 0 then (banksOf q.sa.toNat 4096).map fun b => (core, b) else []
  | _ => []

/-- A queued command names an accumulator. -/
def MCmd.names (q : MCmd) (n : Nat) : Bool :=
  match q.instr with
  | .mma d _ _ _ _ | .mmaz d _ _ _ _ | .mstream d _ _ _ _ | .mzero d | .mstore d _ _ | .mload d _ => d.toNat == n
  | _ => false

/-- A bank of a core is a ring named by a queued matrix command of the cluster (R67). -/
def Cluster.ringNamed (k : Cluster) (core b : Nat) : Bool :=
  (List.range 8).any fun j => (k.core j).mq.any fun q => q.rings.contains (core, b)

/-- R67 refuses a clear: the inbox, or a ring named by a queued command. -/
def Cluster.clearHeld (k : Cluster) (core b : Nat) : Bool := b == 15 || k.ringNamed core b

/-! ## Copies and rule jobs -/

/-- The virtual cluster, core and store offset that an own-core address of a core, or a mesh address, names. -/
def Cluster.localAddr (k : Cluster) (core : Nat) (a : Word) : Option (Nat × Nat × Nat) :=
  match placeOf a with
  | .ok (.own o) => if o < 0x40000 then some (k.vc, core, o) else none
  | .ok (.mesh vc c o) => if o < 0x40000 then some (vc, c, o) else none
  | _ => none

/-- The banks that a byte range at an address touches: virtual cluster, core and bank. -/
def Cluster.pinsAt (k : Cluster) (core : Nat) (x : Word × Nat) : List (Nat × Nat × Nat) :=
  match k.localAddr core x.1 with
  | some (vc, c, o) => (banksOf o x.2).map fun b => (vc, c, b)
  | none => []

/-- A byte offset from an address. -/
def plus (a : Word) (n : Nat) : Word := a + BitVec.ofNat 64 n

/-- Runs of bytes at a stride. -/
def strided (a d : Word) (rows n : Nat) : List (Word × Nat) := (List.range rows).map fun i => (a + BitVec.ofNat 64 i * d, n)

def CReq.mode (q : CReq) : Nat := bits q.w0 60 4
def CReq.elem (q : CReq) : Nat := 2 ^ bits q.w0 56 4
def CReq.blk (q : CReq) : Word := BitVec.ofNat 64 (bits q.w0 0 56)
def CReq.len (q : CReq) : Nat := bits q.w3 0 32
/-- A word of the parameter block as read at the start. -/
def CReq.b (q : CReq) (i : Nat) : Word := q.block.getD i 0
/-- A mode that reads a parameter block. -/
def CReq.needsBlock (q : CReq) : Bool := q.mode != 0 && q.mode != 7

/-- A request with its block and coordinates as read at its start, or as they stand in its core's store (R218). -/
def CReq.asRead (c : Core) (q : CReq) : CReq :=
  if q.started || !q.needsBlock then q
  else
    let q1 : CReq := { q with block := c.store.words q.blk.toNat 4 }
    if q.mode = 2 then
      { q1 with coords := (List.range (bits (q1.b 1) 0 16)).map fun j => (c.store.read4 ((q1.b 0).toNat + 4 * j)).zeroExtend 64 }
    else q1

/-- The byte ranges that a request reads and writes (R166, R217, R218, R221). -/
def CReq.ranges (q : CReq) : List (Word × Nat) :=
  match q.mode with
  | 1 =>
    let rows := bits (q.b 0) 0 32
    let n := bits (q.b 0) 32 32
    strided q.w1 (q.b 1) rows n ++ strided q.w2 (q.b 2) rows n
  | 2 =>
    let pitch := bits (q.b 1) 32 32
    let h := bits (q.b 1) 16 8
    let w := bits (q.b 1) 24 8 * q.elem
    ((List.range (bits (q.b 1) 0 16)).flatMap fun j =>
      let c := q.coords.getD j 0
      strided (plus q.w1 (bits c 0 16 * pitch + bits c 16 16 * q.elem)) (BitVec.ofNat 64 pitch) h w) ++ [(q.w2, q.len)]
  | 3 => strided q.w1 (q.b 1) (bits (q.b 0) 0 32) (bits (q.b 0) 32 32 * q.elem) ++ [(q.w2, q.len)]
  | 4 => [(q.w1, q.len)] ++ strided q.w2 (q.b 1) (bits (q.b 0) 0 32) (bits (q.b 0) 32 32 * q.elem)
  | 5 =>
    let n := bits (q.b 0) 0 32
    let cores := bits q.pattern 16 8
    let m := (maskCores cores).length * (bits q.pattern 24 13 + 1)
    (q.w1, q.len) :: (List.range (q.len / n)).map fun j =>
      let t := positionOf (bits q.pattern 37 13) cores (j % m)
      (meshAddr t.1 t.2 ((BitVec.ofNat 64 (bits q.w2 0 20) + BitVec.ofNat 64 (j / m) * q.b 1).toNat % 2 ^ 20), n)
  | 6 => [(q.w1, q.len), (q.w2, (q.b 2).toNat)]
  | 7 => [(q.w2, q.len)]
  | _ => [(q.w1, q.len), (q.w2, q.len)]

/-- The banks that an incomplete copy names: source, destination, parameter block, counter (R127). -/
def CReq.pins (k : Cluster) (core : Nat) (q : CReq) : List (Nat × Nat × Nat) :=
  let q1 := q.asRead (k.core core)
  q1.ranges.flatMap (k.pinsAt core) ++ (if q.needsBlock then k.pinsAt core (q.blk, 32) else []) ++
    [(k.vc, q.counter.1, q.counter.2 / 0x4000)]

/-- NVEC and LEN of a rule job's descriptor (R162). -/
def nvecOf (ws : List Word) : Nat := bits (ws.getD 3 0) 56 2 + 1
def lenOf (ws : List Word) : Nat := bits (ws.getD 3 0) 0 32

/-- A 32-bit word of a segment as it stands: none where it cannot be read (R162, R224). -/
def segmentWord (s : State) (cl core : Nat) (a : Word) : Option W32 :=
  let k := s.cluster cl
  match placeOf a with
  | .ok (.own o) => if o < 0x40000 then some ((k.core core).store.read4 o) else none
  | .ok (.mesh vc c o) =>
    if o < 0x40000 then (meshTarget s k.slot vc c).map fun t => (s.core t.1).store.read4 o else none
  | .ok (.global va) => (match translate s cl k.slot va .read with
    | .ok p => (ownHbm s p).map fun h => s.hbm.read4 h
    | .error _ => none)
  | _ => none

/-- The row indexes that a segment's END-ROW words name, up to its END-SEGMENT (R223, R224). -/
def segmentRows (s : State) (cl core : Nat) (a : Word) : Nat → List Nat
  | 0 => []
  | n + 1 => match segmentWord s cl core a with
    | none => []
    | some w =>
      let x := w.toNat
      if x / 2 ^ 26 = 0x22 then []
      else if x / 2 ^ 26 = 0x21 then x % 2 ^ 16 :: segmentRows s cl core (a + 4) n
      else segmentRows s cl core (a + 4) n

/-- The banks that a rule job names: descriptor, segment, the rows of its y destination, counter (R127). -/
def Job.pins (s : State) (cl : Nat) (j : Job) : List (Nat × Nat × Nat) :=
  let k := s.cluster cl
  let ws := j.desc4 k
  let ctr := counterOfDesc ws
  let n := 4 * nvecOf ws
  k.pinsAt j.core (j.desc, 32) ++ k.pinsAt j.core (ws.getD 0 0, lenOf ws) ++ k.pinsAt j.core (ws.getD 2 0, 4) ++
    (segmentRows s cl j.core (ws.getD 0 0) (lenOf ws / 4)).flatMap (fun r => k.pinsAt j.core (plus (ws.getD 2 0) (n * r), n)) ++
    [(k.vc, ctr.1, ctr.2 / 0x4000)]

/-- An incomplete copy or rule job of a cluster names a bank. -/
def State.engineNames (s : State) (cl : Nat) (x : Nat × Nat × Nat) : Bool :=
  let k := s.cluster cl
  ((List.range 8).any fun j => (k.core j).copies.any fun q => (q.pins k j).contains x) || k.jobs.any fun j => (j.pins s cl).contains x

/-- A bank of a core is pinned: a matrix command of its cluster, or a copy or rule job of its context, names it, or its group by the first
bank (R127, R230, R231). -/
def State.pinned (s : State) (cl core b : Nat) : Bool :=
  let k := s.cluster cl
  let names (b : Nat) : Bool :=
    ((List.range 8).any fun j => (k.core j).mq.any fun q => (q.pins j).contains (core, b)) ||
      s.clusters.any fun p => p.2.slot == k.slot && s.engineNames p.1 (k.vc, core, b)
  names b || names ((k.core core).bank b).first

end Sys2Proof.Machine
end

