-- ==== Sys2Proof/Machine/Memory.lean ====
section
/-! DEFINITION. Loads and stores: reaching a location (R105 to R113), tags of protected operations (R116), and the scalar
memory instructions (R106 to R112, R104). An access to the own store is performed in the instruction; any other is handed on,
and the steps of Homes.lean bring it home (notes/assumptions/13). -/
namespace Sys2Proof.Machine

/-- An access as an instruction asks for it. `scale` is nonzero where the owner decides between port and scaled address
(R108); `ord` is 1 for acquire, 2 for release, 3 for both; `posts` marks the vector stores that are posted at every offset
(R72). -/
structure Ask where
  op : AccOp
  addr : Word
  key : Word
  scale : Nat
  hint : Nat
  ord : Nat
  scope : Nat
  lane : Nat
  vec : Option Lanes
  posts : Bool
deriving DecidableEq, Repr

/-- What becomes of an access: done, refused, on its way, or to be tried again. -/
inductive Got where
  | done (s : State) (r : Resp)
  | fault (cause : Nat) (v : Word)
  | away (s : State)
  | again (w : Cond)
deriving DecidableEq, Repr

/-- A plain scalar access. -/
def Ask.scalar (op : AccOp) (a : Word) : Ask := ⟨op, a, 0, 0, 0, 0, 7, 16, none, false⟩

/-- Address and key of a format-MX access (R108): address, key, and the size where the owner decides. -/
def mxAddress (c : Core) (base idx : Word) (size : Nat) : Word × Word × Nat :=
  let scaled := base + idx * BitVec.ofNat 64 size
  match placeOf base with
  | .ok (.own o) => if o < 0x40000 && c.isPort o then (base, idx, 0) else (scaled, 0, 0)
  | .ok (.window _ _) => (base, idx, 0)
  | .ok (.mesh _ _ o) => if idx ≠ 0 ∧ o < 0x40000 ∧ o % 0x4000 < 0x40 then (base, idx, size) else (scaled, 0, 0)
  | _ => (scaled, 0, 0)

/-- The access releases (R111, R114). -/
def Ask.releases (k : Ask) : Bool := k.ord / 2 % 2 == 1

/-- An AMO. -/
def AccOp.isAmo : AccOp → Bool
  | .amo _ _ _ _ => true
  | _ => false

/-- A load. -/
def AccOp.isLoad : AccOp → Bool
  | .load _ _ | .vload _ => true
  | _ => false

/-- A store. -/
def AccOp.isStore : AccOp → Bool
  | .store _ _ | .vstore _ _ => true
  | .keyed st _ _ _ => st
  | _ => false

/-- Operands and encoding that a reissue must share (R116): the order field of an instruction. -/
def orderOf : Instr → Nat × Nat
  | .amoadd _ _ _ o s _ | .amoand _ _ _ o s _ | .amoor _ _ _ o s _ | .amoxor _ _ _ o s _ | .amomin _ _ _ o s _
  | .amomax _ _ _ o s _ | .amominu _ _ _ o s _ | .amomaxu _ _ _ o s _ | .amoswap _ _ _ o s _ | .amocas _ _ _ o s _
  | .amoincb _ _ _ o s _ | .amofadd _ _ _ o s => (o.toNat, s.toNat)
  | .ldx _ _ _ _ o s _ | .stx _ _ _ _ o s _ => (o.toNat, s.toNat)
  | _ => (0, 7)

/-- Whether the operation takes a tag: an AMO, or a structured operation, beyond the own store (R116). -/
def protected_ (op : AccOp) (addr : Word) : Bool :=
  op.isAmo || match placeOf addr with
    | .ok (.mesh _ _ o) => decide (o < 0x40000 ∧ o % 0x4000 < 0x40)
    | .ok (.window _ _) => true
    | _ => false

/-- Take a tag for a protected operation: that of the reissue record when this operation matches it in time, else a new one;
outside trap mode the record is consumed (R116). -/
def Core.takeTag (c : Core) (i : Instr) (op : AccOp) (addr key now : Word) (new : Nat) : Nat × Bool × Core :=
  if c.tm then (new, false, c)
  else match c.reissue with
    | none => (new, false, c)
    | some r =>
      if r.addr = addr ∧ r.idx = key ∧ r.op = op ∧ orderOf r.instr = orderOf i ∧ (now - r.cyc).toNat ≤ 16384 then
        (r.tag, true, { c with reissue := none })
      else (new, false, { c with reissue := none })

/-- Hand an access on: it is outstanding at a stage, and the instruction waits for its answer. -/
def State.sendOut (s : State) (i : Instr) (k : Ask) (addr key : Word) (spread : Option Nat) (st : Stage) : State :=
  ({ s with nextTag := s.nextTag + 1 } : State).upd fun c =>
    let t := if protected_ k.op addr then c.takeTag i k.op addr key s.cyc s.nextTag else (0, false, c)
    let a : Access :=
      { op := k.op, instr := i, addr := addr, idx := key, asked := (addr, key), scale := k.scale, hint := k.hint, lane := k.lane, vec := k.vec,
        spread := spread, probe := 0, tag := t.1, reissue := t.2.1, since := none,
        rel := if k.releases && k.op.isStore then some k.scope else none, far := false, joined := false, counted := false, stage := st }
    { t.2.2 with pend := some a }

/-- The number of a 64-byte line of a core's store in the view of an issuing core (R255). -/
def lineKey (issuer core off : Nat) : Nat := issuer * 32768 + core * 4096 + off / 64

/-- A core's own store replaces the line it touches in what its own matrix commands read (R152, R255). -/
def Cluster.ownStore (k : Cluster) (issuer core off : Nat) : Cluster :=
  if k.opBuf = [] then k else { k with opBuf := adel k.opBuf (lineKey issuer core off) }

/-- An access to the own store or flag page (R62 to R71, R113). -/
def ownAccess (s : State) (k : Ask) (o : Nat) : Got :=
  let c := s.me
  let noPort := k.lane != 16 && !(match k.op with | .keyed _ _ _ _ => true | _ => false)
  let isPort := match c.hit o k.op.size with | .port _ _ => decide (o < 0x40000) | _ => false
  if noPort && isPort then .fault tBANKPORT (k.op.first k.addr)
  else
    let r := storeAccess c k.op o k.key 0 (sourceWord s s.cur) (fun b => s.mine.clearHeld s.cur.core b) k.addr
    if o < 0x40000 && waitsAt c o k.op.size k.key r.1 then .again .port
    else match r.1 with
      | .trap e v => .fault e v
      | x =>
        let c1 : Core := if k.op.isAmo && !c.tm then { r.2 with reissue := none } else r.2
        .done ((s.upd fun _ => c1).updCluster s.cur.cl fun q =>
          if k.op.isLoad then q else q.ownStore s.cur.core s.cur.core o) x

/-- `vldk` and `vstk`. -/
def keyedForm : Instr → Bool
  | .vldk _ _ _ _ | .vstk _ _ _ _ => true
  | _ => false

/-- An access to a spread window (R113, R235). -/
def windowAccess (s : State) (i : Instr) (k : Ask) (d p : Nat) : Got :=
  let w := s.me.cr_ (Cr.spread0 + d)
  if !spV w then .fault tLOCALBOUNDS k.addr
  else if (k.lane != 16 && !keyedForm i) || spRefuses w p k.op k.key then .fault tBANKPORT k.addr
  else match spIndex w s.mine.vc s.cur.core with
    | none => .fault tMESH k.addr
    | some h => match spRoute w h p k.op.isStore k.key with
      | .absent => .done s (.value 0 (some brABSENT))
      | .shard _ _ _ => .away (s.sendOut i k k.addr k.key (some d) .bank)

/-- A remote store that is posted (R72). -/
def Ask.isPosted (k : Ask) (o : Nat) : Bool :=
  match k.op with
  | .store _ _ => k.posts || !decide (o < 0x40000 ∧ o % 0x4000 < 0x40)
  | .vstore _ _ => true
  | _ => false

/-- An access to a sibling's or another cluster's store (R72, R111, R251). -/
def meshAccess (s : State) (i : Instr) (k : Ask) (vc core o : Nat) : Got :=
  if k.isPosted o then
    .done (s.post { rel := if k.releases then some k.scope else none, src := s.cur, fromStation := false, slot := s.mine.slot,
                    vc := vc, core := core, chan := 0, body := .store o k.op, addr := k.addr, recq := s.me.recq,
                    since := none, launch := s.mine.launch, pid := s.mine.pid, issue := 0, eng := none, backed := false, joined := false, stage := .bank })
      (.value 0 none)
  else if s.me.closed.contains (chanKey vc core) then .fault tLINKLOST k.addr
  else .away (s.sendOut i k k.addr k.key none .bank)

/-- One access under R105. A release that is posted, to another store or to global memory, leaves at once and waits on its way; any other
holds the core until the stores before it have been performed, as its own store's order agrees with program order (R111, R243;
notes/assumptions/13). -/
def attempt (s : State) (i : Instr) (k : Ask) : Got :=
  match placeOf k.addr with
  | .error e => .fault e k.addr
  | .ok p =>
    let n := k.op.size
    let absent : Bool := match p with
      | .mesh vc core _ => (meshTarget s s.mine.slot vc core).isNone
      | _ => false
    let past (o : Nat) : Bool := decide (0x40000 ≤ o ∧ 0x40020 < o + n)
    if absent then .fault tMESH k.addr
    else if k.addr.toNat % n ≠ 0 then .fault tALIGN k.addr
    else match (match p with
      | .own o => if past o then some tLOCALBOUNDS else none
      | .mesh _ _ o => if past o then some tMESH else none
      | _ => none : Option Nat) with
    | some e => .fault e k.addr
    | none =>
      if k.releases && !(match p with | .mesh _ _ o => k.isPosted o | .global _ => k.op.isStore | _ => false) &&
          !s.drained s.cur k.scope then .again .order
      else match p with
        | .own o => ownAccess s k o
        | .window d q => windowAccess s i k d q
        | .mesh vc core o => meshAccess s i k vc core o
        | .global _ => .away (s.sendOut i k k.addr 0 none .translate)

/-- The result of an access, in the register and BR. -/
def Core.takeResp (c : Core) (d : Option Nat) (r : Resp) : Core :=
  match r with
  | .value w br =>
    let c := match d with | some j => c.setS j w | none => c
    match br with | some b => c.setBr b | none => c
  | _ => c

/-- The effect of a scalar memory instruction that writes register `d` or none. -/
def scalarEff (i : Instr) (d : Option Nat) (s : State) (k : Ask) : Eff :=
  match attempt s i k with
  | .done t r => .next (t.upd fun c => c.takeResp d r)
  | .fault e v => .trap e v
  | .away t => .stay t
  | .again w => stallFor w s

/-- The register that a scalar memory instruction writes: its destination, for a load or an AMO. -/
def destOf (i : Instr) : Option Nat := (i.uses.find? fun u => u.pos == .d && u.cls == .s && u.wr).map (·.num)

/-- S(A) + sext(DISP15, 15) (R106). -/
def mdAddr (c : Core) (a : Reg) (i : BitVec 15) : Word := c.s a.toNat + imm15 i

/-- A displacement load (R109). -/
def loadMd (i : Instr) (d a : Reg) (n : BitVec 15) (size : Nat) (sg : Bool) (s : State) : Eff :=
  scalarEff i (some d.toNat) s (Ask.scalar (.load size sg) (mdAddr s.me a n))

/-- A displacement store (R110). -/
def storeMd (i : Instr) (d a : Reg) (n : BitVec 15) (size : Nat) (s : State) : Eff :=
  scalarEff i none s (Ask.scalar (.store size (s.me.s d.toNat)) (mdAddr s.me a n))

/-- `ldb` (R109). -/
def execLdb (d a : Reg) (n : BitVec 15) (s : State) : Host.Outcome State Fault Refusal :=
  retire (.ldb d a n) s (loadMd (.ldb d a n) d a n 1 true)

/-- `ldbz` (R109). -/
def execLdbz (d a : Reg) (n : BitVec 15) (s : State) : Host.Outcome State Fault Refusal :=
  retire (.ldbz d a n) s (loadMd (.ldbz d a n) d a n 1 false)

/-- `ldh` (R109). -/
def execLdh (d a : Reg) (n : BitVec 15) (s : State) : Host.Outcome State Fault Refusal :=
  retire (.ldh d a n) s (loadMd (.ldh d a n) d a n 2 true)

/-- `ldhz` (R109). -/
def execLdhz (d a : Reg) (n : BitVec 15) (s : State) : Host.Outcome State Fault Refusal :=
  retire (.ldhz d a n) s (loadMd (.ldhz d a n) d a n 2 false)

/-- `ldw` (R109). -/
def execLdw (d a : Reg) (n : BitVec 15) (s : State) : Host.Outcome State Fault Refusal :=
  retire (.ldw d a n) s (loadMd (.ldw d a n) d a n 4 true)

/-- `ldwz` (R109). -/
def execLdwz (d a : Reg) (n : BitVec 15) (s : State) : Host.Outcome State Fault Refusal :=
  retire (.ldwz d a n) s (loadMd (.ldwz d a n) d a n 4 false)

/-- `ldd` (R109). -/
def execLdd (d a : Reg) (n : BitVec 15) (s : State) : Host.Outcome State Fault Refusal :=
  retire (.ldd d a n) s (loadMd (.ldd d a n) d a n 8 false)

/-- `stb` (R110). -/
def execStb (d a : Reg) (n : BitVec 15) (s : State) : Host.Outcome State Fault Refusal :=
  retire (.stb d a n) s (storeMd (.stb d a n) d a n 1)

/-- `sth` (R110). -/
def execSth (d a : Reg) (n : BitVec 15) (s : State) : Host.Outcome State Fault Refusal :=
  retire (.sth d a n) s (storeMd (.sth d a n) d a n 2)

/-- `stw` (R110). -/
def execStw (d a : Reg) (n : BitVec 15) (s : State) : Host.Outcome State Fault Refusal :=
  retire (.stw d a n) s (storeMd (.stw d a n) d a n 4)

/-- `std` (R110). -/
def execStd (d a : Reg) (n : BitVec 15) (s : State) : Host.Outcome State Fault Refusal :=
  retire (.std d a n) s (storeMd (.std d a n) d a n 8)

/-- `c.ldd`: `ldd sD, [sR]` (R104). -/
def execCLdd (d r : Reg) (s : State) : Host.Outcome State Fault Refusal :=
  retire (.cLdd d r) s (loadMd (.cLdd d r) d r 0 8 false)

/-- `c.std`: `std sD, [sR]` (R104). -/
def execCStd (d r : Reg) (s : State) : Host.Outcome State Fault Refusal :=
  retire (.cStd d r) s (storeMd (.cStd d r) d r 0 8)

/-- Size and sign of an SZ code (R35): b, h, w, d, bz, hz, wz. -/
def szOf (z : BitVec 3) : Nat × Bool :=
  match z with
  | 0#3 => (1, true) | 1#3 => (2, true) | 2#3 => (4, true) | 3#3 => (8, false)
  | 4#3 => (1, false) | 5#3 => (2, false) | _ => (4, false)

/-- An access of format MX (R108, R111, R112). -/
def mxAsk (c : Core) (op : AccOp) (a b : Reg) (o : BitVec 2) (sc : BitVec 3) (h : BitVec 2) : Ask :=
  let m := mxAddress c (c.s a.toNat) (c.s b.toNat) op.size
  { op := op, addr := m.1, key := m.2.1, scale := m.2.2, hint := h.toNat, ord := o.toNat, scope := sc.toNat, lane := 16,
    vec := none, posts := false }

/-- `ldx` (R111). -/
def execLdx (d a b : Reg) (z : BitVec 3) (o : BitVec 2) (c : BitVec 3) (h : BitVec 2) (s : State) :
    Host.Outcome State Fault Refusal :=
  retire (.ldx d a b z o c h) s fun s =>
    scalarEff (.ldx d a b z o c h) (some d.toNat) s (mxAsk s.me (.load (szOf z).1 (szOf z).2) a b o c h)

/-- `stx` (R111). -/
def execStx (d a b : Reg) (z : BitVec 3) (o : BitVec 2) (c : BitVec 3) (h : BitVec 2) (s : State) :
    Host.Outcome State Fault Refusal :=
  retire (.stx d a b z o c h) s fun s =>
    scalarEff (.stx d a b z o c h) none s (mxAsk s.me (.store (szOf z).1 (s.me.s d.toNat)) a b o c h)

end Sys2Proof.Machine
end

