-- ==== Sys2Proof/Machine/Sync.lean ====
section
/-! DEFINITION. Atomic operations (R114 to R116), fences (R117 to R119), waits and flags (R120 to R126). -/
namespace Sys2Proof.Machine

/-! ## Atomic operations -/

/-- An AMO (R114): operation, width bit, order and scope. -/
def amoEff (i : Instr) (fn : Nat) (d a b : Reg) (o : BitVec 2) (sc : BitVec 3) (w : BitVec 1) (s : State) : Eff :=
  let c := s.me
  scalarEff i (some d.toNat) s
    { op := .amo fn (if w = 1#1 then 8 else 4) (c.s b.toNat) (c.s d.toNat), addr := c.s a.toNat, key := 0, scale := 0,
      hint := 0, ord := o.toNat, scope := sc.toNat, lane := 16, vec := none, posts := false }

/-- `amoadd` (R114). -/
def execAmoadd (d a b : Reg) (o : BitVec 2) (sc : BitVec 3) (w : BitVec 1) (s : State) : Host.Outcome State Fault Refusal :=
  retire (.amoadd d a b o sc w) s (amoEff (.amoadd d a b o sc w) 0 d a b o sc w)

/-- `amoand` (R114). -/
def execAmoand (d a b : Reg) (o : BitVec 2) (sc : BitVec 3) (w : BitVec 1) (s : State) : Host.Outcome State Fault Refusal :=
  retire (.amoand d a b o sc w) s (amoEff (.amoand d a b o sc w) 1 d a b o sc w)

/-- `amoor` (R114). -/
def execAmoor (d a b : Reg) (o : BitVec 2) (sc : BitVec 3) (w : BitVec 1) (s : State) : Host.Outcome State Fault Refusal :=
  retire (.amoor d a b o sc w) s (amoEff (.amoor d a b o sc w) 2 d a b o sc w)

/-- `amoxor` (R114). -/
def execAmoxor (d a b : Reg) (o : BitVec 2) (sc : BitVec 3) (w : BitVec 1) (s : State) : Host.Outcome State Fault Refusal :=
  retire (.amoxor d a b o sc w) s (amoEff (.amoxor d a b o sc w) 3 d a b o sc w)

/-- `amomin` (R114). -/
def execAmomin (d a b : Reg) (o : BitVec 2) (sc : BitVec 3) (w : BitVec 1) (s : State) : Host.Outcome State Fault Refusal :=
  retire (.amomin d a b o sc w) s (amoEff (.amomin d a b o sc w) 4 d a b o sc w)

/-- `amomax` (R114). -/
def execAmomax (d a b : Reg) (o : BitVec 2) (sc : BitVec 3) (w : BitVec 1) (s : State) : Host.Outcome State Fault Refusal :=
  retire (.amomax d a b o sc w) s (amoEff (.amomax d a b o sc w) 5 d a b o sc w)

/-- `amominu` (R114). -/
def execAmominu (d a b : Reg) (o : BitVec 2) (sc : BitVec 3) (w : BitVec 1) (s : State) : Host.Outcome State Fault Refusal :=
  retire (.amominu d a b o sc w) s (amoEff (.amominu d a b o sc w) 6 d a b o sc w)

/-- `amomaxu` (R114). -/
def execAmomaxu (d a b : Reg) (o : BitVec 2) (sc : BitVec 3) (w : BitVec 1) (s : State) : Host.Outcome State Fault Refusal :=
  retire (.amomaxu d a b o sc w) s (amoEff (.amomaxu d a b o sc w) 7 d a b o sc w)

/-- `amoswap` (R114). -/
def execAmoswap (d a b : Reg) (o : BitVec 2) (sc : BitVec 3) (w : BitVec 1) (s : State) : Host.Outcome State Fault Refusal :=
  retire (.amoswap d a b o sc w) s (amoEff (.amoswap d a b o sc w) 8 d a b o sc w)

/-- `amocas` (R114). -/
def execAmocas (d a b : Reg) (o : BitVec 2) (sc : BitVec 3) (w : BitVec 1) (s : State) : Host.Outcome State Fault Refusal :=
  retire (.amocas d a b o sc w) s (amoEff (.amocas d a b o sc w) 9 d a b o sc w)

/-- `amoincb` (R114). -/
def execAmoincb (d a b : Reg) (o : BitVec 2) (sc : BitVec 3) (w : BitVec 1) (s : State) : Host.Outcome State Fault Refusal :=
  retire (.amoincb d a b o sc w) s (amoEff (.amoincb d a b o sc w) 11 d a b o sc w)

/-- `amofadd` (R115). -/
def execAmofadd (d a b : Reg) (o : BitVec 2) (sc : BitVec 3) (s : State) : Host.Outcome State Fault Refusal :=
  retire (.amofadd d a b o sc) s (amoEff (.amofadd d a b o sc) 10 d a b o sc 0)

/-! ## Fences -/

/-- Channels that a completed fence of a scope reopens (R251, R311). -/
def Core.reopen (c : Core) (scope : Nat) : Core :=
  { c with closed := c.closed.filter fun k => !(decide (4 ≤ scope) && (decide (k < 65536) || scope == 6)) }

/-- `fence` of a scope: it waits until everything posted has been performed within the scope (R117, R246). -/
def fenceEff (scope : Nat) (s : State) : Eff :=
  if s.drained s.cur scope then local_ s fun c => c.reopen scope else stallFor .order s

/-- `fence` (R117). -/
def execFence (sc : BitVec 3) (s : State) : Host.Outcome State Fault Refusal :=
  retire (.fence sc) s (fenceEff sc.toNat)

/-- The engine command that wrote an item has ended (R254). -/
def Flight.ended (s : State) (f : Flight) : Bool :=
  match f.eng with
  | none => false
  | some e => !((s.core f.src).copies.any fun q => q.seq == e.seq) &&
      !(s.cluster f.src.cl).jobs.any fun j => j.core == f.src.core && j.seq == e.seq

/-- A write of the host or of a peer. -/
def GuestOp.writes : GuestOp → Bool
  | .read _ | .window _ => false
  | _ => true

/-- Writes through a path that a core may have observed as complete and that are not yet performed at a home that a scope of the core
covers: its own posted stores, the writes of engine commands that have ended (R254), and those of the host and of peers (R118). -/
def State.unsettled (s : State) (r : CoreRef) (path scope : Nat) : Bool :=
  match path with
  | 0 => !s.drained r scope
  | 5 => s.guests.any fun g => g.peer.isNone && g.op.writes && s.scopeCoversPhys scope r.cl g.a
  | 6 => s.guests.any fun g => g.peer.isSome && g.op.writes && s.scopeCoversPhys scope r.cl g.a
  | _ => s.flight.any fun f => (match f.eng with | some e => e.path == path | none => false) && f.ended s && f.homeCovered s r scope

/-- The read buffer of a path is emptied (R255). -/
def Cluster.dropBuffer (k : Cluster) (path : Nat) : Cluster :=
  match path with
  | 2 => { k with opBuf := [] }
  | 3 => { k with ruleBuf := [] }
  | _ => k

/-- `pfence` (R118, R255, R256): it waits until what its core has observed of path a is performed within the scope, and empties the read
buffer of path b. -/
def execPfence (a b : Reg) (sc : BitVec 3) (s : State) : Host.Outcome State Fault Refusal :=
  retire (.pfence a b sc) s fun s =>
    if a = 0#5 ∧ b = 0#5 then fenceEff sc.toNat s
    else if s.unsettled s.cur a.toNat sc.toNat then stallFor .order s
    else .next (s.updCluster s.cur.cl fun k => k.dropBuffer b.toNat)

/-- An instruction that the front end holds, decoded again from what memory holds; not one of a `rep` body in progress (R119). -/
def State.redecode (s : State) (cl : Nat) (e : Issued) : State × Issued :=
  if e.pass.isSome then (s, e)
  else
    let s1 := cacheAfter s cl none e.addr
    let f := (fetchAt s1 cl e.addr).1
    let x := bodyOf s1 cl (e.addr + BitVec.ofNat 64 f.len) f
    (x.1, { e with what := f, body := x.2 })

/-- Every instruction issued to a core and not delivered, decoded again. -/
def State.redecodeAll (s : State) (r : CoreRef) : State :=
  let x := (s.core r).buf.foldl (fun (p : State × List Issued) e => let q := p.1.redecode r.cl e; (q.1, p.2 ++ [q.2])) (s, [])
  x.1.updCore r fun c => { c with buf := x.2 }

/-- The cluster's instruction cache and every decoded instruction that its front end holds are invalidated, and what is still to be
delivered is fetched again (R119). -/
def State.refetch (s : State) (cl : Nat) : State :=
  (List.range 8).foldl (fun (s : State) j => s.redecodeAll ⟨cl, j⟩) (s.updCluster cl fun k => { k with icache := [] })

/-- `ifence` (R119). -/
def execIfence (s : State) : Host.Outcome State Fault Refusal :=
  retire .ifence s fun s => .next (s.refetch s.cur.cl)

/-! ## Counters -/

/-- Where a counter that a wait names lies: the core of the cluster and the offset, or the trap (R121). -/
def counterAt (s : State) (a : Word) : Except Nat (Nat × Nat) :=
  let check (core o : Nat) : Except Nat (Nat × Nat) :=
    if o % 8 ≠ 0 then .error tALIGN
    else if (s.mine.core core).counterPlace o = false then .error tBANKPORT
    else if (s.mine.core core).run = .sealed then .error tREMOTEERROR
    else .ok (core, o)
  match placeOf a with
  | .error e => .error (if e = tLOCALBOUNDS then tLOCALBOUNDS else tMESH)
  | .ok (.own o) => check s.cur.core o
  | .ok (.window _ _) => .error (if a.toNat % 8 ≠ 0 then tALIGN else tBANKPORT)
  | .ok (.mesh vc core o) => if vc = s.mine.vc then check core o else .error tMESH
  | .ok (.global _) => .error tMESH

/-- An aligned place in the store of a core of the cluster: whether a counter may lie there, and whether its core is sealed, is seen when
the counter is read (R121, R123). -/
def State.storePlace (s : State) (a : Word) : Bool :=
  match placeOf a with
  | .ok (.own o) => o % 8 == 0 && decide (o < 0x40000)
  | .ok (.mesh vc _ o) => vc == s.mine.vc && o % 8 == 0 && decide (o < 0x40000)
  | _ => false

/-- A counter that a wait names lies in a bank that is being converted: its read is answered RETRY (R230). -/
def State.counterConverts (s : State) (a : Word) : Bool :=
  let on (core o : Nat) : Bool :=
    o % 8 == 0 && decide (o < 0x40000) && (s.mine.core core).run != .sealed && ((s.mine.core core).bank (o / 0x4000)).converting
  match placeOf a with
  | .ok (.own o) => on s.cur.core o
  | .ok (.mesh vc core o) => vc == s.mine.vc && on core o
  | _ => false

/-- A wait that a converting bank answers RETRY is tried again, and after 2^16 cycles it raises MESH (R230). -/
def waitConverting (addr : Word) (s : State) : Eff :=
  let since := match s.me.wait with | some (.converting t) => t | _ => s.cyc
  if 2 ^ 16 ≤ (s.cyc - since).toNat then .trap tMESH addr else stallFor (.converting since) s

/-- A counter of a core of the cluster. -/
def counterWord (s : State) (p : Nat × Nat) : Word := (s.mine.core p.1).store.read8 p.2

/-- Whether a counter value satisfies a target, and the result it gives (R122). -/
def counterMeets (w target : Word) : Option Nat :=
  if bit w 63 then some brFULL else if bits w 0 48 ≥ bits target 0 48 then some brOK else none

/-- Posted items of the current core to a sibling are still under way (R245). -/
def State.postedTo (s : State) (core : Nat) : Bool :=
  s.flight.any fun f => !f.fromStation && f.src == s.cur && f.chan == 0 &&
    match meshTarget s f.slot f.vc f.core with
    | some (r, _) => r == ⟨s.cur.cl, core⟩
    | none => false

/-- `waitge` (R122). -/
def execWaitge (d a b : Reg) (s : State) : Host.Outcome State Fault Refusal :=
  retire (.waitge d a b) s fun s =>
    let addr := s.me.s a.toNat
    if s.counterConverts addr then waitConverting addr s
    else match counterAt s addr with
    | .error e => .trap e addr
    | .ok p =>
      if s.postedTo p.1 then stallFor .order s
      else
        let w := counterWord s p
        match counterMeets w (s.me.s b.toNat) with
        | some r => local_ s fun c => (c.setS d.toNat w).setBr r
        | none => s.waitFor (.counter p.1 p.2 (s.me.s b.toNat))

/-- `waitp` (R123). -/
def execWaitp (d a b c : Reg) (s : State) : Host.Outcome State Fault Refusal :=
  retire (.waitp d a b c) s fun s =>
    let addr := s.me.s a.toNat
    if s.storePlace addr = true ∧ s.cyc < s.me.s c.toNat then s.waitFor (.time (s.me.s c.toNat))
    else if s.counterConverts addr then waitConverting addr s
    else match counterAt s addr with
    | .error e => .trap e addr
    | .ok p =>
      if s.postedTo p.1 then stallFor .order s
      else
        let w := counterWord s p
        match counterMeets w (s.me.s b.toNat) with
        | some r => local_ s fun c => (c.setS d.toNat w).setBr r
        | none => .trap tPROMISEMISSED w

/-- `sleep` (R124). -/
def execSleep (a : Reg) (s : State) : Host.Outcome State Fault Refusal :=
  retire (.sleep a) s fun s =>
    if s.cyc < s.me.s a.toNat then s.waitFor (.time (s.me.s a.toNat)) else .next s

/-! ## Flags -/

/-- A flag number beyond the page (R125). -/
def flagBad (w : Word) : Bool := bits w 8 56 != 0

/-- `fwait` (R125). -/
def execFwait (a v c : Reg) (s : State) : Host.Outcome State Fault Refusal :=
  retire (.fwait a v c) s fun s =>
    let f := s.me.s a.toNat
    if flagBad f then .trap tLOCALBOUNDS f
    else if s.me.flag f.toNat = (v == 1#5) then .next s
    else s.waitFor (.flag f.toNat (v == 1#5))

/-- `fset` and `fclr` (R125): an own flag at once, another core's by a posted request on channel 0. -/
def flagEff (a b c : Reg) (v : Bool) (s : State) : Eff :=
  let f := s.me.s a.toNat
  let t := s.me.s b.toNat
  let rel := if c = 7#5 then none else some c.toNat
  if flagBad f then .trap tLOCALBOUNDS f
  else if t = 0 then
    (match rel with
    | some sc => if s.drained s.cur sc then local_ s fun c => c.setFlag f.toNat v else stallFor .order s
    | none => local_ s fun c => c.setFlag f.toNat v)
  else match placeOf t with
    | .ok (.mesh vc core o) =>
      if o = 0x40000 ∧ (meshTarget s s.mine.slot vc core).isSome then
        .next (s.post { rel := rel, src := s.cur, fromStation := false, slot := s.mine.slot, vc := vc, core := core, chan := 0,
                        body := .flag f.toNat v, addr := t, recq := s.me.recq, since := none, launch := s.mine.launch, pid := s.mine.pid, issue := 0, eng := none,
                        backed := false, joined := false, stage := .bank })
      else .trap tMESH t
    | _ => .trap tMESH t

/-- `fset` (R125). -/
def execFset (a b c : Reg) (s : State) : Host.Outcome State Fault Refusal :=
  retire (.fset a b c) s (flagEff a b c true)

/-- `fclr` (R125). -/
def execFclr (a b c : Reg) (s : State) : Host.Outcome State Fault Refusal :=
  retire (.fclr a b c) s (flagEff a b c false)

/-- `ftest` (R125). -/
def execFtest (d a : Reg) (s : State) : Host.Outcome State Fault Refusal :=
  retire (.ftest d a) s fun s =>
    let f := s.me.s a.toNat
    if flagBad f then .trap tLOCALBOUNDS f else put d (flag1 (s.me.flag f.toNat)) s

/-! ## yield -/

/-- A ready entry that `yield` lets run (R126). -/
def Core.yields (c : Core) : Bool :=
  match c.act with
  | some a => !a.cluster && !c.tm && c.ready.any fun e => decide (a.prio ≤ e.level)
  | none => false

/-- Give way: the activation parks and re-enters the ready queue at its own priority, at once or as soon as the queue has room (R199;
notes/assumptions/25). -/
def Core.giveWay (c : Core) (now : Word) : Core :=
  match c.act with
  | some a =>
    if c.readyFull then c.park (.time 0)
    else { (c.saveHeader c.wp c.pc).requeue { a with frame := c.wp } now with
      act := none, run := c.resting, wait := none, taken := none, repBuf := [], transfer := none }
  | none => c

/-- `yield` (R126). -/
def execYield (s : State) : Host.Outcome State Fault Refusal :=
  retire .yield s fun s =>
    if s.me.yields then .stay (((s.finish .yield).trace s.cur 2).upd fun c => c.giveWay s.cyc) else .next s

/-! ## The end of a wait -/

/-- A stall that is tried again at each turn. -/
def Cond.polls : Cond → Bool
  | .retry | .port | .order | .converting _ => true
  | _ => false

/-- A wait on a counter is executed again when its word meets the target; on a sealed core, to raise REMOTE-ERROR (R324); and behind a
conversion that leaves no counter there, to raise BANK-PORT (R230). A converting bank answers no read. -/
def Core.counterHolds (c : Core) (off : Nat) (t : Word) : Bool :=
  c.run == .sealed || !(c.bank (off / 0x4000)).converting && (!c.counterPlace off || (counterMeets (c.store.read8 off) t).isSome)

/-- A condition holds for a core (R120 to R125, R160, R161). -/
def Cond.holds (s : State) (r : CoreRef) : Cond → Bool
  | .retry | .port | .order | .converting _ => true
  | .counter core off t => (s.core ⟨r.cl, core⟩).counterHolds off t
  | .time t => decide (t ≤ s.cyc)
  | .flag f v => (s.core r).flag f == v
  | .matrix none => (s.core r).mq == []
  | .matrix (some n) => !(s.core r).mq.any fun q => q.names n

/-- The core's blocked wait, or a parked activation, whose condition is met: a blocked core resumes, a parked activation becomes
ready when the queue has room (R120, R199, R202). `frame` names the activation. -/
def execWaitSatisfied (r : CoreRef) (frame : Nat) (s : State) : Host.Outcome State Fault Refusal :=
  let c := s.core r
  if c.wp = frame ∧ (match c.wait with | some w => !w.polls && w.holds s r | none => false) = true then
    .next (s.updCore r fun c => { c with wait := none })
  else match c.parked.find? fun p => p.act.frame == frame && p.cond.holds s r with
    | some p =>
      if c.readyFull then .next s
      else .next (s.updCore r fun c => ({ c with parked := c.parked.filter fun q => q.act.frame != frame } : Core).requeue p.act s.cyc)
    | none => .next s

end Sys2Proof.Machine
end

