-- ==== Sys2Proof/Machine/Convert.lean ====
section
/-! DEFINITION. Ordered views and conversions of banks (R227, R228, R231, R232). -/
namespace Sys2Proof.Machine

/-- An element of an ordered view: a 64-bit element, with whether its source holds 4-byte items, or one whole slot item. -/
inductive Elem where
  | word (w : Word) (four : Bool)
  | slot (l : List Byte)
deriving DecidableEq, Repr

/-- A structure holds 4-byte items. -/
def fourByte (p : W32) : Bool := (kindOf p == 1 || kindOf p == 2) && itemOf p == 4

/-- Bytes of an element of an ARRAY source for a target (Table 1 of spec/12). -/
def arrayElem (target : W32) : Nat := if isSlotBank target then itemOf target else if fourByte target then 4 else 8

/-- Bytes between the header of an ARRAY image of size code `g` and its end. -/
def imageSpace (g : Nat) : Nat := groupSize g * 0x4000 - 0x40

/-- The ordered view of an ARRAY image; none where its count exceeds what fits (R227, R228). -/
def Core.arrayView (c : Core) (f g : Nat) (target : W32) : Option (List Elem) :=
  let base := f * 0x4000
  let n := (c.store.read8 base).toNat
  let sz := arrayElem target
  if n * sz > imageSpace g then none
  else some ((List.range n).map fun k =>
    let a := base + 0x40 + k * sz
    if isSlotBank target then .slot (c.store.bytes a sz)
    else if sz = 4 then .word ((c.store.read4 a).zeroExtend 64) true
    else .word (c.store.read8 a) false)

/-- The slots of a slot bank in the order of its view (R227). -/
def Bank.viewSlots (b : Bank) : List Nat :=
  let l := (b.ring.filter fun p => p.2 == .item || p.2 == .acquired).map (·.1)
  if kindOf b.pers = 2 then l.reverse else l

/-- The ordered view of a structure that starts at bank f (Table 1 of spec/12). -/
def Core.view (c : Core) (f g : Nat) (target : W32) : Option (List Elem) :=
  let b := c.bank f
  if kindOf b.pers = 0 then c.arrayView f g target
  else if isSlotBank b.pers then
    some (b.viewSlots.map fun j => .slot (c.store.bytes (slotAddr b 0 j).toNat (itemOf b.pers)))
  else
    let l := if kindOf b.pers = 2 then b.items.reverse else b.items
    some (l.map fun e => .word e (fourByte b.pers))

/-- Add to a HIST bin with saturation (R228). -/
def addBinTo (l : List Word) (k v : Nat) : List Word :=
  let new := min ((findKey k l).getD 0 + v) 0xFFFFFFFF
  if new = 0 then l else setKey k new l

/-- Write slot items one after another. -/
def putSlots (m : Memory) (a item : Nat) : List (List Byte) → Memory
  | [] => m
  | l :: t => putSlots (m.storeBytes a ((l ++ List.replicate item 0).take item)) (a + item) item t

/-- The 64-bit elements of a view. -/
def elemWords (l : List Elem) : List (Word × Bool) := l.filterMap fun e => match e with | .word w f => some (w, f) | _ => none

/-- The slot items of a view. -/
def elemSlots (l : List Elem) : List (List Byte) := l.filterMap fun e => match e with | .slot x => some x | _ => none

/-- Write an ARRAY image (Table 2 of spec/12): every other byte is zero. -/
def arrayImage (m : Memory) (f g n size : Nat) (data : List (List Byte)) : Memory :=
  let base := f * 0x4000
  ((m.zero base (groupSize g * 0x4000)).store base 8 n).storeBytes (base + 0x40) (data.flatMap fun l => (l ++ List.replicate size 0).take size)

/-- A structure without contents. -/
def Bank.fresh (b : Bank) (p : W32) (f g : Nat) : Bank :=
  { b with pers := p, items := [], ring := [], nextSlot := 0, first := f, gsize := g }

/-- Give the banks of a structure their personality. -/
def Core.label (c : Core) (f g : Nat) (p : W32) : Core :=
  if kindOf p = 0 then (List.range (groupSize g)).foldl (fun (c : Core) i => c.setBank (f + i) ((c.bank (f + i)).fresh p (f + i) 0)) c
  else (List.range (groupSize g)).foldl (fun (c : Core) i => c.setBank (f + i) ((c.bank (f + i)).fresh p f g)) c

/-- Build the target of a view in banks f on (R228): none where the kinds are not allowed together or the entries exceed the
capacity. Slot and other elements together have no layout (notes/assumptions/31). -/
def Core.build (c : Core) (f g : Nat) (p : W32) (l : List Elem) : Option Core :=
  let ws := elemWords l
  let ss := elemSlots l
  let c1 := c.label f g p
  let b := c1.bank f
  if ws ≠ [] ∧ ss ≠ [] then none
  else if kindOf p = 0 then
    let size := if ss ≠ [] then (ss.headD []).length else if ws ≠ [] ∧ ws.all (·.2) then 4 else 8
    if l.length * size > imageSpace g ∨ ss.any (fun x => x.length != size) then none
    else
      let data := if ss ≠ [] then ss else ws.map fun x => bytesLE x.1.toNat size
      some { c1 with store := arrayImage c.store f g l.length size data }
  else if isSlotBank p then
    if ws ≠ [] ∨ ss.any (fun x => decide (x.length > itemOf p)) ∨ ss.length > slotCount p g then none
    else
      let ring := (List.range ss.length).map fun j => (j, SlotSt.item)
      let b := { b with ring := if kindOf p = 2 then ring.reverse else ring, nextSlot := ss.length % slotCount p g }
      some { c1.setBank f b with store := putSlots c.store (f * 0x4000 + 0x40) (itemOf p) ss }
  else if ss ≠ [] then none
  else
    let items : List Word := match kindOf p with
      | 1 => ws.map fun x => if fourByte p then BitVec.ofNat 64 (keyOf x.1) else x.1
      | 2 => (ws.map fun x => if fourByte p then BitVec.ofNat 64 (keyOf x.1) else x.1).reverse
      | 3 => ws.foldl (fun l x => if keyOf x.1 = 0xFFFFFFFF then l else setKey (keyOf x.1) (valOf x.1) l) []
      | 4 => ws.foldl (fun l x => insertKey (keyOf x.1) (valOf x.1) l) []
      | _ => ws.foldl (fun l x => if keyOf x.1 ≥ capacity p g then l
          else addBinTo l (keyOf x.1) (if x.2 then 1 else valOf x.1)) []
    if items.length > capacity p g then none else some (c1.setBank f { b with items := items })

/-- Convert one structure in place: none for FULL. -/
def Core.convertAt (c : Core) (f g : Nat) (p : W32) : Option Core := (c.view f g p).bind fun l => c.build f g p l

/-- The views of several banks, in bank order. -/
def Core.views (c : Core) (p : W32) : List Nat → Option (List Elem)
  | [] => some []
  | b :: t => match c.view b 0 p, c.views p t with
    | some l, some r => some (l ++ r)
    | _, _ => none

end Sys2Proof.Machine
end

