-- ==== Sys2Proof/Machine/BankControl.lean ====
section
/-! DEFINITION. Bank control (R127 to R133, R229, R230, R233). A conversion takes its place in the bank order when it starts; until
BANK_CONVERSION_END the banks answer as converting banks (R230). -/
namespace Sys2Proof.Machine

/-- Bytes of the launch's frame area on a core of a cluster (R127, R200). -/
def State.frameBytes (s : State) (cl : Nat) : Nat :=
  match s.launchOf cl with
  | some l => frameArea l.frames l.nv
  | none => 0

/-- A range of bytes touches a bank. -/
def touches (b a n : Nat) : Bool := decide (a < b * 0x4000 + 0x4000 ∧ b * 0x4000 < a + n)

/-- A bank is busy (R127). -/
def Core.busy (c : Core) (area b : Nat) : Bool :=
  touches b c.wp (448 + 64 * c.nv) || (c.cr_ Cr.twp != 0 && touches b (c.cr_ Cr.twp).toNat 448) || touches b 0 area

/-- The current core's bank is busy. -/
def busyBank (s : State) (b : Nat) : Bool := s.me.busy (s.frameBytes s.cur.cl) b

/-- The current core's bank is pinned (R127). -/
def pinnedBank (s : State) (b : Nat) : Bool := s.pinned s.cur.cl s.cur.core b

/-- COUNT of a bank or of its whole group (R128, R129). -/
def Core.countOf (c : Core) (b : Nat) : Nat := (c.bank (c.bank b).first).count

/-- The bank's window base. -/
def bankBase (b : Nat) : Word := BitVec.ofNat 64 (b * 0x4000)

/-- A register that names one bank, or a mask of banks, breaks R127. -/
def bankRegBad (w : Word) : Bool := bits w 4 60 != 0
def bankMaskBad (w : Word) : Bool := bits w 16 48 != 0

/-- Begin a change of banks: they answer as converting, and the core waits for its end (R127, R230). -/
def beginChange (s : State) (d : Reg) (val : Word) (br : Nat) (banks : List Nat) (c : Core) : Eff :=
  .stay (s.upd fun _ =>
    { banks.foldl (fun (c : Core) b => c.setBank b { c.bank b with converting := true }) c with conv := some (d, val, br) })

/-- Complete at once with a value and a result. -/
def bankDone (s : State) (d : Reg) (val : Word) (br : Nat) : Eff := local_ s fun c => (c.setS d.toNat val).setBr br

/-- What `bpers` and `bspread` do to a bank: `mine` lifts the refusal of a shard that leaves (R128, R233). -/
def convertBank (s : State) (b : Nat) (p : W32) (leaving : Bool) : Option Core :=
  let c := s.me
  let x := c.bank b
  if pinnedBank s b || b == 15 || x.gsize != 0 || (x.shard && !leaving) then none
  else if x.pers = p then some c
  else c.convertAt b 0 p

/-- `bpers` (R128). -/
def execBpers (d a b : Reg) (s : State) : Host.Outcome State Fault Refusal :=
  retire (.bpers d a b) s fun s =>
    let c := s.me
    let w := c.s a.toNat
    let p := c.s b.toNat
    let n := w.toNat
    if bankRegBad w then .trap tBANKPORT w
    else if persOk p = false then .trap tBANKPORT p
    else if busyBank s n then .trap tBANKBUSY (bankBase n)
    else match convertBank s n (p.truncate 32) false with
      | none => bankDone s d (BitVec.ofNat 64 (c.countOf n)) brFULL
      | some c1 =>
        if c1 = c then bankDone s d (BitVec.ofNat 64 (c.countOf n)) brOK
        else beginChange s d (BitVec.ofNat 64 (c1.countOf n)) brOK [n] c1

/-- The word of `bquery` (Table 7 of spec/06). -/
def queryWord (s : State) (b : Nat) : Word :=
  let c := s.me
  let x := c.bank b
  let f (p : Bool) (i : Nat) : Nat := if p then 2 ^ i else 0
  BitVec.ofNat 64 (c.countOf b % 65536 * 2 ^ 48 + f x.shard 45 + f (c.recq == b) 44 + f (b == 15) 43 + f (busyBank s b) 42 +
    f (pinnedBank s b) 41 + f (c.keeps.any fun k => k.2.1.getLsbD b) 40 + x.first * 2 ^ 36 + x.gsize * 2 ^ 34 + x.pers.toNat)

/-- `bquery` (R129). -/
def execBquery (d a : Reg) (s : State) : Host.Outcome State Fault Refusal :=
  retire (.bquery d a) s fun s =>
    let w := s.me.s a.toNat
    if bankRegBad w then .trap tBANKPORT w else put d (queryWord s w.toNat) s

/-- `bgroup` (R130, R232). DESIGN CHOICE (notes/assumptions/43): FULL on banks that are no group yet gives the count of the first bank. -/
def execBgroup (d a b n : Reg) (s : State) : Host.Outcome State Fault Refusal :=
  retire (.bgroup d a b n) s fun s =>
    let c := s.me
    let w := c.s a.toNat
    let p := c.s b.toNat
    let g := n.toNat
    let f := w.toNat
    let ms := (List.range (2 ^ g)).map fun i => f + i
    let whole := (c.bank f).first == f && (c.bank f).gsize == g && g != 0
    if bankRegBad w then .trap tBANKPORT w
    else if f % 2 ^ g ≠ 0 then .trap tBANKPORT w
    else if persOk p = false then .trap tBANKPORT p
    else match ms.find? (busyBank s) with
      | some m => .trap tBANKBUSY (bankBase m)
      | none =>
        let full := bankDone s d (BitVec.ofNat 64 (c.countOf f)) brFULL
        if ms.any fun m => pinnedBank s m || m == 15 || (c.bank m).shard || (!whole && (c.bank m).gsize != 0) then full
        else if whole && (c.bank f).pers == p.truncate 32 then bankDone s d (BitVec.ofNat 64 (c.countOf f)) brOK
        else
          let r := if whole then c.convertAt f g (p.truncate 32) else (c.views (p.truncate 32) ms).bind fun l => c.build f g (p.truncate 32) l
          match r with
          | none => full
          | some c1 => beginChange s d (BitVec.ofNat 64 (c1.countOf f)) brOK ms c1

/-! ## Spread structures -/

/-- A definition block keeps the limits of R233, and the shard index of a core. -/
def spreadIndex (ws : List Word) (vc core : Nat) : Option Nat :=
  let w0 := ws.getD 0 0
  let w1 := ws.getD 1 0
  let w2 := ws.getD 2 0
  let p : W32 := w0.truncate 32
  let k := kindOf p
  let desc := setBits (setBits w1 60 3 k) 63 1 1
  if bits w0 36 28 = 0 ∧ bits w1 34 30 = 0 ∧ bits w2 12 52 = 0 ∧ (k = 5 ∨ w2 = 0) ∧ ws.getD 3 0 = 0 ∧
      persOk (p.zeroExtend 64) ∧ k ≠ 2 ∧ (k = 1 → itemOf p = 4 ∨ itemOf p = 8) ∧ spCores desc ≠ 0 ∧ spShards desc ≤ 4096 ∧
      spVcBase desc + spVcCount desc ≤ 8191 then
    spIndex desc vc core
  else none

/-- The `SPREAD` register that a definition block gives (Table 6 of spec/12). -/
def spreadWord (ws : List Word) : Word :=
  let w0 := ws.getD 0 0
  let p : W32 := w0.truncate 32
  BitVec.ofNat 64 (2 ^ 63 + kindOf p * 2 ^ 60 + (if kindOf p = 1 ∧ itemOf p = 8 then 2 ^ 59 else 0) + bits w0 32 4 * 2 ^ 55 +
    bits (ws.getD 2 0) 0 12 * 2 ^ 43 + bits (ws.getD 1 0) 0 34)

/-- `bspread` (R131, R233). -/
def execBspread (d a n : Reg) (s : State) : Host.Outcome State Fault Refusal :=
  retire (.bspread d a n) s fun s =>
    let c := s.me
    let w := c.s a.toNat
    let ws := c.store.words w.toNat 4
    if w.toNat % 32 ≠ 0 ∨ w.toNat ≥ 0x40000 ∨ c.arrayRange w.toNat 32 = false then .trap tBANKPORT w
    else match spreadIndex ws s.mine.vc s.cur.core with
      | none => .trap tBANKPORT w
      | some i =>
        let p : W32 := (ws.getD 0 0).truncate 32
        let b := bits (ws.getD 0 0) 32 4
        let leave := kindOf p == 0
        if busyBank s b then .trap tBANKBUSY (bankBase b)
        else match convertBank s b p leave with
          | none => bankDone s d (BitVec.ofNat 64 (c.countOf b)) brFULL
          | some c1 =>
            let c2 := (c1.setBank b { c1.bank b with shard := !leave }).setCr (Cr.spread0 + n.toNat)
              (if leave then 0 else spreadWord ws)
            beginChange s d (BitVec.ofNat 64 i) brOK [b] c2

/-- `bkeep` (R132). -/
def execBkeep (a b k : Reg) (s : State) : Host.Outcome State Fault Refusal :=
  retire (.bkeep a b k) s fun s =>
    let m := s.me.s a.toNat
    let x := s.me.s b.toNat
    if bankMaskBad m then .trap tBANKPORT m
    else if bits x 4 60 ≠ 0 then .trap tBANKPORT x
    else local_ s fun c =>
      { c with keeps := if m = 0 then adel c.keeps k.toNat else aput c.keeps k.toNat (m.truncate 16, x.toNat) }

/-- Clear one bank (R133): none where it is left unchanged. -/
def clearBank (s : State) (c : Core) (b : Nat) : Option Core :=
  let x := c.bank b
  if kindOf x.pers = 0 then
    if pinnedBank s b then none else some { c with store := c.store.zero (b * 0x4000) 0x4000 }
  else if s.mine.clearHeld s.cur.core x.first then none
  else some (c.setBank x.first (c.bank x.first).emptied)

/-- `bclear` (R133): meanwhile every bank of a group that it empties answers as a converting bank does (R229). -/
def execBclear (d a : Reg) (s : State) : Host.Outcome State Fault Refusal :=
  retire (.bclear d a) s fun s =>
    let m := s.me.s a.toNat
    let named := (List.range 16).filter fun b => bit m b
    if bankMaskBad m then .trap tBANKPORT m
    else match named.find? (busyBank s) with
      | some b => .trap tBANKBUSY (bankBase b)
      | none =>
        let r := named.foldl (fun (r : Core × List Nat) b => match clearBank s r.1 b with
          | some c => (c, r.2 ++ [b])
          | none => r) (s.me, [])
        let mask := BitVec.ofNat 64 (r.2.foldl (fun m b => m + 2 ^ b) 0)
        let br := if r.2.length = named.length then brOK else brFULL
        let groups := (List.range 16).filter fun b => r.2.any fun x => (s.me.bank b).first == (s.me.bank x).first
        if r.2 = [] then bankDone s d mask br else beginChange s d mask br groups r.1

/-- A conversion or clear finishes: its banks answer under their new state, and the instruction completes (R229, R230). -/
def execBankConversionEnd (r : CoreRef) (s : State) : Host.Outcome State Fault Refusal :=
  match (s.core r).conv with
  | none => .next s
  | some (d, val, br) =>
    let s1 := { s with cur := r }.upd fun c => (({ c.unconverted with conv := none } : Core).setS d.toNat val).setBr br
    .next { s1.finish (.bclear d 0) with cur := s.cur }

end Sys2Proof.Machine
end

