-- ==== Sys2Proof/Machine/Flags.lean ====
section
/-! DEFINITION. Floating-point conditions: `FPC` mode and sticky flags, the enabled conditions of `STAT` [9:5], FP (R27, R43) and
SHADOW (R134, R321). -/
namespace Sys2Proof.Machine

/-- `FPC`.RM. -/
def Core.rm (c : Core) : Nat := bits (c.cr_ Cr.fpc) 0 2
/-- `FPC`.FTZ. -/
def Core.ftz (c : Core) : Bool := bit (c.cr_ Cr.fpc) 2
/-- `FPC`.NSAT. -/
def Core.nsat (c : Core) : Bool := bit (c.cr_ Cr.fpc) 3
/-- The enabled conditions, as a mask in the order of `FPC` [8:4] (R26). -/
def Core.enables (c : Core) : Nat := bits (c.cr_ Cr.stat) 5 5

/-- A number of a sign, an exponent and six mantissa bits as a sign-and-magnitude integer (R321). -/
def signMag (neg : Bool) (e m6 : Nat) : Int := if neg then -((64 * e + m6 : Nat) : Int) else ((64 * e + m6 : Nat) : Int)

/-- The result of a shadow unit diverges from a main result of a format, truncated to its precision (R321): by more than 1, in being a
NaN, or in being finite. -/
def Fmt.diverges (f : Fmt) (x : Nat) (h : Shadow) : Bool :=
  let top := 2 ^ f.eb - 1
  let e := x / 2 ^ f.mb % 2 ^ f.eb
  let nan := e == top && x % 2 ^ f.mb != 0
  let nan' := h.exp == top && h.m6 != 0
  if nan || nan' then nan != nan'
  else if (e == top) != (h.exp == top) then true
  else decide (1 < (signMag (x / f.signBit % 2 == 1) e (x % 2 ^ f.mb * 64 / 2 ^ f.mb) - signMag h.neg h.exp h.m6).natAbs)

/-- The result of a shadow unit diverges from a lane of one f32 or two bf16 elements. -/
def laneDiverges (t : BitVec 1) (v : W32) (h : Shadow) : Bool :=
  if t = 0#1 then f32.diverges v.toNat h
  else bf16.diverges (if h.high then v.toNat / 65536 else v.toNat % 65536) h

/-- The shadow units disagree with a result that is no floating-point number, a compare, a class, an integer or codes: the comparison of R321
names none, so what the environment says of it stands (notes/assumptions/17). -/
def otherDiverges : Shadow → Bool := fun _ => true

/-- The lane at which a shadow unit disputes a result, 0 for a scalar (R134, R321). -/
def State.disputed (s : State) (units : Option (List Nat)) (diverges : Shadow → Bool) : Option Nat :=
  match s.shadowHit, units with
  | some x, some l => if l.contains x.lane && diverges x then some x.lane else none
  | some x, none => if diverges x then some 0 else none
  | none, _ => none

/-- Complete a floating-point operation: an enabled condition raises FP and keeps its sticky flags (R43); a result that its shadow unit
disputes raises SHADOW (R134); else the result is written and the flags are set. `units` are the lanes in use, none for a scalar, and
`diverges` compares what a shadow unit forms with the result (R321). -/
def fpEff (s : State) (fl : Nat) (units : Option (List Nat)) (diverges : Shadow → Bool) (write : Core → Core) : Eff :=
  let hit := fl &&& s.me.enables
  if hit ≠ 0 then .kept (s.upd fun c => c.raise hit) tFP (BitVec.ofNat 64 (hit * 16))
  else match s.disputed units diverges with
    | some n => .trap tSHADOW (BitVec.ofNat 64 n)
    | none => local_ s fun c => write (c.raise fl)

/-- Apply an operation of one operand under FTZ, with the flags of flushed inputs (R27). -/
def fpOp1 (f : Fmt) (c : Core) (op : Fp → Nat × Nat) (x : Nat) : Nat × Nat :=
  let a := f.operand c.ftz x
  let r := op a.1
  (r.1, r.2 ||| a.2)

/-- Apply an operation of two operands. -/
def fpOp2 (f : Fmt) (c : Core) (op : Fp → Fp → Nat × Nat) (x y : Nat) : Nat × Nat :=
  let a := f.operand c.ftz x
  let b := f.operand c.ftz y
  let r := op a.1 b.1
  (r.1, r.2 ||| a.2 ||| b.2)

/-- Apply an operation of three operands. -/
def fpOp3 (f : Fmt) (c : Core) (op : Fp → Fp → Fp → Nat × Nat) (x y z : Nat) : Nat × Nat :=
  let a := f.operand c.ftz x
  let b := f.operand c.ftz y
  let d := f.operand c.ftz z
  let r := op a.1 b.1 d.1
  (r.1, r.2 ||| a.2 ||| b.2 ||| d.2)

/-- Flags raised by a list of lane results. -/
def flagsOf (l : List (Nat × W32 × Nat)) : Nat := l.foldl (fun f x => f ||| x.2.2) 0

/-- The lane values of a list of lane results. -/
def valuesOf (l : List (Nat × W32 × Nat)) : List (Nat × W32) := l.map fun x => (x.1, x.2.1)

/-- Complete a vector floating-point operation: `f` gives each active lane its value and flags. -/
def vecFp (s : State) (d : Reg) (m : BitVec 3) (diverges : W32 → Shadow → Bool) (f : Core → Nat → W32 × Nat) : Eff :=
  let c := s.me
  let l := (c.lanes m.toNat).map fun i => (i, f c i)
  fpEff s (flagsOf l) (some (c.lanes m.toNat)) (fun x => diverges (aget 0 (valuesOf l) x.lane) x) fun c => c.writeV d.toNat (valuesOf l)

/-- The mask of the lanes listed. -/
def maskOf (l : List Nat) : BitVec 16 := l.foldl (fun m i => m ||| (1#16 <<< i)) 0

/-- Complete a vector floating-point compare: inactive lanes give 0 (R134). -/
def vecFpCmp (s : State) (d : Reg) (m : BitVec 3) (f : Core → Nat → Bool × Nat) : Eff :=
  let c := s.me
  let l := (c.lanes m.toNat).map fun i => (i, f c i)
  fpEff s (l.foldl (fun fl x => fl ||| x.2.2) 0) (some (c.lanes m.toNat)) otherDiverges fun c =>
    c.setM d.toNat (maskOf ((l.filter fun x => x.2.1).map (·.1)))

end Sys2Proof.Machine
end

