-- ==== Sys2Proof/Machine/Floating.lean ====
section
/-! DEFINITION. Scalar and vector floating point: FALU (R135) and VFP (R137). -/
namespace Sys2Proof.Machine

/-! ## Scalar -/

/-- The format of a type bit: 0 f32, 1 f64. -/
def fmtOf (t : BitVec 1) : Fmt := if t = 1#1 then f64 else f32

/-- An operand of a format from a scalar register (R135). -/
def fpArg (f : Fmt) (w : Word) : Nat := w.toNat % 2 ^ f.width

/-- S(D) := f(a), a number of the format. -/
def fp1 (t : BitVec 1) (d a : Reg) (op : Fmt → Core → Fp → Nat × Nat) (s : State) : Eff :=
  let c := s.me
  let f := fmtOf t
  let r := fpOp1 f c (op f c) (fpArg f (c.s a.toNat))
  fpEff s r.2 none (f.diverges r.1) fun c => c.setS d.toNat (BitVec.ofNat 64 r.1)

/-- S(D) := f(a, b). -/
def fp2 (t : BitVec 1) (d a b : Reg) (op : Fmt → Core → Fp → Fp → Nat × Nat) (s : State) : Eff :=
  let c := s.me
  let f := fmtOf t
  let r := fpOp2 f c (op f c) (fpArg f (c.s a.toNat)) (fpArg f (c.s b.toNat))
  fpEff s r.2 none (f.diverges r.1) fun c => c.setS d.toNat (BitVec.ofNat 64 r.1)

/-- S(D) := a compare (0 equal, 1 less, 2 less or equal). -/
def fpCmp (k : Nat) (t : BitVec 1) (d a b : Reg) (s : State) : Eff :=
  let c := s.me
  let f := fmtOf t
  let r := fpOp2 f c (fun a b => let r := fpCompare k a b; (if r.1 then 1 else 0, r.2)) (fpArg f (c.s a.toNat)) (fpArg f (c.s b.toNat))
  fpEff s r.2 none otherDiverges fun c => c.setS d.toNat (BitVec.ofNat 64 r.1)

/-- `fadd` (R135). -/
def execFadd (d a b : Reg) (t : BitVec 1) (s : State) : Host.Outcome State Fault Refusal :=
  retire (.fadd d a b t) s (fp2 t d a b fun f c a b => f.add c.rm c.ftz a b)

/-- `fsub` (R135). -/
def execFsub (d a b : Reg) (t : BitVec 1) (s : State) : Host.Outcome State Fault Refusal :=
  retire (.fsub d a b t) s (fp2 t d a b fun f c a b => f.add c.rm c.ftz a b.negate)

/-- `fmul` (R135). -/
def execFmul (d a b : Reg) (t : BitVec 1) (s : State) : Host.Outcome State Fault Refusal :=
  retire (.fmul d a b t) s (fp2 t d a b fun f c a b => f.mul c.rm c.ftz a b)

/-- `fdiv` (R135). -/
def execFdiv (d a b : Reg) (t : BitVec 1) (s : State) : Host.Outcome State Fault Refusal :=
  retire (.fdiv d a b t) s (fp2 t d a b fun f c a b => f.div c.rm c.ftz a b)

/-- `fmin` (R135). -/
def execFmin (d a b : Reg) (t : BitVec 1) (s : State) : Host.Outcome State Fault Refusal :=
  retire (.fmin d a b t) s (fp2 t d a b fun f c a b => f.minmax false a b)

/-- `fmax` (R135). -/
def execFmax (d a b : Reg) (t : BitVec 1) (s : State) : Host.Outcome State Fault Refusal :=
  retire (.fmax d a b t) s (fp2 t d a b fun f c a b => f.minmax true a b)

/-- `fma` (R135). -/
def execFma (d a b c : Reg) (t : BitVec 1) (s : State) : Host.Outcome State Fault Refusal :=
  retire (.fma d a b c t) s fun s =>
    let k := s.me
    let f := fmtOf t
    let r := fpOp3 f k (f.fma k.rm k.ftz) (fpArg f (k.s a.toNat)) (fpArg f (k.s b.toNat)) (fpArg f (k.s c.toNat))
    fpEff s r.2 none (f.diverges r.1) fun k => k.setS d.toNat (BitVec.ofNat 64 r.1)

/-- `fsqrt` (R135). -/
def execFsqrt (d a : Reg) (t : BitVec 1) (s : State) : Host.Outcome State Fault Refusal :=
  retire (.fsqrt d a t) s (fp1 t d a fun f c a => f.sqrt c.rm c.ftz a)

/-- `feq` (R135). -/
def execFeq (d a b : Reg) (t : BitVec 1) (s : State) : Host.Outcome State Fault Refusal :=
  retire (.feq d a b t) s (fpCmp 0 t d a b)

/-- `flt` (R135). -/
def execFlt (d a b : Reg) (t : BitVec 1) (s : State) : Host.Outcome State Fault Refusal :=
  retire (.flt d a b t) s (fpCmp 1 t d a b)

/-- `fle` (R135). -/
def execFle (d a b : Reg) (t : BitVec 1) (s : State) : Host.Outcome State Fault Refusal :=
  retire (.fle d a b t) s (fpCmp 2 t d a b)

/-- `fabs`: a number raises no flag and is not flushed (R135). -/
def execFabs (d a : Reg) (t : BitVec 1) (s : State) : Host.Outcome State Fault Refusal :=
  retire (.fabs d a t) s fun s =>
    let r := (fmtOf t).signOp false (fpArg (fmtOf t) (s.me.s a.toNat))
    fpEff s r.2 none ((fmtOf t).diverges r.1) fun c => c.setS d.toNat (BitVec.ofNat 64 r.1)

/-- `fneg`: as `fabs` (R135). -/
def execFneg (d a : Reg) (t : BitVec 1) (s : State) : Host.Outcome State Fault Refusal :=
  retire (.fneg d a t) s fun s =>
    let r := (fmtOf t).signOp true (fpArg (fmtOf t) (s.me.s a.toNat))
    fpEff s r.2 none ((fmtOf t).diverges r.1) fun c => c.setS d.toNat (BitVec.ofNat 64 r.1)

/-- `fclass` (R135, Table 2 of spec/07). -/
def execFclass (d a : Reg) (t : BitVec 1) (s : State) : Host.Outcome State Fault Refusal :=
  retire (.fclass d a t) s fun s =>
    fpEff s 0 none otherDiverges fun c => c.setS d.toNat ((fmtOf t).classWord (fpArg (fmtOf t) (c.s a.toNat)))

/-! ## Vector -/

/-- An element operation on a lane: one f32 element, or two bf16 elements (R134, R137). -/
def laneOp (t : BitVec 1) (op : Fmt → Nat → Nat → Nat → Nat × Nat) (x y z : W32) : W32 × Nat :=
  if t = 0#1 then
    let r := op f32 x.toNat y.toNat z.toNat
    (BitVec.ofNat 32 r.1, r.2)
  else
    let lo := op bf16 (x.toNat % 65536) (y.toNat % 65536) (z.toNat % 65536)
    let hi := op bf16 (x.toNat / 65536) (y.toNat / 65536) (z.toNat / 65536)
    (BitVec.ofNat 32 (lo.1 % 65536 + hi.1 * 65536), lo.2 ||| hi.2)

/-- V(D) := f(V(A), V(B)) in the active lanes. -/
def vfp2 (t : BitVec 1) (d a b : Reg) (m : BitVec 3) (op : Fmt → Core → Fp → Fp → Nat × Nat) (s : State) : Eff :=
  vecFp s d m (laneDiverges t) fun c i => laneOp t (fun f x y _ => fpOp2 f c (op f c) x y) (c.v a.toNat i) (c.v b.toNat i) 0

/-- V(D) := f(V(A)) in the active lanes. -/
def vfp1 (t : BitVec 1) (d a : Reg) (m : BitVec 3) (op : Fmt → Core → Fp → Nat × Nat) (s : State) : Eff :=
  vecFp s d m (laneDiverges t) fun c i => laneOp t (fun f x _ _ => fpOp1 f c (op f c) x) (c.v a.toNat i) 0 0

/-- M(D) := a compare of the active lanes. -/
def vfpCmp (k : Nat) (d a b : Reg) (m : BitVec 3) (s : State) : Eff :=
  vecFpCmp s d m fun c i =>
    let r := fpOp2 f32 c (fun a b => let r := fpCompare k a b; (if r.1 then 1 else 0, r.2)) (c.v a.toNat i).toNat (c.v b.toNat i).toNat
    (r.1 == 1, r.2)

/-- `vfadd` (R137). -/
def execVfadd (d a b : Reg) (m : BitVec 3) (t : BitVec 1) (s : State) : Host.Outcome State Fault Refusal :=
  retire (.vfadd d a b m t) s (vfp2 t d a b m fun f c a b => f.add c.rm c.ftz a b)

/-- `vfsub` (R137). -/
def execVfsub (d a b : Reg) (m : BitVec 3) (t : BitVec 1) (s : State) : Host.Outcome State Fault Refusal :=
  retire (.vfsub d a b m t) s (vfp2 t d a b m fun f c a b => f.add c.rm c.ftz a b.negate)

/-- `vfmul` (R137). -/
def execVfmul (d a b : Reg) (m : BitVec 3) (t : BitVec 1) (s : State) : Host.Outcome State Fault Refusal :=
  retire (.vfmul d a b m t) s (vfp2 t d a b m fun f c a b => f.mul c.rm c.ftz a b)

/-- `vfmin` (R137). -/
def execVfmin (d a b : Reg) (m : BitVec 3) (t : BitVec 1) (s : State) : Host.Outcome State Fault Refusal :=
  retire (.vfmin d a b m t) s (vfp2 t d a b m fun f c a b => f.minmax false a b)

/-- `vfmax` (R137). -/
def execVfmax (d a b : Reg) (m : BitVec 3) (t : BitVec 1) (s : State) : Host.Outcome State Fault Refusal :=
  retire (.vfmax d a b m t) s (vfp2 t d a b m fun f c a b => f.minmax true a b)

/-- `vfdiv` (R137). -/
def execVfdiv (d a b : Reg) (m : BitVec 3) (t : BitVec 1) (s : State) : Host.Outcome State Fault Refusal :=
  retire (.vfdiv d a b m t) s (vfp2 t d a b m fun f c a b => f.div c.rm c.ftz a b)

/-- `vfma`: V(D) := V(A) × V(B) + V(D) (R137). -/
def execVfma (d a b : Reg) (m : BitVec 3) (t : BitVec 1) (s : State) : Host.Outcome State Fault Refusal :=
  retire (.vfma d a b m t) s fun s =>
    vecFp s d m (laneDiverges t) fun c i =>
      laneOp t (fun f x y z => fpOp3 f c (f.fma c.rm c.ftz) x y z) (c.v a.toNat i) (c.v b.toNat i) (c.v d.toNat i)

/-- `vfsqrt` (R137). -/
def execVfsqrt (d a : Reg) (m : BitVec 3) (t : BitVec 1) (s : State) : Host.Outcome State Fault Refusal :=
  retire (.vfsqrt d a m t) s (vfp1 t d a m fun f c a => f.sqrt c.rm c.ftz a)

/-- `vfrcp` (R137). -/
def execVfrcp (d a : Reg) (m : BitVec 3) (t : BitVec 1) (s : State) : Host.Outcome State Fault Refusal :=
  retire (.vfrcp d a m t) s (vfp1 t d a m fun f c a => f.div c.rm c.ftz (.fin false 1 0) a)

/-- `vfexp2` (R137). -/
def execVfexp2 (d a : Reg) (m : BitVec 3) (t : BitVec 1) (s : State) : Host.Outcome State Fault Refusal :=
  retire (.vfexp2 d a m t) s (vfp1 t d a m fun f c a => f.exp2 c.rm c.ftz a)

/-- `vflog2` (R137). -/
def execVflog2 (d a : Reg) (m : BitVec 3) (t : BitVec 1) (s : State) : Host.Outcome State Fault Refusal :=
  retire (.vflog2 d a m t) s (vfp1 t d a m fun f c a => f.log2 c.rm c.ftz a)

/-- `vfabs`: FTZ flushes its operand, from which R135 exempts only the scalar form (R27, R137). -/
def execVfabs (d a : Reg) (m : BitVec 3) (t : BitVec 1) (s : State) : Host.Outcome State Fault Refusal :=
  retire (.vfabs d a m t) s fun s =>
    vecFp s d m (laneDiverges t) fun c i => laneOp t (fun f x _ _ => f.signFlushed c.ftz false x) (c.v a.toNat i) 0 0

/-- `vfneg`: FTZ flushes its operand, from which R135 exempts only the scalar form (R27, R137). -/
def execVfneg (d a : Reg) (m : BitVec 3) (t : BitVec 1) (s : State) : Host.Outcome State Fault Refusal :=
  retire (.vfneg d a m t) s fun s =>
    vecFp s d m (laneDiverges t) fun c i => laneOp t (fun f x _ _ => f.signFlushed c.ftz true x) (c.v a.toNat i) 0 0

/-- `vfceq` (R137). -/
def execVfceq (d a b : Reg) (m : BitVec 3) (s : State) : Host.Outcome State Fault Refusal :=
  retire (.vfceq d a b m) s (vfpCmp 0 d a b m)

/-- `vfclt` (R137). -/
def execVfclt (d a b : Reg) (m : BitVec 3) (s : State) : Host.Outcome State Fault Refusal :=
  retire (.vfclt d a b m) s (vfpCmp 1 d a b m)

/-- `vfcle` (R137). -/
def execVfcle (d a b : Reg) (m : BitVec 3) (s : State) : Host.Outcome State Fault Refusal :=
  retire (.vfcle d a b m) s (vfpCmp 2 d a b m)

end Sys2Proof.Machine
end

