-- ==== Sys2Proof/Machine/Vector.lean ====
section
/-! DEFINITION. Vector integer operations (R136), lane moves, reductions and masks (R143, R144). -/
namespace Sys2Proof.Machine

/-! ## VALU -/

/-- Element width of a type field: 0 i32, 1 i16, 2 i8. -/
def elemBits (t : BitVec 2) : Nat := match t with | 0#2 => 32 | 1#2 => 16 | _ => 8

/-- An operation on each element of a lane. -/
def mapElems (w : Nat) (f : Nat → Nat → Nat → Nat) (x y z : W32) : W32 :=
  let el (v : W32) (k : Nat) : Nat := v.toNat / 2 ^ (w * k) % 2 ^ w
  BitVec.ofNat 32 ((List.range (32 / w)).foldl (fun r k => r + f (el x k) (el y k) (el z k) % 2 ^ w * 2 ^ (w * k)) 0)

/-- A w-bit element as a signed number. -/
def sgn (w x : Nat) : Int := if x < 2 ^ (w - 1) then x else (x : Int) - 2 ^ w

/-- A signed number as a w-bit element. -/
def unsgn (w : Nat) (x : Int) : Nat := (x % 2 ^ w).toNat

/-- V(D) := f of the elements of V(A), V(B) and the old V(D) in the active lanes. -/
def valu (t : BitVec 2) (d a b : Reg) (m : BitVec 3) (f : Nat → Nat → Nat → Nat → Nat) (s : State) : Eff :=
  let c := s.me
  let w := elemBits t
  let l := (c.lanes m.toNat).map fun i => (i, mapElems w (f w) (c.v a.toNat i) (c.v b.toNat i) (c.v d.toNat i))
  local_ s fun c => c.writeV d.toNat l

/-- M(D) := a compare of the active lanes. -/
def valuCmp (d a b : Reg) (m : BitVec 3) (f : W32 → W32 → Bool) (s : State) : Eff :=
  let c := s.me
  local_ s fun k => k.setM d.toNat (maskOf ((c.lanes m.toNat).filter fun i => f (c.v a.toNat i) (c.v b.toNat i)))

/-- A number saturated to the signed range of w bits. -/
def satSigned (w : Nat) (x : Int) : Int := max (-(2 ^ (w - 1))) (min x (2 ^ (w - 1) - 1))

/-- `vadd` (R136). -/
def execVadd (d a b : Reg) (m : BitVec 3) (t : BitVec 2) (s : State) : Host.Outcome State Fault Refusal :=
  retire (.vadd d a b m t) s (valu t d a b m fun _ x y _ => x + y)

/-- `vsub` (R136). -/
def execVsub (d a b : Reg) (m : BitVec 3) (t : BitVec 2) (s : State) : Host.Outcome State Fault Refusal :=
  retire (.vsub d a b m t) s (valu t d a b m fun w x y _ => x + 2 ^ w - y)

/-- `vmul` (R136). -/
def execVmul (d a b : Reg) (m : BitVec 3) (t : BitVec 2) (s : State) : Host.Outcome State Fault Refusal :=
  retire (.vmul d a b m t) s (valu t d a b m fun _ x y _ => x * y)

/-- `vmin` (R136). -/
def execVmin (d a b : Reg) (m : BitVec 3) (t : BitVec 2) (s : State) : Host.Outcome State Fault Refusal :=
  retire (.vmin d a b m t) s (valu t d a b m fun w x y _ => if sgn w y < sgn w x then y else x)

/-- `vmax` (R136). -/
def execVmax (d a b : Reg) (m : BitVec 3) (t : BitVec 2) (s : State) : Host.Outcome State Fault Refusal :=
  retire (.vmax d a b m t) s (valu t d a b m fun w x y _ => if sgn w x < sgn w y then y else x)

/-- `vand` (R136). -/
def execVand (d a b : Reg) (m : BitVec 3) (t : BitVec 2) (s : State) : Host.Outcome State Fault Refusal :=
  retire (.vand d a b m t) s (valu t d a b m fun _ x y _ => x &&& y)

/-- `vor` (R136). -/
def execVor (d a b : Reg) (m : BitVec 3) (t : BitVec 2) (s : State) : Host.Outcome State Fault Refusal :=
  retire (.vor d a b m t) s (valu t d a b m fun _ x y _ => x ||| y)

/-- `vxor` (R136). -/
def execVxor (d a b : Reg) (m : BitVec 3) (t : BitVec 2) (s : State) : Host.Outcome State Fault Refusal :=
  retire (.vxor d a b m t) s (valu t d a b m fun _ x y _ => x ^^^ y)

/-- `vshl` (R136). -/
def execVshl (d a b : Reg) (m : BitVec 3) (t : BitVec 2) (s : State) : Host.Outcome State Fault Refusal :=
  retire (.vshl d a b m t) s (valu t d a b m fun w x y _ => x * 2 ^ (y % w))

/-- `vshr` (R136). -/
def execVshr (d a b : Reg) (m : BitVec 3) (t : BitVec 2) (s : State) : Host.Outcome State Fault Refusal :=
  retire (.vshr d a b m t) s (valu t d a b m fun w x y _ => x / 2 ^ (y % w))

/-- `vsra` (R136). -/
def execVsra (d a b : Reg) (m : BitVec 3) (t : BitVec 2) (s : State) : Host.Outcome State Fault Refusal :=
  retire (.vsra d a b m t) s (valu t d a b m fun w x y _ => unsgn w (sgn w x / 2 ^ (y % w)))

/-- `vaddsat` (R136). -/
def execVaddsat (d a b : Reg) (m : BitVec 3) (t : BitVec 2) (s : State) : Host.Outcome State Fault Refusal :=
  retire (.vaddsat d a b m t) s (valu t d a b m fun w x y _ => unsgn w (satSigned w (sgn w x + sgn w y)))

/-- `vmadd` (R136). -/
def execVmadd (d a b : Reg) (m : BitVec 3) (t : BitVec 2) (s : State) : Host.Outcome State Fault Refusal :=
  retire (.vmadd d a b m t) s (valu t d a b m fun _ x y z => x * y + z)

/-- `vsel`: every lane is written (R136). -/
def execVsel (d a b : Reg) (m : BitVec 3) (t : BitVec 2) (s : State) : Host.Outcome State Fault Refusal :=
  retire (.vsel d a b m t) s fun s =>
    let c := s.me
    let l := (List.range 16).map fun i => (i, if c.active m.toNat i then c.v a.toNat i else c.v b.toNat i)
    local_ s fun k => k.writeV d.toNat l

/-- `vceq` (R136). -/
def execVceq (d a b : Reg) (m : BitVec 3) (s : State) : Host.Outcome State Fault Refusal :=
  retire (.vceq d a b m) s (valuCmp d a b m fun x y => x == y)

/-- `vclt` (R136). -/
def execVclt (d a b : Reg) (m : BitVec 3) (s : State) : Host.Outcome State Fault Refusal :=
  retire (.vclt d a b m) s (valuCmp d a b m fun x y => x.slt y)

/-- `vcle` (R136). -/
def execVcle (d a b : Reg) (m : BitVec 3) (s : State) : Host.Outcome State Fault Refusal :=
  retire (.vcle d a b m) s (valuCmp d a b m fun x y => x.sle y)

/-! ## VXF -/

/-- The fixed tree over 16 values (R44): level by level, with the flags of every step. -/
def treeStep (op : Nat → Nat → Nat × Nat) : List Nat → List Nat × Nat
  | x :: y :: t => let r := op x y; let q := treeStep op t; (r.1 :: q.1, r.2 ||| q.2)
  | l => (l, 0)

/-- Four levels of the tree. -/
def tree16 (op : Nat → Nat → Nat × Nat) (l : List Nat) : Nat × Nat :=
  let a := treeStep op l
  let b := treeStep op a.1
  let c := treeStep op b.1
  let d := treeStep op c.1
  (d.1.headD 0, a.2 ||| b.2 ||| c.2 ||| d.2)

/-- The lanes of V(A), with a value for inactive lanes (R144). -/
def treeLanes (c : Core) (a : Reg) (m : BitVec 3) (idle : Nat) : List Nat :=
  (List.range 16).map fun i => if c.active m.toNat i then (c.v a.toNat i).toNat else idle

/-- V(D) := f(i) in the active lanes. -/
def vxf (d : Reg) (m : BitVec 3) (f : Core → Nat → W32) (s : State) : Eff :=
  let c := s.me
  let l := (c.lanes m.toNat).map fun i => (i, f c i)
  local_ s fun k => k.writeV d.toNat l

/-- `vbcast` (R143). -/
def execVbcast (d a : Reg) (m : BitVec 3) (s : State) : Host.Outcome State Fault Refusal :=
  retire (.vbcast d a m) s (vxf d m fun c _ => (c.s a.toNat).truncate 32)

/-- `vext` (R143). -/
def execVext (d a n : Reg) (s : State) : Host.Outcome State Fault Refusal :=
  retire (.vext d a n) s fun s => put d ((s.me.v a.toNat n.toNat).zeroExtend 64) s

/-- `vins` (R143). -/
def execVins (d a n : Reg) (s : State) : Host.Outcome State Fault Refusal :=
  retire (.vins d a n) s fun s => local_ s fun c => c.writeV d.toNat [(n.toNat, (c.s a.toNat).truncate 32)]

/-- `vredadd.i32` (R144). -/
def execVredaddI32 (d a : Reg) (m : BitVec 3) (s : State) : Host.Outcome State Fault Refusal :=
  retire (.vredaddI32 d a m) s fun s =>
    put d (sext (tree16 (fun x y => ((x + y) % 2 ^ 32, 0)) (treeLanes s.me a m 0)).1 32) s

/-- `vredadd.f32` (R144). DESIGN CHOICE (notes/assumptions/43): R44 says that excluded lanes never change the sign of the result, and lets them
enter the tree as −0; under RDN the addition of R41 makes −0 of +0 and −0, and the model takes that sum. -/
def execVredaddF32 (d a : Reg) (m : BitVec 3) (s : State) : Host.Outcome State Fault Refusal :=
  retire (.vredaddF32 d a m) s fun s =>
    let c := s.me
    let r := tree16 (fpOp2 f32 c (f32.add c.rm c.ftz)) (treeLanes c a m 0x80000000)
    fpEff s r.2 (some (c.lanes m.toNat)) (f32.diverges r.1) fun c => c.setS d.toNat (BitVec.ofNat 64 r.1)

/-- `vredmin` and `vredmax` (R144): the i32 form sign-extends; the f32 form sets flags and never raises FP. -/
def vredPick (isMax : Bool) (d a : Reg) (m : BitVec 3) (t : BitVec 1) (s : State) : Eff :=
  let c := s.me
  if t = 0#1 then
    let pick (x y : Nat) : Nat × Nat := (if (sgn 32 y < sgn 32 x) = (isMax = true) then x else y, 0)
    put d (sext (tree16 pick (treeLanes c a m (if isMax then 0x80000000 else 0x7FFFFFFF))).1 32) s
  else
    let r := tree16 (fpOp2 f32 c (f32.minmax isMax)) (treeLanes c a m (if isMax then 0xFF800000 else 0x7F800000))
    match s.disputed (some (c.lanes m.toNat)) (f32.diverges r.1) with
    | some n => .trap tSHADOW (BitVec.ofNat 64 n)
    | none => local_ s fun c => (c.raise r.2).setS d.toNat (BitVec.ofNat 64 r.1)

/-- `vredmin` (R144). -/
def execVredmin (d a : Reg) (m : BitVec 3) (t : BitVec 1) (s : State) : Host.Outcome State Fault Refusal :=
  retire (.vredmin d a m t) s (vredPick false d a m t)

/-- `vredmax` (R144). -/
def execVredmax (d a : Reg) (m : BitVec 3) (t : BitVec 1) (s : State) : Host.Outcome State Fault Refusal :=
  retire (.vredmax d a m t) s (vredPick true d a m t)

/-- `vperm` (R143). -/
def execVperm (d a b : Reg) (m : BitVec 3) (s : State) : Host.Outcome State Fault Refusal :=
  retire (.vperm d a b m) s (vxf d m fun c i => c.v a.toNat ((c.v b.toNat i).toNat % 16))

/-- `vslide` (R143). -/
def execVslide (d a b : Reg) (m : BitVec 3) (s : State) : Host.Outcome State Fault Refusal :=
  retire (.vslide d a b m) s (vxf d m fun c i =>
    let j : Int := i + (c.s b.toNat).toInt
    if 0 ≤ j ∧ j ≤ 15 then c.v a.toNat j.toNat else 0)

/-- `vmpop` (R143). -/
def execVmpop (d a : Reg) (s : State) : Host.Outcome State Fault Refusal :=
  retire (.vmpop d a) s fun s => put d (BitVec.ofNat 64 (popFrom ((s.me.m a.toNat).zeroExtend 64) 16)) s

/-- M(D) := f(M(A), M(B)). -/
def maskOp (d a b : Reg) (f : BitVec 16 → BitVec 16 → BitVec 16) (s : State) : Eff :=
  local_ s fun c => c.setM d.toNat (f (c.m a.toNat) (c.m b.toNat))

/-- `vmand` (R143). -/
def execVmand (d a b : Reg) (s : State) : Host.Outcome State Fault Refusal :=
  retire (.vmand d a b) s (maskOp d a b fun x y => x &&& y)

/-- `vmor` (R143). -/
def execVmor (d a b : Reg) (s : State) : Host.Outcome State Fault Refusal :=
  retire (.vmor d a b) s (maskOp d a b fun x y => x ||| y)

/-- `vmxor` (R143). -/
def execVmxor (d a b : Reg) (s : State) : Host.Outcome State Fault Refusal :=
  retire (.vmxor d a b) s (maskOp d a b fun x y => x ^^^ y)

/-- `vmnot` (R143). -/
def execVmnot (d a : Reg) (s : State) : Host.Outcome State Fault Refusal :=
  retire (.vmnot d a) s (maskOp d a a fun x _ => ~~~x)

/-- `vmset` (R143). -/
def execVmset (d a : Reg) (s : State) : Host.Outcome State Fault Refusal :=
  retire (.vmset d a) s fun s => local_ s fun c => c.setM d.toNat ((c.s a.toNat).truncate 16)

/-- `vmget` (R143). -/
def execVmget (d a : Reg) (s : State) : Host.Outcome State Fault Refusal :=
  retire (.vmget d a) s fun s => put d ((s.me.m a.toNat).zeroExtend 64) s

/-- `vlane` (R143). -/
def execVlane (d : Reg) (m : BitVec 3) (s : State) : Host.Outcome State Fault Refusal :=
  retire (.vlane d m) s (vxf d m fun _ i => BitVec.ofNat 32 i)

end Sys2Proof.Machine
end

