-- ==== Sys2Proof/Machine/VectorMem.lean ====
section
/-! DEFINITION. Vector memory access (R138 to R142). -/
namespace Sys2Proof.Machine

/-- `VPROG`: the lane at which a gather or scatter is taken up (R140). -/
def Core.vprogLane (c : Core) : Nat := bits (c.cr_ Cr.vprog) 0 4

/-- The access of one lane (Table 5 of spec/07). -/
def laneAsk (i : Instr) (L : Lanes) (l : Nat) : Ask :=
  let x := L.idx.getD l 0
  let data : Word := (L.data.getD l 0).zeroExtend 64
  let near : Word := L.base + (x.signExtend 64 <<< 2)
  let mk (op : AccOp) (addr key : Word) (posts : Bool) : Ask := ⟨op, addr, key, 0, 0, 0, 7, l, some L, posts⟩
  match i with
  | .vldx _ _ _ _ => mk (.load 4 false) near 0 false
  | .vstx _ _ _ _ => mk (.store 4 data) near 0 true
  | .vstxadd _ _ _ _ t => mk (.amo (if t = 1#1 then 10 else 0) 4 data 0) near 0 false
  | .vldk _ _ _ _ => mk (.load 4 false) L.base (x.zeroExtend 64) false
  | _ => mk (.store 4 data) L.base (x.zeroExtend 64) false

/-- Count the result of a lane of `vldk` or `vstk` (R142). -/
def Lanes.note (L : Lanes) (l br : Nat) : Lanes :=
  if br = brOK then { L with ok := L.ok ||| (1#16 <<< l) } else { L with br := if L.br = brOK then br else L.br }

/-- Take the answer of a lane. -/
def laneTake (i : Instr) (L : Lanes) (l : Nat) (r : Resp) (c : Core) : Core × Lanes :=
  match r with
  | .value w br =>
    let x : W32 := w.truncate 32
    let L1 := L.note l (br.getD brOK)
    (match i with
    | .vldx d _ _ _ => (c.writeV d.toNat [(l, x)], L)
    | .vldk d _ _ _ => (c.writeV d.toNat [(l, x)], L1)
    | .vstk _ _ _ _ => (c, L1)
    | _ => (c.raise (L.flags.getD l 0), L))
  | _ => (c, L)

/-- The end of a lane-by-lane access: `VPROG` is 0, and `vldk` and `vstk` give their results (R140, R142). -/
def laneEnd (i : Instr) (L : Lanes) (c : Core) : Core :=
  let c := c.setCr Cr.vprog 0
  match i with
  | .vldk _ _ _ m | .vstk _ _ _ m => { (c.setM m.toNat L.ok).setBr L.br with lanesDone := adel c.lanesDone c.wp }
  | _ => c

/-- A lane-by-lane access that has come to a lane: `VPROG` holds it, and what the lanes of a keyed access have given is kept (R140,
R142). -/
def Core.atLane (c : Core) (i : Instr) (L : Lanes) (l : Nat) : Core :=
  let c := c.setCr Cr.vprog (BitVec.ofNat 64 l)
  match i with
  | .vldk _ _ _ _ | .vstk _ _ _ _ => { c with lanesDone := aput c.lanesDone c.wp ⟨c.pc, l, L.ok, L.br⟩ }
  | _ => c

/-- Perform lanes in ascending order; a lane that faults leaves `VPROG` at it (R140). Lanes posted to the core's own store land before
the trap is taken, whose header stores follow them (R181, R240). -/
def runLanes (i : Instr) : List Nat → Lanes → State → Eff
  | [], L, s => local_ s (laneEnd i L)
  | l :: t, L, s =>
    match attempt s i (laneAsk i L l) with
    | .done s1 r => let x := laneTake i L l r s1.me; runLanes i t x.2 (s1.upd fun _ => x.1)
    | .fault e v =>
      let s1 := s.upd fun c => c.atLane i L l
      if s.selfPosted s.cur then stallFor .order s1 else .kept s1 e v
    | .away s1 => .stay s1
    | .again w => stallFor w (s.upd fun c => c.atLane i L l)

/-- Take up a lane-by-lane access behind a lane whose answer has come. -/
def resumeLanes (i : Instr) (L : Lanes) (l : Nat) (r : Resp) (s : State) : Eff :=
  let x := laneTake i L l r s.me
  runLanes i ((maskLanes L.mask).filter fun j => decide (l < j)) x.2 (s.upd fun _ => x.1)

/-- The mask of the active lanes. -/
def Core.activeMask (c : Core) (m : BitVec 3) : BitVec 16 := if m = 0#3 then 0xFFFF#16 else c.m m.toNat

/-- The lanes at or above a number. -/
def fromLane (m : BitVec 16) (l : Nat) : BitVec 16 := m &&& (0xFFFF#16 <<< l)

/-- Start a gather or scatter at `VPROG` (R140). -/
def gather (i : Instr) (a b : Reg) (data : List W32) (m : BitVec 3) (s : State) : Eff :=
  let c := s.me
  let L : Lanes := ⟨c.s a.toNat, c.vec b.toNat, data, fromLane (c.activeMask m) c.vprogLane, [], 0, brOK⟩
  runLanes i (maskLanes L.mask) L s

/-! ## Whole accesses -/

/-- The answer of a whole access in the registers, under the mask that was active when it was performed (R138, R139, R142). A `vld` of a
dropped window access reads 0 (R265). -/
def wholeTake (i : Instr) (m : BitVec 16) (c : Core) (r : Resp) : Core :=
  let put (d : Reg) (f : Nat → W32) : Core := c.writeV d.toNat ((maskLanes m).map fun l => (l, f l))
  match i, r with
  | .vld d _ _, .lanes l _ _ => put d fun j => l.getD j 0
  | .vld d _ _, .value _ _ => put d fun _ => 0
  | .vldb d _ _, .value w _ => put d fun _ => w.truncate 32
  | .vldk d _ _ k, .lanes l ok br => ((put d fun j => l.getD j 0).setM k.toNat ok).setBr (br.getD brOK)
  | .vstk _ _ _ k, .lanes _ ok br => (c.setM k.toNat ok).setBr (br.getD brOK)
  | _, _ => c

/-- Perform a whole access, unless no lane is active (R138). -/
def whole (i : Instr) (a : Reg) (m : BitVec 3) (op : Core → AccOp) (s : State) : Eff :=
  let c := s.me
  let k := c.activeMask m
  if k = 0 then .next s
  else match attempt s i ⟨op c, c.s a.toNat, 0, 0, 0, 0, 7, 17, some ⟨c.s a.toNat, [], [], k, [], 0, brOK⟩, true⟩ with
    | .done t r => .next (t.upd fun c => wholeTake i k c r)
    | .fault e v => .trap e v
    | .away t => .stay t
    | .again w => stallFor w s

/-- `vld` (R139). -/
def execVld (d a : Reg) (m : BitVec 3) (s : State) : Host.Outcome State Fault Refusal :=
  retire (.vld d a m) s (whole (.vld d a m) a m fun c => .vload (c.activeMask m))

/-- `vst` (R139). -/
def execVst (d a : Reg) (m : BitVec 3) (s : State) : Host.Outcome State Fault Refusal :=
  retire (.vst d a m) s (whole (.vst d a m) a m fun c => .vstore (c.activeMask m) (c.vec d.toNat))

/-- `vldb` (R139). -/
def execVldb (d a : Reg) (m : BitVec 3) (s : State) : Host.Outcome State Fault Refusal :=
  retire (.vldb d a m) s (whole (.vldb d a m) a m fun _ => .load 4 false)

/-- `vldx` (R140). -/
def execVldx (d a b : Reg) (m : BitVec 3) (s : State) : Host.Outcome State Fault Refusal :=
  retire (.vldx d a b m) s (gather (.vldx d a b m) a b [] m)

/-- `vstx` (R140). -/
def execVstx (d a b : Reg) (m : BitVec 3) (s : State) : Host.Outcome State Fault Refusal :=
  retire (.vstx d a b m) s fun s => gather (.vstx d a b m) a b (s.me.vec d.toNat) m s

/-! ## vstxadd -/

/-- Merge the active lanes by address, in ascending order (R141): the lowest lane of each group, its sum and its flags. -/
def mergeLanes (add : Nat → Nat → Nat × Nat) (idx data : List W32) : List Nat → List (Nat × W32 × Nat) → List (Nat × W32 × Nat)
  | [], acc => acc
  | l :: t, acc =>
    let x := data.getD l 0
    let same (g : Nat × W32 × Nat) : Bool := idx.getD g.1 0 == idx.getD l 0
    if acc.any same then
      mergeLanes add idx data t (acc.map fun g =>
        if same g then (let r := add g.2.1.toNat x.toNat; (g.1, BitVec.ofNat 32 r.1, g.2.2 ||| r.2)) else g)
    else mergeLanes add idx data t (acc ++ [(l, x, 0)])

/-- SHADOW comes after every other trap that stands before anything is performed, and before any effect (R134, R192): a lane that would
trap at once traps in its stead, so the run given is that of the first lane alone (notes/assumptions/27). -/
def shadowLast (n : Nat) : Eff → Eff
  | .kept t e v => .kept t e v
  | _ => .trap tSHADOW (BitVec.ofNat 64 n)

/-- `vstxadd` (R141): groups are merged, an enabled condition of the merging is taken first, and each group is added at the place
of its lowest lane; a lane whose group was added below `VPROG` is skipped. -/
def execVstxadd (d a b : Reg) (m : BitVec 3) (t : BitVec 1) (s : State) : Host.Outcome State Fault Refusal :=
  retire (.vstxadd d a b m t) s fun s =>
    let c := s.me
    let idx := c.vec b.toNat
    let active := maskLanes (c.activeMask m)
    let low := active.filter fun l => decide (l < c.vprogLane)
    let rest := active.filter fun l => decide (c.vprogLane ≤ l) && !low.any fun j => idx.getD j 0 == idx.getD l 0
    let add : Nat → Nat → Nat × Nat := if t = 1#1 then fpOp2 f32 c (f32.add c.rm c.ftz) else fun x y => ((x + y) % 2 ^ 32, 0)
    let gs := mergeLanes add idx (c.vec d.toNat) rest []
    let hit := flagsOf gs &&& c.enables
    if hit ≠ 0 then .kept (s.upd fun c => c.raise hit) tFP (BitVec.ofNat 64 (hit * 16))
    else
      let sum (n : Nat) : Nat := match gs.find? fun g => idx.getD g.1 0 == idx.getD n 0 with | some g => g.2.1.toNat | none => 0
      let disputed : Option Nat := if t = 1#1 then s.disputed (some rest) (fun x => f32.diverges (sum x.lane) x) else none
      let data := (List.range 16).map fun l => aget 0 (valuesOf gs) l
      let L : Lanes := ⟨c.s a.toNat, idx, data, maskOf (gs.map (·.1)), (List.range 16).map fun l => (aget (0, 0) gs l).2, 0, brOK⟩
      let run (n : Nat) := runLanes (.vstxadd d a b m t) ((gs.map (·.1)).take n) L s
      match disputed with
      | some n => shadowLast n (run 1)
      | none => run 16

/-! ## Keyed access -/

/-- What the lanes below `VPROG` of a keyed access gave: as kept at the trap or stall that left it there; a free value where a program
has set `VPROG` by itself (notes/assumptions/24). -/
def doneBelow (s : State) (gone : BitVec 16) : BitVec 16 × Nat :=
  let c := s.me
  let w := Config.freeWord s.free
  let free : BitVec 16 × Nat := let ok := gone &&& w.truncate 16; (ok, if ok = gone then brOK else 1 + bits w 16 2 % 3)
  match afind c.lanesDone c.wp with
  | some x => if x.pc = c.pc ∧ x.lane = c.vprogLane then (x.ok, x.br) else free
  | none => if gone = 0 then (0, brOK) else free

/-- `vldk` and `vstk` (R142): one request to one bank, or lane by lane in a spread window. -/
def keyedEff (i : Instr) (isStore : Bool) (a b : Reg) (data : List W32) (m : BitVec 3) (s : State) : Eff :=
  let c := s.me
  let mask := c.activeMask m
  if mask = 0 then local_ s fun c => (c.setM m.toNat 0).setBr brOK
  else match placeOf (c.s a.toNat) with
    | .ok (.window _ _) =>
      let x := doneBelow s (mask &&& ~~~(fromLane mask c.vprogLane))
      let L : Lanes := ⟨c.s a.toNat, c.vec b.toNat, data, fromLane mask c.vprogLane, [], x.1, x.2⟩
      runLanes i (maskLanes L.mask) L s
    | _ => whole i a m (fun c => .keyed isStore mask (c.vec b.toNat) data) s

/-- `vldk` (R142). -/
def execVldk (d a b : Reg) (m : BitVec 3) (s : State) : Host.Outcome State Fault Refusal :=
  retire (.vldk d a b m) s (keyedEff (.vldk d a b m) false a b [] m)

/-- `vstk` (R142). -/
def execVstk (d a b : Reg) (m : BitVec 3) (s : State) : Host.Outcome State Fault Refusal :=
  retire (.vstk d a b m) s fun s => keyedEff (.vstk d a b m) true a b (s.me.vec d.toNat) m s

end Sys2Proof.Machine
end

