-- ==== Sys2Proof/Machine/Numbers.lean ====
section
/-! DEFINITION. Decode tables (R45 to R48, R149 to R151), block quantisation (R55) and the conversions (R145 to R148). -/
namespace Sys2Proof.Machine

/-! ## Decode tables -/

/-- Entry i of a table; every entry is zero at the start of a launch (R19). -/
def Cluster.entry (k : Cluster) (t i : Nat) : W32 := (aget [] k.tables t).getD i 0

/-- All entries of a table. -/
def Cluster.table (k : Cluster) (t : Nat) : List W32 := (List.range 256).map (k.entry t)

/-- Fields of an entry (Table 1 of spec/03). -/
def enNan (e : W32) : Bool := e.getLsbD 31
def enInf (e : W32) : Bool := e.getLsbD 30
def enSign (e : W32) : Bool := e.getLsbD 18
def enE8 (e : W32) : Nat := e.toNat / 1024 % 256
def enM10 (e : W32) : Nat := e.toNat % 1024
/-- A finite entry. -/
def enFinite (e : W32) : Bool := !enNan e && !enInf e
/-- Its effective exponent (R45). -/
def enExp (e : W32) : Int := if enE8 e = 0 then -126 else (enE8 e : Int) - 127
/-- A finite nonzero entry. -/
def enLive (e : W32) : Bool := enFinite e && (enE8 e != 0 || enM10 e != 0)

/-- The value of an entry (R45). -/
def entryValue (e : W32) : Fp :=
  if enNan e then .nan false
  else if enInf e then .inf (enSign e)
  else if enE8 e = 0 then .fin (enSign e) (enM10 e) (-136)
  else .fin (enSign e) (1024 + enM10 e) ((enE8 e : Int) - 137)

/-- An entry fails a check of its own (R46). -/
def entryBad (i : Nat) (e : W32) : Bool :=
  (i == 0 && e != 0 && e != 0x40000#32) || e.toNat / 2 ^ 19 % 2 ^ 11 != 0 || (enNan e && enInf e) ||
    (enNan e && e != 0x80000000#32) || (enInf e && e.toNat % 2 ^ 30 != 0 && e.toNat % 2 ^ 30 != 0x40000)

/-- The smallest and the largest effective exponent of a table's finite nonzero entries. -/
def expRange (l : List W32) : Option (Int × Int) :=
  l.foldl (fun r e => if enLive e then
      (match r with
      | none => some (enExp e, enExp e)
      | some (a, b) => some (min a (enExp e), max b (enExp e)))
    else r) none

/-- The index of the first failed check, or 256 for the window (R46, R149). -/
def tableBad (l : List W32) : Option Nat :=
  match (List.range 256).find? fun i => entryBad i (l.getD i 0) with
  | some i => some i
  | none => match expRange l with
    | some (a, b) => if b - a > 31 then some 256 else none
    | none => none

/-- The window floor w of a table (R46). -/
def windowFloor (l : List W32) : Int := match expRange l with | some (a, _) => a | none => 0

/-- A finite entry of a value ±m·2^e with m below 2048. -/
def entryOf (neg : Bool) (m : Nat) (e : Int) : W32 :=
  let s := if neg then 2 ^ 18 else 0
  if m = 0 then BitVec.ofNat 32 s
  else
    let k := Nat.log2 m
    BitVec.ofNat 32 (s + (127 + k + e).toNat * 1024 + (m * 1024 / 2 ^ k - 1024))

/-- The presets: 0 `e4m3`, 1 `e5m2`, 2 `int8` (R47). -/
def presetEntry (p c : Nat) : W32 :=
  let neg := decide (128 ≤ c)
  match p with
  | 0 =>
    let e := c / 8 % 16
    let m := c % 8
    if e = 15 ∧ m = 7 then 0x80000000#32
    else if e = 0 then entryOf neg m (-9) else entryOf neg (8 + m) ((e : Int) - 10)
  | 1 =>
    let e := c / 4 % 32
    let m := c % 4
    if e = 31 then (if m = 0 then BitVec.ofNat 32 (2 ^ 30 + if neg then 2 ^ 18 else 0) else 0x80000000#32)
    else if e = 0 then entryOf neg m (-16) else entryOf neg (4 + m) ((e : Int) - 17)
  | _ => if neg then entryOf true (256 - c) 0 else entryOf false c 0

/-- Replace a table whole (R46, R150). -/
def Cluster.setTable (k : Cluster) (t : Nat) (l : List W32) : Cluster :=
  { k with tables := aput k.tables t l, tablePoison := k.tablePoison.filter fun p => p.1 != t }

/-- `tblld` (R149). -/
def execTblld (t : BitVec 2) (a : Reg) (s : State) : Host.Outcome State Fault Refusal :=
  retire (.tblld t a) s fun s =>
    let c := s.me
    let w := c.s a.toNat
    let l := (List.range 256).map fun i => c.store.read4 (w.toNat + 4 * i)
    if w.toNat ≥ 0x40000 then .trap tLOCALBOUNDS w
    else if w.toNat % 1024 ≠ 0 then .trap tALIGN w
    else if c.arrayRange w.toNat 1024 = false then .trap tBANKPORT w
    else match (List.range 128).find? fun i => c.store.poisoned (w.toNat + 8 * i) 8 with
      | some i => .trap tPOISON (w + BitVec.ofNat 64 (8 * i))
      | none => match tableBad l with
        | some i => .trap tTABLE (BitVec.ofNat 64 i)
        | none => .next (s.updCluster s.cur.cl fun k => k.setTable t.toNat l)

/-- `tblrd` (R151). -/
def execTblrd (d a : Reg) (t : BitVec 2) (s : State) : Host.Outcome State Fault Refusal :=
  retire (.tblrd d a t) s fun s =>
    put d ((s.mine.entry t.toNat ((s.me.s a.toNat).toNat % 256)).zeroExtend 64) s

/-- `tblpre` (R151). -/
def execTblpre (t : BitVec 2) (p : Reg) (s : State) : Host.Outcome State Fault Refusal :=
  retire (.tblpre t p) s fun s =>
    .next (s.updCluster s.cur.cl fun k => k.setTable t.toNat ((List.range 256).map (presetEntry p.toNat)))

/-! ## Encoding (R48) -/

/-- A finite entry's value in units of 2^−149. -/
def entryUnits (e : W32) : Int :=
  let m : Int := if enE8 e = 0 then 2 * enM10 e else (1024 + enM10 e) * 2 ^ enE8 e
  (if enSign e then -m else m) * 2 ^ 12

/-- The better of two candidate codes for a value: nearer, then even M10, then lower. -/
def better (x : Int) (a b : Nat × W32) : Nat × W32 :=
  let da := (entryUnits a.2 - x).natAbs
  let db := (entryUnits b.2 - x).natAbs
  if db < da then b
  else if da < db then a
  else if enM10 a.2 % 2 = 1 ∧ enM10 b.2 % 2 = 0 then b
  else a

/-- The code of the finite entry nearest to a value. -/
def nearestCode (l : List W32) (x : Int) : Nat :=
  let cs := ((List.range 256).map fun i => (i, l.getD i 0)).filter fun p => enFinite p.2
  (cs.foldl (better x) (cs.headD (0, 0))).1

/-- The largest and smallest finite values of a table. -/
def tableMax (l : List W32) : Int := (l.filter enFinite).foldl (fun m e => max m (entryUnits e)) (entryUnits (l.headD 0))
def tableMin (l : List W32) : Int := (l.filter enFinite).foldl (fun m e => min m (entryUnits e)) (entryUnits (l.headD 0))

/-- The lowest code whose entry meets a test. -/
def lowestCode (l : List W32) (p : W32 → Bool) : Option Nat := (List.range 256).find? fun i => p (l.getD i 0)

/-- Encode an FP32 value through a table: its code, and whether it saturated (R48). DESIGN CHOICE (notes/assumptions/43): of several infinity
entries of one sign, the one at the lowest code stands for "the infinity entry". -/
def encodeValue (l : List W32) (nsat : Bool) (x : W32) : Nat × Bool :=
  let beyond (neg : Bool) (edge : Int) : Nat × Bool :=
    match (if nsat then lowestCode l fun e => enInf e && enSign e == neg else none) with
    | some c => (c, false)
    | none => (nearestCode l edge, true)
  match f32.value x.toNat with
  | .nan _ => ((lowestCode l enNan).getD 0x7F, false)
  | .inf neg => beyond neg (if neg then tableMin l else tableMax l)
  | .fin neg m e =>
    let u := scaled neg m e (-149)
    if u > tableMax l then beyond neg (tableMax l)
    else if u < tableMin l then beyond neg (tableMin l)
    else (nearestCode l u, false)

/-! ## MXINT8 (R55) -/

/-- floor(log2 |x|) of a finite nonzero FP32 value, 2^20 for an infinity. -/
def logOf (x : W32) : Option Int :=
  match f32.value x.toNat with
  | .nan _ => none
  | .inf _ => some (2 ^ 20)
  | .fin _ m e => if m = 0 then none else some (e + Nat.log2 m)

/-- One element at a scale: its byte, and whether it saturated. -/
def quantElem (s : Nat) (x : W32) : Byte × Bool :=
  match f32.value x.toNat with
  | .nan _ => (0, false)
  | .inf neg => (if neg then 0x81#8 else 0x7F#8, true)
  | .fin neg m e =>
    let r := (roundAt 0 neg m e ((s : Int) - 133) false).1
    let q := min r 127
    (BitVec.ofInt 8 (if neg then -(q : Int) else q), decide (r > 127))

/-- Quantise 32 elements: scale byte, elements, number of saturations. -/
def quantise (xs : List W32) : Nat × List Byte × Nat :=
  if xs.any fun x => (f32.value x.toNat).isNan then (255, xs.map fun _ => 0, 0)
  else
    let logs := xs.filterMap logOf
    if logs = [] then (0, xs.map fun _ => 0, 0)
    else
      let top := logs.foldl max (logs.headD 0)
      let s := (max 0 (min 254 (top + 127))).toNat
      let r := xs.map (quantElem s)
      (s, r.map (·.1), (r.filter (·.2)).length)

/-! ## Conversions -/

/-- `cvt.f32.i32` (R145). -/
def execCvtF32I32 (d a : Reg) (m : BitVec 3) (v : BitVec 1) (s : State) : Host.Outcome State Fault Refusal :=
  retire (.cvtF32I32 d a m v) s fun s =>
    let conv (c : Core) (x : W32) : Nat × Nat := f32.round c.rm c.ftz (decide (x.toInt < 0)) x.toInt.natAbs 0 false
    if v = 0#1 then
      let r := conv s.me ((s.me.s a.toNat).truncate 32)
      fpEff s r.2 none (f32.diverges r.1) fun c => c.setS d.toNat (BitVec.ofNat 64 r.1)
    else vecFp s d m (laneDiverges 0) fun c i => let r := conv c (c.v a.toNat i); (BitVec.ofNat 32 r.1, r.2)

/-- `cvt.i32.f32` (R145). -/
def execCvtI32F32 (d a : Reg) (m : BitVec 3) (v : BitVec 1) (s : State) : Host.Outcome State Fault Refusal :=
  retire (.cvtI32F32 d a m v) s fun s =>
    let conv (c : Core) (x : Nat) : W32 × Nat :=
      let o := f32.operand c.ftz x
      let r := toI32 c.rm o.1
      (r.1, r.2 ||| o.2)
    if v = 0#1 then
      let r := conv s.me (fpArg f32 (s.me.s a.toNat))
      fpEff s r.2 none otherDiverges fun c => c.setS d.toNat (r.1.signExtend 64)
    else vecFp s d m (fun _ => otherDiverges) fun c i => conv c (c.v a.toNat i).toNat

/-- `cvt.f64.f32` (R145). -/
def execCvtF64F32 (d a : Reg) (s : State) : Host.Outcome State Fault Refusal :=
  retire (.cvtF64F32 d a) s fun s =>
    let r := fpOp1 f32 s.me (fun x => f64.convert s.me.rm false x) (fpArg f32 (s.me.s a.toNat))
    fpEff s r.2 none (f64.diverges r.1) fun c => c.setS d.toNat (BitVec.ofNat 64 r.1)

/-- `cvt.f32.f64` (R145). -/
def execCvtF32F64 (d a : Reg) (s : State) : Host.Outcome State Fault Refusal :=
  retire (.cvtF32F64 d a) s fun s =>
    let r := fpOp1 f64 s.me (fun x => f32.convert s.me.rm s.me.ftz x) (s.me.s a.toNat).toNat
    fpEff s r.2 none (f32.diverges r.1) fun c => c.setS d.toNat (BitVec.ofNat 64 r.1)

/-- `vcvt.bf16.f32` (R146). -/
def execVcvtBf16F32 (d a b : Reg) (m : BitVec 3) (s : State) : Host.Outcome State Fault Refusal :=
  retire (.vcvtBf16F32 d a b m) s fun s =>
    vecFp s d m (laneDiverges 1) fun c i =>
      let conv (x : W32) : Nat × Nat := fpOp1 f32 c (fun y => bf16.convert c.rm c.ftz y) x.toNat
      let lo := conv (c.v a.toNat i)
      let hi := conv (c.v b.toNat i)
      (BitVec.ofNat 32 (lo.1 + hi.1 * 65536), lo.2 ||| hi.2)

/-- `vcvt.f32.bf16` (R146). -/
def execVcvtF32Bf16 (d a h : Reg) (m : BitVec 3) (s : State) : Host.Outcome State Fault Refusal :=
  retire (.vcvtF32Bf16 d a h m) s fun s =>
    vecFp s d m (laneDiverges 0) fun c i =>
      let r := fpOp1 bf16 c (fun y => f32.convert 0 false y) ((c.v a.toNat i).toNat / 2 ^ (16 * h.toNat) % 65536)
      (BitVec.ofNat 32 r.1, r.2)

/-- The FP32 value of a table entry and its flags (R147). -/
def decodeEntry (ftz : Bool) (e : W32) : W32 × Nat :=
  match entryValue e with
  | .fin neg m x =>
    let r := f32.round 0 false neg m x false
    if r.1 % 2 ^ 31 = f32.infBits then (BitVec.ofNat 32 r.1, flOF)
    else if ftz && f32.isSub r.1 then (BitVec.ofNat 32 (f32.signed neg 0), flUF)
    else (BitVec.ofNat 32 r.1, 0)
  | v => (BitVec.ofNat 32 (f32.bits v), 0)

/-- `vdec` (R147, R319). -/
def execVdec (d a n : Reg) (m : BitVec 3) (t : BitVec 2) (s : State) : Host.Outcome State Fault Refusal :=
  retire (.vdec d a n m t) s fun s =>
    let index (i : Nat) : Nat := (s.me.v a.toNat i).toNat / 2 ^ (8 * n.toNat) % 256
    match ((s.me.lanes m.toNat).map index).find? fun j => s.mine.tablePoison.contains (t.toNat, j) with
    | some j => .trap tPOISON (BitVec.ofNat 64 j)
    | none => vecFp s d m (laneDiverges 0) fun c i => decodeEntry c.ftz (s.mine.entry t.toNat (index i))

/-- `venc` (R147, R319): saturations count at its own address. -/
def execVenc (d a n : Reg) (m : BitVec 3) (t : BitVec 2) (s : State) : Host.Outcome State Fault Refusal :=
  retire (.venc d a n m t) s fun s =>
    let c := s.me
    let tab := s.mine.table t.toNat
    match if c.lanes m.toNat = [] then none else s.mine.tablePoison.find? fun p => p.1 == t.toNat with
    | some p => .trap tPOISON (BitVec.ofNat 64 p.2)
    | none =>
      let r := (c.lanes m.toNat).map fun i => (i, encodeValue tab c.nsat (c.v a.toNat i))
      let keep (i code : Nat) : W32 :=
        let old := (c.v d.toNat i).toNat
        let w := 2 ^ (8 * n.toNat)
        BitVec.ofNat 32 (old - old / w % 256 * w + code * w)
      match fpEff s 0 (some (c.lanes m.toNat)) otherDiverges fun k => k.writeV d.toNat (r.map fun x => (x.1, keep x.1 x.2.1)) with
      | .next u => .next (u.census s.cur.cl c.instrAddr ⟨0, 0, (r.filter fun x => x.2.2).length, 0⟩)
      | e => e

/-- `vqmx` (R148). -/
def execVqmx (d a b : Reg) (h : BitVec 1) (s : State) : Host.Outcome State Fault Refusal :=
  retire (.vqmx d a b h) s fun s =>
    let c := s.me
    let q := quantise (c.vec a.toNat ++ c.vec (a.toNat + 1))
    let lanes := (List.range 8).map fun l =>
      (8 * h.toNat + l, BitVec.ofNat 32 ((List.range 4).foldl (fun w j => w + (q.2.1.getD (4 * l + j) 0).toNat * 2 ^ (8 * j)) 0))
    match fpEff s 0 (some (List.range 16)) otherDiverges fun k => (k.writeV d.toNat lanes).setS b.toNat (BitVec.ofNat 64 q.1) with
    | .next u => .next (u.census s.cur.cl c.instrAddr ⟨0, 0, q.2.2, 0⟩)
    | e => e

/-- An MXINT8 element at a scale byte as FP32 (R148). DESIGN CHOICE (notes/assumptions/43): -128 at scale 254, which R148 takes for exact and
FP32 cannot hold, gives minus infinity. -/
def dequantElem (s : Nat) (q : Byte) : W32 :=
  if s = 255 then BitVec.ofNat 32 f32.nan
  else BitVec.ofNat 32 (f32.round 0 false (decide (q.toInt < 0)) q.toInt.natAbs ((s : Int) - 133) false).1

/-- `vdqmx` (R148). -/
def execVdqmx (d a b : Reg) (h : BitVec 1) (s : State) : Host.Outcome State Fault Refusal :=
  retire (.vdqmx d a b h) s fun s =>
    let c := s.me
    let sc := (c.s b.toNat).toNat % 256
    let el (k : Nat) : W32 :=
      dequantElem sc (BitVec.ofNat 8 ((c.v a.toNat (8 * h.toNat + k / 4)).toNat / 2 ^ (8 * (k % 4))))
    let row (o : Nat) : List (Nat × W32) := (List.range 16).map fun l => (l, el (o + l))
    let num (x : Shadow) : W32 := aget 0 (row (if x.high then 16 else 0)) x.lane
    fpEff s 0 (some (List.range 16)) (fun x => f32.diverges (num x).toNat x) fun k => (k.writeV d.toNat (row 0)).writeV (d.toNat + 1) (row 16)

end Sys2Proof.Machine
end

