-- ==== Sys2Proof/Machine/Matrix.lean ====
section
/-! DEFINITION. The matrix unit: block products and accumulators (R49 to R54, R156), operands (R155, R77, R78, R211, R212, R255), the
arbiter (R209, R210), output tiles (R158, R159), and the MAT instructions (R156 to R161). -/
namespace Sys2Proof.Machine

/-! ## Exact block products -/

/-- An element of an operand: NaN, infinity, or an integer in units of 2^q (Table 3 of spec/03). -/
inductive MEl where
  | nan
  | inf (neg : Bool)
  | int (n : Int)
deriving DecidableEq, Repr

/-- A byte of an operand. -/
def byteAt (l : List Byte) (i : Nat) : Nat := (l.getD i 0).toNat

/-- The element of a t8 code through a table with window floor w (R49). -/
def elemT8 (tab : List W32) (w : Int) (c : Nat) : MEl :=
  let e := tab.getD c 0
  if enNan e then .nan
  else if enInf e then .inf (enSign e)
  else
    let m : Int := if enE8 e = 0 then enM10 e else (1024 + enM10 e) * 2 ^ (enExp e - w).toNat
    .int (if enSign e then -m else m)

/-- The integer 2a of an E2M1 element. -/
def elemFp4 (x : Nat) : Int :=
  let e := x / 2 % 4
  let m := x % 2
  let v : Int := if e = 0 then m else (2 + m) * 2 ^ (e - 1)
  if x / 8 % 2 = 1 then -v else v

/-- The 32 elements of row i of block b of an operand item of format pair p (R49, R77). -/
def rowElems (p : Nat) (tab : List W32) (item : List Byte) (b i : Nat) : List MEl :=
  let slab := 64 + slabBytes p * b
  match p with
  | 1 => let w := windowFloor tab; (List.range 32).map fun k => elemT8 tab w (byteAt item (slab + 32 * i + k))
  | 2 => (List.range 32).map fun k => .int (item.getD (slab + 32 * i + k) 0).toInt
  | _ => (List.range 32).map fun k => .int (elemFp4 (byteAt item (slab + 16 * i + k / 2) / 16 ^ (k % 2) % 16))

/-- The scale byte of row i of block b. -/
def scaleByte (p : Nat) (item : List Byte) (b i : Nat) : Nat :=
  byteAt item (64 + slabBytes p * b + (slabBytes p - 32) + i)

/-- A bf16 element of row i at k of block b. -/
def elemBf16 (item : List Byte) (b i k : Nat) : Nat :=
  let a := 64 + 2048 * b + 64 * i + 2 * k
  byteAt item a + 256 * byteAt item (a + 1)

/-- What a block's sum has met so far. -/
structure BlockSum where
  nan : Bool
  pos : Bool
  neg : Bool
  sum : Int
deriving DecidableEq, Repr

/-- One product of a block (R50, R51). -/
def blockStep (r : BlockSum) (x : MEl × MEl) : BlockSum :=
  match x with
  | (.nan, _) | (_, .nan) => { r with nan := true }
  | (.inf a, .inf b) => if a = b then { r with pos := true } else { r with neg := true }
  | (.inf a, .int n) | (.int n, .inf a) =>
    if n = 0 then { r with nan := true }
    else if (decide (n < 0)) = a then { r with pos := true } else { r with neg := true }
  | (.int m, .int n) => { r with sum := r.sum + m * n }

/-- The residue ρ of a block, formed from the residues of its elements (R323): a unit without error gives I mod 7. -/
def residueOf (as bs : List MEl) : Nat :=
  (as.zip bs).foldl (fun r x => match x with
    | (.int m, .int n) => (r + (m.emod 7).toNat * (n.emod 7).toNat) % 7
    | _ => r) 0

/-- The block integer I (R50): none where a NaN or an infinity takes its place. -/
def blockInteger (as bs : List MEl) : Option Int :=
  let r := (as.zip bs).foldl blockStep ⟨false, false, false, 0⟩
  if r.nan || r.pos || r.neg then none else some r.sum

/-- The value of a block (R50, R51). -/
def blockValue (as bs : List MEl) (sA sB : Nat) (e : Int) : Fp :=
  let r := (as.zip bs).foldl blockStep ⟨false, false, false, 0⟩
  if sA = 255 ∨ sB = 255 ∨ r.nan = true ∨ (r.pos && r.neg) = true then .nan false
  else if r.pos then .inf false
  else if r.neg then .inf true
  else .fin (decide (r.sum < 0)) r.sum.natAbs ((sA : Int) + sB + e)

/-- An exact product. -/
def mulExact : Fp → Fp → Fp
  | .nan s, _ => .nan s
  | _, .nan s => .nan s
  | .inf a, .inf b => .inf (a != b)
  | .inf a, .fin b m _ => if m = 0 then .nan false else .inf (a != b)
  | .fin a m _, .inf b => if m = 0 then .nan false else .inf (a != b)
  | .fin a m e, .fin b n f => .fin (a != b) (m * n) (e + f)

/-- An exact sum that is not zero rounded once to 24 bits with an unbounded exponent, then flushed or made infinite (R52). -/
def roundAcc (neg : Bool) (m : Nat) (e : Int) : W32 × Counts :=
  let E : Int := e + Nat.log2 m
  let r := (roundAt 0 neg m e (E - 23) false).1
  let E' : Int := if r = 2 ^ 24 then E + 1 else E
  if E' < -126 then (BitVec.ofNat 32 (f32.signed neg 0), ⟨0, 0, 0, 1⟩)
  else if E' > 127 then (BitVec.ofNat 32 (f32.signed neg f32.infBits), ⟨0, 1, 0, 0⟩)
  else (BitVec.ofNat 32 (f32.round 0 false neg r (E - 23) false).1, ⟨0, 0, 0, 0⟩)

/-- Add a value to an accumulator element (R52). -/
def addAcc (acc : W32) (v : Fp) : W32 × Counts :=
  let nan : W32 × Counts := (BitVec.ofNat 32 f32.nan, ⟨1, 0, 0, 0⟩)
  let inf (n : Bool) : W32 × Counts := (BitVec.ofNat 32 (f32.signed n f32.infBits), ⟨0, 1, 0, 0⟩)
  match f32.value acc.toNat, v with
  | .nan _, _ | _, .nan _ => nan
  | .inf a, .inf b => if a = b then inf a else nan
  | .inf a, _ | _, .inf a => inf a
  | .fin n1 m1 e1, .fin n2 m2 e2 =>
    let lo := min e1 e2
    let t := scaled n1 m1 e1 lo + scaled n2 m2 e2 lo
    if t = 0 then (BitVec.ofNat 32 (f32.signed (m1 == 0 && m2 == 0 && n1 && n2) 0), ⟨0, 0, 0, 0⟩)
    else roundAcc (decide (t < 0)) t.natAbs lo

/-! ## Operands -/

/-- K blocks of a command's operands, from its A descriptor. -/
def MCmd.kb (q : MCmd) : Nat := dKb q.sa

/-- The format pair of a command: 0 bf16, 1 t8, 2 mx8, 3 fp4. -/
def MCmd.pair (q : MCmd) : Nat :=
  match q.instr with
  | .mma _ _ _ _ p | .mmaz _ _ _ _ p | .mstream _ _ _ _ p => p.toNat
  | _ => 0

/-- The accumulator that a command names. -/
def MCmd.acc (q : MCmd) : Nat :=
  match q.instr with
  | .mma d _ _ _ _ | .mmaz d _ _ _ _ | .mstream d _ _ _ _ | .mzero d | .mstore d _ _ | .mload d _ => d.toNat
  | _ => 0

/-- A stream. -/
def MCmd.isStream (q : MCmd) : Bool := match q.instr with | .mstream _ _ _ _ _ => true | _ => false

/-- A command that takes a grant of the array (R209, R210). -/
def MCmd.isArith (q : MCmd) : Bool :=
  match q.instr with | .mma _ _ _ _ _ | .mmaz _ _ _ _ _ | .mstream _ _ _ _ _ => true | _ => false

/-- An operand descriptor passes the checks of R155 that do not read the item. -/
def descOk (k : Cluster) (d : Word) (p : Nat) : Bool :=
  let n := operandBytes p (dKb d)
  let c := k.core (dCore d)
  bits d 44 2 == 0 && bits d 18 24 == 0 &&
  match dKind d with
  | 0 => kindOf (c.bank (dBank d)).pers == 1 && decide (64 ≤ itemOf (c.bank (dBank d)).pers) &&
      decide (n ≤ itemOf (c.bank (dBank d)).pers) && (c.bank (dBank d)).first == dBank d && dAddr d == 0
  | 1 => dAddr d % 64 == 0 && dBank d == dAddr d / 0x4000 && bits d 48 7 == 0 && c.arrayRange (dAddr d) n
  | _ => false

/-- A bank that a descriptor of `n` bytes names, or a member of its group, is being converted: its accesses are answered RETRY (R230). -/
def descBusy (k : Cluster) (d : Word) (n : Nat) : Bool :=
  (namedBanks d n).any fun x =>
    let c := k.core x.1
    let b := c.bank x.2
    (List.range (groupSize b.gsize)).any fun i => (c.bank (b.first + i)).converting

/-- A command names a bank that is being converted. -/
def MCmd.busy (k : Cluster) (core : Nat) (q : MCmd) : Bool :=
  let op (d : Word) (p : Nat) : Bool := descBusy k d (operandBytes p (dKb d))
  match q.instr with
  | .mma _ _ _ _ p | .mmaz _ _ _ _ p => op q.sa p.toNat || op q.sb p.toNat
  | .mstream _ _ _ _ p => op q.sa p.toNat || op q.sb p.toNat || descBusy k q.sc1 0
  | .mstore _ _ _ => descBusy k q.sa (tileBytes (oFmt q.sa))
  | .mload _ _ => (banksOf q.sa.toNat 4096).any fun b => ((k.core core).bank b).converting
  | _ => false

/-- A ring operand holds the items that a command needs (R155). -/
def descReady (k : Cluster) (d : Word) (need : Nat) : Bool :=
  dKind d != 0 || decide (need ≤ ((k.core (dCore d)).bank (dBank d)).count)

/-- A header passes R78 for a format pair. -/
def headerOk (h : Word) (p : Nat) : Bool :=
  bits h 24 8 == p && bits h 17 7 == 0 && decide (1 ≤ bits h 8 8 ∧ bits h 8 8 ≤ 32 ∧ 1 ≤ bits h 0 8 ∧ bits h 0 8 ≤ 32)

/-- Header word 0 of an item. -/
def headerOf (item : List Byte) : Word := BitVec.ofNat 64 ((List.range 8).foldl (fun w i => w + byteAt item i * 256 ^ i) 0)

/-- One 64-byte line of an ARRAY operand as a core's command reads it: each 8-byte word of a buffered line may be the buffered
one (R255; notes/assumptions/15). -/
def readLine (s : State) (k : Cluster) (issuer core off : Nat) : List Byte :=
  let now := (k.core core).store.bytes off 64
  match afind k.opBuf (lineKey issuer core off) with
  | none => now
  | some old => (List.range 64).map fun i =>
      if Config.staleWord s.free (lineKey issuer core off * 8 + i / 8) then old.getD i 0 else now.getD i 0

/-- Lines that the matrix unit's read buffer holds (R6). -/
def opLines : Nat := 256

/-- The buffer with a line of a core's store, which serves every core's commands (R255); a full one gives up a line that the spec leaves open
(R6; notes/assumptions/15). -/
def bufferLine (seed core off : Nat) (now : List Byte) (b : List (Nat × List Byte)) : List (Nat × List Byte) :=
  let line := lineKey 0 core off
  let lines := (b.map fun p => p.1 % 32768).eraseDups
  let b := if lines.contains line || decide (lines.length < opLines) then b
    else (let gone := lines.getD (Config.pick seed line % lines.length) 0; b.filter fun p => p.1 % 32768 != gone)
  (List.range 8).foldl (fun b u => if (afind b (lineKey u core off)).isSome then b else aput b (lineKey u core off) now) b

/-- The buffer after lines of a region have been read (R255). -/
def fillLines (k : Cluster) (seed core a lines : Nat) : Cluster :=
  { k with opBuf := (List.range lines).foldl (fun b j =>
      bufferLine seed core (a + 64 * j) ((k.core core).store.bytes (a + 64 * j) 64) b) k.opBuf }

/-- The address of a ring item at an offset from the head (R155, R212). -/
def ringItem (k : Cluster) (d : Word) (off : Nat) : Option Nat :=
  let b := (k.core (dCore d)).bank (dBank d)
  (b.joined[off]?).map fun p => (slotAddr b 0 p.1).toNat

/-- The bytes of an operand, and the numbers of its poisoned words. -/
def readOperand (s : State) (cl issuer : Nat) (d : Word) (p : Nat) : List Byte × List Nat :=
  let k := s.cluster cl
  let n := operandBytes p (dKb d)
  let m := (k.core (dCore d)).store
  let poison (a : Nat) : List Nat := (List.range (n / 8)).filter fun i => m.poisoned (a + 8 * i) 8
  match dKind d with
  | 0 => (match ringItem k d (dOff d) with
      | some a => (m.bytes a n, poison a)
      | none => (List.replicate n 0, []))
  | _ =>
    let a := dAddr d
    (((List.range ((n + 63) / 64)).flatMap fun j => readLine s k issuer (dCore d) (a + 64 * j)).take n, poison a)

/-- Keep what an ARRAY operand read in the buffer. -/
def keepOperand (k : Cluster) (seed : Nat) (d : Word) (p : Nat) : Cluster :=
  if dKind d = 1 then fillLines k seed (dCore d) (dAddr d) ((operandBytes p (dKb d) + 63) / 64) else k

/-- A table as a command captures it: bit 28 of an entry marks poison. -/
def captureTable (k : Cluster) (t : Nat) : List W32 :=
  (List.range 256).map fun i => if k.tablePoison.contains (t, i) then k.entry t i ||| 0x10000000#32 else k.entry t i

/-- A captured table without its poison marks. -/
def cleanTable (l : List W32) : List W32 := l.map fun e => e &&& ~~~0x10000000#32

/-! ## Output descriptors -/

/-- An output descriptor keeps Table 3 of spec/08 and R158. -/
def outOk (k : Cluster) (d : Word) : Bool :=
  let n := tileBytes (oFmt d)
  let c := k.core (dCore d)
  let b := c.bank (dBank d)
  bits d 48 2 == 0 && bits d 18 20 == 0 && decide (oFmt d ≤ 3) &&
  match dKind d with
  | 0 => kindOf b.pers == 1 && decide (64 ≤ itemOf b.pers) && decide (n ≤ itemOf b.pers) && b.first == dBank d && dAddr d == 0
  | 1 => dAddr d % 64 == 0 && dBank d == dAddr d / 0x4000 && c.arrayRange (dAddr d) n
  | _ => false

/-! ## Issue -/

/-- A command with the values read at issue (R152). -/
def Core.command (c : Core) (i : Instr) (sa sb sc sc1 : Word) : MCmd :=
  { instr := i, site := c.instrAddr, sa := sa, sb := sb, sc := sc, sc1 := sc1, arb := bits (c.cr_ Cr.arb) 0 4, nsat := c.nsat,
    recq := c.recq, stage := .queued, opA := [], opB := [], poisA := [], poisB := [], tabA := [], tabB := [], began := false,
    bad := none, item := false, tile := none, since := none, tabO := [], counts := ⟨0, 0, 0, 0⟩ }

/-- Queue a command; a full queue stalls the core (R152). -/
def queueCmd (i : Instr) (sa sb sc sc1 : Core → Word) (s : State) : Eff :=
  if s.me.mq.length ≥ 16 then stall s
  else local_ s fun c => { c with mq := c.mq ++ [c.command i (sa c) (sb c) (sc c) (sc1 c)] }

/-- An output format that the features do not offer is refused (R3, R158). -/
def outRefusal (i : Instr) (s : State) (d : Word) : Option (Nat × Word) :=
  if oFmt d = 3 ∧ bit s.feat0 3 = false then some (tILLEGAL, i.word) else none

/-- `mma` (R156). -/
def execMma (d : BitVec 2) (a b c : Reg) (p : BitVec 2) (s : State) : Host.Outcome State Fault Refusal :=
  retire (.mma d a b c p) s (queueCmd (.mma d a b c p) (·.s a.toNat) (·.s b.toNat) (·.s c.toNat) (fun _ => 0))

/-- `mmaz` (R156). -/
def execMmaz (d : BitVec 2) (a b c : Reg) (p : BitVec 2) (s : State) : Host.Outcome State Fault Refusal :=
  retire (.mmaz d a b c p) s (queueCmd (.mmaz d a b c p) (·.s a.toNat) (·.s b.toNat) (·.s c.toNat) (fun _ => 0))

/-- `mstream` (R157, R158). -/
def execMstream (d : BitVec 2) (a b c : Reg) (p : BitVec 2) (s : State) : Host.Outcome State Fault Refusal :=
  retireUnless (.mstream d a b c p) (outRefusal (.mstream d a b c p) s (s.me.s (c.toNat + 1))) s
    (queueCmd (.mstream d a b c p) (·.s a.toNat) (·.s b.toNat) (·.s c.toNat) (·.s (c.toNat + 1)))

/-- `mzero` (R160). -/
def execMzero (d : BitVec 2) (s : State) : Host.Outcome State Fault Refusal :=
  retire (.mzero d) s (queueCmd (.mzero d) (fun _ => 0) (fun _ => 0) (fun _ => 0) (fun _ => 0))

/-- `mload` (R160). -/
def execMload (d : BitVec 2) (a : Reg) (s : State) : Host.Outcome State Fault Refusal :=
  retire (.mload d a) s (queueCmd (.mload d a) (·.s a.toNat) (fun _ => 0) (fun _ => 0) (fun _ => 0))

/-- `mstore` (R158, R160). -/
def execMstore (d : BitVec 2) (a b : Reg) (s : State) : Host.Outcome State Fault Refusal :=
  retireUnless (.mstore d a b) (outRefusal (.mstore d a b) s (s.me.s a.toNat)) s
    (queueCmd (.mstore d a b) (·.s a.toNat) (·.s b.toNat) (fun _ => 0) (fun _ => 0))

/-- `msync` (R160). -/
def execMsync (s : State) : Host.Outcome State Fault Refusal :=
  retire .msync s fun s => if s.me.mq = [] then .next s else s.waitFor (.matrix none)

/-- Accumulator n; clean at the start of a launch (R19). -/
def Core.acc (c : Core) (n : Nat) : Acc := aget ⟨[], 0⟩ c.accs n

/-- Element i·32 + j of an accumulator. -/
def Acc.at_ (a : Acc) (e : Nat) : W32 := a.vals.getD e 0

/-- Half a row of an accumulator into a vector register (R161). -/
def snapshot (d : BitVec 2) (a b : Reg) (s : State) : Eff :=
  let c := s.me
  let w := c.s b.toNat
  let base := bits w 0 5 * 32 + bits w 5 1 * 16
  let x := c.acc d.toNat
  if (List.range 16).any fun l => x.poison.getLsbD (base + l) then .trap tPOISON w
  else local_ s fun k => k.writeV a.toNat ((List.range 16).map fun l => (l, x.at_ (base + l)))

/-- `mread` (R161). -/
def execMread (d : BitVec 2) (a b : Reg) (s : State) : Host.Outcome State Fault Refusal :=
  retire (.mread d a b) s fun s =>
    if s.me.mq.any fun q => q.names d.toNat then s.waitFor (.matrix (some d.toNat)) else snapshot d a b s

/-- `mpeek` (R161). -/
def execMpeek (d : BitVec 2) (a b : Reg) (s : State) : Host.Outcome State Fault Refusal :=
  retire (.mpeek d a b) s (snapshot d a b)

/-! ## The arbiter -/

/-- A ramp group's window ends (R15). -/
def execMatrixRamp (cl : Nat) (s : State) : Host.Outcome State Fault Refusal :=
  let k := s.cluster cl
  if k.launch ≠ 0 ∧ k.ramped = false ∧ k.rampAt ≤ s.cyc then .next (s.updCluster cl fun k => { k with ramped := true }) else .next s

/-- The command that a core offers to the arbiter: its first that is not granted, behind granted ones only (R211). -/
def Core.headCmd (c : Core) : Option (Nat × MCmd) :=
  let i := (c.mq.takeWhile fun q => q.isArith && !q.isStream && q.stage == .granted).length
  match c.mq[i]? with
  | some q => if q.isArith ∧ q.stage = .queued then some (i, q) else none
  | none => none

/-- The first sealed core whose bank a command names (R324). -/
def MCmd.sealedCore (k : Cluster) (q : MCmd) : Option Nat :=
  let named := match q.instr with
    | .mma _ _ _ _ _ | .mmaz _ _ _ _ _ => [dCore q.sa, dCore q.sb]
    | .mstream _ _ _ _ _ => [dCore q.sa, dCore q.sb, dCore q.sc1]
    | .mstore _ _ _ => [dCore q.sa]
    | _ => []
  named.find? fun j => (k.core j).run == .sealed

/-- Header word 0 of the item that an operand descriptor names, as a core's command reads it (R255). -/
def opHeader (s : State) (k : Cluster) (issuer : Nat) (d : Word) : Word :=
  if dKind d = 0 then
    match ringItem k d (dOff d) with
    | some a => (k.core (dCore d)).store.read8 a
    | none => 0
  else headerOf (readLine s k issuer (dCore d) (dAddr d))

/-- A stream whose A or output descriptor, B descriptor or B header fails ends when it starts, without an A item (R155, R157). -/
def streamFails (s : State) (k : Cluster) (core : Nat) (q : MCmd) : Bool :=
  let p := q.pair
  let need := max (dOff q.sb + 1) (dPops q.sb)
  !descOk k q.sa p || dKind q.sa != 0 || dOff q.sa != 0 || !outOk k q.sc1 || dKind q.sc1 != 0 ||
    !q.began && (!descOk k q.sb p || dKb q.sa != dKb q.sb ||
      descReady k q.sb need && !headerOk (opHeader s k core q.sb) p)

/-- A head command is ready (R210); one whose descriptor fails, or that names a bank of a sealed core, is ready to end. -/
def cmdReady (s : State) (k : Cluster) (core : Nat) (q : MCmd) : Bool :=
  let p := q.pair
  k.ramped && ((q.sealedCore k).isSome || !q.busy k core && (
  if q.isStream then
    streamFails s k core q || (descReady k q.sa 1 && (q.began || descReady k q.sb (max (dOff q.sb + 1) (dPops q.sb))))
  else
    let need (d : Word) : Bool := !descOk k d p || descReady k d (max (dOff d + 1) (dPops d))
    need q.sa && need q.sb))

/-- Cores in the cyclic order that starts after a core. -/
def cyclic (after : Nat) : List Nat := (List.range 8).map fun i => (after + 1 + i) % 8

/-- Cores with a ready head command, in scan order, with their commands; `behind` holds back a core whose own earlier stores into
the cluster are still under way (R152). -/
def readyCores (s : State) (k : Cluster) (behind : Nat → Bool) : List (Nat × Nat × MCmd) :=
  (cyclic k.lastGrant).filterMap fun j => match (k.core j).headCmd with
    | some (i, q) => if cmdReady s k j q && !behind j then some (j, i, q) else none
    | none => none

/-- The core that the arbiter grants, and the credits after it (R209). DESIGN CHOICE (notes/assumptions/43): a core whose head command's weight
differs from that of an earlier command of the same round keeps the credits that it has left, of which R209 says nothing; the new weight
counts from the next round. -/
def arbitrate (s : State) (k : Cluster) (behind : Nat → Bool) : Option ((Nat × Nat × MCmd) × Assoc Nat) :=
  let rs := readyCores s k behind
  let heavy := rs.filter fun r => r.2.2.arb != 0
  let full (r : Nat × Nat × MCmd) : Nat := r.2.2.arb
  match heavy.find? fun r => aget (full r) k.credits r.1 != 0 with
  | some r => some (r, aput k.credits r.1 (aget (full r) k.credits r.1 - 1))
  | none => match heavy.head? with
    | some r => some (r, [(r.1, full r - 1)])
    | none => rs.head?.map fun r => (r, k.credits)

/-- Commands granted and not retired in a cluster. -/
def grantedCount (k : Cluster) : Nat :=
  (List.range 8).foldl (fun n j => n + ((k.core j).mq.filter fun q => q.stage == .granted).length) 0

/-- Replace a core's queued command. -/
def Cluster.setCmd (k : Cluster) (j i : Nat) (q : MCmd) : Cluster :=
  let c := k.core j
  k.setCore j { c with mq := setAt c.mq i q }

/-- Write a matrix record for a core. DESIGN CHOICE (notes/assumptions/43): ADDR of MATRIX-FORMAT, MATRIX-POISON and POISON is 0, which R153
allows without saying when. -/
def State.matrixRecord (s : State) (cl j : Nat) (q : MCmd) (tag cls : Nat) (addr detail : Word) : State :=
  s.record ⟨cl, j⟩ q.recq tag uMatrix cls addr detail

/-- Drop a core's command, keeping the write port's order. -/
def Cluster.dropCmd (k : Cluster) (j i : Nat) : Cluster :=
  let c := k.core j
  k.setCore j { c with mq := dropAt c.mq i }

/-- A command ends with its entry freed; the census takes the counts of a stream in the same step (R157, R342). DESIGN CHOICE
(notes/assumptions/43): so do those of a stream that a record ends behind its first tile. -/
def State.endCmd (s : State) (cl j i : Nat) (q : MCmd) : State := (s.census cl q.site q.counts).updCluster cl fun k => k.dropCmd j i

/-! ## RETRY from a converting bank (R230) -/

/-- The command of a core that a converting bank holds up: the one that writes its tile, or else its first not granted. -/
def Core.heldUp (k : Cluster) (j : Nat) : Option (Nat × MCmd) :=
  let mq := (k.core j).mq
  ((mq.findIdx? fun q => q.stage == .writing).or (mq.findIdx? fun q => q.stage == .queued)).bind fun i => (mq[i]?).map fun q => (i, q)

/-- Cycles for which RETRY from a converting bank is answered before the requester gives up (R230). -/
def retryLimit : Nat := 2 ^ 16

/-- One core's command: the clock of R230 runs while a bank that it names converts, and a command held up to the limit ends with a MESH
record. -/
def retryOne (s : State) (cl j : Nat) : State :=
  let k := s.cluster cl
  match Core.heldUp k j with
  | none => s
  | some (i, q) =>
    if q.busy k j = false ∨ (q.sealedCore k).isSome then (if q.since.isNone then s else s.updCluster cl fun k => k.setCmd j i { q with since := none })
    else match q.since with
      | none => s.updCluster cl fun k => k.setCmd j i { q with since := some s.cyc }
      | some t =>
        if (s.cyc - t).toNat < retryLimit then s
        else
          let d := match q.instr with | .mstore _ _ _ => q.sa | _ => if descBusy k q.sb (operandBytes q.pair (dKb q.sb)) then q.sb else q.sa
          let a := match q.instr with | .mload _ _ => q.sa | _ => meshAddr k.vc (dCore d) (0x4000 * dBank d)
          ((s.matrixRecord cl j q 0 tMESH a a).endCmd cl j i q).updCluster cl fun k => { k with port := k.port.filter (· != j) }

/-- Every core's command that a converting bank holds up. -/
def State.matrixRetries (s : State) (cl : Nat) : State := (List.range 8).foldl (fun (s : State) j => retryOne s cl j) s

/-- The table that a t8 output descriptor names (R158). -/
def Cluster.outTable (k : Cluster) (d : Word) : List W32 := if oFmt d = 2 then k.table (oTbl d) else []

/-- What a command captures when it starts: operands, tables, and the DETAIL of its first failed check (R155, R157). The tables of a stream
are those of its first tile (R150). -/
def captureCmd (s : State) (cl j : Nat) (q : MCmd) : MCmd :=
  let k := s.cluster cl
  let p := q.pair
  let okA := descOk k q.sa p && (!q.isStream || (dKind q.sa == 0 && dOff q.sa == 0))
  let okB := descOk k q.sb p && dKb q.sa == dKb q.sb
  let a := if okA then readOperand s cl j q.sa p else ([], [])
  let b := if q.began then (q.opB, q.poisB) else if okB then readOperand s cl j q.sb p else ([], [])
  let okOut := !q.isStream || (outOk k q.sc1 && dKind q.sc1 == 0)
  let badB := !q.began && !headerOk (headerOf b.1) p
  let badA := !headerOk (headerOf a.1) p
  let bad : Option Word :=
    if !okA then some q.sa
    else if !q.began && !okB then some q.sb
    else if !okOut then some q.sc1
    else if badB then some (headerOf b.1)
    else if badA then some (headerOf a.1)
    else none
  { q with stage := .granted, opA := a.1, poisA := a.2, opB := b.1, poisB := b.2, bad := bad
           item := q.isStream && okA && (q.began || okB) && okOut && !badB && badA
           tabA := if q.began then q.tabA else if p = 1 then captureTable k (dTbl q.sa) else []
           tabB := if q.began then q.tabB else if p = 1 then captureTable k (dTbl q.sb) else []
           tabO := if q.began then q.tabO else if q.isStream then k.outTable q.sc1 else [] }

/-- The arbiter grants the array (R209, R211): the next grant may come before the previous command has retired. None comes in a
cluster that is being evicted (R300). -/
def execMatrixGrant (cl : Nat) (s0 : State) : Host.Outcome State Fault Refusal :=
  let s := s0.matrixRetries cl
  let k := s.cluster cl
  if grantedCount k ≥ 2 ∨ k.evict ≠ .none then .next s
  else match arbitrate s k (fun j => !s.drained ⟨cl, j⟩ 1) with
    | none => .next s
    | some ((j, i, q), cr) =>
      let q1 := captureCmd s cl j q
      .next (s.updCluster cl fun k =>
        let k1 : Cluster := { k with lastGrant := j, credits := cr }
        let k2 := k1.setCmd j i q1
        if q1.bad.isSome then k2 else keepOperand (keepOperand k2 s.free q.sa q.pair) s.free q.sb q.pair)

/-! ## Retirement -/

/-- Row i of block b of an operand holds poison: in its elements, its scale byte, or a table entry that it uses (R319). -/
def rowPoison (p : Nat) (tab : List W32) (item : List Byte) (pois : List Nat) (b i : Nat) : Bool :=
  let slab := 64 + slabBytes p * b
  let len := match p with | 0 => 64 | 3 => 16 | _ => 32
  let at_ (a n : Nat) : Bool := pois.any fun w => decide (a < 8 * w + 8 ∧ 8 * w < a + n)
  at_ (slab + len * i) len || (p != 0 && at_ (slab + slabBytes p - 32 + i) 1) ||
    (p == 1 && (List.range 32).any fun k => (tab.getD (byteAt item (slab + 32 * i + k)) 0).getLsbD 28)

/-- Census classes of an operand's codes (R54). -/
def operandCounts (p : Nat) (tab : List W32) (item : List Byte) (kb : Nat) : Counts :=
  (List.range kb).foldl (fun n b => (List.range 32).foldl (fun n i =>
    if p = 0 then
      (List.range 32).foldl (fun (n : Counts) k =>
        let x := elemBf16 item b i k
        match bf16.value x with
        | .nan _ => n.plus ⟨1, 0, 0, 0⟩
        | .inf _ => n.plus ⟨0, 1, 0, 0⟩
        | _ => if bf16.isSub x then n.plus ⟨0, 0, 0, 1⟩ else n) n
    else
      let n := if scaleByte p item b i = 255 then n.plus ⟨1, 0, 0, 0⟩ else n
      (rowElems p tab item b i).foldl (fun (n : Counts) e => match e with
        | .nan => n.plus ⟨1, 0, 0, 0⟩
        | .inf _ => n.plus ⟨0, 1, 0, 0⟩
        | .int _ => n) n) n) ⟨0, 0, 0, 0⟩

/-- A bf16 operand element: a subnormal computes as zero with its sign (R53). -/
def bf16Operand (x : Nat) : Fp := if bf16.isSub x then .fin (decide (32768 ≤ x)) 0 0 else bf16.value x

/-- The elements of row i of A and row j of B in block b. -/
def MCmd.block (q : MCmd) (tA tB : List W32) (i j b : Nat) : List MEl × List MEl :=
  (rowElems q.pair tA q.opA b i, rowElems q.pair tB q.opB b j)

/-- The additions that an element takes: one of each block, or of each product of bf16 (R52, R53). -/
def MCmd.steps (q : MCmd) : Nat := if q.pair = 0 then 32 * q.kb else q.kb

/-- The value that addition n gives to element (i, j) (R50 to R53, R156). -/
def MCmd.addend (q : MCmd) (tA tB : List W32) (i j n : Nat) : Fp :=
  let p := q.pair
  if p = 0 then mulExact (bf16Operand (elemBf16 q.opA (n / 32) i (n % 32))) (bf16Operand (elemBf16 q.opB (n / 32) j (n % 32)))
  else
    let base : Int := match p with
      | 1 => windowFloor tA + windowFloor tB - 274
      | 2 => -266
      | _ => -256
    let eA := (q.sc.extractLsb' 0 8).toInt
    let eB := (q.sc.extractLsb' 8 8).toInt
    let x := q.block tA tB i j n
    blockValue x.1 x.2 (scaleByte p q.opA n i) (scaleByte p q.opB n j) (eA + eB + base)

/-- Element (i, j) after the first n additions of a command (R52, R53, R156). -/
def accElement (q : MCmd) (tA tB : List W32) (start : W32) (i j n : Nat) : W32 × Counts :=
  (List.range n).foldl (fun (r : W32 × Counts) m =>
    let x := addAcc r.1 (q.addend tA tB i j m)
    (x.1, r.2.plus x.2)) (start, ⟨0, 0, 0, 0⟩)

/-- The accumulator after a command, its census counts and the first output that an operand poisons (R156, R319). DESIGN CHOICE
(notes/assumptions/43): the operand elements of a stream's B item count with each of its tiles, where R54 does not say how often.  -/
def accumulate (q : MCmd) (old : Acc) (zero : Bool) : Acc × Counts × Option Nat :=
  let p := q.pair
  let tA := cleanTable q.tabA
  let tB := cleanTable q.tabB
  let rows := (List.range 32).map fun i => (List.range q.kb).any fun b => rowPoison p q.tabA q.opA q.poisA b i
  let cols := (List.range 32).map fun j => (List.range q.kb).any fun b => rowPoison p q.tabB q.opB q.poisB b j
  let start (e : Nat) : W32 := if zero then 0 else old.at_ e
  let els := (List.range 1024).map fun e => accElement q tA tB (start e) (e / 32) (e % 32) q.steps
  let hit (e : Nat) : Bool := rows.getD (e / 32) false || cols.getD (e % 32) false
  let pois := (List.range 1024).foldl (fun (m : BitVec 1024) e => if hit e then m ||| (1#1024 <<< e) else m)
    (if zero then 0 else old.poison)
  let n := els.foldl (fun (n : Counts) x => n.plus x.2)
    ((operandCounts p tA q.opA q.kb).plus (operandCounts p tB q.opB q.kb))
  (⟨els.map (·.1), pois⟩, n, (List.range 1024).find? hit)

/-- Pop the oldest item that no agent has acquired (R212). -/
def popRing (k : Cluster) (d : Word) : Option Cluster :=
  let c := k.core (dCore d)
  match (c.bank (dBank d)).acquire with
  | none => none
  | some (i, b) => (b.release i).map fun b => k.setCore (dCore d) (c.setBank (dBank d) b)

/-- Pops of a descriptor at retirement: those that no item answers are skipped (R212). -/
def popMany (d : Word) : Nat → Cluster → Cluster × Bool
  | 0, k => (k, true)
  | n + 1, k => match popRing k d with
    | some k1 => popMany d n k1
    | none => (k, false)

/-- Pops of a descriptor of a command of a core, with the record of missing items. -/
def popsOf (s : State) (cl j : Nat) (q : MCmd) (tag : Nat) (d : Word) : State :=
  if dKind d ≠ 0 then s
  else
    let r := popMany d (dPops d) (s.cluster cl)
    let s := s.setCluster cl r.1
    if r.2 then s else s.matrixRecord cl j q tag kMATRIXFORMAT 0 d

/-- A command that names a bank of a sealed core ends with a REMOTE-ERROR record (R324). -/
def sealedRecord (s : State) (cl j i : Nat) (q : MCmd) (tag t : Nat) : State :=
  (s.matrixRecord cl j q tag tREMOTEERROR 0 (meshAddr (s.cluster cl).vc t 0)).endCmd cl j i q

/-- Record a failed check of an element (R322, R323). -/
def checkRecord (s : State) (cl j : Nat) (q : MCmd) (tag bit16 e : Nat) : State :=
  ((s.matrixRecord cl j q tag kMATRIXRESIDUE 0 (BitVec.ofNat 64 (e % 1024 + bit16 * 65536))).bump Reg.check 1).clusterError cl 1

/-- A residue that the matrix unit formed for a block of an element differs from that of the block integer (R323); bf16 forms no block
integer (R53). -/
def residueFails (q : MCmd) (tA tB : List W32) (x : Nat × Nat × Nat) : Bool :=
  q.pair != 0 && decide (x.1 < 1024 ∧ x.2.1 < q.kb) &&
    (let b := q.block tA tB (x.1 / 32) (x.1 % 32) x.2.1
     match blockInteger b.1 b.2 with
     | some n => (n.emod 7).toNat != x.2.2
     | none => false)

/-- What a shadow unit formed at an addition of an element diverges from the main result there (R321, R322). -/
def adderFails (q : MCmd) (tA tB : List W32) (start : Nat → W32) (x : Nat × Shadow) : Bool :=
  let e := x.2.lane
  decide (e < 1024 ∧ x.1 < q.steps) && f32.diverges (accElement q tA tB (start e) (e / 32) (e % 32) (x.1 + 1)).1.toNat x.2

/-- An accumulator with an element poisoned. -/
def Acc.poisonAt (a : Acc) (e : Nat) : Acc := { a with poison := a.poison ||| (1#1024 <<< e) }

/-- The command that retires next: of the granted ones, the one granted first (R211). -/
def retiring (k : Cluster) : Option (Nat × Nat × MCmd) :=
  let gs := (List.range 8).filterMap fun j =>
    ((k.core j).mq.findIdx? fun q => q.stage == .granted).bind fun i => ((k.core j).mq[i]?).map fun q => (j, i, q)
  (gs.find? fun g => g.1 != k.lastGrant).or gs.head?

/-- Set an accumulator of a core. -/
def State.putAcc (s : State) (cl j n : Nat) (a : Acc) : State := s.updCore ⟨cl, j⟩ fun c => { c with accs := aput c.accs n a }

/-- Pop the A item of a stream's tile; a missing one gives a record (R157, R212). -/
def popItem (s : State) (cl j : Nat) (q : MCmd) (tag : Nat) : State :=
  match popRing (s.cluster cl) q.sa with
  | some k => s.setCluster cl k
  | none => s.matrixRecord cl j q tag kMATRIXFORMAT 0 q.sa

/-- A tile of a stream is done: the stream ends at TERM with the pops of its B ring and a clean accumulator, or goes on (R157). -/
def streamNext (s : State) (cl j i : Nat) (q : MCmd) (tag : Nat) (term : Bool) : State :=
  let s1 := popItem s cl j q tag
  if term then popsOf ((s1.putAcc cl j q.acc ⟨[], 0⟩).endCmd cl j i q) cl j q tag q.sb
  else s1.updCluster cl fun k => k.setCmd j i { q with stage := .queued, bad := none, item := false, tile := none, began := true }

/-- A command retires (R156, R157, R211, R212). `residue` are residues that the unit formed for blocks of elements, and `shadow` results of
shadow units at additions, where the hardware erred (R321 to R323; notes/assumptions/17). The sums of a stream's tile stay outside the
accumulator (R161). -/
def execMatrixRetire (cl : Nat) (residue : List (Nat × Nat × Nat)) (shadow : List (Nat × Shadow)) (s : State) :
    Host.Outcome State Fault Refusal :=
  match retiring (s.cluster cl) with
  | none => .next s
  | some (j, i, q) =>
    let tag := if q.opA = [] then 0 else bits (headerOf q.opA) 32 32
    match q.sealedCore (s.cluster cl), q.bad with
    | some t, _ => .next (sealedRecord s cl j i q tag t)
    | none, some d =>
      let s1 := s.matrixRecord cl j q tag kMATRIXFORMAT 0 d
      if q.item then .next (streamNext s1 cl j i q tag (bit (headerOf q.opA) 16))
      else .next (s1.endCmd cl j i q)
    | none, none =>
      let zero := q.isStream || (match q.instr with | .mmaz _ _ _ _ _ => true | _ => false)
      let old := (s.core ⟨cl, j⟩).acc q.acc
      let tA := cleanTable q.tabA
      let tB := cleanTable q.tabB
      let r := accumulate q old zero
      let wrong := ((residue.filter (residueFails q tA tB)).map fun x => (x.1, 0)) ++
        (shadow.filter (adderFails q tA tB fun e => if zero then 0 else old.at_ e)).map fun x => (x.2.lane, 1)
      let acc := wrong.foldl (fun (a : Acc) x => a.poisonAt x.1) r.1
      let s1 := if q.isStream then s else s.census cl q.site r.2.1
      let s2 := match r.2.2 with
        | some e => s1.matrixRecord cl j q tag kMATRIXPOISON 0 (BitVec.ofNat 64 e)
        | none => s1
      let s3 := wrong.foldl (fun (s : State) x => checkRecord s cl j q tag x.2 x.1) s2
      if q.isStream then
        .next (s3.updCluster cl fun k =>
          let k1 := k.setCmd j i { q with stage := .writing, began := true, tile := some acc, counts := q.counts.plus r.2.1 }
          { k1 with port := k1.port ++ [j] })
      else
        let s4 := (s3.putAcc cl j q.acc acc).updCluster cl fun k => k.dropCmd j i
        .next (popsOf (popsOf s4 cl j q tag q.sa) cl j q tag q.sb)

/-! ## The accumulator port and output tiles -/

/-- An accumulator as `mload` reads it (R160). -/
def loadAcc (m : Memory) (a : Nat) : Acc :=
  let vals := (List.range 1024).map fun e =>
    let x := m.read4 (a + 4 * e)
    if (f32.value x.toNat).isNan then BitVec.ofNat 32 f32.nan else x
  ⟨vals, (List.range 1024).foldl (fun (p : BitVec 1024) e => if m.poisoned (a + 4 * e) 4 then p ||| (1#1024 <<< e) else p) 0⟩

/-- An `mzero`, `mload` or `mstore` is performed at the accumulator port once every earlier command has retired (R210). -/
def execMatrixPortCommand (r : CoreRef) (s : State) : Host.Outcome State Fault Refusal :=
  let c := s.core r
  match (if (s.cluster r.cl).evict = .none then c.mq else []) with
  | [] => .next s
  | q :: _ =>
    let drop (s : State) : State := s.updCluster r.cl fun k => k.dropCmd r.core 0
    match q.instr with
    | .mzero _ => .next (drop (s.putAcc r.cl r.core q.acc ⟨[], 0⟩))
    | .mload _ _ =>
      let a := q.sa.toNat
      if s.drained r 1 = false ∨ q.busy (s.cluster r.cl) r.core = true then .next s
      else if a + 4096 > 0x40000 ∨ a % 64 ≠ 0 then .next (drop (s.matrixRecord r.cl r.core q 0 tLOCALBOUNDS q.sa q.sa))
      else match c.notArray a 4096 with
        | some b => .next (drop (s.matrixRecord r.cl r.core q 0 tBANKPORT q.sa ((c.bank b).pers.zeroExtend 64)))
        | none => .next (drop (s.putAcc r.cl r.core q.acc (loadAcc c.store a)))
    | .mstore _ _ _ =>
      if q.stage ≠ .queued then .next s
      else match q.sealedCore (s.cluster r.cl) with
      | some t => .next (sealedRecord s r.cl r.core 0 q (bits q.sb 32 32) t)
      | none =>
      if outOk (s.cluster r.cl) q.sa then
        .next (s.updCluster r.cl fun k =>
          let k1 := k.setCmd r.core 0 { q with stage := .writing, tabO := k.outTable q.sa }
          { k1 with port := k1.port ++ [r.core] })
      else .next (drop (s.matrixRecord r.cl r.core q (bits q.sb 32 32) kMATRIXFORMAT 0 q.sa))
    | _ => .next s

/-- Header word 0 of an output tile (R159). -/
def tileHeader (tag fmt term rows cols : Nat) : Nat := tag * 2 ^ 32 + fmt * 2 ^ 24 + term * 2 ^ 16 + cols * 256 + rows

/-- Bytes written at offsets of an output tile, and the saturations met (R159). -/
def tileBody (x : Acc) (o : Nat) (tab : List W32) (nsat : Bool) (rows cols : Nat) : List (Nat × List Byte) × Nat :=
  let cells := (List.range rows).flatMap fun i => (List.range cols).map fun j => i * 32 + j
  match o with
  | 0 => (cells.map fun e => (64 + 4 * e, bytesLE (if x.poison.getLsbD e then 0x7FC00DEA else (x.at_ e).toNat) 4), 0)
  | 1 => (cells.map fun e => (64 + 2 * e, bytesLE (if x.poison.getLsbD e then 0x7FC0 else (bf16.convert 0 false (f32.value (x.at_ e).toNat)).1) 2), 0)
  | 2 =>
    let cs := cells.map fun e => (e, encodeValue tab nsat (x.at_ e))
    ((cs.map fun p => (64 + p.1, bytesLE p.2.1 1)) ++ ((List.range rows).map fun i => (64 + 1024 + i, bytesLE 127 1)),
      (cs.filter fun p => p.2.2).length)
  | _ =>
    let rs := (List.range rows).map fun i =>
      (i, quantise ((List.range 32).map fun j => if j < cols then x.at_ (i * 32 + j) else 0))
    (rs.flatMap fun r => ((List.range cols).map fun j => (64 + r.1 * 32 + j, [r.2.2.1.getD j 0])) ++ [(64 + 1024 + r.1, bytesLE r.2.1 1)],
      rs.foldl (fun n r => n + r.2.2.2) 0)

/-- Write a tile at a store offset: its header whole, then its valid elements (R159). -/
def writeTile (m : Memory) (a hdr : Nat) (body : List (Nat × List Byte)) : Memory :=
  body.foldl (fun (m : Memory) p => m.storeBytes (a + p.1) p.2) ((m.zero a 64).store a 8 hdr)

/-- The first poisoned valid element of a tile. -/
def firstPoison (x : Acc) (rows cols : Nat) : Option Nat :=
  (List.range 1024).find? fun e => x.poison.getLsbD e && decide (e / 32 < rows ∧ e % 32 < cols)

/-- Write one output tile of a command, with the values that its encoding saturates: none while its ring is FULL (R159, R160). -/
def emitTile (s : State) (cl j : Nat) (q : MCmd) (d : Word) (tag term rows cols : Nat) : Option (State × Counts) :=
  let k := s.cluster cl
  let x := q.tile.getD ((k.core j).acc q.acc)
  let o := oFmt d
  let out := k.core (dCore d)
  let b := out.bank (dBank d)
  let body := tileBody x o q.tabO q.nsat rows cols
  let refused := if o = 2 ∨ o = 3 then firstPoison x rows cols else none
  let fmt := match o with | 0 => 4 | 1 => 0 | 2 => 1 | _ => 2
  let put (m : Memory) (a : Nat) : Memory :=
    if refused.isSome then m else writeTile m a (tileHeader tag fmt term rows cols) body.1
  let note (s : State) : State × Counts := match refused with
    | some e => (s.matrixRecord cl j q tag tPOISON 0 (BitVec.ofNat 64 (q.acc * 65536 + e)), ⟨0, 0, 0, 0⟩)
    | none => (s, ⟨0, 0, body.2, 0⟩)
  if q.busy k j then none
  else if dKind d = 0 then
    (b.reserve).bind fun r => (r.2.commit r.1).map fun b2 =>
      note (s.updCore ⟨cl, dCore d⟩ fun c => { c.setBank (dBank d) b2 with store := put c.store (slotAddr b 0 r.1).toNat })
  else some (note (s.updCore ⟨cl, dCore d⟩ fun c => { c with store := put c.store (dAddr d) }))

/-- The write of a core's head tile, if its ring takes it. -/
def tileWrite (s : State) (cl j : Nat) : Option State :=
  let k := s.cluster cl
  match (k.core j).mq.findIdx? fun q => q.stage == .writing with
  | none => none
  | some i => match (k.core j).mq[i]? with
    | none => none
    | some q =>
      let done (s : State) (f : Cluster → Cluster) : State :=
        s.updCluster cl fun k => f { k with port := k.port.erase j }
      match q.sealedCore k with
      | some t => some (done (sealedRecord s cl j i q (if q.isStream then bits (headerOf q.opA) 32 32 else bits q.sb 32 32) t) id)
      | none =>
      if q.isStream then
        let ha := headerOf q.opA
        let hb := headerOf q.opB
        let term := bit ha 16
        (emitTile s cl j q q.sc1 (bits ha 32 32) (if term then 1 else 0) (bits ha 0 8) (bits hb 8 8)).map fun x =>
          done (streamNext x.1 cl j i { q with counts := q.counts.plus x.2 } (bits ha 32 32) term) id
      else
        (emitTile s cl j q q.sa (bits q.sb 32 32) (if bit q.sb 16 then 1 else 0) (oRows q.sa) (oCols q.sa)).map fun x =>
          done (x.1.endCmd cl j i { q with counts := x.2 }) id

/-- An output tile write finishes on the write port: of the tiles that wait, the first whose ring takes it (R159, R210). -/
def execTileWriteEnd (cl : Nat) (s : State) : Host.Outcome State Fault Refusal :=
  let s := if (s.cluster cl).evict = .streaming then s else s.matrixRetries cl
  match (if (s.cluster cl).evict = .streaming then [] else (s.cluster cl).port).findSome? fun j => tileWrite s cl j with
  | some t => .next t
  | none => .next s

end Sys2Proof.Machine
end

