-- ==== Sys2Proof/Machine/Xmss.lean ====
section
/-! DEFINITION. SHAKE256 (FIPS 202) and the signatures of XMSS-SHAKE256_20_256 (NIST SP 800-208), which the spec names for images and reports
(R348, R352; notes/assumptions/8). -/
namespace Sys2Proof.Machine

/-! ## SHAKE256 -/

/-- A lane of the Keccak state, x + 5·y. -/
def kLane (a : List Word) (x y : Nat) : Word := a.getD (x % 5 + 5 * (y % 5)) 0

/-- The state given lane by lane. -/
def kMake (f : Nat → Nat → Word) : List Word := (List.range 25).map fun i => f (i % 5) (i / 5)

/-- Rotation amounts of the lanes. -/
def kRho : List Nat := [0, 1, 62, 28, 27, 36, 44, 6, 55, 20, 3, 10, 43, 25, 39, 41, 45, 15, 21, 8, 18, 2, 61, 56, 14]

/-- Round constants. -/
def kRound : List Word :=
  [0x0000000000000001, 0x0000000000008082, 0x800000000000808A, 0x8000000080008000, 0x000000000000808B, 0x0000000080000001,
   0x8000000080008081, 0x8000000000008009, 0x000000000000008A, 0x0000000000000088, 0x0000000080008009, 0x000000008000000A,
   0x000000008000808B, 0x800000000000008B, 0x8000000000008089, 0x8000000000008003, 0x8000000000008002, 0x8000000000000080,
   0x000000000000800A, 0x800000008000000A, 0x8000000080008081, 0x8000000000008080, 0x0000000080000001, 0x8000000080008008]

/-- One round of Keccak-f[1600]. -/
def keccakRound (a : List Word) (rc : Word) : List Word :=
  let c := (List.range 5).map fun x => kLane a x 0 ^^^ kLane a x 1 ^^^ kLane a x 2 ^^^ kLane a x 3 ^^^ kLane a x 4
  let d := (List.range 5).map fun x => c.getD ((x + 4) % 5) 0 ^^^ (c.getD ((x + 1) % 5) 0).rotateLeft 1
  let t := kMake fun x y => (kLane a x y ^^^ d.getD x 0).rotateLeft (kRho.getD (x + 5 * y) 0)
  let b := kMake fun x y => kLane t (x + 3 * y) x
  let n := kMake fun x y => kLane b x y ^^^ (~~~(kLane b (x + 1) y) &&& kLane b (x + 2) y)
  match n with
  | h :: r => (h ^^^ rc) :: r
  | [] => []

/-- Keccak-f[1600]. -/
def keccak (a : List Word) : List Word := kRound.foldl keccakRound a

/-- Bytes that SHAKE256 takes in or gives out between permutations. -/
def shakeRate : Nat := 136

/-- A doubleword of a list of bytes, the least significant first. -/
def kWord (l : List Byte) (i : Nat) : Word :=
  (List.range 8).foldl (fun (w : Word) j => w ||| ((l.getD (8 * i + j) 0).zeroExtend 64 <<< (8 * j))) 0

/-- Take in a block. -/
def absorb (a : List Word) (block : List Byte) : List Word :=
  keccak ((List.range 25).map fun i => a.getD i 0 ^^^ (if i < 17 then kWord block i else 0))

/-- A message with the padding of SHAKE. -/
def shakePad (l : List Byte) : List Byte :=
  let n := shakeRate - l.length % shakeRate
  l ++ (if n = 1 then [0x9F#8] else [0x1F#8] ++ List.replicate (n - 2) 0#8 ++ [0x80#8])

/-- Take in a number of blocks. -/
def absorbAll : Nat → List Byte → List Word → List Word
  | 0, _, a => a
  | n + 1, l, a => absorbAll n (l.drop shakeRate) (absorb a (l.take shakeRate))

/-- The first 32 bytes of SHAKE256 of a message. -/
def shake256 (l : List Byte) : List Byte :=
  let p := shakePad l
  let a := absorbAll (p.length / shakeRate) p (List.replicate 25 0#64)
  (a.take 4).flatMap fun (w : Word) => (List.range 8).map fun j => (w >>> (8 * j)).truncate 8

/-! ## Hash functions and addresses (SP 800-208, RFC 8391) -/

/-- A number as `n` bytes, the most significant first. -/
def bytesBE (n v : Nat) : List Byte := (List.range n).map fun i => BitVec.ofNat 8 (v / 256 ^ (n - 1 - i))

/-- The number of a list of bytes, the most significant first. -/
def numberBE (l : List Byte) : Nat := l.foldl (fun n b => n * 256 + b.toNat) 0

/-- The keyed hash of number `k`: 0 F, 1 H, 2 H_msg, 3 PRF, 4 PRF_keygen. -/
def xHash (k : Nat) (key m : List Byte) : List Byte := shake256 (bytesBE 32 k ++ key ++ m)

/-- An address: its type, three words, and the number of the key or mask. -/
def xAdrs (type a b c km : Nat) : List Byte := bytesBE 12 0 ++ [type, a, b, c, km].flatMap (bytesBE 4)

/-- Exclusive or of two byte strings. -/
def xorBytes (a b : List Byte) : List Byte := (a.zip b).map fun p => p.1 ^^^ p.2

/-- The hash of two nodes at an address. -/
def randHash (seed : List Byte) (type a b c : Nat) (l r : List Byte) : List Byte :=
  let p (km : Nat) : List Byte := xHash 3 seed (xAdrs type a b c km)
  xHash 1 (p 0) (xorBytes l (p 1) ++ xorBytes r (p 2))

/-! ## WOTS+ -/

/-- Steps of a chain of a one-time key from a place. -/
def chain (seed : List Byte) (ots c : Nat) : Nat → Nat → List Byte → List Byte
  | _, 0, x => x
  | i, n + 1, x =>
    let p (km : Nat) : List Byte := xHash 3 seed (xAdrs 0 ots c i km)
    chain seed ots c (i + 1) n (xHash 0 (p 0) (xorBytes x (p 1)))

/-- The 67 digits of base 16 of a digest: its own, and those of their checksum. -/
def wotsDigits (d : List Byte) : List Nat :=
  let own := d.flatMap fun b => [b.toNat / 16, b.toNat % 16]
  let sum := own.foldl (fun n x => n + (15 - x)) 0
  own ++ [sum / 256 % 16, sum / 16 % 16, sum % 16]

/-- The chains of a one-time key. -/
def wotsLen : Nat := 67

/-- The one-time public key that a signature of a digest leads to. -/
def wotsFromSig (seed : List Byte) (ots : Nat) (sig : List (List Byte)) (d : List Byte) : List (List Byte) :=
  let ds := wotsDigits d
  (List.range wotsLen).map fun c => chain seed ots c (ds.getD c 0) (15 - ds.getD c 0) (sig.getD c [])

/-- A secret of a one-time key (SP 800-208). -/
def wotsSecret (secret seed : List Byte) (ots c : Nat) : List Byte := xHash 4 secret (seed ++ xAdrs 0 ots c 0 0)

/-- The signature of a digest under a one-time key. -/
def wotsSign (secret seed : List Byte) (ots : Nat) (d : List Byte) : List (List Byte) :=
  let ds := wotsDigits d
  (List.range wotsLen).map fun c => chain seed ots c 0 (ds.getD c 0) (wotsSecret secret seed ots c)

/-- A one-time public key. -/
def wotsPublic (secret seed : List Byte) (ots : Nat) : List (List Byte) :=
  (List.range wotsLen).map fun c => chain seed ots c 0 15 (wotsSecret secret seed ots c)

/-- One level of an L-tree: pairs are hashed, and a last odd node goes up as it is. -/
def lLevel (seed : List Byte) (ots height : Nat) : Nat → List (List Byte) → List (List Byte)
  | i, l :: r :: t => randHash seed 1 ots height i l r :: lLevel seed ots height (i + 1) t
  | _, t => t

/-- An L-tree from a height up, as far as a number of levels. -/
def lTreeFrom (seed : List Byte) (ots : Nat) : Nat → Nat → List (List Byte) → List Byte
  | 0, _, l => l.headD []
  | n + 1, h, l => lTreeFrom seed ots n (h + 1) (lLevel seed ots h 0 l)

/-- The leaf of a one-time public key: its L-tree has seven levels. -/
def lTree (seed : List Byte) (ots : Nat) (pk : List (List Byte)) : List Byte := lTreeFrom seed ots 7 0 pk

/-! ## XMSS -/

/-- A node of the tree of a private key: its height and its index there. -/
def xNode (secret seed : List Byte) : Nat → Nat → List Byte
  | 0, i => lTree seed i (wotsPublic secret seed i)
  | h + 1, i => randHash seed 2 0 h i (xNode secret seed h (2 * i)) (xNode secret seed h (2 * i + 1))

/-- The root that a leaf and its authentication path lead to, from a height up. -/
def rootFrom (seed : List Byte) (idx : Nat) : Nat → List (List Byte) → List Byte → List Byte
  | _, [], node => node
  | h, a :: t, node =>
    let up := idx / 2 ^ (h + 1)
    rootFrom seed idx (h + 1) t
      (if idx / 2 ^ h % 2 = 0 then randHash seed 2 0 h up node a else randHash seed 2 0 h up a node)

/-- The digest that is signed. -/
def xDigest (r root m : List Byte) (idx : Nat) : List Byte := xHash 2 (r ++ root ++ bytesBE 32 idx) m

/-- Strings of 32 bytes, one after the other. -/
def split32 : Nat → List Byte → List (List Byte)
  | 0, _ => []
  | n + 1, l => l.take 32 :: split32 n (l.drop 32)

/-- The tree height of XMSS-SHAKE256_20_256, and its number (SP 800-208). -/
def xHeight : Nat := 20
def xOid : List Byte := [0#8, 0#8, 0#8, 0x12#8]

/-- Verification under a public key of 68 bytes of a signature of 2,820 bytes, at a tree height (R348). -/
def xmssVerifyAt (height : Nat) (key m sig : List Byte) : Bool :=
  let root := (key.drop 4).take 32
  let seed := (key.drop 36).take 32
  let idx := numberBE (sig.take 4)
  let r := (sig.drop 4).take 32
  let node := lTree seed idx (wotsFromSig seed idx (split32 wotsLen (sig.drop 36)) (xDigest r root m idx))
  key.length == 68 && key.take 4 == xOid && sig.length == 36 + 32 * (wotsLen + height) && decide (idx < 2 ^ height) &&
    rootFrom seed idx 0 (split32 height (sig.drop (36 + 32 * wotsLen))) node == root

/-- XMSS-SHAKE256_20_256 verifies a signature (R348). -/
def xmssVerify (key m sig : List Byte) : Bool := xmssVerifyAt xHeight key m sig

/-- The signature of a message under a private key of 64 bytes, its secret seed and its message seed, with its public key, at an index and a
tree height. -/
def xmssSignAt (height : Nat) (secret key m : List Byte) (idx : Nat) : List Byte :=
  let sk := fit32 (secret.take 32)
  let root := fit32 ((key.drop 4).take 32)
  let seed := fit32 ((key.drop 36).take 32)
  let r := xHash 3 (fit32 ((secret.drop 32).take 32)) (bytesBE 32 idx)
  bytesBE 4 idx ++ r ++ (wotsSign sk seed idx (xDigest r root m idx)).flatMap id ++
    (List.range height).flatMap fun h => xNode sk seed h (idx / 2 ^ h ^^^ 1)
where
  /-- A string cut or filled to 32 bytes. -/
  fit32 (l : List Byte) : List Byte := (l ++ List.replicate 32 0#8).take 32

/-- The signature of XMSS-SHAKE256_20_256 (R352). -/
def xmssSign (secret key m : List Byte) (idx : Nat) : List Byte := xmssSignAt xHeight secret key m idx

end Sys2Proof.Machine
end

