-- ==== Sys2Proof/Machine/Window.lean ====
section
/-! DEFINITION. The device window: launch queue windows (R265, R266, R281), the station control path (R292, R309, R325, R335, R347),
and the steps of requests that reach it. -/
namespace Sys2Proof.Machine

/-! ## Counts of health (R325, R329) -/

/-- Spare clusters of a die that are left, a field of SPARES (Table 2 of spec/23, R325): none once a cluster of the die is out of service. -/
def State.sparesOf (s : State) (d : Nat) : Nat :=
  if s.outOfService.any fun k => dieOf k == d then 0 else 32 - (s.repaired.filter fun k => dieOf k == d).length

/-- Clusters in service: INSERV (R325). -/
def State.inService (s : State) : Nat := 8192 - s.outOfService.length

/-- SPARES (Table 2 of spec/23, R325). -/
def State.sparesWord (s : State) : Word :=
  BitVec.ofNat 64 ((List.range 8).foldl (fun w d => w + s.sparesOf d * 2 ^ (6 * d)) 0)

/-- HEALTH (Table 3 of spec/23, R325). -/
def State.healthWord (s : State) : Word :=
  let replace := (List.range 8).any fun d => s.sparesOf d == 0
  let degraded := decide (s.inService < 8192)
  BitVec.ofNat 64 (s.inService * 2 ^ 16 + (if degraded then 4 else 0) + (if replace then 2 else 0) +
    (if replace || degraded then 0 else 1))

/-! ## Queues -/

/-- A launch queue. -/
def State.queue (s : State) (q : Nat) : Queue := aget ⟨0, 0, 0, 0, []⟩ s.queues q

/-- Write a launch queue. -/
def State.setQueue (s : State) (q : Nat) (x : Queue) : State := { s with queues := aput s.queues q x }

/-- The answer FULL. -/
def fullTicket : Word := BitVec.allOnes 64

/-- The feature FABRIC. -/
def State.fabric (s : State) : Bool := bit s.feat0 6

/-- An entry of the access-control table as two words. -/
def State.aclEntry (s : State) (e : Nat) : Word × Word := (s.ctlGet (0x2000 + 16 * e), s.ctlGet (0x2008 + 16 * e))

/-- An access-control entry lets a module use a queue (R281). -/
def aclMatches (e : Word × Word) (m q : Nat) : Bool := bit e.1 32 && bits e.1 0 8 == m && bit e.2 q

/-- The access-control entries that let a module use a queue. -/
def State.aclFor (s : State) (m q : Nat) : List (Word × Word) :=
  ((List.range 256).map s.aclEntry).filter fun e => aclMatches e m q

/-- A peer's access to a queue window is refused (R281, R3). -/
def State.peerRefused (s : State) (src : Origin) (q : Nat) : Bool :=
  match src with
  | .peer m => !s.fabric || s.aclFor m q == []
  | _ => false

/-- A fetch-and-add at RESERVE (R265, R281, R350): its answer. -/
def State.reserve (s : State) (src : Origin) (q : Nat) (v : Word) : Word × State :=
  let x := s.queue q
  if s.peerRefused src q then (BitVec.ofNat 64 (2 ^ 64 - 2), s.refusedAt q)
  else if s.boot.state ≠ 5 ∨ v ≠ 1 ∨ x.resv ≥ x.take + 32 then (fullTicket, s.refusedAt q)
  else
    let p := match src with | .peer m => some m | _ => none
    (BitVec.ofNat 64 (x.resv % 2 ^ 32),
      s.setQueue q { x with resv := x.resv + 1, entries := x.entries ++ [⟨x.resv, [], s.cyc, p, none⟩] })

/-- A write of word k of entry i (R266, R281); the eighth word pushes the entry. -/
def State.entryWrite (s : State) (src : Origin) (q i k : Nat) (v : Word) : State :=
  let x := s.queue q
  if s.peerRefused src q then s.refusedAt q
  else match x.entries.find? fun e => e.ticket % 32 == i with
    | none => s.refusedAt q
    | some e =>
      if (afind e.words k).isSome ∨ k ≥ 8 then s.refusedAt q
      else
        let ws := aput e.words k v
        let p := match src with | .peer m => some m | _ => e.peer
        let e1 : QEntry := { e with words := ws, peer := p, pushed := if ws.length = 8 then some s.pushes else none }
        { s.setQueue q { x with entries := x.entries.map fun y => if y.ticket = e.ticket then e1 else y } with
          pushes := if ws.length = 8 then s.pushes + 1 else s.pushes }

/-- An aligned 8-byte read of a queue window (R265). -/
def State.queueRead (s : State) (q o : Nat) : Word × State :=
  let x := s.queue q
  if o = 0x008 then (BitVec.ofNat 64 (x.take % 2 ^ 32 + x.resv % 2 ^ 32 * 2 ^ 32), s)
  else if o = 0x010 then (BitVec.ofNat 64 x.refused, s)
  else if o = 0x018 then (BitVec.ofNat 64 x.discarded, s)
  else if o = 0 then (fullTicket, s.refusedAt q)
  else (0, s.refusedAt q)

/-- An aligned 8-byte write of a queue window (R265, R266). -/
def State.queueWrite (s : State) (src : Origin) (q o : Nat) (v : Word) : State :=
  if 0x800 ≤ o then s.entryWrite src q ((o - 0x800) / 64) (o % 64 / 8) v else s.refusedAt q

/-! ## The station control path -/

/-- What the path lets be written at an offset: the bits of the register, and the least and greatest value of its field; none
for an offset without a plain writable register. -/
def ctlLayout (off : Nat) : Option (Word × Nat × Nat) :=
  let lo (k : Nat) : Word := BitVec.ofNat 64 (2 ^ k - 1)
  let any (w : Word) : Option (Word × Nat × Nat) := some (w, 0, 2 ^ 64)
  if off = Reg.regbase ∨ off = Reg.slotbase then any (lo 52 &&& ~~~(lo 6))
  else if off = Reg.evbase then any (lo 52 &&& ~~~(lo 12))
  else if off = Reg.evcount then some (lo 14, 0, 8192)
  else if off = Reg.invaddr then any (lo 57 &&& ~~~(lo 12))
  else if off = Reg.modid then any (lo 8)
  else if off = Reg.ramth then some (lo 14, 16, 8192)
  else if off = Reg.pwrlim then some (lo 13, 2400, 5400)
  else if Reg.attnonce ≤ off ∧ off < Reg.idkey then any (BitVec.allOnes 64)
  else if 0x1000 ≤ off ∧ off < 0x1800 then any (lo 36)
  else if 0x2000 ≤ off ∧ off < 0x3000 then
    (if off % 16 = 0 then any ((lo 33 &&& ~~~(lo 16)) ||| lo 8) else any (BitVec.allOnes 64))
  else if 0x3000 ≤ off ∧ off < 0x3800 then
    (match off % 32 / 8 with
    | 0 => any (lo 11)
    | 1 => any (lo 40 &&& ~~~(lo 12))
    | 2 => any (lo 41 &&& ~~~(lo 12))
    | _ => any 0)
  else none

/-- A dropped access to the control path counts in REFUSED of queue 0 (R309). -/
def State.pathRefused (s : State) : State := s.refusedAt 0

/-- A block of the eviction pool is in use (R298). -/
def State.poolInUse (s : State) : Bool := s.evicted != []

/-- A write of a plain register of the path (R298, R309, R335, R347): one that its layout does not allow is dropped. -/
def State.ctlWrite (s : State) (off : Nat) (v : Word) : State :=
  match ctlLayout off with
  | none => s.pathRefused
  | some (m, low, high) =>
    if off % 8 ≠ 0 ∨ v &&& ~~~m ≠ 0 ∨ v.toNat < low ∨ high < v.toNat ∨
        ((off = Reg.evbase ∨ off = Reg.evcount) ∧ s.poolInUse = true) then s.pathRefused
    else s.ctlPut off v

/-- A doubleword of a list of bytes. -/
def wordOf (l : List Byte) (i : Nat) : Word :=
  BitVec.ofNat 64 ((List.range 8).foldl (fun w j => w + (l.getD (i + j) 0).toNat * 256 ^ j) 0)

/-- FOFFER: what the verified configuration offers (R347). -/
def State.foffer (s : State) : Word := if s.boot.configImage = [] then 0 else Config.offered s.boot.configImage &&& 0xFF#64

/-- An aligned 8-byte read of the path (R309, R325, R335, R347). -/
def State.ctlRead (s : State) (off : Nat) : Word :=
  if off = Reg.invstat then (if s.invalidating.isSome then 1 else 0)
  else if off = Reg.health then s.healthWord
  else if off = Reg.spares then s.sparesWord
  else if off = Reg.foffer then s.foffer
  else if off = Reg.bootstat then
    BitVec.ofNat 64 (s.boot.state + s.boot.slot * 256 + s.boot.version * 2 ^ 16 + s.boot.minVersion * 2 ^ 32)
  else if off = Reg.straps then s.boot.straps
  else if off = Reg.attstat then
    BitVec.ofNat 64 ((if s.boot.attesting.isSome then 1 else 0) + (if s.boot.exhausted then 2 else 0) +
      (2 ^ 20 - s.flash.sigIndex) * 2 ^ 32)
  else if Reg.idkey ≤ off ∧ off < Reg.idkey + 72 then wordOf s.flash.idKey (off - Reg.idkey)
  else s.ctlGet off

/-! ## Invalidation (R292) -/

/-- An invalidation starts: every station drops the cached entries of a slot that cover the named pages. -/
def State.dropCached (s : State) (slot : Nat) (whole : Bool) (first pages : Nat) : State :=
  { s with cached := s.cached.filter fun e =>
      !(e.slot == slot && (whole || decide (e.page < first + pages ∧ first < e.page + 2 ^ e.span))) }

/-- A write of INVCMD (R292, R309). -/
def State.invalidate (s : State) (v : Word) : State :=
  if s.invalidating.isSome ∨ bits v 9 7 ≠ 0 ∨ bits v 48 16 ≠ 0 then s.pathRefused
  else
    { (s.dropCached (bits v 0 8) (bit v 8) (bits (s.ctlGet Reg.invaddr) 12 45) (bits v 16 32)).ctlPut Reg.invcmd v with
      invalidating := some (v, s.ctlGet Reg.invaddr) }

/-! ## Features and attestation -/

/-- The version of an image (Table 2 of spec/27). -/
def versionOf (l : List Byte) : Nat := bits (wordOf l 0) 16 16

/-- The boot has completed: minimum versions rise to those of the images that run (R349). -/
def Flash.raised (f : Flash) (b : Boot) : Flash :=
  { f with minFirmware := max f.minFirmware b.version, minConfig := max f.minConfig (versionOf b.configImage) }

/-- A write of FACCEPT (R351): the first from state 4 sets `FEAT0`, and the boot has completed. -/
def State.acceptFeatures (s : State) (v : Word) : State :=
  if s.boot.state = 4 ∧ bits v 8 56 = 0 then
    let fl := s.flash.raised s.boot
    { s.ctlPut Reg.faccept v with
      feat0 := s.foffer &&& v, flash := fl, boot := { s.boot with state := 5, minVersion := fl.minFirmware } }
  else s.pathRefused

/-- The signed bytes of a report (Table 4 of spec/27). -/
def State.reportBody (s : State) : List Byte :=
  let nonce := (List.range 4).flatMap fun i => bytesLE (s.ctlGet (Reg.attnonce + 8 * i)).toNat 8
  let signed (l : List Byte) : List Byte := l.take (l.length - 2820)
  bytesLE (1 + 2948 * 2 ^ 16) 8 ++ nonce ++ shake256 (signed s.boot.image) ++
    shake256 (signed s.boot.configImage) ++ bytesLE s.feat0.toNat 8 ++ bytesLE s.healthWord.toNat 8 ++
    bytesLE s.cyc.toNat 8

/-- A write of ATTCMD (R352): the next index is stored before the report is signed. Whether the flash takes it is the
environment's (notes/assumptions/17): a flash that refuses ends the attestation. -/
def State.attest (s : State) (v : Word) : State :=
  if s.boot.attesting.isSome ∨ bits v 0 6 ≠ 0 ∨ bits v 52 12 ≠ 0 then s.pathRefused
  else
    let s := s.ctlPut Reg.attcmd v
    if s.flash.sigIndex ≥ 2 ^ 20 then { s with boot := { s.boot with exhausted := true } }
    else if bit (Config.freeWord s.free) 0 then s
    else
      let body := s.reportBody
      let report := body ++ xmssSign s.flash.idSecret s.flash.idKey body s.flash.sigIndex
      { s with flash := { s.flash with sigIndex := s.flash.sigIndex + 1 }
               boot := { s.boot with attesting := some (BitVec.ofNat 64 (bits v 6 46 * 64), report) } }

/-- Any aligned 8-byte write of the path. -/
def State.pathWrite (s : State) (off : Nat) (v : Word) : State :=
  if off = Reg.invcmd then s.invalidate v
  else if off = Reg.faccept then s.acceptFeatures v
  else if off = Reg.attcmd then s.attest v
  else s.ctlWrite off v

/-! ## The device window as a whole (R306, R308) -/

/-- What an access to a device window gives: a value, or an error where Table 1 of spec/21 assigns nothing. -/
inductive Win where
  | ok (w : Word) (s : State)
  | unassigned
deriving DecidableEq, Repr

/-- An access to a device window at an offset of BAR0, whatever its kind (R265, R308, R309). An aligned 8-byte AMO at the control path reads
its register and writes it (notes/assumptions/25). -/
def State.window (s : State) (src : Origin) (off : Nat) (op : AccOp) : Win :=
  let q := off / 0x1000
  let o := off % 0x1000
  let plain := off % 8 == 0 && op.size == 8
  if off < 0x40000 then
    match op with
    | .load 8 _ => if plain then (let r := s.queueRead q o; .ok r.1 r.2) else .ok 0 (s.refusedAt q)
    | .store 8 d => if plain then .ok 0 (s.queueWrite src q o d) else .ok 0 (s.refusedAt q)
    | .amo fn 8 b _ =>
      if plain && o == 0 then
        (if fn = 0 then (let r := s.reserve src q b; .ok r.1 r.2) else .ok fullTicket (s.refusedAt q))
      else .ok 0 (s.refusedAt q)
    | _ => .ok 0 (s.refusedAt q)
  else if 0x100000 ≤ off ∧ off < 0x104000 then
    match op with
    | .load 8 _ => if plain then .ok (s.ctlRead (off - 0x100000)) s else .ok 0 s.pathRefused
    | .store 8 d => if plain then .ok 0 (s.pathWrite (off - 0x100000) d) else .ok 0 s.pathRefused
    | .amo fn 8 b d =>
      if plain then
        (let old := s.ctlRead (off - 0x100000)
         .ok old (s.pathWrite (off - 0x100000) (BitVec.ofNat 64 (amoNew fn 8 old.toNat b.toNat d.toNat))))
      else .ok 0 s.pathRefused
    | _ => .ok 0 s.pathRefused
  else .unassigned

/-! ## Tags (R116, R313) -/

/-- The number of a source core of this module: its context slot, virtual cluster and core. -/
def State.sourceNumber (s : State) (r : CoreRef) : Nat := ((s.cluster r.cl).slot * 8192 + (s.cluster r.cl).vc) * 8 + r.core

/-- The source module under which this module's own cores stand. -/
def ownModule : Nat := 256

/-- The number of a source among the expiry marks of an owner (R116). -/
def markKey (owner m core : Nat) : Nat := owner * 2 ^ 48 + m * 2 ^ 32 + core

/-- The owner under which the module keeps the entries of peers (R313), and those of its own cores: a core's bank controller, by the virtual
core that it serves, or the base die of a stack (R116). -/
def ownerModule : Nat := 0
def State.ownerCore (s : State) (t : CoreRef) : Nat := s.sourceNumber t + 1
def ownerStack (p : Nat) : Nat := 2 ^ 24 + 1 + stackOf p

/-- What the owner's table says of a tagged request. -/
inductive Known where
  | recorded (x : Resp)
  | expired
  | fresh
deriving DecidableEq, Repr

/-- Cycles for which an owner keeps a result. -/
def dedupCycles : Nat := 16384

/-- An entry has expired (R116, R313). -/
def Dedup.old (d : Dedup) (now : Word) : Bool := decide (dedupCycles ≤ (now - d.at_).toNat)

/-- The expiry mark of a source at an owner: the highest of its tags whose entry there has expired. -/
def State.markOf (s : State) (owner m core : Nat) : Nat :=
  s.dedup.foldl (fun n d => if d.owner = owner ∧ d.mod = m ∧ d.core = core ∧ d.old s.cyc = true then max n d.tag else n)
    (aget 0 s.marks (markKey owner m core))

/-- Look up a tagged request; a tag names one operation in the whole module, so one owner has its entry. -/
def State.lookup (s : State) (owner m core tag : Nat) (reissue : Bool) : Known :=
  match s.dedup.find? fun d => d.mod == m && d.core == core && d.tag == tag && !d.old s.cyc with
  | some d => .recorded d.result
  | none => if reissue && decide (tag ≤ s.markOf owner m core) then .expired else .fresh

/-- Record the result of a tagged request. -/
def State.remember (s : State) (owner m core tag : Nat) (x : Resp) : State :=
  { s with dedup := s.dedup ++ [⟨owner, m, core, tag, x, s.cyc⟩] }

/-- Entries that a module's deduplication table holds for peers (R313). -/
def dedupMax : Nat := 65536

/-- The deduplication table holds no more entries (R313). -/
def State.dedupFull (s : State) : Bool :=
  decide (dedupMax ≤ (s.dedup.filter fun d => d.mod != ownModule && !d.old s.cyc).length)

/-! ## Steps -/

/-- Answer the host or a peer. -/
def State.say (s : State) (x : Reply) : State := { s with replies := s.replies ++ [x] }

/-- An answer to the host or a peer; a core takes its answer with its access. -/
def State.answer (s : State) (src : Origin) (x : Reply) : State :=
  match src with
  | .core _ => s
  | _ => s.say x

/-- The service core that handles a host request in BAR0 (R306). -/
def barSvc (off : Nat) : Nat := if off < 0x40000 then off / 0x10000 else 0

/-- An earlier host request of a service core is still to be performed (R252, R306). -/
def State.hostWaits (s : State) (svc : Nat) : Bool := s.guests.any fun g => g.peer.isNone && g.svc == svc

/-- A request of the host as the endpoint takes it (R350): none is answered in reset, and until the boot ROM has read straps and flash one to a BAR
completes with Unsupported Request (notes/assumptions/38). -/
def State.fromHost (s : State) (f : State → State) : State :=
  if s.boot.inReset then s else if s.boot.romRead then f s else s.say .unsupported

/-- A request of the host in BAR0 is performed behind the earlier ones of its service core (R252, R306, R350); others go on. -/
def State.inTurn (s : State) (src : Origin) (off : Nat) (op : AccOp) (f : State → State) : State :=
  if src = .host then
    s.fromHost fun s =>
      if s.hostWaits (barSvc off) then { s with guests := s.guests ++ [⟨barSvc off, none, off, .window op, false, 0⟩] } else f s
  else f s

/-- What a host request in BAR0 is answered: a posted write is answered by nothing. -/
def State.windowReply (s : State) (op : AccOp) (w : Word) : State :=
  match op with
  | .load n _ => s.say (.readData (bytesLE w.toNat n) false)
  | .amo _ _ _ _ => s.say (.atomic w)
  | _ => s

/-- A host request in BAR0 is performed (R306, R307). -/
def State.hostWindow (s : State) (off : Nat) (op : AccOp) : State :=
  match s.window .host off op with
  | .ok w t => t.windowReply op w
  | .unassigned => s.say .unsupported

/-- A peer's request to the control path is refused (R309, R312). -/
def State.peerPath (s : State) (src : Origin) (f : State → State) : State :=
  match src with
  | .peer _ => { s.bump Reg.peerref 1 with replies := s.replies ++ [.refused] }
  | _ => f s

/-- A reservation, with its answer. -/
def State.reserveFor (s : State) (src : Origin) (q : Nat) (v : Word) : State :=
  let r := s.reserve src q v
  r.2.answer src (.atomic r.1)

/-- A peer's reservation that its access entry admits is performed once under its tag (R116, R281, R313). -/
def State.peerReserve (s : State) (m q : Nat) (v : Word) (core tag : Nat) (reissue : Bool) : State :=
  if s.peerRefused (.peer m) q then s.reserveFor (.peer m) q v
  else match s.lookup ownerModule m core tag reissue with
    | .recorded (.value w _) => s.say (.atomic w)
    | .recorded _ | .expired => s.say .expired
    | .fresh =>
      if s.dedupFull then s.say .retry
      else
        let r := s.reserve (.peer m) q v
        (r.2.remember ownerModule m core tag (.value r.1 none)).say (.atomic r.1)

/-- A fetch-and-add at RESERVE (R265, R313): `core`, `tag` and `reissue` go with a peer's. -/
def execQueueReserve (src : Origin) (q : Nat) (v : Word) (core tag : Nat) (reissue : Bool) (s : State) : Host.Outcome State Fault Refusal :=
  if q < 64 then
    match src with
    | .peer m => .next (s.peerReserve m q v core tag reissue)
    | _ => .next (s.inTurn src (0x1000 * q) (.amo 0 8 v 0) fun s => s.reserveFor src q v)
  else .next s

/-- A write of one entry word (R266). -/
def execQueueEntryWrite (src : Origin) (q i k : Nat) (v : Word) (s : State) : Host.Outcome State Fault Refusal :=
  if q < 64 then .next (s.inTurn src (0x1000 * q + 0x800 + 64 * i + 8 * k) (.store 8 v) fun s => s.entryWrite src q i k v) else .next s

/-- An access at an offset of BAR0 that a queue window or the control path drops: it is not an aligned 8-byte one, and a read returns 0 (R265,
R309). -/
def execDroppedWindowAccess (src : Origin) (off : Nat) (read : Bool) (s : State) : Host.Outcome State Fault Refusal :=
  let told (t : State) : State := if read then t.answer src (.readData (bytesLE 0 8) false) else t
  .next (s.inTurn src off (if read then .load 1 false else .store 1 0) fun s =>
    if off < 0x40000 then told (s.refusedAt (off / 0x1000)) else s.peerPath src fun s => told s.pathRefused)

/-- A write of a register of the control path that has no behaviour of its own (R309). -/
def execControlPathWrite (src : Origin) (off : Nat) (v : Word) (s : State) : Host.Outcome State Fault Refusal :=
  .next (s.inTurn src (0x100000 + off) (.store 8 v) fun s => s.peerPath src fun s => s.ctlWrite off v)

/-- A write of INVCMD for a whole slot (R292). -/
def execInvalidateSlot (src : Origin) (v : Word) (s : State) : Host.Outcome State Fault Refusal :=
  .next (s.inTurn src (0x100000 + Reg.invcmd) (.store 8 v) fun s => s.peerPath src fun s => if bit v 8 then s.invalidate v else s)

/-- A write of INVCMD for a page range (R292). -/
def execInvalidateRange (src : Origin) (v : Word) (s : State) : Host.Outcome State Fault Refusal :=
  .next (s.inTurn src (0x100000 + Reg.invcmd) (.store 8 v) fun s => s.peerPath src fun s => if bit v 8 then s else s.invalidate v)

/-- The grants of a slot that an invalidation waits for: accesses translated and not yet performed, and walks in
progress (R292). -/
def State.grantsOf (s : State) (slot : Nat) : Bool :=
  (s.clusters.any fun p => p.2.slot == slot && p.2.launch != 0 && p.2.cores.any fun c => match c.2.pend with
    | some a => (match a.stage with | .home _ | .sent _ _ | .backoff _ _ | .walk _ _ _ _ | .waiting => true | _ => false)
    | none => false) ||
  s.flight.any fun f => f.slot == slot && match f.body with | .gstore _ _ _ => true | _ => false

/-- Every station has dropped the entries, those cached meanwhile among them, and the accesses granted through them are
performed (R292). -/
def execInvalidationComplete (s : State) : Host.Outcome State Fault Refusal :=
  match s.invalidating with
  | none => .next s
  | some (v, a) =>
    if s.grantsOf (bits v 0 8) then .next s
    else .next { s.dropCached (bits v 0 8) (bit v 8) (bits a 12 45) (bits v 16 32) with invalidating := none }

/-- A write of FACCEPT (R351). -/
def execFaccept (src : Origin) (v : Word) (s : State) : Host.Outcome State Fault Refusal :=
  .next (s.inTurn src (0x100000 + Reg.faccept) (.store 8 v) fun s => s.peerPath src fun s => s.acceptFeatures v)

/-- A write of ATTCMD (R352). -/
def execAttcmd (src : Origin) (v : Word) (s : State) : Host.Outcome State Fault Refusal :=
  .next (s.inTurn src (0x100000 + Reg.attcmd) (.store 8 v) fun s => s.peerPath src fun s => s.attest v)

/-- The report's posted writes are performed and BUSY clears (R352). -/
def execAttestationComplete (s : State) : Host.Outcome State Fault Refusal :=
  match s.boot.attesting with
  | none => .next s
  | some (a, r) => .next { s with
      replies := s.replies ++ [.busWrite a.toNat r]
      boot := { s.boot with attesting := none } }

end Sys2Proof.Machine
end

