-- ==== Sys2Proof/Machine/Hbm.lean ====
section
/-! DEFINITION. Global memory at its home: accesses (R331), blocks and refresh windows (R332, R333), and the scrubs (R318, R336). -/
namespace Sys2Proof.Machine

/-- An access at its home in HBM: `joined` says that an earlier burst has opened its row for it (R331). -/
def State.hbmAccess (s : State) (joined : Bool) (op : AccOp) (p hint : Nat) (tval : Word) : Resp × State :=
  let s := s.burstOf joined p hint
  let r := memAccess s.hbm op p tval
  (r.1, { s with hbm := r.2 })

/-- Poison that the burst of an access itself has found: it is counted, so that the trap does not count it again (R325, R335;
notes/assumptions/37). -/
def State.foundNow (s : State) (p : Nat) (e : Ecc) (op : AccOp) : Bool :=
  (e == .uncorrectable || s.flaws.any fun x => x.2 && decide (p < 8 * x.1 + 8 ∧ 8 * x.1 < p + op.size)) && !s.hbm.poisoned p op.size

/-- An access at its home, where the codes may find an error (R336). -/
def State.eccAccess (s : State) (joined : Bool) (p : Nat) (e : Ecc) (op : AccOp) (hint : Nat) (tval : Word) : Resp × State :=
  (s.eccAt p e).hbmAccess joined op p hint tval

/-- A bank's block ends; a further alert of the bank starts its own (R333). -/
def execBankBlockEnd (stack chan bank : Nat) (s : State) : Host.Outcome State Fault Refusal :=
  let here (b : Blocked) : Bool := b.stack == stack && b.chan == chan && b.bank == bank && decide (b.till ≤ s.cyc)
  let after (b : Blocked) : Option Blocked :=
    if here b then (match b.rows with
      | [] => none
      | _ :: t => some { b with till := b.till + 608, rows := t })
    else some b
  .next { s with blocked := s.blocked.filterMap after }

/-- A refresh window of a stack starts: the counts of the windows before it are given up (R332). A window starts every 60,800,000 cycles, and
a count of an earlier one already reads 0. -/
def execRefreshWindowStart (stack : Nat) (s : State) : Host.Outcome State Fault Refusal :=
  .next { s with rows := s.rows.filter fun p => p.1 / (32 * 32 * 65536) != stack || p.2.1 == s.windowNo stack }

/-- The base die scrubs the burst of an address (R336): the errors that stand in it, and one that it meets in the word, are counted, and a word
that cannot be corrected is poisoned. -/
def execHbmScrub (a : Nat) (e : Ecc) (s : State) : Host.Outcome State Fault Refusal :=
  if a < 2 ^ 40 then .next ((s.eccAt a e).findFlaws a) else .next s

/-- A word of a store or flag page that its code cannot correct is marked poisoned (R317, R318). -/
def Core.spoil (c : Core) (off : Nat) : Core :=
  if off < 0x40000 then { c with store := c.store.mark (off / 8) } else { c with flagPoison := riseInsert c.flagPoison (off % 32 / 8) }

/-- What a core's codes find in a word of its store or flag page (R317). -/
def State.eccStore (s : State) (r : CoreRef) (off : Nat) (e : Ecc) : State :=
  match e with
  | .clean => s
  | .corrected => s.bump Reg.corr 1
  | .uncorrectable => (s.uncorrectable r.cl).updCore r fun c => c.spoil off

/-- A bank controller scrubs a word of its store or flag page (R317, R318). -/
def execStoreScrub (r : CoreRef) (off : Nat) (e : Ecc) (s : State) : Host.Outcome State Fault Refusal := .next (s.eccStore r off e)

end Sys2Proof.Machine
end

