-- ==== Sys2Proof/Machine/Engine.lean ====
section
/-! DEFINITION. How the copy unit and the rule engine reach memory (R71, R74, R217, R230, R254, R291, R294, R308, R319, R324, R334), and the
end of their commands (R153, R154). -/
namespace Sys2Proof.Machine

/-- What an engine's access gives: a value, a fault with its record class, ADDR and DETAIL, a RETRY (under the limit of R230 or
not), or a back-off reply until a cycle. -/
inductive ERes where
  | ok (w : Word)
  | fault (cls : Nat) (addr detail : Word)
  | retry (limited : Bool) (addr : Word)
  | backoff (till : Word)
deriving DecidableEq, Repr

/-- Where an engine's address leads: a core's store or flag page, HBM, this module's device window, or out of the module by a port. -/
inductive EPlace where
  | store (t : CoreRef) (vc off : Nat)
  | hbm (h phys : Nat)
  | device (off phys : Nat)
  | outside (phys port : Nat)
deriving DecidableEq, Repr

/-- An engine acts for a core's command: the core, and what its writes carry. -/
structure EngineOf where
  r : CoreRef
  w : EngineWrite
  recq : Nat
deriving DecidableEq, Repr

/-- What a mapping must allow for an access (R286). -/
def AccOp.need (op : AccOp) : Need := match op with
  | .load _ _ | .vload _ | .keyed false _ _ _ => .read
  | .amo _ _ _ _ => .both
  | _ => .write

/-- The place of a granted physical address (R308, R310, R311). -/
def physPlace (s : State) (r : CoreRef) (p : Nat) (a : Word) : Except ERes EPlace :=
  match s.homeOf p with
  | .hbm h => .ok (.hbm h p)
  | .device o => .ok (.device o p)
  | _ =>
    let closed := match s.otherModule p with | some m => (s.core r).closed.contains (moduleKey m) | none => false
    if closed then .error (.fault tLINKLOST a a)
    else match s.portFor p with
      | some port => .ok (.outside p port)
      | none => .error (.fault tREMOTEERROR a (BitVec.ofNat 64 p))

/-- The place of an engine's address, after the walk that it may need (R289, R291, R294). -/
def engineWhere (s : State) (r : CoreRef) (need : Need) (a : Word) : Except ERes EPlace × State :=
  let q := s.cluster r.cl
  match placeOf a with
  | .error e => (.error (.fault e a a), s)
  | .ok (.own o) => (.ok (.store r q.vc o), s)
  | .ok (.window _ _) => (.error (.fault tLOCALBOUNDS a a), s)
  | .ok (.mesh vc core o) =>
    ((match meshTarget s q.slot vc core with
      | none => .error (.fault tMESH a a)
      | some (t, moving) =>
        if (moving && t.cl != r.cl) || (s.cluster t.cl).evict == .streaming then .error (.retry false a)
        else if (s.core r).closed.contains (chanKey vc core) then .error (.fault tLINKLOST a a)
        else .ok (.store t vc o)), s)
  | .ok (.global va) => if s.walkHeld r.cl q.slot va then (.error (.retry false a), s) else
    let s1 := s.walkFor r.cl q.slot va
    match translate s1 r.cl q.slot va need with
    | .error e => (.error (.fault e a a), s1)
    | .ok p => (physPlace s1 r p a, s1)

/-- A core's store or flag page refuses an engine's access of `n` bytes, or sends it back: only plain memory takes it (R74, R230, R324). -/
def storeRefuses (s : State) (t : CoreRef) (off n : Nat) (a : Word) : Option ERes :=
  let c := s.core t
  if c.run = .sealed then some (.fault tREMOTEERROR a (meshAddr (s.cluster t.cl).vc t.core 0))
  else if 0x40000 ≤ off ∧ off + n ≤ 0x40020 then none
  else if 0x40000 < off + n then some (.fault tLOCALBOUNDS a a)
  else if (c.bank (off / 0x4000)).converting then some (.retry true a)
  else if c.hit off n = .plain then none
  else some (.fault tBANKPORT a ((c.bank (off / 0x4000)).pers.zeroExtend 64))

/-- An item has been answered with a back-off reply (R334). -/
def Flight.isBacked (f : Flight) : Bool := f.backed || match f.stage with | .backoff _ _ => true | _ => false

/-- An access of an engine stays behind a write that is not yet performed: one of the same command that covers bytes of its place (R240), or one
of the same engine that was backed off in its bank (R334). -/
def State.engineHolds (s : State) (e : EngineOf) (x : EPlace) (n : Nat) : Bool :=
  s.flight.any fun f => f.src == e.r && f.eng.map (·.path) == some e.w.path && match x, f.body with
    | .store t vc off, .store o op => f.eng == some e.w && f.vc == vc && f.core == t.core && decide (o < off + n ∧ off < o + op.size)
    | .hbm h _, .gstore p op _ => (match ownHbm s p with
      | some q => (f.eng == some e.w && decide (q < h + n ∧ h < q + op.size)) || (f.isBacked && sameBank q h)
      | none => false)
    | _, _ => false

/-- Two physical addresses name one other module by one port (R253, R310). -/
def State.onePort (s : State) (p q : Nat) : Bool :=
  match s.homeOf p, s.homeOf q with
  | .peer m, .peer n => m == n && s.portFor p == s.portFor q
  | _, _ => false

/-- An item that has been sent out of the module, and not yet acknowledged. -/
def Flight.isSent (f : Flight) : Bool := match f.stage with | .sent _ _ => true | _ => false

/-- A posted global store that has not yet left by the port of an address: later writes and AMOs of the module stay behind it there (R253). -/
def Flight.leavesBefore (s : State) (f : Flight) (p : Nat) : Bool :=
  match f.body with
  | .gstore q _ _ => !f.isSent && s.onePort q p
  | _ => false

/-- An AMO of a core that has not yet left by the port of an address, among those that a test names by their tags (R253). -/
def State.amoLeaves (s : State) (p : Nat) (tags : Nat → Bool) : Bool :=
  s.clusters.any fun k => k.2.cores.any fun c => match c.2.pend with
    | some a => (match a.stage with | .home q => a.op.isAmo && !a.reissue && tags a.tag && s.onePort q p | _ => false)
    | none => false

/-- An engine's access within the device window (R308): the service core of the quadrant handles it behind the host's earlier requests (R306). -/
def engineDevice (s : State) (r : CoreRef) (off phys : Nat) (op : AccOp) (a : Word) : ERes × State :=
  if s.hostWaits (quadrant r.cl) then (.retry false a, s) else match s.window (.core r) off op with
  | .ok w s1 => (.ok w, s1)
  | .unassigned => (.fault tREMOTEERROR a (BitVec.ofNat 64 phys), s)

/-- An engine's access that leaves the module (R308, R311): a write goes behind what leaves by its port (R253). `k` numbers the requests of a
step. -/
def engineOutside (s : State) (e : EngineOf) (k phys : Nat) (op : AccOp) (a : Word) : ERes × State :=
  if !op.isLoad && (s.flight.any (fun f => f.leavesBefore s phys) || s.amoLeaves phys fun _ => true) then (.retry false a, s) else
  let s := s.sendOutside (quadrant e.r.cl) phys op
  match Config.outside s.free k with
  | .data w => (.ok w, s)
  | .poisoned => (.fault tPOISON a 0, s)
  | .lost =>
    (match s.otherModule phys with
    | some m => (.fault tLINKLOST a a, s.updCore e.r fun c =>
        if c.closed.contains (moduleKey m) then c else { c with closed := c.closed ++ [moduleKey m] })
    | none => (.fault tREMOTEERROR a (BitVec.ofNat 64 phys), s))
  | _ => (.fault tREMOTEERROR a (BitVec.ofNat 64 phys), s)

/-- A read of HBM by an engine (R331, R334, R336). Of the uncorrectable errors that the read itself finds, one is counted with its
record. -/
def engineHbmRead (s : State) (r : CoreRef) (h n : Nat) (a : Word) : ERes × State :=
  match s.backsOff h with
  | some t => (.backoff t, s.backoffReply h (some r))
  | none =>
    let op := AccOp.load n false
    let x := s.hbmAccess false op h 0 a
    match x.1 with
    | .value w _ => (.ok w, x.2)
    | _ => (.fault tPOISON a 0, if s.foundNow h .clean op then x.2.ctlPut Reg.uncorr (x.2.ctlGet Reg.uncorr - 1) else x.2)

/-- A read of a core's store or flag page by an engine. -/
def engineStoreRead (s : State) (t : CoreRef) (off n : Nat) (a : Word) : ERes :=
  let c := s.core t
  let op := AccOp.load n false
  match storeRefuses s t off n a with
  | some x => x
  | none =>
    match (if 0x40000 ≤ off then (flagAccess c op (off - 0x40000) a).1 else (memAccess c.store op off a).1) with
    | .value w _ => .ok w
    | _ => .fault tPOISON a 0

/-- An engine reads `n` bytes. -/
def engineRead (s : State) (e : EngineOf) (k n : Nat) (a : Word) : ERes × State :=
  match engineWhere s e.r .read a with
  | (.error x, s1) => (x, s1)
  | (.ok p, s1) =>
    if s1.engineHolds e p n then (.retry false a, s1)
    else match p with
      | .store t _ off => (engineStoreRead s1 t off n a, s1)
      | .hbm h _ => engineHbmRead s1 e.r h n a
      | .device off phys => engineDevice s1 e.r off phys (.load n false) a
      | .outside phys _ => engineOutside s1 e k phys (.load n false) a

/-- The channel number of the writes of engines, which keep an order of their own (R217, R254). -/
def engineChan : Nat := 4

/-- A write of an engine that leaves for its home (R254); `last` says that it waits for the command's other writes (R221). -/
def EngineOf.flight (s : State) (e : EngineOf) (last : Bool) (vc core : Nat) (body : FBody) (a : Word) (st : Stage) : Flight :=
  { rel := if last then some 6 else none, src := e.r, fromStation := false, slot := (s.cluster e.r.cl).slot, vc := vc, core := core,
    chan := engineChan, body := body, addr := a, recq := e.recq, since := none, launch := (s.cluster e.r.cl).launch, pid := (s.cluster e.r.cl).pid, issue := 0, eng := some e.w,
    backed := false, joined := false, stage := st }

/-- An engine's write to a core's store or flag page. In the command's own cluster it is performed at once; any other leaves for its home, and
may still be unperformed when the command has ended (R254). -/
def engineStoreWrite (s : State) (e : EngineOf) (last : Bool) (t : CoreRef) (vc off n : Nat) (v a : Word) : ERes × State :=
  match storeRefuses s t off n a with
  | some x => (x, s)
  | none =>
    let op := AccOp.store n v
    if t.cl != e.r.cl then (.ok 0, { s with flight := s.flight ++ [e.flight s last vc t.core (.store off op) a .bank] })
    else if 0x40000 ≤ off then (.ok 0, s.updCore t fun c => (flagAccess c op (off - 0x40000) a).2)
    else (.ok 0, s.updCore t fun c => { c with store := (memAccess c.store op off a).2 })

/-- An engine writes `n` bytes. -/
def engineWrite (s : State) (e : EngineOf) (last : Bool) (k n : Nat) (v a : Word) : ERes × State :=
  match engineWhere s e.r .write a with
  | (.error x, s1) => (x, s1)
  | (.ok p, s1) =>
    match p with
    | .store t vc off => engineStoreWrite s1 e last t vc off n v a
    | .hbm _ phys => (.ok 0, { s1 with flight := s1.flight ++ [e.flight s1 last 0 0 (.gstore phys (.store n v) 0) a (.home phys)] })
    | .device off phys => engineDevice s1 e.r off phys (.store n v) a
    | .outside phys _ => engineOutside s1 e k phys (.store n v) a

/-! ## A command's work in one step -/

/-- Where a command stands behind its step: it has done all of its work, a part of it (notes/assumptions/14), or it has been stopped at an
access. -/
inductive Work where
  | done (s : State)
  | part (s : State)
  | fault (s : State) (cls : Nat) (addr detail : Word)
  | wait (s : State) (x : ERes)
deriving DecidableEq, Repr

/-- What a command's step makes of an access that gave no value. -/
def Work.of (s : State) (x : ERes) : Work :=
  match x with
  | .fault c a d => .fault s c a d
  | x => .wait s x

/-- How long a command waits for a RETRY or back-off reply: `since` and `till` afterwards, or the address of the MESH record of R230. -/
def retryOf (now : Word) (since : Option Word) (x : ERes) : Except Word (Option Word × Word) :=
  match x with
  | .retry true a =>
    let t := since.getD now
    if (now - t).toNat ≥ 2 ^ 16 then .error a else .ok (some t, now)
  | .backoff till => .ok (since, till)
  | _ => .ok (since, now)

/-- Take the elements of a list in an order that nothing fixes (R165, R214; notes/assumptions/14). -/
def arrange {α : Type} (seed : Nat) : Nat → List α → List α
  | 0, l => l
  | _, [] => []
  | _, [x] => [x]
  | n + 1, x :: y :: t =>
    let l := x :: y :: t
    let i := Config.pick seed n % l.length
    match l[i]? with
    | some z => z :: arrange seed n (dropAt l i)
    | none => l

/-! ## The end of a command -/

/-- Add a byte count to a counter of a cluster (R154). -/
def State.addCounter (s : State) (cl : Nat) (at_ : Nat × Nat) (n : Nat) : State :=
  s.updCore ⟨cl, at_.1⟩ fun c => if c.run != .sealed && c.counterPlace at_.2 then c.counterAdd at_.2 n else c

/-- A place for a counter in a cluster (R121, R165). -/
def State.counterFits (s : State) (cl : Nat) (at_ : Nat × Nat) : Bool := (s.core ⟨cl, at_.1⟩).counterPlace at_.2

/-- A counter of a cluster stands in a poisoned word: an engine that would add to it ends its command (R318, R319). -/
def State.counterPoisoned (s : State) (cl : Nat) (at_ : Nat × Nat) : Bool :=
  let c := s.core ⟨cl, at_.1⟩
  c.counterPlace at_.2 && c.store.poisoned at_.2 8

/-- The bank of a counter of a cluster is being converted: a read or an add is answered RETRY (R230). -/
def State.counterRetry (s : State) (cl : Nat) (at_ : Nat × Nat) : Option ERes :=
  let c := s.core ⟨cl, at_.1⟩
  if c.run != .sealed && decide (at_.2 < 0x40000) && (c.bank (at_.2 / 0x4000)).converting then
    some (.retry true (meshAddr (s.cluster cl).vc at_.1 at_.2))
  else none

/-- An earlier copy request or rule job of a core that names a counter has not ended: the adds keep request order (R154, R257). -/
def Cluster.addBefore (k : Cluster) (core seq : Nat) (counter : Nat × Nat) : Bool :=
  ((k.core core).copies.any fun q => decide (q.seq < seq) && q.counter == counter) ||
    k.jobs.any fun j => j.core == core && decide (j.seq < seq) && counterOfDesc (j.desc4 k) == counter

end Sys2Proof.Machine
end

