-- ==== Sys2Proof/Machine/Images.lean ====
section
/-! DEFINITION. The images that page intake reads (R219): ITU-T T.6, and baseline JPEG (ISO/IEC 10918-1) as far as its standard fixes it
(notes/assumptions/8). -/
namespace Sys2Proof.Machine

/-! ## Codes -/

/-- ceil(a / b). -/
def ceilDiv (a b : Nat) : Nat := (a + b - 1) / b

/-- A code word: its length, its bits, and what it stands for. -/
structure Code (α : Type) where
  len : Nat
  bits : Nat
  val : α
deriving DecidableEq, Repr

/-- The bits of bytes, the most significant first. -/
def bitsOf (l : List Byte) : List Bool := l.flatMap fun b => (List.range 8).map fun i => b.getLsbD (7 - i)

/-- The number that some bits spell. -/
def numberOf (l : List Bool) : Nat := l.foldl (fun n b => 2 * n + b.toNat) 0

/-- The code word that a stream begins with: what it stands for, and what follows it. -/
def codeAt {α : Type} (t : List (Code α)) (l : List Bool) : Option (α × List Bool) :=
  (t.find? fun c => (l.take c.len).length == c.len && numberOf (l.take c.len) == c.bits).map fun c => (c.val, l.drop c.len)

/-! ## ITU-T T.6 -/

/-- What a code of T.6 says: pass, horizontal, vertical at a distance, or the end of the block. -/
inductive T6Mode where
  | pass | horizontal
  | vertical (d : Int)
  | stop
deriving DecidableEq, Repr

/-- The mode codes. -/
def t6Modes : List (Code T6Mode) :=
  [⟨1, 1, .vertical 0⟩, ⟨3, 3, .vertical 1⟩, ⟨3, 2, .vertical (-1)⟩, ⟨3, 1, .horizontal⟩, ⟨4, 1, .pass⟩, ⟨6, 3, .vertical 2⟩,
   ⟨6, 2, .vertical (-2)⟩, ⟨7, 3, .vertical 3⟩, ⟨7, 2, .vertical (-3)⟩, ⟨24, 0x001001, .stop⟩]

/-- Terminating codes of white runs. -/
def t6White : List (Code Nat) :=
  [⟨8, 53, 0⟩, ⟨6, 7, 1⟩, ⟨4, 7, 2⟩, ⟨4, 8, 3⟩, ⟨4, 11, 4⟩, ⟨4, 12, 5⟩, ⟨4, 14, 6⟩, ⟨4, 15, 7⟩, ⟨5, 19, 8⟩, ⟨5, 20, 9⟩, ⟨5, 7, 10⟩,
   ⟨5, 8, 11⟩, ⟨6, 8, 12⟩, ⟨6, 3, 13⟩, ⟨6, 52, 14⟩, ⟨6, 53, 15⟩, ⟨6, 42, 16⟩, ⟨6, 43, 17⟩, ⟨7, 39, 18⟩, ⟨7, 12, 19⟩, ⟨7, 8, 20⟩,
   ⟨7, 23, 21⟩, ⟨7, 3, 22⟩, ⟨7, 4, 23⟩, ⟨7, 40, 24⟩, ⟨7, 43, 25⟩, ⟨7, 19, 26⟩, ⟨7, 36, 27⟩, ⟨7, 24, 28⟩, ⟨8, 2, 29⟩, ⟨8, 3, 30⟩,
   ⟨8, 26, 31⟩, ⟨8, 27, 32⟩, ⟨8, 18, 33⟩, ⟨8, 19, 34⟩, ⟨8, 20, 35⟩, ⟨8, 21, 36⟩, ⟨8, 22, 37⟩, ⟨8, 23, 38⟩, ⟨8, 40, 39⟩, ⟨8, 41, 40⟩,
   ⟨8, 42, 41⟩, ⟨8, 43, 42⟩, ⟨8, 44, 43⟩, ⟨8, 45, 44⟩, ⟨8, 4, 45⟩, ⟨8, 5, 46⟩, ⟨8, 10, 47⟩, ⟨8, 11, 48⟩, ⟨8, 82, 49⟩, ⟨8, 83, 50⟩,
   ⟨8, 84, 51⟩, ⟨8, 85, 52⟩, ⟨8, 36, 53⟩, ⟨8, 37, 54⟩, ⟨8, 88, 55⟩, ⟨8, 89, 56⟩, ⟨8, 90, 57⟩, ⟨8, 91, 58⟩, ⟨8, 74, 59⟩, ⟨8, 75, 60⟩,
   ⟨8, 50, 61⟩, ⟨8, 51, 62⟩, ⟨8, 52, 63⟩]

/-- Make-up codes of white runs. -/
def t6WhiteMore : List (Code Nat) :=
  [⟨5, 27, 64⟩, ⟨5, 18, 128⟩, ⟨6, 23, 192⟩, ⟨7, 55, 256⟩, ⟨8, 54, 320⟩, ⟨8, 55, 384⟩, ⟨8, 100, 448⟩, ⟨8, 101, 512⟩, ⟨8, 104, 576⟩,
   ⟨8, 103, 640⟩, ⟨9, 204, 704⟩, ⟨9, 205, 768⟩, ⟨9, 210, 832⟩, ⟨9, 211, 896⟩, ⟨9, 212, 960⟩, ⟨9, 213, 1024⟩, ⟨9, 214, 1088⟩,
   ⟨9, 215, 1152⟩, ⟨9, 216, 1216⟩, ⟨9, 217, 1280⟩, ⟨9, 218, 1344⟩, ⟨9, 219, 1408⟩, ⟨9, 152, 1472⟩, ⟨9, 153, 1536⟩, ⟨9, 154, 1600⟩,
   ⟨6, 24, 1664⟩, ⟨9, 155, 1728⟩]

/-- Terminating codes of black runs. -/
def t6Black : List (Code Nat) :=
  [⟨10, 55, 0⟩, ⟨3, 2, 1⟩, ⟨2, 3, 2⟩, ⟨2, 2, 3⟩, ⟨3, 3, 4⟩, ⟨4, 3, 5⟩, ⟨4, 2, 6⟩, ⟨5, 3, 7⟩, ⟨6, 5, 8⟩, ⟨6, 4, 9⟩, ⟨7, 4, 10⟩, ⟨7, 5, 11⟩,
   ⟨7, 7, 12⟩, ⟨8, 4, 13⟩, ⟨8, 7, 14⟩, ⟨9, 24, 15⟩, ⟨10, 23, 16⟩, ⟨10, 24, 17⟩, ⟨10, 8, 18⟩, ⟨11, 103, 19⟩, ⟨11, 104, 20⟩, ⟨11, 108, 21⟩,
   ⟨11, 55, 22⟩, ⟨11, 40, 23⟩, ⟨11, 23, 24⟩, ⟨11, 24, 25⟩, ⟨12, 202, 26⟩, ⟨12, 203, 27⟩, ⟨12, 204, 28⟩, ⟨12, 205, 29⟩, ⟨12, 104, 30⟩,
   ⟨12, 105, 31⟩, ⟨12, 106, 32⟩, ⟨12, 107, 33⟩, ⟨12, 210, 34⟩, ⟨12, 211, 35⟩, ⟨12, 212, 36⟩, ⟨12, 213, 37⟩, ⟨12, 214, 38⟩, ⟨12, 215, 39⟩,
   ⟨12, 108, 40⟩, ⟨12, 109, 41⟩, ⟨12, 218, 42⟩, ⟨12, 219, 43⟩, ⟨12, 84, 44⟩, ⟨12, 85, 45⟩, ⟨12, 86, 46⟩, ⟨12, 87, 47⟩, ⟨12, 100, 48⟩,
   ⟨12, 101, 49⟩, ⟨12, 82, 50⟩, ⟨12, 83, 51⟩, ⟨12, 36, 52⟩, ⟨12, 55, 53⟩, ⟨12, 56, 54⟩, ⟨12, 39, 55⟩, ⟨12, 40, 56⟩, ⟨12, 88, 57⟩,
   ⟨12, 89, 58⟩, ⟨12, 43, 59⟩, ⟨12, 44, 60⟩, ⟨12, 90, 61⟩, ⟨12, 102, 62⟩, ⟨12, 103, 63⟩]

/-- Make-up codes of black runs. -/
def t6BlackMore : List (Code Nat) :=
  [⟨10, 15, 64⟩, ⟨12, 200, 128⟩, ⟨12, 201, 192⟩, ⟨12, 91, 256⟩, ⟨12, 51, 320⟩, ⟨12, 52, 384⟩, ⟨12, 53, 448⟩, ⟨13, 108, 512⟩,
   ⟨13, 109, 576⟩, ⟨13, 74, 640⟩, ⟨13, 75, 704⟩, ⟨13, 76, 768⟩, ⟨13, 77, 832⟩, ⟨13, 114, 896⟩, ⟨13, 115, 960⟩, ⟨13, 116, 1024⟩,
   ⟨13, 117, 1088⟩, ⟨13, 118, 1152⟩, ⟨13, 119, 1216⟩, ⟨13, 82, 1280⟩, ⟨13, 83, 1344⟩, ⟨13, 84, 1408⟩, ⟨13, 85, 1472⟩, ⟨13, 90, 1536⟩,
   ⟨13, 91, 1600⟩, ⟨13, 100, 1664⟩, ⟨13, 101, 1728⟩]

/-- Make-up codes of both. -/
def t6More : List (Code Nat) :=
  [⟨11, 8, 1792⟩, ⟨11, 12, 1856⟩, ⟨11, 13, 1920⟩, ⟨12, 18, 1984⟩, ⟨12, 19, 2048⟩, ⟨12, 20, 2112⟩, ⟨12, 21, 2176⟩, ⟨12, 22, 2240⟩,
   ⟨12, 23, 2304⟩, ⟨12, 28, 2368⟩, ⟨12, 29, 2432⟩, ⟨12, 30, 2496⟩, ⟨12, 31, 2560⟩]

/-- The codes of the runs of a colour: black is `true`. -/
def t6Codes (black : Bool) : List (Code Nat) :=
  (if black then t6Black ++ t6BlackMore else t6White ++ t6WhiteMore) ++ t6More

/-- A run: make-up codes, and the terminating code that ends it. -/
def t6Run (t : List (Code Nat)) : Nat → Nat → List Bool → Option (Nat × List Bool)
  | 0, _, _ => none
  | n + 1, sum, l => match codeAt t l with
    | none => none
    | some (r, m) => if r < 64 then some (sum + r, m) else t6Run t n (sum + r) m

/-- The changing elements of a line from a pixel on, each with its colour. -/
def t6Changes (before : Bool) (i : Nat) : List Bool → List (Nat × Bool)
  | [] => []
  | b :: t => if b = before then t6Changes b (i + 1) t else (i, b) :: t6Changes b (i + 1) t

/-- b1 and b2 of a reference line: its first change, from a pixel on, to the colour that is not a0's, and the change behind it. -/
def t6Pair (w least : Nat) (colour : Bool) (ch : List (Nat × Bool)) : Nat × Nat :=
  match ch.dropWhile fun x => decide (x.1 < least) || x.2 == colour with
  | [] => (w, w)
  | [x] => (x.1, w)
  | x :: y :: _ => (x.1, y.1)

/-- Decode a line behind the pixels that it has so far, the last one first: `start` says that a0 stands before the first pixel. The line, or none
at the end of the block, with what follows; or the place where the stream breaks T.6. -/
def t6Line (w : Nat) (ch : List (Nat × Bool)) : Nat → List Bool → Bool → Bool → List Bool → Except (List Bool) (Option (List Bool) × List Bool)
  | 0, _, _, _, l => .error l
  | n + 1, line, start, colour, l =>
    let p := line.length
    let least := if start then 0 else p + 1
    let b := t6Pair w least colour ch
    let fill (m : Nat) (c : Bool) (t : List Bool) : List Bool := List.replicate m c ++ t
    if p = w then .ok (some line.reverse, l)
    else match codeAt t6Modes l with
      | none => .error l
      | some (.stop, m) => if start then .ok (none, m) else .error l
      | some (.pass, m) => if b.2 < w then t6Line w ch n (fill (b.2 - p) colour line) false colour m else .error l
      | some (.vertical d, m) =>
        let a1 := (b.1 : Int) + d
        if (least : Int) ≤ a1 ∧ a1 ≤ w then t6Line w ch n (fill (a1.toNat - p) colour line) false (!colour) m else .error l
      | some (.horizontal, m) => match t6Run (t6Codes colour) 300 0 m with
        | none => .error l
        | some (x, m1) => match t6Run (t6Codes (!colour)) 300 0 m1 with
          | none => .error l
          | some (y, m2) =>
            if p + x + y ≤ w then t6Line w ch n (fill y (!colour) (fill x colour line)) false colour m2 else .error l

/-- Decode lines to the end of the block, the first behind a reference line. -/
def t6Lines (w : Nat) : Nat → List Bool → List Bool → Except (List Bool) (List (List Bool) × List Bool)
  | 0, _, l => .error l
  | n + 1, ref, l => match t6Line w (t6Changes false 0 ref) (2 * w + 2) [] true false l with
    | .error r => .error r
    | .ok (none, r) => .ok ([], r)
    | .ok (some line, r) => (t6Lines w n line r).map fun x => (line :: x.1, x.2)

/-- The rows of an image of a width under T.6, each pixel with whether it is black, and the byte offset behind them; or the byte offset where the
decoder stopped. -/
def t6Decode (w : Nat) (bytes : List Byte) : Except Nat (List (List Bool) × Nat) :=
  let l := bitsOf bytes
  let at_ (r : List Bool) : Nat := (l.length - r.length) / 8
  match t6Lines w (l.length + 1) (List.replicate w false) l with
  | .error r => .error (at_ r)
  | .ok (rows, r) => .ok (rows, at_ r)

/-- A bilevel image: black is 0 and white 255 (R219). -/
def t6Image (w h : Nat) (rows : List (List Bool)) : Config.Image :=
  ⟨w, h, 1, (List.range h).flatMap fun y => (List.range w).map fun x => if (rows.getD y []).getD x false then (0 : Byte) else 255⟩

/-! ## Baseline JPEG (ISO/IEC 10918-1). The offset of a refused segment is that of its marker (DESIGN CHOICE, notes/assumptions/8). -/

/-- A component of a frame: its identifier, its sampling factors and its quantisation table. -/
structure JpegComp where
  id : Nat
  h : Nat
  v : Nat
  tq : Nat
deriving DecidableEq, Repr

/-- A frame: width, height, components, and whether chroma is sampled 4:2:0. -/
structure JpegFrame where
  w : Nat
  h : Nat
  comps : List JpegComp
  sub : Bool
deriving DecidableEq, Repr

/-- The decoded blocks of a component in the order of its scan: its sampling factors there, the MCUs of a row, and each block's samples. -/
structure JpegPlane where
  h : Nat
  v : Nat
  perRow : Nat
  blocks : List (List Byte)
deriving DecidableEq, Repr

/-- What a decoder keeps between marker segments: quantisation tables, Huffman tables by class and number, the restart interval, the frame, and the
components decoded. -/
structure Jpeg where
  quant : Assoc (List Nat)
  huff : Assoc (List (Code Nat))
  restart : Nat
  frame : Option JpegFrame
  planes : Assoc JpegPlane
deriving DecidableEq, Repr

/-- A byte, and a 16-bit number with its high byte first. -/
def jpegByte (l : List Byte) (i : Nat) : Nat := (l.getD i 0).toNat
def jpegHalf (l : List Byte) (i : Nat) : Nat := jpegByte l i * 256 + jpegByte l (i + 1)

/-! ### Tables -/

/-- Quantisation tables from an offset to an end: 8-bit entries, none of them 0, and numbers 0 to 3. -/
def jpegQuant (l : List Byte) (stop : Nat) : Nat → Nat → Jpeg → Option Jpeg
  | 0, i, j => if i = stop then some j else none
  | n + 1, i, j =>
    let q := (List.range 64).map fun k => jpegByte l (i + 1 + k)
    if i = stop then some j
    else if jpegByte l i < 4 ∧ i + 65 ≤ stop ∧ q.all (· != 0) = true then
      jpegQuant l stop n (i + 65) { j with quant := aput j.quant (jpegByte l i) q }
    else none

/-- The code words of a Huffman table by the number of each length: they rise, and none is all ones. -/
def huffCodes : List Nat → Nat → Nat → List Nat → Option (List (Code Nat))
  | [], _, _, _ => some []
  | c :: t, len, code, vals =>
    if c ≠ 0 ∧ 2 ^ len ≤ code + c then none
    else (huffCodes t (len + 1) (2 * (code + c)) (vals.drop c)).map fun r => (List.range c).map (fun i => ⟨len, code + i, vals.getD i 0⟩) ++ r

/-- Huffman tables from an offset to an end: two of each class. -/
def jpegHuff (l : List Byte) (stop : Nat) : Nat → Nat → Jpeg → Option Jpeg
  | 0, i, j => if i = stop then some j else none
  | n + 1, i, j =>
    let counts := (List.range 16).map fun k => jpegByte l (i + 1 + k)
    let total := counts.foldl (· + ·) 0
    let tc := jpegByte l i / 16
    let th := jpegByte l i % 16
    if i = stop then some j
    else if tc < 2 ∧ th < 2 ∧ total ≤ 256 ∧ i + 17 + total ≤ stop then
      (match huffCodes counts 1 0 ((List.range total).map fun k => jpegByte l (i + 17 + k)) with
      | some t => jpegHuff l stop n (i + 17 + total) { j with huff := aput j.huff (2 * tc + th) t }
      | none => none)
    else none

/-! ### Frames -/

/-- The sampling of three components: 4:4:4, 4:2:0 (two luma rows and columns per chroma sample), or neither. -/
def jpegSampling (a b c : JpegComp) : Option Bool :=
  if b.h ≠ c.h ∨ b.v ≠ c.v then none
  else if a.h = b.h ∧ a.v = b.v then some false
  else if a.h = 2 * b.h ∧ a.v = 2 * b.v then some true
  else none

/-- A frame header whose parameters start at an offset (SOF0). -/
def jpegStart (l : List Byte) (i len : Nat) : Option JpegFrame :=
  let h := jpegHalf l (i + 1)
  let w := jpegHalf l (i + 3)
  let cs := (List.range (jpegByte l (i + 5))).map fun k =>
    let x (j : Nat) : Nat := jpegByte l (i + 6 + 3 * k + j)
    (⟨x 0, x 1 / 16, x 1 % 16, x 2⟩ : JpegComp)
  if jpegByte l i ≠ 8 ∨ len ≠ 8 + 3 * cs.length ∨ ¬ (1 ≤ h ∧ h ≤ 16384 ∧ 1 ≤ w ∧ w ≤ 16384) ∨
      cs.any (fun c => !decide (1 ≤ c.h ∧ c.h ≤ 4 ∧ 1 ≤ c.v ∧ c.v ≤ 4 ∧ c.tq ≤ 3)) = true ∨ ¬ (cs.map (·.id)).Nodup then none
  else match cs with
    | [_] => some ⟨w, h, cs, false⟩
    | [a, b, c] => (jpegSampling a b c).map fun sub => ⟨w, h, cs, sub⟩
    | _ => none

/-! ### Entropy-coded data -/

/-- A number of so many bits, extended as the standard extends a difference or a coefficient. -/
def jpegExtend (size v : Nat) : Int := if size = 0 then 0 else if v < 2 ^ (size - 1) then (v : Int) - 2 ^ size + 1 else v

/-- A number of so many bits from a stream. -/
def jpegTake (size : Nat) (l : List Bool) : Option (Int × List Bool) :=
  if (l.take size).length = size then some (jpegExtend size (numberOf (l.take size)), l.drop size) else none

/-- The AC coefficients of a block from number `k` on, in zigzag order; or the place where the stream breaks its standard. -/
def jpegAc (t : List (Code Nat)) : Nat → Nat → List Bool → Except (List Bool) (Assoc Int × List Bool)
  | 0, _, l => .error l
  | n + 1, k, l =>
    if k = 64 then .ok ([], l)
    else match codeAt t l with
      | none => .error l
      | some (rs, m) =>
        let r := rs / 16
        let size := rs % 16
        if rs = 0 then .ok ([], m)
        else if rs = 0xF0 then (if k + 16 < 64 then jpegAc t n (k + 16) m else .error l)
        else if size = 0 ∨ 10 < size ∨ 64 ≤ k + r then .error l
        else match jpegTake size m with
          | none => .error l
          | some (v, m1) => (jpegAc t n (k + r + 1) m1).map fun x => ((k + r, v) :: x.1, x.2)

/-- A block: its DC coefficient behind the one before it, and its 64 coefficients in zigzag order. -/
def jpegBlock (dc ac : List (Code Nat)) (pred : Int) (l : List Bool) : Except (List Bool) (Int × List Int × List Bool) :=
  match codeAt dc l with
  | none => .error l
  | some (size, m) =>
    if 11 < size then .error l
    else match jpegTake size m with
      | none => .error l
      | some (d, m1) => (jpegAc ac 65 1 m1).map fun x =>
        (pred + d, (pred + d) :: (List.range 63).map (fun k => aget 0 x.1 (k + 1)), x.2)

/-- A component in a scan: its number in the frame, its tables, and its blocks in an MCU. -/
structure JpegPart where
  k : Nat
  dc : List (Code Nat)
  ac : List (Code Nat)
  quant : List Nat
  n : Nat
deriving DecidableEq, Repr

/-- The blocks of some parts, one after the other, each dequantised and transformed to samples. -/
def jpegBlocks : List JpegPart → Assoc Int → List Bool → Except (List Bool) (List (Nat × List Byte) × List Bool)
  | [], _, l => .ok ([], l)
  | p :: t, preds, l => match jpegBlock p.dc p.ac (aget 0 preds p.k) l with
    | .error r => .error r
    | .ok (d, cs, m) => (jpegBlocks t (aput preds p.k d) m).map fun x =>
      ((p.k, Config.idct ((cs.zip p.quant).map fun y => y.1 * y.2)) :: x.1, x.2)

/-- A byte of entropy-coded data, with its offset. -/
abbrev EByte := Nat × Byte

/-- The entropy-coded intervals from an offset to the next marker that is no RSTn, each byte with its offset, and the offset of that marker:
RSTn ends interval n mod 8 where restarts are on. Otherwise the offset where the decoder stops. -/
def jpegIntervals (l : List Byte) (restarts : Bool) : Nat → Nat → Nat → List EByte → Except Nat (List (List EByte) × Nat)
  | 0, i, _, _ => .error i
  | n + 1, i, r, cur =>
    let m := jpegByte l (i + 1)
    if l.length ≤ i then .error i
    else if jpegByte l i ≠ 0xFF then jpegIntervals l restarts n (i + 1) r ((i, l.getD i 0) :: cur)
    else if l.length ≤ i + 1 then .error i
    else if m = 0 then jpegIntervals l restarts n (i + 2) r ((i, 0xFF) :: cur)
    else if m = 0xFF then jpegIntervals l restarts n (i + 1) r cur
    else if 0xD0 ≤ m ∧ m ≤ 0xD7 then
      (if restarts = true ∧ m = 0xD0 + r % 8 then (jpegIntervals l restarts n (i + 2) (r + 1) []).map fun x => (cur.reverse :: x.1, x.2)
      else .error i)
    else .ok ([cur.reverse], i)

/-- Decode intervals: each holds so many MCUs, the last what is left, and ends with fewer than eight bits, all ones. -/
def jpegDecodeAll (parts : List JpegPart) (each stop : Nat) : Nat → List (List EByte) → Except Nat (List (Nat × List Byte))
  | left, [] => if left = 0 then .ok [] else .error stop
  | left, x :: t =>
    let l := bitsOf (x.map (·.2))
    let at_ (r : List Bool) : Nat := ((x[(l.length - r.length) / 8]?).map (·.1)).getD stop
    let n := min each left
    if left = 0 then .error ((x.head?.map (·.1)).getD stop)
    else match jpegBlocks ((List.replicate n parts).flatten) [] l with
      | .error r => .error (at_ r)
      | .ok (bs, r) =>
        if r.length < 8 ∧ r.all id = true then (jpegDecodeAll parts each stop (left - n) t).map fun y => bs ++ y else .error (at_ r)

/-! ### Scans -/

/-- The components that a scan header at an offset names, with their Huffman tables: in the order of the frame, none decoded before, with every
table defined; at most ten blocks make an MCU. -/
def jpegScanParts (l : List Byte) (i len : Nat) (j : Jpeg) (f : JpegFrame) : Option (List JpegPart) :=
  let n := jpegByte l (i + 4)
  let part (x : Nat) : Option JpegPart :=
    let t := jpegByte l (i + 6 + 2 * x)
    match f.comps.findIdx? fun c => c.id == jpegByte l (i + 5 + 2 * x) with
    | none => none
    | some k => match f.comps[k]?, afind j.huff (t / 16), afind j.huff (2 + t % 16) with
      | some c, some dc, some ac =>
        if t / 16 < 2 ∧ t % 16 < 2 ∧ (afind j.planes k).isNone = true then
          (afind j.quant c.tq).map fun q => ⟨k, dc, ac, q, if n = 1 then 1 else c.h * c.v⟩
        else none
      | _, _, _ => none
  let ps := (List.range n).filterMap part
  if 1 ≤ n ∧ n ≤ 4 ∧ len = 6 + 2 * n ∧ ps.length = n ∧ (ps.map (·.k)).Pairwise (· < ·) ∧ jpegHalf l (i + 5 + 2 * n) = 63 ∧
      jpegByte l (i + 7 + 2 * n) = 0 ∧ (n = 1 ∨ ps.foldl (fun m p => m + p.n) 0 ≤ 10) then some ps
  else none

/-- The MCUs of a scan in a row and in a column, and the sampling factors in it: a scan of one component has its own blocks as MCUs. -/
def jpegGrid (f : JpegFrame) (one : Bool) (k : Nat) : Nat × Nat × Nat × Nat :=
  let hm := f.comps.foldl (fun m c => max m c.h) 1
  let vm := f.comps.foldl (fun m c => max m c.v) 1
  let c := f.comps.getD k ⟨0, 1, 1, 0⟩
  if one then (ceilDiv (ceilDiv (f.w * c.h) hm) 8, ceilDiv (ceilDiv (f.h * c.v) vm) 8, 1, 1)
  else (ceilDiv f.w (8 * hm), ceilDiv f.h (8 * vm), c.h, c.v)

/-- A scan whose header stands at an offset: what the decoder keeps behind it, and the offset of the marker that follows; or the offset where it
stops. -/
def jpegScan (l : List Byte) (i len : Nat) (j : Jpeg) : Except Nat (Jpeg × Nat) :=
  match j.frame with
  | none => .error i
  | some f => match jpegScanParts l i len j f with
    | none => .error i
    | some ps => match jpegIntervals l (j.restart != 0) l.length (i + 2 + len) 0 [] with
      | .error o => .error o
      | .ok (xs, stop) =>
        let one := ps.length == 1
        let g (k : Nat) := jpegGrid f one k
        let k0 := (ps.head?.map (·.k)).getD 0
        let total := (g k0).1 * (g k0).2.1
        let unit := ps.flatMap fun p => List.replicate p.n p
        (jpegDecodeAll unit (if j.restart = 0 then total else j.restart) stop total xs).map fun bs =>
          ({ j with planes := ps.foldl (fun m p => aput m p.k
              ⟨(g p.k).2.2.1, (g p.k).2.2.2, (g p.k).1, (bs.filter fun b => b.1 == p.k).map (·.2)⟩) j.planes }, stop)

/-- Go through a stream from the marker at an offset: the decoded image, or the offset where the decoder stops. -/
def jpegGo (l : List Byte) : Nat → Nat → Jpeg → Except Nat (JpegFrame × Assoc JpegPlane)
  | 0, i, _ => .error i
  | n + 1, i, j =>
    let m := jpegByte l (i + 1)
    let len := jpegHalf l (i + 2)
    let next := i + 2 + len
    let go (x : Option Jpeg) : Except Nat (JpegFrame × Assoc JpegPlane) := match x with | some j => jpegGo l n next j | none => .error i
    if l.length < i + 2 ∨ jpegByte l i ≠ 0xFF then .error i
    else if m = 0xFF then jpegGo l n (i + 1) j
    else if m = 0xD9 then (match j.frame with
      | some f => if (List.range f.comps.length).all fun k => (afind j.planes k).isSome then .ok (f, j.planes) else .error i
      | none => .error i)
    else if len < 2 ∨ l.length < next then .error i
    else if (0xE0 ≤ m ∧ m ≤ 0xEF) ∨ m = 0xFE then go (some j)
    else if m = 0xDB then go (jpegQuant l next len (i + 4) j)
    else if m = 0xC4 then go (jpegHuff l next len (i + 4) j)
    else if m = 0xDD then go (if len = 4 then some { j with restart := jpegHalf l (i + 4) } else none)
    else if m = 0xC0 then go (if j.frame.isNone then (jpegStart l (i + 4) len).map fun f => { j with frame := some f } else none)
    else if m = 0xDA then (match jpegScan l i len j with
      | .ok (j1, o) => jpegGo l n o j1
      | .error o => .error o)
    else .error i

/-- Decode a JPEG stream. -/
def jpegDecode (l : List Byte) : Except Nat (JpegFrame × Assoc JpegPlane) :=
  if jpegByte l 0 = 0xFF ∧ jpegByte l 1 = 0xD8 then jpegGo l l.length 2 ⟨[], [], 0, none, []⟩ else .error 0

/-- A sample of a plane. -/
def JpegPlane.sample (p : JpegPlane) (y x : Nat) : Byte :=
  let mcu := y / 8 / p.v * p.perRow + x / 8 / p.h
  let b := mcu * (p.h * p.v) + y / 8 % p.v * p.h + x / 8 % p.h
  -- the samples of a block stand row by row
  (p.blocks.getD b []).getD (y % 8 * 8 + x % 8) 0

/-- A JPEG image from its planes: chroma of 4:2:0 is upsampled by replication, and no colour is converted (R220). -/
def jpegImage (f : JpegFrame) (planes : Assoc JpegPlane) : Config.Image :=
  let sample (y x k : Nat) : Byte := match afind planes k with
    | none => 0
    | some p => if f.sub && k != 0 then p.sample (y / 2) (x / 2) else p.sample y x
  let c := f.comps.length
  ⟨f.w, f.h, c, (List.range f.h).flatMap fun y => (List.range f.w).flatMap fun x => (List.range c).map fun k => sample y x k⟩

end Sys2Proof.Machine
end

