-- ==== Sys2Proof/Machine/Rules.lean ====
section
/-! DEFINITION. The Medlar rule engine (R57, R162 to R164, R223 to R226). -/
namespace Sys2Proof.Machine

/-! ## Issue -/

/-- The start of a segment for a number of vectors. -/
def Med.start (n : Nat) : Med := ⟨0, 0, false, List.replicate n 0, 0⟩

/-- Queue a job (R163): the flag page and the spread windows are own-core addresses and no ARRAY bank (notes/assumptions/33). -/
def queueJob (i : Instr) (d a : Reg) (verify : Bool) (s : State) : Eff :=
  let addr := s.me.s a.toNat
  match placeOf addr with
  | .ok (.own o) =>
    if o % 32 ≠ 0 then .trap tALIGN addr
    else if s.me.arrayRange o 32 = false then .trap tBANKPORT addr
    else if s.mine.jobs.length ≥ 16 then stall s
    else
      let n := s.mine.nextJob
      let j : Job := ⟨n, addr, s.cur.core, verify, s.me.recq, false, [], [], s.me.engSeq, 0, Med.start 0, [], none, none, 0⟩
      .next ((s.updCluster s.cur.cl fun k => { k with jobs := k.jobs ++ [j], nextJob := n + 1 }).upd fun c =>
        { c with engSeq := c.engSeq + 1 }.setS d.toNat (BitVec.ofNat 64 (n % 2 ^ 32)))
  | .ok (.window _ _) => .trap (if addr.toNat % 32 ≠ 0 then tALIGN else tBANKPORT) addr
  | _ => .trap tLOCALBOUNDS addr

/-- `rrun` (R163). -/
def execRrun (d a : Reg) (s : State) : Host.Outcome State Fault Refusal := retire (.rrun d a) s (queueJob (.rrun d a) d a false)

/-- `rverify` (R163). -/
def execRverify (d a : Reg) (s : State) : Host.Outcome State Fault Refusal := retire (.rverify d a) s (queueJob (.rverify d a) d a true)

/-- The state of job n as `rstat` reports it (R164, R225): a running job is in its rows from its ROWS word on. -/
def jobWord (k : Cluster) (n : Nat) : Word :=
  let age := (k.nextJob - 1 + 2 ^ 32 - n) % 2 ^ 32
  if k.nextJob = 0 ∨ age > 64 ∨ age ≥ k.nextJob then 0xFF03#64
  else
    let num := k.nextJob - 1 - age
    match k.jobs.find? fun j => j.num == num with
    | some j => if j.running then (if 2 ≤ j.med.phase then 2 else 1) else 0
    | none => BitVec.ofNat 64 (3 + aget 0 k.jobEnds num * 256)

/-- `rstat` (R164). -/
def execRstat (d a : Reg) (s : State) : Host.Outcome State Fault Refusal :=
  retire (.rstat d a) s fun s => put d (jobWord s.mine ((s.me.s a.toNat).toNat % 2 ^ 32)) s

/-! ## Descriptors (R162) -/

/-- An address of the own store, the mesh or global memory, as a multiple of 4. -/
def segAddrOk (a : Word) : Bool :=
  a.toNat % 4 == 0 && match placeOf a with
    | .ok (.own _) | .ok (.mesh _ _ _) | .ok (.global _) => true
    | _ => false

/-- A mesh address in a virtual cluster, as a multiple of 4. -/
def xbaseOk (vc : Nat) (a : Word) : Bool :=
  a.toNat % 4 == 0 && match placeOf a with
    | .ok (.mesh v _ _) => v == vc
    | _ => false

/-- A mesh or global address, as a multiple of 4. -/
def ydestOk (a : Word) : Bool :=
  a.toNat % 4 == 0 && match placeOf a with
    | .ok (.mesh _ _ _) | .ok (.global _) => true
    | _ => false

/-- The offset of the lowest descriptor word that breaks Table 4 of spec/08. -/
def descBad (s : State) (cl : Nat) (ws : List Word) : Option Nat :=
  let w3 := ws.getD 3 0
  if segAddrOk (ws.getD 0 0) = false then some 0
  else if xbaseOk (s.cluster cl).vc (ws.getD 1 0) = false then some 8
  else if ydestOk (ws.getD 2 0) = false then some 16
  else if bits w3 60 4 ≠ 0 ∨ bits w3 53 2 ≠ 0 ∨ bits w3 0 32 % 4 ≠ 0 ∨ s.counterFits cl (counterOfDesc ws) = false then some 24
  else none

/-- ACC and TBL of a descriptor. -/
def accOf (ws : List Word) : Bool := bit (ws.getD 3 0) 55
def tblOf (ws : List Word) : Nat := bits (ws.getD 3 0) 58 2

/-! ## The segment (R57, R223, R224) -/

/-- A sum in FP32 with one rounding (R57). -/
def medAdd (a : W32) (v : Fp) : W32 := BitVec.ofNat 32 (f32.add 0 false (f32.value a.toNat) v).1

/-- Add a value to the sum of each vector. -/
def Med.add (m : Med) (v : List Fp) : Med :=
  { m with isOpen := true, acc := (List.range m.acc.length).map fun i => medAdd (m.acc.getD i 0) (v.getD i (.fin false 0 0)) }

/-- Close a rule or row. -/
def Med.close (m : Med) : Med := { m with isOpen := false, acc := List.replicate m.acc.length 0 }

/-- An address of an array of words, within the store that it names. -/
def wordAt (base : Word) (delta : Nat) : Except Nat Word :=
  let a := base + BitVec.ofNat 64 delta
  match placeOf base with
  | .ok (.own o) | .ok (.mesh _ _ o) => if o + delta + 4 ≤ 0x40000 then .ok a else .error tLOCALBOUNDS
  | _ => .ok a

/-! ## The read buffer (R6, R255) -/

/-- Lines of 64 bytes that the rule engine's buffer holds. -/
def ruleLines : Nat := 64

/-- The number of a line of a store, or of HBM. -/
def EPlace.lineKey : EPlace → Option Nat
  | .store t _ off => if off < 0x40000 then some ((t.cl * 8 + t.core) * 4096 + off / 64) else none
  | .hbm h _ => some (2 ^ 30 + h / 64)
  | _ => none

/-- A line of a memory as it stands. -/
def lineFrom (m : Memory) (key a : Nat) : Line :=
  ⟨key, m.bytes (a / 64 * 64) 64, (List.range 8).filter fun i => m.poison.contains (a / 64 * 8 + i)⟩

/-- What an aligned word of a buffered line gives. -/
def Line.read4 (l : Line) (a : Nat) (addr : Word) : ERes :=
  if l.poison.contains (a % 64 / 8) then .fault tPOISON addr 0
  else .ok (BitVec.ofNat 64 ((List.range 4).foldl (fun n i => n + (l.bytes.getD (a % 64 + i) 0).toNat * 256 ^ i) 0))

/-- Keep a line; a full buffer gives one up, which the spec leaves open (notes/assumptions/15). -/
def Cluster.keepLine (k : Cluster) (seed : Nat) (l : Line) : Cluster :=
  let b := if ruleLines ≤ k.ruleBuf.length then dropAt k.ruleBuf (Config.pick seed l.key % k.ruleBuf.length) else k.ruleBuf
  { k with ruleBuf := b ++ [l] }

/-- The rule engine reads a word of its x window or its segment through its buffer: a line that it holds stays as it was read (R255). -/
def ruleRead (s : State) (e : EngineOf) (k : Nat) (a : Word) : ERes × State :=
  match engineWhere s e.r .read a with
  | (.error x, s1) => (x, s1)
  | (.ok p, s1) =>
    let at_ : Nat := match p with | .store _ _ off => off | .hbm h _ => h | _ => 0
    let keep (m : Memory) (key : Nat) (t : State) : ERes × State :=
      let l := lineFrom m key at_
      (l.read4 at_ a, t.updCluster e.r.cl fun q => q.keepLine (s.free + k) l)
    match p, p.lineKey with
    | .store t _ off, some key =>
      (match storeRefuses s1 t off 4 a with
      | some x => (x, s1)
      | none => match (s1.cluster e.r.cl).ruleBuf.find? fun l => l.key == key with
        | some l => (l.read4 at_ a, s1)
        | none => keep (s1.core t).store key s1)
    | .hbm h _, some key =>
      (match (s1.cluster e.r.cl).ruleBuf.find? fun l => l.key == key with
      | some l => (l.read4 at_ a, s1)
      | none => match engineHbmRead s1 e.r h 4 a with
        | (.ok _, s2) | (.fault _ _ _, s2) => keep s2.hbm key s2
        | x => x)
    | _, _ => engineRead s1 e k 4 a

/-! ## Operands -/

/-- A fault at an address. -/
def faultAt (e : Nat) (a : Word) : ERes := .fault e a a

/-- Read 32-bit words from an offset of an array on, behind those already read: what stopped it if not all could be read. -/
def readMany (rd : State → Nat → Word → ERes × State) (base : Word) : Nat → Nat → Nat → List W32 → State → Option ERes × State × List W32
  | 0, _, _, l, s => (none, s, l)
  | n + 1, delta, k, l, s =>
    match wordAt base delta with
    | .error e => (some (faultAt e (base + BitVec.ofNat 64 delta)), s, l)
    | .ok a => match rd s k a with
      | (.ok w, s1) => readMany rd base n (delta + 4) (k + 1) (l ++ [w.truncate 32]) s1
      | (x, s1) => (some x, s1, l)

/-- Go on with a reading of `n` words that has come to `l`. -/
def readOn (rd : State → Nat → Word → ERes × State) (base : Word) (delta n k : Nat) (l : List W32) (s : State) :
    Option ERes × State × List W32 :=
  readMany rd base (n - l.length) (delta + 4 * l.length) k l s

/-- Write 32-bit words from an offset of an array on: what stopped it, and the words still to be written. -/
def writeMany (e : EngineOf) (base : Word) : List W32 → Nat → Nat → State → Option ERes × State × List W32
  | [], _, _, s => (none, s, [])
  | x :: t, delta, k, s =>
    match wordAt base delta with
    | .error c => (some (faultAt c (base + BitVec.ofNat 64 delta)), s, x :: t)
    | .ok a => match engineWrite s e false k 4 (x.zeroExtend 64) a with
      | (.ok _, s1) => writeMany e base t (delta + 4) (k + 1) s1
      | (y, s1) => (some y, s1, x :: t)

/-- The outcome of one word of a segment: the job goes on, breaks a check, or is stopped at an access. -/
inductive MedRes where
  | go (s : State) (j : Job)
  | bad (cls : Nat)
  | stop (s : State) (j : Job) (x : ERes)
deriving DecidableEq, Repr

/-- The value of a terminal's code: none for a poisoned table entry. -/
def termValue (tab : List W32) (code : Nat) : Option Fp :=
  let e := tab.getD code 0
  if e.getLsbD 28 then none else some (entryValue e)

/-- What the engine of a job acts for. -/
def Job.engine (j : Job) (cl : Nat) : EngineOf := ⟨⟨cl, j.core⟩, ⟨3, j.seq, j.num⟩, j.recq⟩

/-- The value of a rule enters the scratch file, whole and so without an error (R225, R317). -/
def Cluster.defineRule (k : Cluster) (v : List W32) : Cluster :=
  { k with scratch := k.scratch ++ [v], scratchPoison := k.scratchPoison.filter (· != k.scratch.length) }

/-- A terminal: table value of its code times x(c), for each vector (R57, R223). -/
def medTerminal (s : State) (cl : Nat) (j : Job) (k x : Nat) : MedRes :=
  let n := j.med.acc.length
  if j.verify then .go s { j with med := j.med.add [] }
  else match readOn (fun s k a => ruleRead s (j.engine cl) k a) (j.words.getD 1 0) (4 * n * (x / 2 ^ 14 % 2 ^ 16)) n k j.got s with
    | (some e, s1, l) => .stop s1 { j with got := l } e
    | (none, s1, l) => match termValue j.table (x / 2 ^ 6 % 256) with
      | none => .stop s1 j (.fault tPOISON 0 0)
      | some v => .go s1 { j with med := j.med.add (l.map fun y => mulExact v (f32.value y.toNat)), got := [] }

/-- A reference to a rule: its value as the scratch file holds it; a poisoned one ends the job, DETAIL its number (R153, R317). -/
def medRule (s : State) (cl : Nat) (j : Job) (id : Nat) : MedRes :=
  let k := s.cluster cl
  if !j.verify && k.scratchPoison.contains id then .stop s j (.fault tPOISON 0 (BitVec.ofNat 64 id))
  else .go s { j with med := j.med.add ((k.scratch.getD id []).map fun y => f32.value y.toNat) }

/-- The end of row r: the row goes to y, added to what y holds where ACC asks for it (R57, R162). -/
def medRow (s : State) (cl : Nat) (j : Job) (k r : Nat) : MedRes :=
  let n := j.med.acc.length
  let y := j.words.getD 2 0
  let e := j.engine cl
  let finish (s : State) (j : Job) (vals : List W32) : MedRes :=
    match writeMany e y vals (4 * n * r + 4 * (n - vals.length)) (k + 8) s with
    | (some x, s1, l) => .stop s1 { j with row := some l } x
    | (none, s1, _) => .go s1 { j with med := j.med.close, got := [], row := none }
  if j.verify then .go s { j with med := j.med.close }
  else match j.row with
    | some l => finish s j l
    | none =>
      if accOf j.words then
        match readOn (fun s k a => engineRead s e k 4 a) y (4 * n * r) n k j.got s with
        | (some x, s1, l) => .stop s1 { j with got := l } x
        | (none, s1, l) => finish s1 j ((List.range n).map fun i => medAdd (l.getD i 0) (f32.value (j.med.acc.getD i 0).toNat))
      else finish s j j.med.acc

/-- Take one word of a segment (R223, R224). DESIGN CHOICE (notes/assumptions/43): an END-RULE before the first LEVEL, which the table of failures names
only behind ROWS, is RULE-FORMAT. -/
def medWord (s : State) (cl : Nat) (j : Job) (k : Nat) (w : W32) : MedRes :=
  let m := j.med
  let x := w.toNat
  let lo (b : Nat) : Nat := x % 2 ^ b
  let rules := (s.cluster cl).scratch.length
  let go (m : Med) : MedRes := .go s { j with med := m }
  match x / 2 ^ 30 with
  | 0 => if lo 6 ≠ 0 ∨ m.phase = 0 ∨ m.phase = 3 then .bad kRULEFORMAT else medTerminal s cl j k x
  | 1 =>
    let id := x / 2 ^ 18 % 4096
    if lo 18 ≠ 0 ∨ m.phase = 0 ∨ m.phase = 3 then .bad kRULEFORMAT
    else if id ≥ (if m.phase = 1 then m.defined else rules) then .bad kRULEORDER
    else medRule s cl j id
  | 2 =>
    match x / 2 ^ 26 % 16 with
    | 0 =>
      if lo 26 ≠ 0 ∨ m.phase ≠ 1 then .bad kRULEFORMAT
      else if rules ≥ 4096 then .bad kRULECAPACITY
      else .go (s.updCluster cl fun q => q.defineRule m.acc) { j with med := m.close }
    | 1 => if lo 26 / 2 ^ 16 ≠ 0 ∨ m.phase ≠ 2 then .bad kRULEFORMAT else medRow s cl j k (lo 16)
    | 2 => if lo 26 ≠ 0 ∨ m.phase ≠ 2 ∨ m.isOpen = true then .bad kRULEFORMAT else go { m with phase := 3 }
    | _ => .bad kRULEFORMAT
  | _ =>
    match x / 2 ^ 26 % 16 with
    | 0 =>
      if lo 26 ≠ 0 ∨ 2 ≤ m.phase ∨ m.isOpen = true then .bad kRULEFORMAT
      else if m.levels ≥ 16 then .bad kRULEDEPTH
      else go { m with phase := 1, levels := m.levels + 1, defined := rules }
    | 1 => if lo 26 ≠ 0 ∨ 2 ≤ m.phase ∨ m.isOpen = true then .bad kRULEFORMAT else go { m with phase := 2 }
    | _ => .bad kRULEFORMAT

/-- Take the words that are left of a segment, as many as the second number says (R224). -/
def medRun (cl : Nat) : Nat → Nat → State → Job → Work × Job
  | 0, _, s, j =>
    let at_ := BitVec.ofNat 64 j.off
    (if j.med.phase = 3 then .done s else .fault s kRULEFORMAT (j.words.getD 0 0 + at_) at_, j)
  | n + 1, b, s, j =>
    match b with
    | 0 => (.part s, j)
    | b + 1 =>
      let k := 8 * j.off
      let at_ := BitVec.ofNat 64 j.off
      match readMany (fun s k a => ruleRead s (j.engine cl) k a) (j.words.getD 0 0) 1 j.off k [] s with
      | (some x, s1, _) => (Work.of s1 x, j)
      | (none, s1, l) => match medWord s1 cl j (k + 1) (l.headD 0) with
        | .go s2 j2 => medRun cl n b s2 { j2 with off := j.off + 4 }
        | .bad c => (.fault s1 c (j.words.getD 0 0 + at_) at_, j)
        | .stop s2 j2 x => (Work.of s2 x, j2)

/-- The `CYC` of the first RETRY at the access at which a job stands: none once it has gone on since then (R230). -/
def Job.sinceFor (j j1 : Job) : Option Word := if j1.off = j.off ∧ j1.got = j.got ∧ j1.row = j.row then j.since else none

/-! ## Steps -/

/-- The job of a cluster that runs. -/
def Cluster.runningJob (k : Cluster) : Option Job := k.jobs.find? fun j => j.running

/-- Replace a job of the queue. -/
def Cluster.setJob (k : Cluster) (j : Job) : Cluster := { k with jobs := k.jobs.map fun x => if x.num = j.num then j else x }

/-- A job ends with a class, or 0: it leaves the queue, and `rstat` reports its end. -/
def Cluster.endJob (k : Cluster) (j : Job) (cls : Nat) : Cluster :=
  { k with jobs := k.jobs.filter (fun x => x.num != j.num), jobEnds := ((j.num, cls) :: k.jobEnds).take 80 }

/-- A job ends with a fault (R153, R154): the record is committed before the mark (R254). -/
def State.failJob (s : State) (cl : Nat) (j : Job) (mark : Option (Nat × Nat)) (cls : Nat) (addr detail : Word) : State :=
  (s.recordMark ⟨cl, j.core⟩ j.recq j.num uRule cls addr detail mark).updCluster cl fun k => k.endJob j cls

/-- A job waits where it stands on a RETRY or back-off reply, which R230 limits (R230, R334). -/
def State.delayJob (s : State) (cl : Nat) (j : Job) (mark : Option (Nat × Nat)) (since : Option Word) (x : ERes) : State :=
  match retryOf s.cyc since x with
  | .error a => s.failJob cl j mark tMESH a a
  | .ok (since, till) => s.updCluster cl fun k => k.setJob { j with since := since, till := till }

/-- A job starts with its descriptor and its decode table as they stand, an empty scratch file and an empty read buffer (R162, R225, R255). -/
def Cluster.beginJob (k : Cluster) (j : Job) (ws : List Word) : Cluster :=
  { k with scratch := [], ruleBuf := [] }.setJob
    { j with running := true, words := ws, table := captureTable k (tblOf ws), med := Med.start (nvecOf ws), since := none, till := 0 }

/-- The next queued job starts (R162, R225): its descriptor is read and checked, and its decode table captured. -/
def execRuleJobStart (cl : Nat) (s : State) : Host.Outcome State Fault Refusal :=
  let k := s.cluster cl
  match k.jobs with
  | [] => .next s
  | j :: _ =>
    if j.running ∨ k.evict ≠ .none ∨ s.drained ⟨cl, j.core⟩ 6 = false then .next s
    else
      let m := (k.core j.core).store
      let o := j.desc.toNat
      let ws := m.words o 4
      let ctr := counterOfDesc ws
      if m.poisoned o 32 then .next (s.failJob cl j (if m.poisoned (o + 24) 8 then none else some ctr) tPOISON j.desc 0)
      else if (k.core ctr.1).run = .sealed then .next (s.failJob cl j (some ctr) tREMOTEERROR j.desc (meshAddr k.vc ctr.1 0))
      else match s.counterRetry cl ctr with
        | some x => .next (s.delayJob cl j (some ctr) j.since x)
        | none => match descBad s cl ws with
          | some b => .next (s.failJob cl j (some ctr) kRULEFORMAT j.desc (BitVec.ofNat 64 (2 ^ 63 + b)))
          | none => .next (s.updCluster cl fun k => k.beginJob j ws)

/-- A job has done all of its work: its counter is added to in its turn, or a record says that the counter's core has been sealed (R154, R163,
R230, R324). -/
def State.completeJob (s : State) (cl : Nat) (j : Job) (since : Option Word) : State :=
  let ctr := counterOfDesc j.words
  let k := s.cluster cl
  if (k.core ctr.1).run = .sealed then s.failJob cl j (some ctr) tREMOTEERROR j.desc (meshAddr k.vc ctr.1 0)
  else if k.addBefore j.core j.seq ctr then s.updCluster cl fun k => k.setJob j
  else match s.counterRetry cl ctr with
    | some x => s.delayJob cl j (some ctr) since x
    | none =>
      if s.counterPoisoned cl ctr then s.failJob cl j (some ctr) tPOISON (meshAddr k.vc ctr.1 ctr.2) 0
      else (s.addCounter cl ctr (lenOf j.words)).updCluster cl fun k => k.endJob j 0

/-- The running job goes on through its levels and rows, word by word and as far as nothing fixes, and ends with the last of them (R163, R225;
notes/assumptions/14); a RETRY or back-off reply delays it where it stands (R230, R334). -/
def execRuleJobEnd (cl : Nat) (s : State) : Host.Outcome State Fault Refusal :=
  match (s.cluster cl).runningJob with
  | none => .next s
  | some j =>
    if s.cyc < j.till ∨ (s.cluster cl).evict = .streaming then .next s
    else match medRun cl ((lenOf j.words - j.off) / 4) (Config.portion s.free + 1) s j with
      | (.done s1, j1) => .next (s1.completeJob cl j1 (j.sinceFor j1))
      | (.part s1, j1) => .next (s1.updCluster cl fun k => k.setJob { j1 with since := none })
      | (.fault s1 c a d, j1) => .next (s1.failJob cl j1 (some (counterOfDesc j.words)) c a d)
      | (.wait s1 x, j1) => .next (s1.delayJob cl j1 (some (counterOfDesc j.words)) (j.sinceFor j1) x)

end Sys2Proof.Machine
end

