-- ==== Sys2Proof/Machine/Copies.lean ====
section
/-! DEFINITION. The copy unit and page intake (R165, R166, R214 to R222). -/
namespace Sys2Proof.Machine

/-! ## Requests -/

/-- A parameter block address keeps R165. -/
def Core.blockOk (c : Core) (a : Word) : Bool :=
  a.toNat % 32 == 0 && match placeOf a with
    | .ok (.own o) => c.arrayRange o 32
    | _ => false

/-! ## Promises (R215) -/

/-- The unloaded bound of a place in cycles; an address outside every window has no bound in the spec: a free value. DESIGN CHOICE for a place in a
spread window, which the table of bounds does not name: that of the own core (notes/assumptions/24). -/
def placeBound (s : State) (r : CoreRef) (a : Word) : Nat :=
  match placeOf a with
  | .ok (.own _) | .ok (.window _ _) => 3
  | .ok (.global _) => 912
  | .ok (.mesh vc core _) =>
    if vc = (s.cluster r.cl).vc then (if core = r.core then 3 else 8)
    else match meshTarget s (s.cluster r.cl).slot vc core with
      | some (t, _) => if dieOf t.cl = dieOf r.cl then 133 else 494
      | none => 494
  | .error _ => (Config.freeWord s.free).toNat % 1024

/-- The bound of the farthest destination of a distribution (R217). -/
def dealBound (s : State) (r : CoreRef) (pat : Word) : Nat :=
  let cs := maskCores (bits pat 16 8)
  (List.range (bits pat 24 13 + 1)).foldl (fun m i =>
    cs.foldl (fun m c => max m (placeBound s r (meshAddr (bits pat 37 13 + i) c 0))) m) 0

/-- Cores of a cluster with a request not completed, the issuing core among them. -/
def Cluster.busyCopies (k : Cluster) (core : Nat) : Nat :=
  ((List.range 8).filter fun j => j == core || (k.core j).copies != []).length

/-- The transfer term X (Table 2 of spec/11); `b0` and `b1` are block words as the promise reads them. -/
def transferTerm (mode len n : Nat) (b0 b1 : Word) : Nat :=
  match mode with
  | 1 => ceilDiv (len * n) 64 + 2 * bits b0 0 32
  | 2 => ceilDiv (len * n) 64 + 4 * (bits b1 0 16 * bits b1 16 8)
  | 3 | 4 => ceilDiv (len * n) 32
  | 5 => ceilDiv (len * n) 64 + 8 * (if bits b0 0 32 = 0 then 0 else len / bits b0 0 32)
  | 6 => len + 2048
  | _ => ceilDiv (len * n) 64

/-- The wait for the matrix ramp that promises include (R15). -/
def rampWait (s : State) (k : Cluster) : Nat := if k.ramped || decide (k.rampAt ≤ s.cyc) then 0 else (k.rampAt - s.cyc).toNat

/-- The promise P of a request of the current core (R215). -/
def promiseOf (s : State) (q : CReq) : Word :=
  let c := s.me
  let ok := q.needsBlock && c.blockOk q.blk
  let rd (i : Nat) : Word := if ok then c.store.read8 (q.blk.toNat + 8 * i) else 0
  let n := s.mine.busyCopies s.cur.core
  let src := if q.mode = 7 then 0 else placeBound s s.cur q.w1
  let dst := if q.mode = 5 then dealBound s s.cur q.pattern else placeBound s s.cur q.w2
  let base := max (s.cyc.toNat + 24) c.promise.toNat
  BitVec.ofNat 64 (base + transferTerm q.mode q.len n (rd 0) (rd 1) + src + dst + rampWait s s.mine)

/-- The request of four consecutive registers (R165). -/
def Core.request (c : Core) (a : Reg) : CReq :=
  { w0 := c.s a.toNat, w1 := c.s (a.toNat + 1), w2 := c.s (a.toNat + 2), w3 := c.s (a.toNat + 3),
    pattern := c.cr_ Cr.cpattern, recq := c.recq, promise := 0, started := false, block := [], coords := [], seq := c.engSeq, seed := 0,
    moved := 0, got := none, image := [], since := none, till := 0 }

/-- Push a request: its promise goes to S(D). -/
def pushCopy (d a : Reg) (s : State) : Eff :=
  let q := s.me.request a
  let p := promiseOf s q
  local_ s fun c => ({ c with copies := c.copies ++ [{ q with promise := p }], promise := p, engSeq := c.engSeq + 1 } : Core).setS d.toNat p

/-- Mode 6 without the intake feature is refused (R3, R165). -/
def copyRefusal (i : Instr) (a : Reg) (s : State) : Option (Nat × Word) :=
  if bits (s.me.s a.toNat) 60 4 = 6 ∧ bit s.feat0 2 = false then some (tILLEGAL, i.word) else none

/-- `cpy` and `cpy.try` (R165): `full` is what a full FIFO does. -/
def copyEff (d a : Reg) (full : State → Eff) (s : State) : Eff :=
  if s.me.copies.length ≥ 16 then full s else pushCopy d a s

/-- `cpy` (R165). -/
def execCpy (d a : Reg) (s : State) : Host.Outcome State Fault Refusal :=
  retireUnless (.cpy d a) (copyRefusal (.cpy d a) a s) s (copyEff d a stall)

/-- `cpy.try` (R165). -/
def execCpyTry (d a : Reg) (s : State) : Host.Outcome State Fault Refusal :=
  retireUnless (.cpyTry d a) (copyRefusal (.cpyTry d a) a s) s (copyEff d a fun s => put d 0 s)

/-- `cpyq` (R165). -/
def execCpyq (d : Reg) (s : State) : Host.Outcome State Fault Refusal :=
  retire (.cpyq d) s fun s =>
    let n := s.me.copies.length
    put d (BitVec.ofNat 64 (16 - n + n * 256)) s

/-! ## The checks of a request -/

/-- The request words break R165 by themselves. -/
def CReq.wordsBad (q : CReq) : Bool :=
  decide (7 < q.mode) || decide (3 < bits q.w0 56 4) || bits q.w3 53 11 != 0 ||
    ((q.mode == 0 || q.mode == 7) && q.blk != 0) || q.len % q.elem != 0 ||
    (q.mode != 7 && q.w1.toNat % q.elem != 0) || q.w2.toNat % q.elem != 0

/-- A power of two up to 65,536. -/
def pow2Ok (n : Nat) : Bool := decide (1 ≤ n ∧ n ≤ 65536) && 2 ^ Nat.log2 n == n

/-- The block breaks Table 5 of spec/08, R217 or R219. DESIGN CHOICE (notes/assumptions/43): a width or height of a T.6 image outside 1 to 16,384,
for which R219 names no class, breaks the block (COPY-PARAM). -/
def CReq.blockBad (q : CReq) : Bool :=
  let e := q.elem
  match q.mode with
  | 1 => q.b 3 != 0 || bits (q.b 0) 0 32 * bits (q.b 0) 32 32 != q.len || bits (q.b 0) 32 32 % e != 0 ||
      (q.b 1).toNat % e != 0 || (q.b 2).toNat % e != 0
  | 2 =>
    let h := bits (q.b 1) 16 8
    let w := bits (q.b 1) 24 8
    q.b 3 != 0 || bits (q.b 0) 62 2 != 0 || bits (q.b 0) 0 2 != 0 || !decide (1 ≤ h ∧ h ≤ 64 ∧ 1 ≤ w ∧ w ≤ 64) ||
      bits (q.b 1) 0 16 * h * w * e != q.len || bits (q.b 1) 32 32 % e != 0
  | 3 | 4 =>
    let h := bits (q.b 0) 0 32
    let w := bits (q.b 0) 32 32
    q.b 2 != 0 || q.b 3 != 0 || !pow2Ok h || !pow2Ok w || h * w * e != q.len || (q.b 1).toNat % e != 0
  | 5 =>
    let n := bits (q.b 0) 0 32
    q.b 2 != 0 || q.b 3 != 0 || bits (q.b 0) 32 32 != 0 || n == 0 || n % 64 != 0 || q.len % n != 0 ||
      bits q.pattern 16 8 == 0 || bits q.w2 20 44 != 0 || (q.b 1).toNat % 64 != 0
  | 6 =>
    let std := bits (q.b 0) 0 4
    q.b 3 != 0 || decide (1 < std) || bits (q.b 0) 5 11 != 0 || bits (q.b 0) 32 32 != 0 || bits (q.b 0) 16 16 == 0 ||
      bits (q.b 1) 32 32 != 0 || (std == 1 && q.b 1 != 0) ||
      (std == 0 && !decide (1 ≤ bits (q.b 1) 0 16 ∧ bits (q.b 1) 0 16 ≤ 16384 ∧ 1 ≤ bits (q.b 1) 16 16 ∧ bits (q.b 1) 16 16 ≤ 16384))
  | _ => false

/-! ## Elements -/

/-- Where an element comes from. -/
inductive Src where
  | at_ (a : Word)
  | const (w : Word)
deriving DecidableEq, Repr

/-- Where an element goes: an address, or an offset of a core of a virtual cluster (R217). -/
inductive Dst where
  | at_ (a : Word)
  | core (vc core off : Nat)
deriving DecidableEq, Repr

/-- Bits of x and y interleaved below a count, x first (R166). -/
def interleave (x y : Nat) : Nat → Nat
  | 0 => 0
  | n + 1 => interleave x y n + (x / 2 ^ n % 2) * 4 ^ n + (y / 2 ^ n % 2) * (2 * 4 ^ n)

/-- The Morton index of element (y, x) of an H × W array (R166). -/
def mortonIndex (h w y x : Nat) : Nat :=
  let k := Nat.log2 (min h w)
  interleave x y k + (if w ≥ h then x / 2 ^ k else y / 2 ^ k) * 4 ^ k

/-- The elements of a request of modes 0 to 5 and 7, in the order of its rows, tiles or blocks (R166, R217, R218). -/
def CReq.elements (q : CReq) : List (Src × Dst) :=
  let e := q.elem
  match q.mode with
  | 0 => (List.range (q.len / e)).map fun i => (.at_ (plus q.w1 (i * e)), .at_ (plus q.w2 (i * e)))
  | 7 => (List.range (q.len / e)).map fun i => (.const q.w1, .at_ (plus q.w2 (i * e)))
  | 1 =>
    (List.range (bits (q.b 0) 0 32)).flatMap fun r => (List.range (bits (q.b 0) 32 32 / e)).map fun i =>
      (.at_ (plus (q.w1 + BitVec.ofNat 64 r * q.b 1) (i * e)), .at_ (plus (q.w2 + BitVec.ofNat 64 r * q.b 2) (i * e)))
  | 2 =>
    let h := bits (q.b 1) 16 8
    let w := bits (q.b 1) 24 8
    let pitch := bits (q.b 1) 32 32
    (List.range (bits (q.b 1) 0 16)).flatMap fun j =>
      let c := q.coords.getD j 0
      let y := bits c 0 16
      let x := bits c 16 16
      (List.range h).flatMap fun a => (List.range w).map fun b =>
        (if y + a ≥ bits (q.b 2) 0 32 ∨ x + b ≥ bits (q.b 2) 32 32 then Src.const 0
          else .at_ (plus q.w1 ((y + a) * pitch + (x + b) * e)),
         .at_ (plus q.w2 (((j * h + a) * w + b) * e)))
  | 3 | 4 =>
    let h := bits (q.b 0) 0 32
    let w := bits (q.b 0) 32 32
    (List.range h).flatMap fun y => (List.range w).map fun x =>
      let row (base : Word) : Word := plus (base + BitVec.ofNat 64 y * q.b 1) (x * e)
      let mor (base : Word) : Word := plus base (mortonIndex h w y x * e)
      if q.mode = 3 then (.at_ (row q.w1), .at_ (mor q.w2)) else (.at_ (mor q.w1), .at_ (row q.w2))
  | 5 =>
    let n := bits (q.b 0) 0 32
    let cores := bits q.pattern 16 8
    let Q := (maskCores cores).length * (bits q.pattern 24 13 + 1)
    (List.range (q.len / n)).flatMap fun j =>
      let t := positionOf (bits q.pattern 37 13) cores (j % Q)
      let off := (BitVec.ofNat 64 (bits q.w2 0 20) + BitVec.ofNat 64 (j / Q) * q.b 1).toNat
      (List.range (n / e)).map fun i => (.at_ (plus q.w1 (j * n + i * e)), .core t.1 t.2 (off + i * e))
  | _ => []

/-- The path of a request's accesses: intake for page images, copy for all else (Table 5 of spec/06, R222). -/
def CReq.path (q : CReq) : Nat := if q.mode = 6 then 4 else 1

/-- The tag of a request's records (R153). -/
def CReq.tag (q : CReq) : Nat := q.promise.toNat % 2 ^ 32

/-- What the unit acts for. -/
def CReq.engine (q : CReq) (r : CoreRef) : EngineOf := ⟨r, ⟨q.path, q.seq, q.tag⟩, q.recq⟩

/-- Write an element. DESIGN CHOICE (notes/assumptions/43): for a block whose virtual cluster is absent and whose offset lies beyond the store, the
record is LOCAL-BOUNDS, as for any address, and MESH where the offset fits. -/
def writeElem (s : State) (e : EngineOf) (last : Bool) (k size : Nat) (d : Dst) (w : Word) : ERes × State :=
  match d with
  | .at_ a => engineWrite s e last k size w a
  | .core vc c off =>
    if vc ≥ 8192 then (.fault tMESH (meshAddr vc c 0) (meshAddr vc c 0), s)
    else if off + size > 0x40000 then (.fault tLOCALBOUNDS (meshAddr vc c (off % 2 ^ 20)) (meshAddr vc c (off % 2 ^ 20)), s)
    else engineWrite s e last k size w (meshAddr vc c off)

/-- Elements moved, and the one that has been read and not yet written. -/
structure Moved where
  n : Nat
  got : Option Word
deriving DecidableEq, Repr

/-- Read the element that comes next, unless it has been read. -/
def readElem (s : State) (e : EngineOf) (k size : Nat) (a : Src) (got : Option Word) : ERes × State :=
  match got, a with
  | some w, _ => (.ok w, s)
  | none, .const w => (.ok w, s)
  | none, .at_ a => engineRead s e k size a

/-- Move the elements of a list, as many as a number says; what a fault follows stays written (R165), and a wait leaves off at its element. -/
def moveAll (e : EngineOf) (last : Bool) (size : Nat) : List (Src × Dst) → Nat → Nat → Moved → State → Work × Moved
  | [], _, _, m, s => (.done s, m)
  | (a, d) :: t, b, k, m, s =>
    match b with
    | 0 => (.part s, m)
    | b + 1 => match readElem s e k size a m.got with
      | (.ok w, s1) =>
        (match writeElem s1 e last (k + 1) size d w with
        | (.ok _, s2) => moveAll e last size t b (k + 2) ⟨m.n + 1, none⟩ s2
        | (x, s2) => (Work.of s2 x, ⟨m.n, some w⟩))
      | (x, s1) => (Work.of s1 x, m)

/-! ## Page intake (R219 to R222) -/

/-- Read the bytes of a compressed image, an element at a time, as many elements as the second number says. -/
def readImage (e : EngineOf) (size : Nat) (a : Word) : Nat → Nat → Nat → State → List Byte → Work × List Byte
  | 0, _, _, s, l => (.done s, l)
  | n + 1, b, k, s, l =>
    match b with
    | 0 => (.part s, l)
    | b + 1 => match engineRead s e k size (plus a l.length) with
      | (.ok w, s1) => readImage e size a n b (k + 1) s1 (l ++ bytesLE w.toNat size)
      | (x, s1) => (Work.of s1 x, l)

/-- A sample of an image. -/
def sampleAt (m : Config.Image) (y x c : Nat) : Nat := (m.px.getD ((y * m.w + x) * m.c + c) 0).toNat

/-- A sample at level l: the average of its box, halves rounded up (R220). -/
def boxAt (m : Config.Image) (l y x c : Nat) : Nat :=
  let ys := (List.range (2 ^ l)).filter fun i => decide (y * 2 ^ l + i < m.h)
  let xs := (List.range (2 ^ l)).filter fun i => decide (x * 2 ^ l + i < m.w)
  let n := ys.length * xs.length
  let sum := ys.foldl (fun t i => xs.foldl (fun t j => t + sampleAt m (y * 2 ^ l + i) (x * 2 ^ l + j) c) t) 0
  if n = 0 then 0 else (2 * sum + n) / (2 * n)

/-- W′, H′, gx and gy at a level for patches of P pixels (R220). -/
def gridOf (m : Config.Image) (p l : Nat) : Nat × Nat × Nat × Nat :=
  let w := ceilDiv m.w (2 ^ l)
  let h := ceilDiv m.h (2 ^ l)
  (w, h, ceilDiv w p, ceilDiv h p)

/-- The smallest level whose grid fits a budget (R220). -/
def levelFor (m : Config.Image) (p b : Nat) : Option Nat :=
  (List.range 4).find? fun l => let g := gridOf m p l; decide (g.2.2.1 * g.2.2.2 ≤ b)

/-- The words of an intake header (R221). -/
def intakeHeader (m : Config.Image) (p l : Nat) : List Word :=
  let g := gridOf m p l
  [BitVec.ofNat 64 (g.1 + g.2.1 * 2 ^ 16 + g.2.2.1 * 2 ^ 32 + g.2.2.2 * 2 ^ 48),
   BitVec.ofNat 64 (m.c + l * 256 + (if p = 32 then 2 ^ 12 else 0) + g.2.2.1 * g.2.2.2 * 2 ^ 16),
   BitVec.ofNat 64 (m.w + m.h * 2 ^ 16), 0, 0, 0, 0, 0]

/-- The bytes of the patches (R221). -/
def patchBytes (m : Config.Image) (p l : Nat) : List Byte :=
  let g := gridOf m p l
  (List.range g.2.2.2).flatMap fun gy => (List.range g.2.2.1).flatMap fun gx =>
    (List.range p).flatMap fun a => (List.range p).flatMap fun b => (List.range m.c).map fun c =>
      let y := gy * p + a
      let x := gx * p + b
      if y ≥ g.2.1 ∨ x ≥ g.1 then (0 : Byte) else BitVec.ofNat 8 (boxAt m l y x c)

/-- Decode an image: the image, or the offset where the decoder stopped (R219). -/
def decodeImage (q : CReq) (l : List Byte) : Except Nat Config.Image :=
  if bits (q.b 0) 0 4 = 1 then
    match jpegDecode l with
    | .error o => .error o
    | .ok (f, planes) => .ok (jpegImage f planes)
  else
    let w := bits (q.b 1) 0 16
    let h := bits (q.b 1) 16 16
    match t6Decode w l with
    | .error o => .error o
    | .ok (rows, o) => if rows.length = h then .ok (t6Image w h rows) else .error o

/-- The size of the writes of an intake header: doublewords at an aligned destination, else bytes. -/
def headerSize (a : Word) : Nat := if a.toNat % 8 = 0 then 8 else 1

/-- The writes of an intake header at a destination (R221). -/
def headerWrites (a : Word) (ws : List Word) : List (Src × Dst) :=
  if headerSize a = 8 then (List.range 8).map fun i => (Src.const (ws.getD i 0), Dst.at_ (plus a (8 * i)))
  else
    let l := ws.flatMap fun w => bytesLE w.toNat 8
    (List.range 64).map fun i => (Src.const ((l.getD i 0).zeroExtend 64), Dst.at_ (plus a i))

/-- What an intake writes: its patches and its header, or the record that ends it (R219 to R221). -/
def intakeWrites (q : CReq) : Except (Nat × Word × Word) (List (Src × Dst) × List (Src × Dst)) :=
  let p := if bit (q.b 0) 4 then 32 else 16
  match decodeImage q q.image with
  | .error o => .error (kINTAKESTREAM, q.w1, BitVec.ofNat 64 o)
  | .ok m => match levelFor m p (bits (q.b 0) 16 16) with
    | none => .error (kINTAKESTREAM, q.w1, 0)
    | some lv =>
      let body := patchBytes m p lv
      if 64 + body.length > (q.b 2).toNat then .error (kCOPYPARAM, q.w1, q.w0)
      else .ok (
        (List.range body.length).map (fun i => (Src.const ((body.getD i 0).zeroExtend 64), Dst.at_ (plus q.w2 (64 + i)))),
        headerWrites q.w2 (intakeHeader m p lv))

/-- A request with what a step has moved. -/
def CReq.progress (q : CReq) (m : Moved) : CReq := { q with moved := m.n, got := m.got }

/-- The `CYC` of the first RETRY at the access at which a request stands: none once it has gone on since then (R230). -/
def CReq.sinceFor (q q1 : CReq) : Option Word :=
  if q1.moved = q.moved ∧ q1.got = q.got ∧ q1.image.length = q.image.length then q.since else none

/-- A page intake: it reads the image, writes the patches, and the header last (R221). -/
def intake (s : State) (r : CoreRef) (q : CReq) : Work × CReq :=
  let e := q.engine r
  let b := Config.portion s.free + 1
  match readImage e q.elem q.w1 (q.len / q.elem - q.image.length / q.elem) b q.image.length s q.image with
  | (.done s1, l) =>
    let q1 : CReq := { q with image := l }
    (match intakeWrites q1 with
    | .error (c, a, d) => (.fault s1 c a d, q1)
    | .ok (px, hd) =>
      let k := q.len + 2 * q.moved
      match moveAll e false 1 (px.drop q.moved) b k ⟨q.moved, q.got⟩ s1 with
      | (.done s2, m) =>
        let x := moveAll e true (headerSize q.w2) (hd.drop (m.n - px.length)) b (q.len + 2 * m.n) m s2
        (x.1, q1.progress x.2)
      | (x, m) => (x, q1.progress m))
  | (x, l) => (x, { q with image := l })

/-! ## Steps -/

/-- The unit of a request's records: intake for page images, copy for all else (R153, R219). -/
def CReq.unit (q : CReq) (cls : Nat) : Nat := if q.mode = 6 && cls != kCOPYPARAM then uIntake else uCopy

/-- Drop the request at a place of a core's FIFO. -/
def State.dropCopy (s : State) (r : CoreRef) (n : Nat) : State :=
  s.updCore r fun c => { c with copies := dropAt c.copies n }

/-- Replace the request at a place of a core's FIFO. -/
def State.setCopy (s : State) (r : CoreRef) (n : Nat) (q : CReq) : State :=
  s.updCore r fun c => { c with copies := setAt c.copies n q }

/-- A request ends with a fault: record, then mark (R153, R154, R254). -/
def State.failCopy (s : State) (r : CoreRef) (n : Nat) (q : CReq) (cls : Nat) (addr detail : Word) : State :=
  (s.recordMark r q.recq q.tag (q.unit cls) cls addr detail (some q.counter)).dropCopy r n

/-- A request waits where it stands on a RETRY or back-off reply, which R230 limits (R230, R334). -/
def State.delayCopy (s : State) (r : CoreRef) (n : Nat) (q : CReq) (since : Option Word) (x : ERes) : State :=
  match retryOf s.cyc since x with
  | .error a => s.failCopy r n q tMESH a a
  | .ok (since, till) => s.setCopy r n { q with since := since, till := till }

/-- The next core in the cyclic order whose first request that has not started may start (R214). -/
def Cluster.copyTurn (k : Cluster) : Option (Nat × Nat) :=
  let running (j : Nat) : Nat := ((k.core j).copies.filter fun q => q.started).length
  let total := (List.range 8).foldl (fun n j => n + running j) 0
  if total ≥ 16 then none
  else (cyclic k.lastCopy).findSome? fun j =>
    if running j ≥ 4 ∨ (k.core j).run = .sealed then none
    else ((k.core j).copies.findIdx? fun q => !q.started).map fun i => (j, i)

/-- Read 32-bit coordinates of a gather from the own store (R218). -/
def readCoords (s : State) (r : CoreRef) (q : CReq) : Option ERes × State × List Word :=
  if q.mode = 2 then
    let x := readOn (fun s k a => engineRead s (q.engine r) k 4 a) (q.b 0) 0 (bits (q.b 1) 0 16) 0 [] s
    (x.1, x.2.1, x.2.2.map fun w => w.zeroExtend 64)
  else (none, s, [])

/-- The copy unit starts a request (R165, R214): it checks the counter and the words, and reads the parameter block and the
coordinate list. -/
def execCopyStart (r : CoreRef) (s : State) : Host.Outcome State Fault Refusal :=
  let k := s.cluster r.cl
  match (if k.evict = .none then k.copyTurn else none) with
  | none => .next s
  | some (j, i) =>
    if j ≠ r.core ∨ s.drained r 6 = false then .next s
    else
      let c := s.core r
      match c.copies[i]? with
      | none => .next s
      | some q => if s.cyc < q.till then .next s else
        let s0 := s.updCluster r.cl fun k => { k with lastCopy := j }
        let fail (cls : Nat) (a d : Word) : State := s0.failCopy r i q cls a d
        let o := q.blk.toNat
        if (k.core q.counter.1).run = .sealed then .next (fail tREMOTEERROR (meshAddr k.vc q.counter.1 q.counter.2) (meshAddr k.vc q.counter.1 0))
        else match s.counterRetry r.cl q.counter with
        | some x => .next (s0.delayCopy r i q q.since x)
        | none =>
        if s.counterFits r.cl q.counter = false ∨ q.wordsBad = true then .next (fail kCOPYPARAM 0 q.w0)
        else if q.len = 0 ∨ q.needsBlock = false then .next (s0.setCopy r i { q with started := true, seed := s.free, since := none, till := 0 })
        else if c.blockOk q.blk = false then .next (fail kCOPYPARAM 0 q.w0)
        else if c.store.poisoned o 32 then .next (fail tPOISON q.blk 0)
        else
          let q1 : CReq := { q with started := true, seed := s.free, block := c.store.words o 4, since := none, till := 0 }
          if q1.blockBad then .next (fail kCOPYPARAM 0 q.w0)
          else match readCoords s0 r q1 with
            | (none, s1, l) => .next (s1.setCopy r i { q1 with coords := l })
            | (some (.fault cls a d), s1, _) => .next (s1.failCopy r i q cls a d)
            | (some x, s1, _) => .next (s1.delayCopy r i q q.since x)

/-- What a request moves in a step (R166): elements in an order that nothing fixes, but blocks of a distribution in source order (R165, R217),
and as many of them as nothing fixes either (notes/assumptions/14). -/
def copyWork (s : State) (r : CoreRef) (q : CReq) : Work × CReq :=
  if q.len = 0 then (.done s, q)
  else if q.mode = 6 then intake s r q
  else
    let l := q.elements
    let l := if q.mode = 5 then l else arrange q.seed l.length l
    let x := moveAll (q.engine r) false q.elem (l.drop q.moved) (Config.portion s.free + 1) (2 * q.moved) ⟨q.moved, q.got⟩ s
    (x.1, q.progress x.2)

/-- A request has moved all of its data: its counter is added to in its turn, or a record says that the counter's core has been sealed (R154,
R230, R324). -/
def State.completeCopy (s : State) (r : CoreRef) (n : Nat) (q : CReq) (since : Option Word) : State :=
  let k := s.cluster r.cl
  if (k.core q.counter.1).run = .sealed then
    s.failCopy r n q tREMOTEERROR (meshAddr k.vc q.counter.1 q.counter.2) (meshAddr k.vc q.counter.1 0)
  else if k.addBefore r.core q.seq q.counter then s.setCopy r n q
  else match s.counterRetry r.cl q.counter with
    | some x => s.delayCopy r n q since x
    | none =>
      if s.counterPoisoned r.cl q.counter then s.failCopy r n q tPOISON (meshAddr k.vc q.counter.1 q.counter.2) 0
      else (s.addCounter r.cl q.counter q.len).dropCopy r n

/-- A request moves data that is left, and with the last of it completes and adds to its counter, or ends with a fault and marks it (R154,
R165); `n` is its place among the requests of the core. A RETRY or back-off reply delays it where it stands (R230, R334). -/
def execCopyEnd (r : CoreRef) (n : Nat) (s : State) : Host.Outcome State Fault Refusal :=
  match (s.core r).copies[n]? with
  | none => .next s
  | some q =>
    if q.started = false ∨ s.cyc < q.till ∨ (s.cluster r.cl).evict = .streaming then .next s
    else match copyWork s r q with
      | (.done s1, q1) => .next (s1.completeCopy r n q1 (q.sinceFor q1))
      | (.part s1, q1) => .next (s1.setCopy r n { q1 with since := none })
      | (.fault s1 cls a d, q1) => .next (s1.failCopy r n q1 cls a d)
      | (.wait s1 x, q1) => .next (s1.delayCopy r n q1 (q.sinceFor q1) x)

end Sys2Proof.Machine
end

