-- ==== Sys2Proof/Machine/Guests.lean ====
section
/-! DEFINITION. Requests of the host and of peer modules as they are performed: their order (R252, R253, R306), the banks that send them back
(R334), and what they do at HBM (R307, R312, R313, R318). -/
namespace Sys2Proof.Machine

/-! ## Lines and bytes -/

/-- The 64-byte lines of a range. -/
def linesOf (a n : Nat) : List Nat := if n = 0 then [] else (List.range ((a + n - 1) / 64 - a / 64 + 1)).map fun i => (a / 64 + i) * 64

/-- The first line of a range that meets a blocked bank, with the end of the block (R334). -/
def State.lineBlocked (s : State) (a n : Nat) : Option (Nat × Word) := (linesOf a n).findSome? fun l => (s.backsOff l).map fun t => (l, t)

/-- The bursts of a request of the host or a peer, which allocates no line (R307): one that meets a block begun meanwhile is sent back and comes
again at its end (R334). -/
def State.guestBursts (s : State) (a n : Nat) : State :=
  (linesOf a n).foldl (fun (s : State) l => (s.waitOut l none s.blockFuel).burst l 1) s

/-- Bytes with byte enables, from an address. -/
def putEnabled (m : Memory) (a : Nat) : List (Option Byte) → Memory
  | [] => m
  | none :: t => putEnabled m (a + 1) t
  | some b :: t => putEnabled (m.set a b) (a + 1) t

/-- The words of a range all of whose 8 bytes are written lose their poison (R307, R318). -/
def unmarkEnabled (m : Memory) (a : Nat) (l : List (Option Byte)) : Memory :=
  { m with poison := m.poison.filter fun w => !(decide (a ≤ 8 * w ∧ 8 * w + 8 ≤ a + l.length) &&
      (List.range 8).all fun i => ((l.getD (8 * w - a + i) none).isSome)) }

/-! ## What a request does -/

/-- A read of the host or a peer: its data, with whether a word of it is poisoned (R307). -/
def State.guestRead (s : State) (a n : Nat) : State :=
  let t := (s.guestBursts a n).meetsPoison s a n
  t.say (.readData (t.hbm.bytes a n) (t.hbm.poisoned a n))

/-- A write of the host or a peer with byte enables (R307). -/
def State.guestWrite (s : State) (a : Nat) (bytes : List (Option Byte)) : State :=
  let t := s.guestBursts a bytes.length
  { t with hbm := unmarkEnabled (putEnabled t.hbm a bytes) a bytes }.say .done

/-- An AtomicOp of the host: on a poisoned word it completes with Completer Abort and writes nothing (R307). -/
def State.hostAmo (s : State) (a fn size : Nat) (b d : Word) : State :=
  let t := (s.guestBursts a size).meetsPoison s a size
  match memAccess t.hbm (.amo fn size b d) a 0 with
  | (.value w _, m) => { t with hbm := m }.say (.atomic w)
  | (_, _) => t.say .abort

/-- The answer to a peer's atomic. -/
def peerReply (x : Resp) : Reply := match x with | .value w _ => .atomic w | _ => .readData [] true

/-- What the deduplication table answers to a peer's atomic at once: its recorded result, that its tag has expired, or that it is to be tried
again while the table is full (R116, R313). -/
def State.peerKnown (s : State) (m core tag : Nat) (reissue : Bool) : Option Reply :=
  match s.lookup ownerModule m core tag reissue with
  | .recorded x => some (peerReply x)
  | .expired => some .expired
  | .fresh => if s.dedupFull then some .retry else none

/-- A peer's atomic is performed once under its tag and recorded (R116, R313). -/
def State.peerAmo (s : State) (m core tag fn size a : Nat) (b d : Word) (reissue : Bool) : State :=
  match s.peerKnown m core tag reissue with
  | some x => s.say x
  | none =>
    let t := (s.guestBursts a size).meetsPoison s a size
    let x := memAccess t.hbm (.amo fn size b d) a 0
    (({ t with hbm := x.2 } : State).remember ownerModule m core tag x.1).say (peerReply x.1)

/-- A request is performed. -/
def State.serve (s : State) (g : Guest) : State :=
  match g.op with
  | .read n => s.guestRead g.a n
  | .write l => s.guestWrite g.a l
  | .amo fn size b d tag =>
    (match g.peer, tag with
    | some m, some (core, t, again) => s.peerAmo m core t fn size g.a b d again
    | _, _ => s.hostAmo g.a fn size b d)
  | .window op => s.hostWindow g.a op

/-! ## Order and back-off -/

/-- Bytes of HBM that a request touches. -/
def Guest.bytes (g : Guest) : Nat :=
  match g.op with
  | .read n => n
  | .write l => l.length
  | .amo _ n _ _ _ => n
  | .window _ => 0

/-- The port by which a request of a peer to an address comes: the peer chooses it as R310 says, among as many links as lead to it from here
(DEDUCED, notes/assumptions/20). -/
def State.portFrom (s : State) (m a : Nat) : Nat := a / 4096 % 256 % ((List.range 36).filter fun i => s.routeMask m / 2 ^ i % 2 == 1).length

/-- An earlier request is performed before a later one: of the host, one of the same service core (R252, R306); of a peer, one by the same port,
or one that was backed off in a bank that the later one needs (R253, R334; notes/assumptions/20). -/
def Guest.precedes (s : State) (g h : Guest) : Bool :=
  match g.peer, h.peer with
  | none, none => g.svc == h.svc
  | some m, some n => m == n && (s.portFrom m g.a == s.portFrom m h.a ||
      (g.backed && (linesOf g.a g.bytes).any fun x => (linesOf h.a h.bytes).any fun y => sameBank x y))
  | _, _ => false

/-- A request is answered with a back-off reply, which counts at no core, where a bank that it needs is blocked (R334). -/
def State.guestBlocked (s : State) (g : Guest) : Option (Nat × Word) := s.lineBlocked g.a g.bytes

/-- A request that has arrived waits behind an earlier one, is sent back by a blocked bank and kept, or is performed. -/
def State.arrive (s : State) (g : Guest) : State :=
  if s.guests.any fun x => x.precedes s g then { s with guests := s.guests ++ [g] }
  else match s.guestBlocked g with
    | some (l, t) => { s.backoffReply l none with guests := s.guests ++ [{ g with backed := true, till := t }] }
    | none => s.serve g

/-- A request that waits is tried: once no earlier one precedes it. -/
def State.tryGuest (s : State) (i : Nat) : State :=
  match s.guests[i]? with
  | none => s
  | some g =>
    if g.till ≠ 0 ∨ (s.guests.take i).any (fun x => x.precedes s g) = true then s
    else match s.guestBlocked g with
      | some (l, t) => { s.backoffReply l none with guests := setAt s.guests i { g with backed := true, till := t } }
      | none => ({ s with guests := dropAt s.guests i } : State).serve g

/-- A request that was backed off comes again at the cycle at which the block ends (R334). -/
def State.reissueGuest (s : State) (i : Nat) : State :=
  match s.guests[i]? with
  | none => s
  | some g => if g.till ≤ s.cyc then { s with guests := setAt s.guests i { g with till := 0 } } else s

end Sys2Proof.Machine
end

