-- ==== Sys2Proof/Machine/Homes.lean ====
section
/-! DEFINITION. Accesses and posted items on their way: translation (R289 to R291), the bank controller and the home controller
(R69 to R75, R114, R167, R230, R235, R245, R331 to R334), RETRY and back-off (R107, R230, R334), tags (R116, R313), lost links (R251,
R311) and the answer at the requester (R72, R105). -/
namespace Sys2Proof.Machine

/-! ## Items in flight -/

/-- Two items have one source: a core or a station, by its core path or by one of its engines. -/
def Flight.sameSrc (f g : Flight) : Bool :=
  f.src == g.src && f.fromStation == g.fromStation && f.eng.map (·.path) == g.eng.map (·.path)

/-- Two items go from one source to one destination core. -/
def Flight.sameWay (f g : Flight) : Bool := f.sameSrc g && f.slot == g.slot && f.vc == g.vc && f.core == g.core

/-- The physical address of a posted global store. -/
def Flight.phys (f : Flight) : Option Nat := match f.body with | .gstore p _ _ => some p | _ => none

/-- Two physical addresses lie in one bank of this module. -/
def State.oneBank (s : State) (p q : Nat) : Bool :=
  match ownHbm s p, ownHbm s q with
  | some a, some b => sameBank a b
  | _, _ => false

/-- Two requests that leave the module keep their order: both to the host, or to another module by one port (R252, R253, R310). -/
def State.oneLink (s : State) (p q : Nat) : Bool :=
  (match s.homeOf p, s.homeOf q with
  | .host _, .host _ => true
  | _, _ => false) || s.onePort p q

/-- A posted global store that a request of the same source and command stays behind: one that shares a word with it (R240), one that leaves
by the same link (R252, R253), or one that was backed off in the same bank (R334). One that has been sent holds nothing up: what leaves after
it arrives after it. -/
def Flight.holds (s : State) (f : Flight) (e : Option EngineWrite) (p : Nat) (op : AccOp) : Bool :=
  match f.body with
  | .gstore q x _ =>
    !f.isSent && ((f.eng == e && (s.overlap q x p op || s.oneLink q p)) || (f.isBacked && s.oneBank q p))
  | _ => false

/-- An earlier item keeps its order before a later one (R169, R217, R245, R251), of whatever source where both leave by one port (R253). -/
def Flight.ordered (s : State) (f g : Flight) : Bool :=
  match g.body with
  | .gstore p op _ => (f.sameSrc g && f.holds s g.eng p op) || f.leavesBefore s p
  | _ => f.phys.isNone && f.sameWay g && f.chan == g.chan && f.eng == g.eng

/-- A release waits for an earlier item of its source (R111, R250), and the last write of a page intake for the request's others (R221). -/
def Flight.awaited (s : State) (f g : Flight) : Bool :=
  match g.rel with
  | some sc => f.sameSrc g && (if g.eng.isSome then f.eng == g.eng else f.covered s sc)
  | none => false

/-- An earlier item is performed before a later one. -/
def Flight.precedes (s : State) (f g : Flight) : Bool := f.ordered s g || f.awaited s g

/-- AMOs that were issued before an item and have not yet left by its port (R253). -/
def State.amoBefore (s : State) (g : Flight) : Bool :=
  match g.body with
  | .gstore p _ _ => s.amoLeaves p fun t => decide (t < g.issue)
  | _ => false

/-- The item at a place may be performed. -/
def State.mayGo (s : State) (i : Nat) (g : Flight) : Bool := (s.flight.take i).all (fun f => !f.precedes s g) && !s.amoBefore g

/-- Drop the item at a place. -/
def State.dropFlight (s : State) (i : Nat) : State := { s with flight := dropAt s.flight i }

/-- Replace the item at a place. -/
def State.setFlight (s : State) (i : Nat) (f : Flight) : State := { s with flight := setAt s.flight i f }

/-- The tag of an item's record (R153). -/
def Flight.tag (f : Flight) : Nat :=
  match f.eng, f.body with
  | some e, _ => e.tag
  | none, .msg it => bits (it.headD 0) 32 32
  | none, _ => 0

/-- The unit of an item's record: an engine's for its write, else the one that is given (R153). -/
def Flight.unit (f : Flight) (unit : Nat) : Nat :=
  match f.eng with
  | some e => if e.path = 3 then uRule else if e.path = 4 then uIntake else uCopy
  | none => unit

/-- ADDR of an item's record (R153). -/
def Flight.recAddr (f : Flight) : Word := match f.body with | .msg _ => 0 | _ => f.addr

/-- A record at the source of an item, while the launch that posted it is there (R296); none for a station's, or for a record on its way. -/
def State.recordFor (s : State) (f : Flight) (unit cls : Nat) (detail : Word) : State :=
  let gone := match f.body with | .record _ => true | _ => f.fromStation || (s.cluster f.src.cl).launch != f.launch
  if gone then s else s.record f.src f.recq f.tag (f.unit unit) cls f.recAddr detail

/-- Drop the item at a place with a record at its source (R72, R107, R168, R230, R251). -/
def State.lose (s : State) (i : Nat) (f : Flight) (unit cls : Nat) (detail : Word) : State :=
  (s.dropFlight i).recordFor f unit cls detail

/-- DETAIL of a MESH record: the address as issued, or the header (R153). -/
def Flight.meshDetail (f : Flight) : Word := match f.body with | .msg it => it.headD 0 | _ => f.addr

/-- Items that the router of a cluster holds at most because they were answered RETRY (R300). -/
def outboundMax : Nat := 32

/-- A posted item of a launch's cores on a cluster: neither a station's nor an engine's. -/
def Flight.outboundOf (f : Flight) (cl launch : Nat) : Bool := !f.fromStation && f.eng.isNone && f.src.cl == cl && f.launch == launch

/-- The router of an item's cluster holds as many items as it can (R300). -/
def State.routerFull (s : State) (f : Flight) : Bool :=
  !f.fromStation && f.eng.isNone &&
    decide (outboundMax ≤ (s.flight.filter fun g => g.outboundOf f.src.cl f.launch && match g.stage with | .retry _ => true | _ => false).length)

/-- Send an item back with RETRY (R75, R230, R294): its router holds it, or, when that is full, it stays on its way (R300;
notes/assumptions/26). -/
def State.retryFlight (s : State) (i : Nat) (f : Flight) (limited : Bool) : State :=
  s.setFlight i { f with
    stage := if s.routerFull f then f.stage else .retry limited
    since := if limited then some (f.since.getD s.cyc) else f.since }

/-- Where a request for a core of a context goes: nowhere, back with RETRY while it moves or streams (R294, R299), or to its core. -/
inductive Way where
  | absent
  | retry
  | core (t : CoreRef)
deriving DecidableEq, Repr

/-- The way of a request of a cluster. -/
def State.wayTo (s : State) (slot vc core from_ : Nat) : Way :=
  match meshTarget s slot vc core with
  | none => .absent
  | some (t, moving) =>
    if (moving && t.cl != from_) || (s.cluster t.cl).evict == .streaming then .retry else .core t

/-- The way of an item: a context that has taken the slot over from the item's own is no place for it (R296). -/
def State.wayOf (s : State) (f : Flight) (from_ : Nat) : Way :=
  match afind s.contexts f.slot with
  | some x => if x.pid = f.pid then s.wayTo f.slot f.vc f.core from_ else .absent
  | none => s.wayTo f.slot f.vc f.core from_

/-- Perform a posted store, flag request or record at its core. -/
def State.performPosted (s : State) (i : Nat) (f : Flight) (t : CoreRef) : State :=
  let c := s.core t
  let sealed := meshAddr f.vc f.core 0
  match f.body with
  | .flag n v => if c.run = .sealed then s.lose i f uMesh tREMOTEERROR sealed else (s.dropFlight i).updCore t fun c => c.setFlag n v
  | .store off op =>
    if c.run = .sealed then s.lose i f uMesh tREMOTEERROR sealed
    else if 0x40000 ≤ off then (s.dropFlight i).updCore t fun _ => (flagAccess c op (off - 0x40000) f.addr).2
    else if (c.bank (off / 0x4000)).converting then s.retryFlight i f true
    else if c.hit off op.size = .plain then
      ((s.dropFlight i).updCore t fun _ => { c with store := (memAccess c.store op off 0).2 }).updCluster f.src.cl fun k =>
        if t.cl = f.src.cl ∧ f.eng = none then k.ownStore f.src.core t.core off else k
    else s.lose i f uBank tBANKPORT ((c.bank (off / 0x4000)).pers.zeroExtend 64)
  | .record it => (s.dropFlight i).pushRecord t ⟨f.recq, it, none⟩
  | _ => s

/-! ## Outstanding accesses -/

/-- The outstanding access of a core. -/
def State.pendOf (s : State) (r : CoreRef) : Option Access := (s.core r).pend

/-- Move an outstanding access on. -/
def State.setPend (s : State) (r : CoreRef) (a : Access) : State := s.updCore r fun c => { c with pend := some a }

/-- Give an access its answer. -/
def State.answerPend (s : State) (r : CoreRef) (a : Access) (x : Resp) : State := s.setPend r { a with stage := .answered x }

/-- Send an access back with RETRY. -/
def State.retryPend (s : State) (r : CoreRef) (a : Access) (limited : Bool) : State :=
  s.setPend r { a with stage := .retry limited, since := if limited then some (a.since.getD s.cyc) else a.since }

/-- Posted items of a core to a destination core on channel 0, which its later accesses there stay behind (R72, R245). -/
def State.postedBefore (s : State) (r : CoreRef) (vc core : Nat) : Bool :=
  s.flight.any fun f => !f.fromStation && f.src == r && f.eng.isNone && f.phys.isNone && f.chan == 0 && f.vc == vc && f.core == core

/-- Writes of ended engine commands of a cluster to a core, which the cluster's port accesses there stay behind: a slot is handed over with what
was written to it (R254, R256; notes/assumptions/15). -/
def State.enginesBefore (s : State) (r : CoreRef) (vc core : Nat) : Bool :=
  s.flight.any fun f => f.src.cl == r.cl && f.eng.isSome && f.phys.isNone && f.vc == vc && f.core == core && f.ended s

/-- Posted global stores of a core that its access to an address stays behind (R240, R253, R334). -/
def State.globalBefore (s : State) (r : CoreRef) (p : Nat) (op : AccOp) : Bool :=
  s.flight.any fun f => !f.fromStation && f.src == r && f.eng.isNone && f.holds s none p op

/-- Writes and AMOs of the module that were issued before an AMO and have not yet left by its port (R253). -/
def State.portBefore (s : State) (a : Access) (p : Nat) : Bool :=
  a.op.isAmo && (s.flight.any (fun f => f.leavesBefore s p && (a.reissue || decide (f.issue ≤ a.tag))) || s.amoLeaves p fun t => decide (t < a.tag))

/-! ## Tags (R116) -/

/-- Perform a protected access once at its owner (R116): `crosses` says that it crosses a die edge. -/
def State.performOnce (s : State) (r : CoreRef) (x : Access) (owner : Nat) (crosses : Bool) (f : State → Resp × State) : State :=
  let a : Access := { x with far := crosses }
  if a.tag = 0 ∨ crosses = false then (let x := f s; x.2.answerPend r a x.1)
  else
    let src := s.sourceNumber r
    match s.lookup owner ownModule src a.tag a.reissue with
    | .recorded x => s.answerPend r a x
    | .expired => s.answerPend r a (.trap tLINKEXPIRED a.addr)
    | .fresh => let x := f s; (x.2.remember owner ownModule src a.tag x.1).answerPend r a x.1

/-! ## The bank controller -/

/-- Perform an access at an offset of a core's store with a key. DESIGN CHOICE (notes/assumptions/43): a core that reaches its own bank by its
mesh address is answered with slot addresses in mesh form. -/
def bankPerform (s : State) (r : CoreRef) (a : Access) (t : CoreRef) (off : Nat) (key : Word) : Resp × State :=
  let c := s.core t
  let base := meshAddr (s.cluster t.cl).vc t.core 0
  let atPort := match c.hit off a.op.size with | .port _ _ => decide (off < 0x40000) | _ => false
  let keyedOp := match a.op with | .keyed _ _ _ _ => true | _ => false
  if atPort && a.lane != 16 && !keyedOp && a.spread.isNone then (.trap tBANKPORT a.addr, s)
  else
    let x := storeAccess c a.op off key base base (fun b => (s.cluster t.cl).clearHeld t.core b) a.addr
    (x.1, (s.setCore t x.2).updCluster r.cl fun k =>
      if t.cl = r.cl && !a.op.isLoad then k.ownStore r.core t.core off else k)

/-- An access that has reached a core: refused when it is sealed, sent back while the bank converts, else performed. -/
def atBank (s : State) (r : CoreRef) (a : Access) (t : CoreRef) (off : Nat) (key : Word) : State :=
  let c := s.core t
  if c.run = .sealed then s.answerPend r a (.trap tREMOTEERROR a.addr)
  else if c.isPort off && s.enginesBefore r (s.cluster t.cl).vc t.core then s
  else if off < 0x40000 && (c.bank (off / 0x4000)).converting then s.retryPend r a true
  else s.performOnce r a (s.ownerCore t) (dieOf t.cl != dieOf r.cl) fun s => bankPerform s r a t off key

/-- An access to a mesh address (R72, R108): a moving or streaming cluster answers it RETRY before it takes its place behind the posted items of its
core (R294, R299). -/
def bankMesh (s : State) (r : CoreRef) (a : Access) (vc core off : Nat) : State :=
  if (s.core r).closed.contains (chanKey vc core) then s.answerPend r a (.trap tLINKLOST a.addr)
  else match s.wayTo (s.cluster r.cl).slot vc core r.cl with
    | .absent => s.answerPend r a (.trap tMESH a.addr)
    | .retry => s.retryPend r a false
    | .core t =>
      if s.postedBefore r vc core then s
      else if a.scale = 0 then atBank s r a t off a.idx
      else if (s.core t).run = .sealed then s.answerPend r a (.trap tREMOTEERROR a.addr)
      else if ((s.core t).bank (off / 0x4000)).converting then s.retryPend r a true
      else if (s.core t).isPort off then atBank s r a t off a.idx
      else
        let dest : Word := a.addr + a.idx * BitVec.ofNat 64 a.scale
        let a1 : Access := { a with addr := dest, idx := 0, scale := 0 }
        match placeOf dest with
        | .ok (.mesh v c o) => if v = vc ∧ c = core then atBank s r a1 t o 0 else s.setPend r a1
        | .ok (.global _) => s.setPend r { a1 with stage := .translate }
        | .ok _ => s.setPend r a1
        | .error e => s.answerPend r a1 (.trap e dest)

/-- The probe of a spread access: its shard, key there, and whether EMPTY leads on (R235). -/
def probeOf (s : State) (r : CoreRef) (a : Access) (d : Nat) : Option (Nat × Nat × Nat × Word × Bool) :=
  let w := (s.core r).cr_ (Cr.spread0 + d)
  let p := a.addr.toNat % 0x100
  match spIndex w (s.cluster r.cl).vc r.core with
  | none => none
  | some h => match spRoute w h p a.op.isStore a.idx with
    | .absent => none
    | .shard i key probes =>
      let t := positionOf (spVcBase w) (spCores w) ((i + a.probe) % spShards w)
      some (t.1, t.2, spBank w * 0x4000 + p, key, probes)

/-- A spread access goes on to the next shard after EMPTY, at most four in all; each probe is an operation of its own. -/
def nextProbe (s : State) (r : CoreRef) (probes : Bool) : State :=
  match s.pendOf r with
  | some a => match a.stage with
    | .answered (.value _ (some br)) =>
      if probes && br == brEMPTY && decide (a.probe < 3) then
        ({ s with nextTag := s.nextTag + 1 } : State).setPend r
          { a with probe := a.probe + 1, tag := s.nextTag, reissue := false, stage := .bank }
      else s
    | _ => s
  | none => s

/-- An access to a spread structure (R235). -/
def bankSpread (s : State) (r : CoreRef) (a : Access) (d : Nat) : State :=
  match probeOf s r a d with
  | none => s.answerPend r a (.trap tMESH a.addr)
  | some (vc, core, off, key, probes) =>
    if (s.core r).closed.contains (chanKey vc core) then s.answerPend r a (.trap tLINKLOST a.addr)
    else match s.wayTo (s.cluster r.cl).slot vc core r.cl with
      | .absent => s.answerPend r a (.trap tMESH a.addr)
      | .retry => s.retryPend r a false
      | .core t =>
        if s.postedBefore r vc core then s
        else if (s.core t).run = .sealed then s.answerPend r a (.trap tREMOTEERROR a.addr)
        else if spMatches ((s.core t).cr_ (Cr.spread0 + d)) ((s.core r).cr_ (Cr.spread0 + d)) = false then s.retryPend r a true
        else nextProbe (atBank s r a t off key) r probes

/-- A kind-1 request is performed by the bank controller (R167, R72). -/
def execBankOperationRequest (q : Req) (s : State) : Host.Outcome State Fault Refusal :=
  match q with
  | .guest _ => .next s
  | .posted i =>
    (match s.flight[i]? with
    | none => .next s
    | some f =>
      if f.stage ≠ .bank ∨ s.mayGo i f = false then .next s
      else match f.body with
        | .msg _ | .gstore _ _ _ => .next s
        | _ => match s.wayOf f f.src.cl with
          | .absent => .next (s.lose i f uMesh tMESH f.meshDetail)
          | .retry => .next (s.retryFlight i f false)
          | .core t => .next (s.performPosted i f t))
  | .pend r =>
    match s.pendOf r with
    | none => .next s
    | some a =>
      if a.stage ≠ .bank then .next s
      else match a.spread with
        | some d => .next (bankSpread s r a d)
        | none => match placeOf a.addr with
          | .ok (.mesh vc core off) => .next (bankMesh s r a vc core off)
          | .ok (.own off) =>
            let x := storeAccess (s.core r) a.op off 0 0 (sourceWord s r) (fun b => (s.cluster r.cl).clearHeld r.core b) a.addr
            .next (((s.setCore r x.2).updCluster r.cl fun k => if a.op.isLoad then k else k.ownStore r.core r.core off).answerPend r a x.1)
          | .ok (.window _ _) => .next (s.answerPend r a (.trap tBANKPORT a.addr))
          | .ok (.global _) => .next (s.setPend r { a with stage := .translate })
          | .error e => .next (s.answerPend r a (.trap e a.addr))

/-! ## Messages -/

/-- An arriving message is committed to the inbox, or answered RETRY when it is full (R75, R194), or when items that a restart
delivers again come first (R326). A station's task message waits for a sealed core (R324). -/
def execMessageArrival (i : Nat) (s : State) : Host.Outcome State Fault Refusal :=
  match s.flight[i]? with
  | none => .next s
  | some f => match f.body with
    | .msg it =>
      if f.stage ≠ .bank ∨ s.mayGo i f = false then .next s
      else match s.wayOf f (if f.fromStation then 16384 else f.src.cl) with
        | .absent => .next (s.lose i f uMesh tMESH f.meshDetail)
        | .retry => .next (s.retryFlight i f false)
        | .core t =>
          let c := s.core t
          if c.run = .sealed then
            (if f.fromStation then .next s else .next (s.lose i f uMesh tREMOTEERROR (meshAddr f.vc f.core 0)))
          else match if c.redeliver = [] then pushItem c 15 128 (setAt it 3 s.cyc) else none with
            | none => .next (s.retryFlight i f false)
            | some (c1, j) =>
              .next ((s.dropFlight i).setCore t (if f.fromStation then c1 else { c1 with inboxRecq := aput c1.inboxRecq j f.recq }))
    | _ => .next s

/-! ## RETRY and back-off -/

/-- The requester's hardware reissues what was answered RETRY (R107). -/
def execRetryReissue (q : Req) (s : State) : Host.Outcome State Fault Refusal :=
  match q with
  | .guest _ => .next s
  | .posted i =>
    (match s.flight[i]? with
    | some f => (match f.stage with
      | .retry _ => .next (s.setFlight i { f with stage := .bank })
      | _ => .next s)
    | none => .next s)
  | .pend r => match s.pendOf r with
    | some a => (match a.stage with
      | .retry _ => .next (s.setPend r { a with stage := .bank })
      | _ => .next s)
    | none => .next s

/-- The limit of R230 has passed since a `CYC`. -/
def overLimit (now : Word) (since : Option Word) : Bool :=
  match since with
  | some t => decide (2 ^ 16 ≤ (now - t).toNat)
  | none => false

/-- A requester answered RETRY for 2^16 cycles gives up (R230). -/
def execRetryTimeout (q : Req) (s : State) : Host.Outcome State Fault Refusal :=
  match q with
  | .guest _ => .next s
  | .posted i =>
    (match s.flight[i]? with
    | some f => if f.stage = .retry true ∧ overLimit s.cyc f.since = true then .next (s.lose i f uMesh tMESH f.meshDetail) else .next s
    | none => .next s)
  | .pend r => match s.pendOf r with
    | some a =>
      if a.stage = .retry true ∧ overLimit s.cyc a.since = true then .next (s.answerPend r a (.trap tMESH a.addr)) else .next s
    | none => .next s

/-- A backed-off request is reissued at the cycle its block ends (R334). -/
def execBackoffReissue (q : Req) (s : State) : Host.Outcome State Fault Refusal :=
  match q with
  | .guest i => .next (s.reissueGuest i)
  | .posted i =>
    (match s.flight[i]? with
    | some f => (match f.stage with
      | .backoff p till => if till ≤ s.cyc then .next (s.setFlight i { f with stage := .home p }) else .next s
      | _ => .next s)
    | none => .next s)
  | .pend r => match s.pendOf r with
    | some a => (match a.stage with
      | .backoff p till => if till ≤ s.cyc then .next (s.setPend r { a with stage := .home p }) else .next s
      | _ => .next s)
    | none => .next s

/-! ## Translation (R289, R290) -/

/-- A mapping refuses an access (R291). -/
def refusePend (s : State) (r : CoreRef) (a : Access) (cause : Nat) : State := s.answerPend r a (.trap cause a.addr)

/-- The channel of a core to the module that a physical address names is closed (R311). -/
def State.linkClosed (s : State) (r : CoreRef) (p : Nat) : Bool :=
  match s.otherModule p with
  | some m => (s.core r).closed.contains (moduleKey m)
  | none => false

/-- A posted store of a core to global memory. -/
def postedGlobal (s : State) (r : CoreRef) (a : Access) (p : Nat) : Flight :=
  { rel := a.rel, src := r, fromStation := false, slot := (s.cluster r.cl).slot, vc := 0, core := 0, chan := 0,
    body := .gstore p a.op a.hint, addr := a.addr, recq := (s.core r).recq, since := none, launch := (s.cluster r.cl).launch, pid := (s.cluster r.cl).pid, issue := s.nextTag, eng := none,
    backed := false, joined := false, stage := .home p }

/-- A granted access goes to its home. A store is posted from here on (R105); keyed accesses reach no port in global memory, and
host memory takes three kinds of AMO (R308). -/
def grantPend (s : State) (r : CoreRef) (a : Access) (p : Nat) : State :=
  let amoOk := match a.op with | .amo fn _ _ _ => spaceOf p != 1 || fn == 0 || fn == 8 || fn == 9 | _ => true
  match a.op with
  | .keyed _ _ _ _ => s.answerPend r a (.trap tBANKPORT a.addr)
  | .store _ _ | .vstore _ _ =>
    if s.linkClosed r p then (s.record r (s.core r).recq 0 uMesh tLINKLOST a.addr a.addr).answerPend r a (.value 0 none)
    else ({ s with flight := s.flight ++ [postedGlobal s r a p] } : State).answerPend r a (.value 0 none)
  | _ =>
    if amoOk = false then refusePend s r a tPERMISSION
    else if s.linkClosed r p then s.answerPend r a (.trap tLINKLOST a.addr)
    else s.setPend r { a with stage := .home p }

/-- What a leaf gives an access. -/
def leafPend (s : State) (r : CoreRef) (a : Access) (pte : Pte) : State :=
  match leafAccess pte (bits a.addr 0 57) a.op.need with
  | .error e => refusePend s r a e
  | .ok p => grantPend s r a p

/-- A translation station looks up a request (R289): a miss waits on the walk of its page, or starts one at the deepest cached table, or at
the root, once the station has room for it. -/
def execTranslationRequest (q : Req) (s : State) : Host.Outcome State Fault Refusal :=
  match q with
  | .posted _ | .guest _ => .next s
  | .pend r => match s.pendOf r with
    | none => .next s
    | some a =>
      let st := stationOf r.cl
      let slot := (s.cluster r.cl).slot
      let va := bits a.addr 0 57
      if a.stage ≠ .translate ∧ a.stage ≠ .waiting then .next s
      else match cachedLeaf s st slot va with
        | some pte => .next (leafPend s r a pte)
        | none =>
          if s.pageWalks st slot va then .next (s.setPend r { a with stage := .waiting })
          else if walksMax ≤ ((s.pendsAt st).filter fun x => x.2.walks).length then .next s
          else match walkStart s st slot va with
            | some (l, t) => .next (s.setPend r { a with stage := .walk l t 0 (walkSeen s va l t) })
            | none => .next (refusePend s r a tTRANSLATION)

/-- A walk takes the entry that has been read: it goes on, or maps or refuses its request and those that wait on it (R289, R290). It takes the
entry as it stood when the walk began, unless it is poisoned (R290). -/
def takeEntry (s : State) (r : CoreRef) (a : Access) (level : Nat) (seen : List Word) (poisoned : Bool) : State :=
  let e := if poisoned then 0 else seen.headD 0
  let st := stationOf r.cl
  let slot := (s.cluster r.cl).slot
  let va := bits a.addr 0 57
  let s1 := s.keepEntry st slot va level e
  match pteOf level e with
  | .pointer t => s1.setPend r { a with stage := .walk (level - 1) t 0 seen.tail }
  | pte =>
    ((s1.pendsAt st).filter fun x => x.2.stage == .waiting && (s1.cluster x.1.cl).slot == slot && bits x.2.addr 0 57 / 4096 == va / 4096).foldl
      (fun (s : State) x => leafPend s x.1 x.2 pte) (leafPend s1 r a pte)

/-- A page-walk read returns (R290), for every walk of the station that needs the entry (R289). A read that meets a blocked bank is
reissued at the block's end, and counts at no core (R334; notes/assumptions/40). -/
def execWalkStepComplete (q : Req) (s : State) : Host.Outcome State Fault Refusal :=
  match q with
  | .posted _ | .guest _ => .next s
  | .pend r => match s.pendOf r with
    | none => .next s
    | some a => match a.stage with
      | .walk level table till seen =>
        let at_ := entryAt table level (bits a.addr 0 57)
        if s.cyc < till then .next s
        else if 2 ^ 40 < at_ + 8 then .next (takeEntry s r a level seen true)
        else match s.backsOff at_ with
          | some t => .next ((s.backoffReply at_ none).setPend r { a with stage := .walk level table t seen })
          | none =>
            let s1 := (s.burst at_ 0).meetsPoison s at_ 8
            let bad := s1.hbm.poisoned at_ 8
            let shares (x : CoreRef × Access) : Option (List Word) := match x.2.stage with
              | .walk l t _ w => if x.1 != r && l == level && entryAt t l (bits x.2.addr 0 57) == at_ then some w else none
              | _ => none
            .next ((s.pendsAt (stationOf r.cl)).foldl (fun (s : State) x => match shares x with
              | some w => takeEntry s x.1 x.2 level w bad
              | none => s) (takeEntry s1 r a level seen bad))
      | _ => .next s

/-! ## The home controller -/

/-- Close a channel of a core (R251, R311). -/
def State.close (s : State) (r : CoreRef) (key : Nat) : State :=
  s.updCore r fun c => if c.closed.contains key then c else { c with closed := c.closed ++ [key] }

/-- A core's load or AMO at its physical address (R114, R308, R331, R334): one that leaves the module is sent, and one to the device window goes
behind the host's earlier requests at the service core of the quadrant (R306). -/
def homePend (s : State) (r : CoreRef) (a : Access) (p : Nat) (e : Ecc) : State :=
  if s.globalBefore r p a.op || s.portBefore a p then s
  else match s.homeOf p with
    | .hbm h =>
      (match s.backsOff h with
      | some t => (s.backoffReply h (some r)).setPend r { a with joined := false, stage := .backoff p t }
      | none =>
        let b : Access := { a with counted := s.foundNow h e a.op }
        s.performOnce r b (ownerStack h) (stackOf h / 2 != dieOf r.cl) fun s => s.eccAccess a.joined h e a.op (hintAt p a.hint) a.addr)
    | .device o => if s.hostWaits (quadrant r.cl) then s else
      (match s.window (.core r) o a.op with
      | .ok w s1 => s1.answerPend r a (.value (extend a.op.size (match a.op with | .load _ sg => sg | _ => false) w.toNat) none)
      | .unassigned => s.answerPend r a (.trap tREMOTEERROR a.addr))
    | _ =>
      if s.linkClosed r p then s.answerPend r a (.trap tLINKLOST a.addr)
      else match s.portFor p with
        | some port => (s.sendOutside (quadrant r.cl) p a.op).setPend r { a with stage := .sent p port }
        | none => refusePend s r a tREMOTEERROR

/-- An earlier posted store is of the same core and to the same other module as a later one: they are in one channel (R311). -/
def Flight.oneModule (s : State) (g f : Flight) : Bool :=
  g.src == f.src && g.eng == f.eng && match g.body, f.body with
    | .gstore q _ _, .gstore p _ _ => (s.otherModule p).isSome && s.otherModule p == s.otherModule q
    | _, _ => false

/-- Posted stores of a core to a module that are not acknowledged yet (R311). -/
def State.storesTo (s : State) (r : CoreRef) (m : Nat) : Bool :=
  s.flight.any fun f => !f.fromStation && f.src == r && f.eng.isNone && match f.body with
    | .gstore p _ _ => s.otherModule p == some m
    | _ => false

/-- A posted store at its physical address: one that leaves the module is sent, and waits for its acknowledgement (R308, R310). -/
def homePosted (s : State) (i : Nat) (f : Flight) (p : Nat) (op : AccOp) (hint : Nat) (e : Ecc) : State :=
  let refused := s.lose i f uMesh tREMOTEERROR (BitVec.ofNat 64 p)
  match s.homeOf p with
  | .hbm h =>
    (match s.backsOff h with
    | some t => (s.backoffReply h (some f.src)).setFlight i { f with backed := true, joined := false, stage := .backoff p t }
    | none => ((s.dropFlight i).eccAccess f.joined h e op (hintAt p hint) 0).2)
  | .device o => if s.hostWaits (quadrant f.src.cl) then s else
    (match s.window (.core f.src) o op with
    | .ok _ s1 => s1.dropFlight i
    | .unassigned => refused)
  | _ => match s.portFor p with
    | some port => (s.sendOutside (quadrant f.src.cl) p op).setFlight i { f with stage := .sent p port }
    | none => refused

/-- A global request is performed at its home (R331). A store that has been sent is acknowledged, or, where `e` is not clean, refused there
(R253, R308, R312; notes/assumptions/22), behind the earlier ones of its core to its module, of which a failure may still lose each (R251,
R311). -/
def execMemoryRequest (q : Req) (e : Ecc) (s : State) : Host.Outcome State Fault Refusal :=
  match q with
  | .guest i => .next (s.tryGuest i)
  | .posted i =>
    (match s.flight[i]? with
    | none => .next s
    | some f => match f.body, f.stage with
      | .gstore p op hint, .home _ => if s.mayGo i f then .next (homePosted s i f p op hint e) else .next s
      | .gstore p _ _, .sent _ _ =>
        if (s.flight.take i).any (fun g => g.oneModule s f) = true then .next s
        else if e = .clean then .next (s.dropFlight i) else .next (s.lose i f uMesh tREMOTEERROR (BitVec.ofNat 64 p))
      | _, _ => .next s)
  | .pend r => match s.pendOf r with
    | none => .next s
    | some a => match a.stage with
      | .home p => .next (homePend s r a p e)
      | _ => .next s

/-! ## The answer -/

/-- Keep a reissue record for a protected access that a failed link lost (R116). -/
def Core.keepReissue (c : Core) (a : Access) (now : Word) : Core :=
  if a.tag = 0 then c else { c with reissue := some ⟨a.tag, a.asked.1, a.asked.2, a.op, a.instr, now⟩ }

/-- The instruction takes an answer: it traps, goes on with its next lane, or writes its result and completes. Poison that the access itself
has found was counted then (R325, R335). A trap keeps what R185 lists, of which a DOUBLE keeps nothing that stands in the core (R193;
notes/assumptions/36). -/
def takeAnswer (s : State) (a : Access) (x : Resp) : State :=
  let s := s.upd fun c => { c with pend := none }
  match x with
  | .trap e v =>
    let s := if s.me.cannotTrap then s else s.upd fun c =>
      let c := match a.vec with | some L => if a.lane < 16 then c.atLane a.instr L a.lane else c | none => c
      if e = tLINKLOST then c.keepReissue a s.cyc else c
    if a.counted && e == tPOISON then (s.clusterError s.cur.cl 1).takeTrap s.cur e s.me.pc v else s.raise e v
  | _ =>
    if a.lane < 16 then
      (match a.vec with
      | some L => (resumeLanes a.instr L a.lane x s).apply s a.instr
      | none => s)
    else if a.lane = 17 then (s.upd fun c => wholeTake a.instr ((a.vec.map (·.mask)).getD 0) c x).finish a.instr
    else (s.upd fun c => c.takeResp (destOf a.instr) x).finish a.instr

/-- The answer of an access that lies outside the module. -/
def outsideAnswer (s : State) (a : Access) (p : Nat) (ans : Answer) : Option Resp :=
  match ans with
  | .own => none
  | .poisoned => some (.trap tPOISON a.addr)
  | .refused => some (.trap tREMOTEERROR a.addr)
  | .lost => some (.trap (if spaceOf p = 1 then tREMOTEERROR else tLINKLOST) a.addr)
  | .expired => some (.trap tLINKEXPIRED a.addr)
  | .data w => match a.op with
    | .load n sg => some (.value (extend n sg w.toNat) none)
    | .vload m =>
      let lane (i : Nat) : W32 := match Config.outside s.free i with | .data x => x.truncate 32 | _ => w.truncate 32
      some (.lanes ((List.range 16).map lane) m none)
    | .amo _ n _ _ => some (.value (extend n false w.toNat) none)
    | _ => some (.value 0 none)

/-- The answer to an access returns (R72, R105): its own module formed it, or what lies outside gives it (R308, R312), behind the acknowledgements
of the core's earlier stores to that module, of which a failure may still lose each (R251, R311). -/
def execAccessResponse (r : CoreRef) (ans : Answer) (s : State) : Host.Outcome State Fault Refusal :=
  match s.pendOf r with
  | none => .next s
  | some a =>
    let x := match a.stage with
      | .answered x => some x
      | .sent p _ => if (s.otherModule p).any (s.storesTo r) then none else outsideAnswer s a p ans
      | _ => none
    match x with
    | none => .next s
    | some x =>
      let t := match a.stage, ans with
        | .sent p _, .lost => (match s.otherModule p with | some m => s.close r (moduleKey m) | none => s)
        | _, _ => s
      .next { takeAnswer { t with cur := r } a x with cur := s.cur }

/-! ## Lost links and expired tags -/

/-- An entry of a deduplication table expires (R116, R313). -/
def execDedupEntryExpiry (i : Nat) (s : State) : Host.Outcome State Fault Refusal :=
  match s.dedup[i]? with
  | none => .next s
  | some d =>
    if d.old s.cyc = false then .next s
    else
      let k := markKey d.owner d.mod d.core
      .next { s with dedup := dropAt s.dedup i, marks := aput s.marks k (max d.tag (aget 0 s.marks k)) }

/-! ### Paths (R10) -/

/-- The column and row of a cluster. -/
def colOf (cl : Nat) : Nat := cl % 128
def lineOfMesh (cl : Nat) : Nat := cl / 128

/-- The die edges between two coordinates, at one die width. -/
def edgesBetween (a b : Nat) : List Nat := (List.range 3).filter fun c => decide (min a b / 32 ≤ c ∧ c < max a b / 32)

/-- The die-to-die links on the way from one cluster to another, along x first and then along y (R10): a link of the edge between die columns
c and c + 1 at mesh row y has number 64·c + y, and one of the edge between the die rows at column x has number 192 + x. -/
def xyLinks (a b : Nat) : List Nat :=
  (edgesBetween (colOf a) (colOf b)).map (fun c => 64 * c + lineOfMesh a) ++
    (edgesBetween (lineOfMesh a) (lineOfMesh b)).map fun _ => 192 + colOf b

/-- The links on the way from one cluster to another: around failed links the way depends only on its ends, and the spec does not say which it is
(R10; notes/assumptions/13). R10 gives a new path to what is issued after the affected channel reopens; DESIGN CHOICE (the same entry): an access on
a channel that has lost nothing, and so never closes, takes the new path at once. -/
def State.linksOf (s : State) (a b : Nat) : List Nat :=
  if (xyLinks a b).any fun l => s.deadLinks.contains l then (Config.detour s.deadLinks a b).filter fun l => !s.deadLinks.contains l
  else xyLinks a b

/-- The place in the mesh of the memory edge of a stack (R11), as a cluster number. -/
def stackPlace (stack : Nat) : Nat :=
  let d := stack / 2
  (if d < 4 then 0 else 63) * 128 + 32 * (d % 4) + Config.edgeColumn stack % 32

/-- The place in the mesh that a posted item goes to. -/
def Flight.goal (s : State) (f : Flight) : Option Nat :=
  match f.body with
  | .gstore p _ _ => (ownHbm s p).map fun h => stackPlace (stackOf h)
  | _ => (meshTarget s f.slot f.vc f.core).map fun x => x.1.cl

/-- An item's way takes a link. DESIGN CHOICE (notes/assumptions/13): R11 translates a global request at the die's memory edge and does not name the
place from which the message goes on; its way is that from the cluster that issued it. -/
def Flight.takes (s : State) (f : Flight) (link : Nat) : Bool :=
  !f.fromStation && match f.goal s with
    | some b => (s.linksOf f.src.cl b).contains link
    | none => false

/-- DETAIL of a LINK-LOST record: the address; for a message a free value (notes/assumptions/24). -/
def Flight.lostDetail (s : State) (f : Flight) : Word := match f.body with | .msg _ => Config.freeWord s.free | _ => f.addr

/-- The channel of an item: to a core, or to another module (R251, R311). -/
def Flight.channel (s : State) (f : Flight) : Option Nat :=
  match f.body with
  | .gstore p _ _ => (s.otherModule p).map moduleKey
  | .record _ => none
  | _ => some (chanKey f.vc f.core)

/-- Record the loss of an item, and close its channel; the launch that posted it must still be there (R296). -/
def State.recordLoss (s : State) (f : Flight) : State :=
  let t := s.recordFor f uMesh tLINKLOST (f.lostDetail s)
  if (s.cluster f.src.cl).launch = f.launch then (match f.channel s with | some k => t.close f.src k | none => t) else t

/-- Go through the items in flight: the named ones that a failure can lose are lost, and with each every later one of its channel
(R251). -/
def sweepLost (lost : Nat → Flight → Bool) (s : State) : Nat → List Flight → State
  | _, [] => s
  | i, f :: t =>
    let gone := lost i f || (!f.fromStation && match f.channel s with | some k => (s.core f.src).closed.contains k | none => false)
    if gone then sweepLost lost (s.recordLoss f) (i + 1) t
    else sweepLost lost { s with flight := s.flight ++ [f] } (i + 1) t

/-- Lose the named items in flight. -/
def State.loseFlights (s : State) (lost : Nat → Flight → Bool) : State := sweepLost lost { s with flight := [] } 0 s.flight

/-- The core that an outstanding access is bound for: its virtual cluster and core. -/
def Access.goal (s : State) (r : CoreRef) (a : Access) : Option (Nat × Nat) :=
  match a.spread with
  | some d => (probeOf s r a d).map fun x => (x.1, x.2.1)
  | none => match placeOf a.addr with
    | .ok (.mesh vc core _) => some (vc, core)
    | _ => none

/-- The place in the mesh that an outstanding access goes to, or comes back from. -/
def Access.place (s : State) (r : CoreRef) (a : Access) : Option Nat :=
  match a.goal s r with
  | some (vc, core) => (meshTarget s (s.cluster r.cl).slot vc core).map fun x => x.1.cl
  | none => match a.stage with
    | .home p => (ownHbm s p).map fun h => stackPlace (stackOf h)
    | .answered _ => (match placeOf a.addr with
      | .ok (.global va) => (match translate s r.cl (s.cluster r.cl).slot va a.op.need with
        | .ok p => (ownHbm s p).map fun h => stackPlace (stackOf h)
        | .error _ => none)
      | _ => none)
    | _ => none

/-- An outstanding access that has been performed across a die edge, or is yet to be, loses its answer or its request with a link on its way (R116,
R251). The way of a translated request is that from its cluster (DESIGN CHOICE, notes/assumptions/13). -/
def Access.loses (s : State) (r : CoreRef) (a : Access) (performed : Bool) (link : Nat) : Bool :=
  match a.place s r with
  | none => false
  | some b => match a.stage with
    | .bank | .home _ => !performed && (s.linksOf r.cl b).contains link
    | .answered (.trap _ _) => false
    | .answered _ => performed && a.far && (s.linksOf b r.cl).contains link
    | _ => false

/-- An outstanding access is lost: it raises LINK-LOST, and its channel closes (R116, R251). -/
def State.losePend (s : State) (performed : Bool) (link : Nat) (r : CoreRef) : State :=
  match s.pendOf r with
  | none => s
  | some a =>
    if a.loses s r performed link then
      (match a.goal s r with | some (vc, core) => s.close r (chanKey vc core) | none => s).answerPend r a (.trap tLINKLOST a.addr)
    else s

/-- A die-to-die link fails (R251): the posted items and accesses that it loses, the latter before or after they were performed. Ways avoid it
from then on, those of channels that have lost nothing at once (R10; DESIGN CHOICE, notes/assumptions/13). -/
def execDieLinkFailure (link : Nat) (posted : List Nat) (before after : List CoreRef) (s : State) : Host.Outcome State Fault Refusal :=
  let s1 := s.loseFlights fun i f => posted.contains i && f.takes s link
  let s2 := before.foldl (fun (s : State) r => s.losePend false link r) s1
  let s3 := after.foldl (fun (s : State) r => s.losePend true link r) s2
  .next { s3 with deadLinks := riseInsert s3.deadLinks link }

/-- A request has left by a port and is not yet answered. -/
def Stage.leftBy (st : Stage) (port : Nat) : Bool := match st with | .sent _ n => n == port | _ => false

/-- An access that has left by a port is lost with it, or, behind a lost store, with its channel (R311). -/
def State.losePort (s : State) (lost : Nat → Bool) (r : CoreRef) : State :=
  match s.pendOf r with
  | none => s
  | some a => match a.stage with
    | .sent p n =>
      if lost n = true ∨ s.linkClosed r p = true then
        (match s.otherModule p with | some m => s.close r (moduleKey m) | none => s).answerPend r a (.trap tLINKLOST a.addr)
      else s
    | _ => s

/-- The cores with an access outstanding. -/
def State.pending (s : State) : List CoreRef :=
  s.clusters.flatMap fun k => k.2.cores.filterMap fun c => if c.2.pend.isSome then some ⟨k.1, c.1⟩ else none

/-- A Filesten port fails (R311): its bit is cleared in every ROUTE entry, and requests on it are lost, with every later one of their channels by
whatever port. -/
def execFilestenPortFailure (port : Nat) (posted : List Nat) (accs : List CoreRef) (s : State) : Host.Outcome State Fault Refusal :=
  let s1 := s.loseFlights fun i f => posted.contains i && f.stage.leftBy port
  let s2 := s1.pending.foldl (fun (t : State) r => t.losePort (fun n => n == port && accs.contains r) r) s1
  .next ((List.range 256).foldl (fun (s : State) m =>
    let w := s.ctlGet (0x1000 + 8 * m)
    if bit w port then s.ctlPut (0x1000 + 8 * m) (setBits w port 1 0) else s) s2)

end Sys2Proof.Machine
end

