-- ==== Sys2Proof/Machine/Lifecycle.lean ====
section
/-! DEFINITION. The bank controller's inbox (R195 to R197, R326), activations and groups as they start (R199 to R203), the end of a
launch on a core (R174), held records (R76) and debug stops (R178, R341). -/
namespace Sys2Proof.Machine

/-! ## Inbox -/

/-- Put items that a restart delivers again into the inbox, as far as it takes them (R326). -/
def Core.topUp (c : Core) (now : Word) : List (List Word × Option Nat) → Core
  | [] => { c with redeliver := [] }
  | x :: t => match pushItem c 15 128 (setAt x.1 3 now) with
    | some (c1, j) => ({ c1 with inboxRecq := match x.2 with | some b => aput c1.inboxRecq j b | none => adel c1.inboxRecq j } : Core).topUp now t
    | none => { c with redeliver := x :: t }

/-- Deliver again what a restart has left, on a core that is not sealed. -/
def State.redeliverAt (s : State) (r : CoreRef) : State :=
  let c := s.core r
  if c.run = .sealed ∨ c.redeliver = [] then s else s.setCore r (c.topUp s.cyc c.redeliver)

/-- The bank controller handles the item at the head of the inbox (R195 to R197). -/
def execInboxItemHandle (r : CoreRef) (s : State) : Host.Outcome State Fault Refusal :=
  if (s.core r).run = .sealed ∨ (s.cluster r.cl).evict = .streaming then .next s
  else
    let s1 := s.redeliverAt r
    match s1.handleItem r with
    | some t => .next (t.redeliverAt r)
    | none => .next s1

/-! ## Activations -/

/-- A ready entry starts a new activation, or resumes a parked one (R201, R202). A core that is being evicted takes none (R299). -/
def execActivationStart (r : CoreRef) (s : State) : Host.Outcome State Fault Refusal :=
  if (s.cluster r.cl).evict ≠ .none then .next s
  else match s.startReady r with
    | some t => .next (t.redeliverAt r)
    | none => .next s

/-- A ready entry has waited 2^20 cycles at its level (R199). -/
def Ready.overdue (e : Ready) (now : Word) : Bool := decide (e.level < 3 ∧ 2 ^ 20 ≤ (now - e.since).toNat)

/-- A ready entry is promoted one level and joins that level's tail (R199). -/
def execReadyPromotion (r : CoreRef) (n : Nat) (s : State) : Host.Outcome State Fault Refusal :=
  match (s.core r).ready[n]? with
  | some e =>
    if e.overdue s.cyc then
      .next (s.updCore r fun c => { c with ready := dropAt c.ready n ++ [{ e with level := e.level + 1, since := s.cyc }] })
    else .next s
  | none => .next s

/-! ## Groups (R203) -/

/-- Every core of a cluster has accepted a cluster entry or is sealed, and some core has accepted one. -/
def Cluster.allAccepted (k : Cluster) : Bool :=
  ((List.range 8).all fun j => ((k.core j).run == .accepted && !(k.core j).stopped) || (k.core j).run == .sealed) &&
    (List.range 8).any fun j => (k.core j).run == .accepted

/-- Start the group: the cores of the lead's class start attached at its routine, the others detached with WHY 1. -/
def Cluster.startGroup (k : Cluster) : Cluster :=
  match (List.range 8).find? fun j => (k.core j).run == .accepted with
  | none => k
  | some lead =>
    let clsOf (c : Core) : Nat := match c.act with | some a => a.cls | none => 0
    let cls := clsOf (k.core lead)
    let k1 : Cluster := { k with group := ⟨true, (k.core lead).pc, .none, none, none⟩, onces := [] }
    (List.range 8).foldl (fun (k : Cluster) j =>
      let c := k.core j
      if c.run = .accepted then
        (if clsOf c = cls then k.setCore j { c with run := .running, att := true, why := 0, jpt := 0, buf := [], past := false }
        else k.setCore j { c with run := .running, att := false, why := 1, jpt := 0, buf := [], past := false })
      else k) k1

/-- The group starts when all eight cores hold accepted entries (R203). -/
def execGroupStart (cl : Nat) (s : State) : Host.Outcome State Fault Refusal :=
  let k := s.cluster cl
  if k.allAccepted && k.evict == .none then .next (s.setCluster cl k.startGroup) else .next s

/-! ## The end of a launch on a core (R174) -/

/-- No activation of a core's launch is running, parked or ready on it, or still to be started again, and its engine commands have
completed. -/
def Core.quiet (c : Core) (jobs : List Job) (j : Nat) : Bool :=
  c.run == .idle && c.act.isNone && c.parked == [] && c.ready == [] && c.redeliver == [] && c.mq == [] && c.copies == [] &&
    jobs.all fun x => x.core != j

/-- A task message of a station is on its way to a core. -/
def State.taskComing (s : State) (slot vc core : Nat) : Bool :=
  s.flight.any fun f => f.fromStation && f.slot == slot && f.vc == vc && f.core == core

/-- A launch may end on a core, once the bank controller has handled what it can of the inbox (R174; notes/assumptions/25): on one without a
group, when it has ended on every core of the cluster that received a task message (R270). -/
def State.mayEnd (s : State) (r : CoreRef) : Bool :=
  let k := s.cluster r.cl
  k.evict == .none && (s.core r).quiet k.jobs r.core && (s.handleItem r).isNone && !s.taskComing k.slot k.vc r.core &&
    match s.launchOf r.cl with
    | none => false
    | some l => l.cores.contains (k.vc, r.core) || l.cores.all fun p => p.1 != k.vc

/-- Every core of a cluster has left its launch. -/
def Cluster.ended (k : Cluster) : Bool := (List.range 8).all fun j => (k.core j).run == .off

/-- The launch ends on a core, and what its bank controller still holds ends with it (notes/assumptions/25); the cluster is freed when it has ended on all of its cores (R174, R273). -/
def execCoreLaunchEnd (r : CoreRef) (s : State) : Host.Outcome State Fault Refusal :=
  if s.mayEnd r then
    let k := s.cluster r.cl
    let s1 := ((s.core r).held.foldl (fun (s : State) h => s.markHeld r.cl h) s).updCore r Core.endLaunch
    let s2 := { s1 with launches := s1.launches.map fun (l : Launch) =>
      if l.id = k.launch then { l with cores := l.cores.filter fun p => p != (k.vc, r.core) } else l }
    if (s2.cluster r.cl).ended then .next (s2.freeCluster r.cl) else .next s2
  else .next s

/-! ## Held records (R76) -/

/-- Push held records in order, as far as their banks take them; the mark of a counter follows its record (R254). -/
def State.retryHeld (s : State) (r : CoreRef) : List Held → State
  | [] => s.updCore r fun c => { c with held := [] }
  | h :: t => match (s.core r).commitRecord h with
    | some c1 => ((s.setCore r c1).markHeld r.cl h).retryHeld r t
    | none => s.updCore r fun c => { c with held := h :: t }

/-- The bank controller retries a held record (R76, R191). -/
def execRecordRetry (r : CoreRef) (s : State) : Host.Outcome State Fault Refusal :=
  let c := s.core r
  if c.held = [] ∨ (s.cluster r.cl).evict = .streaming then .next s else .next (s.retryHeld r c.held)

/-! ## Stops (R178, R341) -/

/-- The code under which a stop of the service core stands: it reports nothing. -/
def noCode : Nat := 32

/-- A core is at an activation boundary. -/
def Core.atBoundary (c : Core) : Bool := c.act.isNone && (c.run == .idle || c.run == .halted || c.run == .off)

/-- A core is in a wait that only a stop or an eviction may end: at a wait port, in a wait, in `mread` or `msync`, behind a `once`, at a
join, or with an accepted entry (R70, R93, R120, R203, R208). -/
def Cluster.endless (k : Cluster) (j : Nat) : Bool :=
  let c := k.core j
  c.run == .accepted || c.run == .joining ||
    c.run == .running && c.pend.isNone && c.conv.isNone &&
      (k.waitsOnce j || match c.wait with | none | some .retry | some .order | some (.converting _) => false | _ => true)

/-- A requested stop takes effect at the next activation boundary, with its record and report (R178, R340, R341), or ends a wait, whose
access or wait is discarded and executed again from the start when the core is released (R70, R120, R203, R208). -/
def execStopAtBoundary (r : CoreRef) (s : State) : Host.Outcome State Fault Refusal :=
  let c := s.core r
  match c.stopReq with
  | none => .next s
  | some n =>
    if (c.atBoundary || (s.cluster r.cl).endless r.core) && (s.cluster r.cl).evict != .streaming then
      let s1 := s.setCore r { c with stopped := true, stopReq := none, wait := none }
      let s2 := s1.trace r 6
      if n = noCode then .next s2 else .next (s2.report r.cl (.stop r n))
    else .next s

/-- The quadrant's service core requests a stop (R341); a sealed core keeps it until it runs again. -/
def execServiceStopRequest (r : CoreRef) (s : State) : Host.Outcome State Fault Refusal :=
  .next (s.updCore r fun c => { c with stopReq := some (c.stopReq.getD noCode) })

/-- The service core releases a stopped core (R341). -/
def execServiceRelease (r : CoreRef) (s : State) : Host.Outcome State Fault Refusal :=
  let c := s.core r
  if c.stopped then .next ((s.setCore r { c with stopped := false }).updCluster r.cl Cluster.completeJoin) else .next s

end Sys2Proof.Machine
end

