-- ==== Sys2Proof/Machine/Stations.lean ====
section
/-! DEFINITION. The launch stations: queues (R265 to R267), packets and code objects (R268, R269, R354), regions (R272, R273),
placement (R275 to R278, R295), replays (R279, R280), and the end of launches (R270). -/
namespace Sys2Proof.Machine

/-! ## A station's reads and writes -/

/-- A doubleword that the station of a queue reads under a context's root table (R267, R269, R279), with the bursts and walks that this takes
(R331, R334): none where it is not mapped, lacks R, lies in a device window, or is poisoned. `k` counts the reads of a step that leave the
module. -/
def stationRead (s : State) (q root k : Nat) (a : Word) : Option Word × State :=
  let s := s.walkReads none (bits a 0 57) 4 root
  match stationTranslate s root a .read with
  | .error _ => (none, s)
  | .ok p => match s.homeOf p with
    | .hbm h =>
      let s1 := s.waitOut h none s.blockFuel
      let t := (s1.burst h 0).meetsPoison s1 h 8
      (if t.hbm.poisoned h 8 then none else some (t.hbm.read8 h), t)
    | .device _ => (none, s)
    | _ => match s.portFor p, Config.outside s.free k with
      | some _, .data w => (some w, s.sendOutside (q / 16) p (.load 8 false))
      | _, _ => (none, s)

/-- Words that a station reads one after the other. -/
def stationWords (s : State) (q root : Nat) (a : Word) : Nat → Nat → Option (List Word) × State
  | _, 0 => (some [], s)
  | k, n + 1 => match stationRead s q root k a with
    | (none, s1) => (none, s1)
    | (some w, s1) =>
      let x := stationWords s1 q root (a + 8) (k + 1) n
      (x.1.map fun l => w :: l, x.2)

/-- A doubleword that a station writes; false where it is not mapped or lacks W. -/
def stationWrite (s : State) (q root : Nat) (a w : Word) : Bool × State :=
  let s := s.walkReads none (bits a 0 57) 4 root
  match stationTranslate s root a .write with
  | .error _ => (false, s)
  | .ok p => match s.homeOf p with
    | .hbm h => (let t := (s.waitOut h none s.blockFuel).burst h 0; (true, { t with hbm := t.hbm.store h 8 w.toNat }))
    | .device _ => (false, s)
    | _ => if (s.portFor p).isSome then (true, s.sendOutside (q / 16) p (.store 8 w)) else (false, s)

/-- Words that a station writes. -/
def stationStore (s : State) (q root : Nat) (a : Word) : List Word → Bool × State
  | [] => (true, s)
  | w :: t => match stationWrite s q root a w with
    | (false, s1) => (false, s1)
    | (true, s1) => stationStore s1 q root (a + 8) t

/-! ## Packets (R267, R268, R279) -/

/-- An address in the global form. -/
def globalForm (a : Word) : Bool := bit a 63 && bits a 57 6 == 0

/-- Words 4 and 5 of a packet (R267). -/
def depFieldsOk (w : List Word) : Bool :=
  let d := w.getD 4 0
  (d == 0 || globalForm d && bits d 0 3 == 0) && bits (w.getD 5 0) 48 16 == 0

/-- A packet without REPLAY keeps R268; the dependency words are judged apart. -/
def packetOk (w : List Word) : Bool :=
  let w0 := w.getD 0 0
  let w6 := w.getD 6 0
  let n := bits w0 32 16
  bits w0 18 6 == 0 && bits w0 4 12 == 0 && !bit w0 17 && decide (bits w0 28 4 ≤ 1 ∧ bits w0 24 4 ≤ 7 ∧ 1 ≤ n) &&
    (bits w0 28 4 == 0 || decide (n ≤ 8192)) &&
    globalForm (w.getD 1 0) && bits (w.getD 1 0) 0 8 == 0 && globalForm (w.getD 2 0) && bits (w.getD 2 0) 0 3 == 0 &&
    globalForm (w.getD 3 0) && bits (w.getD 3 0) 0 3 == 0 &&
    decide (bits w6 0 5 ≤ 16) && bits w6 0 1 == 0 && bits w6 5 3 == 0 && decide (1 ≤ bits w6 8 8) && bits w6 16 48 == 0

/-- A replay packet keeps R268 with the limits of R279. -/
def replayOk (w : List Word) : Bool :=
  let w0 := w.getD 0 0
  bits w0 18 6 == 0 && bits w0 0 17 == 0 && bit w0 17 && bits w0 28 20 == 0 && decide (bits w0 24 4 ≤ 7) &&
    globalForm (w.getD 1 0) && bits (w.getD 1 0) 0 8 == 0 && w.getD 2 0 == 0 && globalForm (w.getD 3 0) &&
    bits (w.getD 3 0) 0 3 == 0 && w.getD 6 0 == 0

/-- Where a head stands with its dependency: met, not yet met, or refused with a code (R267). -/
inductive Dep where
  | met | waits
  | refused (code : Nat)
deriving DecidableEq, Repr

/-- The dependency of a packet at a queue (R267), with the read of its counter. A PID without a valid slot is left to the checks of R354. -/
def dependency (s : State) (q : Nat) (w : List Word) : Dep × State :=
  if depFieldsOk w = false then (.refused lFORMAT, s)
  else if w.getD 4 0 = 0 then (.met, s)
  else match s.contextOf (s.regionPid (regionOf (w.getD 0 0))) with
    | none => (.met, s)
    | some (_, c) => match stationRead s q c.root 0 (w.getD 4 0) with
      | (none, t) => (.refused lDEPENDENCY, t)
      | (some v, t) =>
        (if bit v 63 then .refused lDEPENDENCY
        else if bits (w.getD 5 0) 0 48 ≤ bits v 0 48 then .met else .waits, t)

/-! ## Regions (R272, R273) -/

/-- A region that refuses every launch under it (R273). -/
def State.regionBad (s : State) (r : Nat) : Bool :=
  let w0 := s.regionWord r 0
  let w1 := s.regionWord r 1
  !bit w0 0 || bits w0 1 7 != 0 || bits w0 13 19 != 0 || bits w1 14 2 != 0 || bit w1 19 || bits w1 22 10 != 0 ||
    bits w1 45 19 != 0 || bits w1 20 2 == 3 || (bit w0 9 && decide (8192 < bits w1 0 14)) || (bit w0 10 && bits w1 16 3 == 0) ||
    (List.range 6).any fun j => s.regionWord r (j + 2) != 0

/-- The regions from one to its root; none where R273 refuses. -/
def State.ancestry (s : State) : Nat → Nat → Option (List Nat)
  | 0, _ => none
  | n + 1, r =>
    if s.regionBad r then none
    else
      let p := bits (s.regionWord r 0) 48 16
      if p = 0xFFFF then (if bits (s.regionWord r 0) 8 5 = 31 then some [r] else none)
      else (s.ancestry n p).map fun l => r :: l

/-- The resolved values of a region: its path with budgets, priority, policy and first virtual cluster (R273). -/
structure Region where
  path : List (Nat × Nat)
  prio : Nat
  policy : Nat
  vb : Nat
deriving DecidableEq, Repr

/-- Resolve a region; none where it refuses launches. -/
def State.resolve (s : State) (r : Nat) : Option Region :=
  (s.ancestry 16 r).map fun l =>
    { path := l.map fun x => (x, s.regionField 1 1 0 14 16 x), prio := s.regionField 2 1 16 3 16 r
      policy := s.regionField 3 1 20 2 16 r, vb := s.regionField 4 1 32 13 16 r }

/-! ## Code objects (R269) -/

/-- The words of a code object: header and slot table. -/
def readCode (s : State) (q root : Nat) (a : Word) : Option (List Word × List Word) × State :=
  match stationWords s q root a 0 32 with
  | (none, s1) => (none, s1)
  | (some h, s1) =>
    let x := stationWords s1 q root (a + h.getD 3 0) 32 (bits (h.getD 4 0) 0 6)
    (x.1.map fun t => (h, t), x.2)

/-- Personality word of a bank in a header. -/
def headerPers (h : List Word) (b : Nat) : W32 := BitVec.ofNat 32 (bits (h.getD (8 + b / 2) 0) (32 * (b % 2)) 32)

/-- A class word of a header keeps Table 4 under a frame allotment. -/
def classWordOk (w : Word) (nvL : Nat) : Bool :=
  bits w 57 7 == 0 && (!bit w 56 || (bits w 48 1 == 0 && decide (bits w 48 5 ≤ nvL)))

/-- A slot word keeps Table 4. -/
def slotWordOk (w : Word) : Bool := decide (bits w 0 6 ≤ 62 ∧ 1 ≤ bits w 32 32) && bits w 6 2 == 0 && bits w 13 19 == 0

/-- A header and slot table keep Table 4 and fit a packet (R269). -/
def codeOk (h t : List Word) (cls kind nvL : Nat) : Bool :=
  h.getD 0 0 == 1 && bits (h.getD 1 0) 0 6 == 0 && bits (h.getD 3 0) 0 3 == 0 && bits (h.getD 4 0) 6 58 == 0 &&
    h.getD 5 0 == 0 && h.getD 6 0 == 0 && h.getD 7 0 == 0 && headerPers h 15 == 0x00800001#32 &&
    (List.range 16).all (fun b => persOk ((headerPers h b).zeroExtend 64)) &&
    (List.range 16).all (fun n => classWordOk (h.getD (16 + n) 0) nvL) && t.all slotWordOk &&
    decide (bits (h.getD 4 0) 0 6 ≤ 63) && bit (h.getD (16 + cls) 0) 56 && bits (h.getD (16 + cls) 0) 55 1 == kind

/-- What a station keeps of a code object at an address; of two entries for one slot the later holds. -/
def codeObj (a : Word) (h t : List Word) : CodeObj :=
  { base := a
    text := a + h.getD 1 0
    pers := (List.range 16).map (headerPers h)
    classes := ((List.range 16).filter fun n => bit (h.getD (16 + n) 0) 56).map fun n =>
      let w := h.getD (16 + n) 0
      ((n, ⟨a + h.getD 1 0 + BitVec.ofNat 64 (bits w 0 48), bits w 48 5, bits w 53 2, bit w 55⟩) : Nat × ClassE)
    slots := t.foldl (fun l w =>
      l.filter (fun (x : Nat × Option Nat × W32) => x.1 != bits w 0 6) ++
        [(bits w 0 6, (if bit w 12 then none else some (bits w 8 4)), BitVec.ofNat 32 (bits w 32 32))]) [] }

/-- The frame area lies wholly in ARRAY banks (R269, R200). -/
def frameOk (h : List Word) (area : Nat) : Bool :=
  decide (area ≤ 0x40000) && (List.range 16).all fun b => decide (area ≤ b * 0x4000) || kindOf (headerPers h b) == 0

/-- A code object as a station reads it for a launch, or the code that refuses it (R269). -/
def takeCode (s : State) (q root : Nat) (a : Word) (cls kind nvL frames : Nat) : Except Nat CodeObj × State :=
  match readCode s q root a with
  | (none, t) => (.error lFORMAT, t)
  | (some (h, l), t) =>
    (if codeOk h l cls kind nvL = false then .error lFORMAT
    else if frameOk h (frameArea frames nvL) = false then .error lFRAME
    else .ok (codeObj a h l), t)

/-! ## Admission (R354) -/

/-- Clusters that a packet needs (R275). -/
def needOf (w0 : Word) : Nat := if bits w0 28 4 = 1 then bits w0 32 16 else (bits w0 32 16 + 7) / 8

/-- The die or quadrant that a virtual cluster is held to by LOCAL (R295). -/
def areaOf (loc vc : Nat) : Option Nat :=
  match loc with
  | 1 => some (vc / 1024 % 8)
  | 2 => some (vc / 2048 % 4)
  | _ => none

/-- A physical cluster satisfies LOCAL for a virtual cluster (R295). -/
def areaFits (loc vc cl : Nat) : Bool :=
  match loc with
  | 1 => dieOf cl == vc / 1024 % 8
  | 2 => quadrant cl == vc / 2048 % 4
  | _ => true

/-- Clusters in service that satisfy LOCAL for a virtual cluster (R329). -/
def State.serviceFor (s : State) (loc vc : Nat) : Nat :=
  (if loc = 1 then 1024 else if loc = 2 then 2048 else 8192) - (s.outOfService.filter fun k => areaFits loc vc k).length

/-- A COHORT launch fits what its regions and the clusters in service allow at all (R278, R329). -/
def State.cohortFits (s : State) (path : List (Nat × Nat)) (loc vb need : Nat) : Bool :=
  path.all (fun r => decide (need ≤ min r.2 s.inService)) &&
    (List.range need).all fun i =>
      decide (((List.range need).filter fun j => areaOf loc (vb + j) == areaOf loc (vb + i)).length ≤ s.serviceFor loc (vb + i))

/-- The priority of a packet in its region (R268). -/
def prioOf (g : Region) (w0 : Word) : Nat := if bits w0 24 4 = 0 then g.prio else min (bits w0 24 4) g.prio

/-- The admission checks 3 to 7 of R354 on a packet that is no replay: a launch, or the code that refuses it. `param` is its
`LAUNCH` value. The checks go under the kept copy of a live context; the launch keeps the slot as the directory holds it at its admission,
under which it is placed if the context has ended by then (R283). -/
def admitLaunch (s : State) (q order : Nat) (w : List Word) (param : Word) (replay : Option Nat) : Except Nat Launch × State :=
  let w0 := w.getD 0 0
  let w6 := w.getD 6 0
  let r := regionOf w0
  let need := needOf w0
  let cohort := bit w0 16
  match s.resolve r, s.slotsOf (s.regionPid r) with
  | some g, [i] =>
    let pid := s.regionPid r
    let ctx := s.copyFor pid (s.slotCopy i)
    if cohort && !s.cohortFits g.path ctx.loc g.vb need then (.error lCOHORT, s)
    else if g.vb + need - 1 > 8191 then (.error lFORMAT, s)
    else match takeCode s q ctx.root (w.getD 1 0) (bits w0 0 4) (bits w0 28 4) (bits w6 0 5) (bits w6 8 8) with
      | (.error c, t) => (.error c, t)
      | (.ok code, t) => (.ok
          { id := s.nextLaunch, queue := q, order := order, path := g.path, pid := pid, slot := i,
            prio := prioOf g w0, policy := g.policy, vb := g.vb,
            need := need, count := bits w0 32 16, cluster := bits w0 28 4 == 1, cohort := cohort, cls := bits w0 0 4,
            nv := bits w6 0 5, frames := bits w6 8 8, param := param, counter := w.getD 3 0, tag := w.getD 7 0,
            code := code, next := 0, firstPlaced := none, vcs := [], cores := [], replay := replay,
            ctx := s.slotCopy i, held := [], ended := false }, t)
  | _, _ => (.error lREGION, s)

/-! ## Replays (R279, R280) -/

/-- Entry i of a chain: its packet and the length of its parameter block; none where it breaks R279. -/
def chainEntry (region : Nat) (l : List Word) : Option (List Word × Nat) :=
  let n := (l.getD 8 0).toNat
  if (n ≤ 4096 ∧ n % 8 = 0) ∧ ((l.drop 9).all (· == 0) && packetOk (l.take 8) && regionOf (l.getD 0 0) == region) = true then
    some (l.take 8, n)
  else none

/-- The entries of a chain with their parameter words; none where the replay is refused. -/
def chainEntries (s : State) (q root region : Nat) (a : Word) : Nat → Nat → Option (List (List Word × List Word)) × State
  | _, 0 => (some [], s)
  | i, n + 1 =>
    match stationWords s q root (plus a (64 + 128 * i)) (8 + 1024 * i) 16 with
    | (none, s1) => (none, s1)
    | (some l, s1) => match chainEntry region l with
      | none => (none, s1)
      | some (p, len) => match stationWords s1 q root (p.getD 2 0) (24 + 1024 * i) (len / 8) with
        | (none, s2) => (none, s2)
        | (some ws, s2) =>
          let x := chainEntries s2 q root region a (i + 1) n
          (x.1.map fun t => (p, ws) :: t, x.2)

/-- Copy the parameter blocks to the snapshots (R279). -/
def copySnapshots (q root : Nat) (base : Word) : Nat → List (List Word × List Word) → State → Bool × State
  | _, [], s => (true, s)
  | i, (_, ws) :: t, s => match stationStore s q root (plus base (4096 * i)) ws with
    | (false, s1) => (false, s1)
    | (true, s1) => copySnapshots q root base (i + 1) t s1

/-- A chain as a station takes it: its packets with their snapshot addresses, once its entries are checked and its snapshots made; none where
it is refused (R279, R280). A snapshot that cannot be written refuses it as well (notes/assumptions/25). -/
def takeChain (s : State) (q root region : Nat) (a : Word) : Option (List (List Word)) × State :=
  match stationWords s q root a 0 8 with
  | (none, s1) => (none, s1)
  | (some h, s1) =>
    let n := bits (h.getD 0 0) 0 7
    if bits (h.getD 0 0) 7 57 ≠ 0 ∨ n = 0 ∨ n > 64 ∨ bits (h.getD 1 0) 0 12 ≠ 0 ∨ (h.drop 2).any (· != 0) = true then (none, s1)
    else match chainEntries s1 q root region a 0 n with
      | (none, s2) => (none, s2)
      | (some es, s2) => match copySnapshots q root (h.getD 1 0) 0 es s2 with
        | (false, s3) => (none, s3)
        | (true, s3) =>
          (some ((List.range n).map fun j => setAt ((es.getD j ([], [])).1) 2 (plus (h.getD 1 0) (4096 * j))), s3)

/-- Take a replay: its chain is taken, or it is refused with a code (R279, R280, R354). -/
def takeReplay (s : State) (q order : Nat) (w : List Word) : Option Nat × State :=
  let r := regionOf (w.getD 0 0)
  match s.resolve r, s.slotsOf (s.regionPid r) with
  | some _, [i] =>
    let pid := s.regionPid r
    let ctx := s.slotCopy i
    (match takeChain s q (s.copyFor pid ctx).root r (w.getD 1 0) with
    | (none, t) => (some lFORMAT, t)
    | (some ps, t) =>
      (none, { t with replays := t.replays ++ [⟨t.nextLaunch, q, order, pid, ctx, w.getD 3 0, ps, none⟩], nextLaunch := t.nextLaunch + 1 }))
  | _, _ => (some lREGION, s)

/-! ## Taking a head -/

/-- The packet words of a queue entry. -/
def QEntry.packet (e : QEntry) : List Word := (List.range 8).map fun i => aget 0 e.words i

/-- A peer packet whose region no matching entry of the access-control table names (R281). -/
def peerDenied (s : State) (q : Nat) (e : QEntry) : Bool :=
  match e.peer with
  | none => false
  | some m => (s.aclFor m q).all fun x => bits x.1 16 16 != regionOf (aget 0 e.words 0)

/-- The head of a queue. -/
def Queue.head (x : Queue) : Option QEntry := x.entries.find? fun e => e.ticket == x.take

/-- Something already taken from a queue waits for placement: it holds the queue back (R275). -/
def State.queueBusy (s : State) (q : Nat) : Bool := s.launches.any fun l => l.queue == q && l.waiting

/-- The head that a station may take from a queue: it is pushed, and nothing taken from the queue before it waits for placement (R266, R275). -/
def State.readyHead (s : State) (q : Nat) : Option (QEntry × Nat) :=
  if s.queueBusy q then none else (s.queue q).head.bind fun e => e.pushed.map fun n => (e, n)

/-- The launch of an admitted packet is kept. -/
def State.keepLaunch (s : State) (l : Launch) : State := { s with launches := s.launches ++ [l], nextLaunch := s.nextLaunch + 1 }

/-- A station takes the head of a queue once it is pushed and its dependency is met (R266, R267), checks it in the order of R354, and
admits or refuses it (R268 to R271). -/
def execLaunchTake (q : Nat) (s : State) : Host.Outcome State Fault Refusal :=
  match s.readyHead q with
  | none => .next s
  | some (e, order) =>
    let w := e.packet
    let w0 := w.getD 0 0
    let d := dependency s q w
    let x := d.2.queue q
    let s1 := d.2.setQueue q (({ x with take := x.take + 1, entries := x.entries.filter fun y => y.ticket != e.ticket } : Queue).skip 32)
    let refuse (t : State) (code : Nat) : Host.Outcome State Fault Refusal :=
      .next (t.reportPacket q (s.regionPid (regionOf w0)) (w.getD 3 0) code)
    match d.1 with
    | .waits => .next d.2
    | .refused c => refuse s1 c
    | .met =>
      if (if bit w0 17 then replayOk w else packetOk w) = false then refuse s1 lFORMAT
      else if peerDenied s q e then refuse s1 lACCESS
      else if bit w0 17 then
        (match takeReplay s1 q order w with
        | (some c, t) => refuse t c
        | (none, t) => .next t)
      else match admitLaunch s1 q order w (w.getD 2 0) none with
        | (.error c, t) => refuse t c
        | (.ok l, t) => .next (t.keepLaunch l)

/-- A reserved entry that stays incomplete for 2^24 cycles is discarded (R266). -/
def execEntryDiscard (q : Nat) (s : State) : Host.Outcome State Fault Refusal :=
  let x := s.queue q
  match x.entries.find? fun e => e.pushed.isNone && decide (2 ^ 24 ≤ (s.cyc - e.at_).toNat) with
  | none => .next s
  | some e =>
    .next (s.setQueue q (({ x with discarded := x.discarded + 1, entries := x.entries.filter fun y => y.ticket != e.ticket } : Queue).skip 32))

/-- The next entry of a replay is taken once the entry before it has ended (R279); one that is refused ends the replay. -/
def execReplayEntryStart (id : Nat) (s : State) : Host.Outcome State Fault Refusal :=
  match s.replays.find? fun x => x.id == id && x.current.isNone with
  | none => .next s
  | some x => match x.entries with
    | [] => .next s
    | w :: t => match admitLaunch s x.queue x.order w (w.getD 2 0) (some id) with
      | (.error c, s1) =>
        .next ((s1.reportLaunch x.queue (some (s.copyFor x.pid x.ctx).root) (w.getD 3 0) (some c)).failReplay (some id) c)
      | (.ok l, s1) =>
        .next { s1.keepLaunch l with
          replays := s1.replays.map fun (y : Replay) => if y.id = id then { y with entries := t, current := some l.id } else y }

/-! ## Placement -/

/-- Errors within a window at which a cluster is retired at its next launch boundary (R328). -/
def wornOut : Nat := 16

/-- A cluster that a launch may be given, as far as the cluster itself goes: powered, in service, not due for retirement (R328), empty, and
without a sealed core. -/
def State.vacant (s : State) (cl : Nat) (k : Cluster) : Bool :=
  k.powered && decide (cl < 8192) && k.launch == 0 && k.evict == .none && !s.outOfService.contains cl && decide (k.errors < wornOut) &&
    (List.range 8).all fun j => (k.core j).run != .sealed

/-- For whom a vacant cluster stands reserved: the launch it was evicted for, while that launch waits (R297), or a set that must resume
on it (R327). -/
inductive Reserved where
  | no
  | launch (id : Nat)
  | set (n : Nat)
deriving DecidableEq, Repr

/-- The reservation of a cluster. -/
def State.reservedFor (s : State) (cl : Nat) : Reserved :=
  match s.evicted.find? fun e => e.phys == cl && e.saved && e.target.isNone && e.spareDie.isSome with
  | some e => .set e.set
  | none => match s.evicted.find? fun e => e.phys == cl && e.saved && (match e.forLaunch with
      | some i => (match s.launchNo i with | some l => l.waiting | none => false)
      | none => false) with
    | some e => (match e.forLaunch with | some i => .launch i | none => .no)
    | none => .no

/-- Clusters that some COHORT launches hold against another launch of their path (R278). -/
def heldAgainst (cs : List Launch) (l : Launch) (cl : Nat) : Bool := cs.any fun c => c.id != l.id && c.shares l && c.held.contains cl

/-- The vacant clusters that a launch may take beside some COHORT launches. -/
def State.poolBeside (s : State) (cs : List Launch) (l : Launch) : List Nat :=
  (s.clusters.filter fun p => s.vacant p.1 p.2 && (s.reservedFor p.1 == .no || s.reservedFor p.1 == .launch l.id) &&
    !heldAgainst cs l p.1).map (·.1)

/-- The vacant clusters that a launch may take. -/
def State.poolFor (s : State) (l : Launch) : List Nat := s.poolBeside s.topCohorts l

/-- Clusters that count against a region: those placed, and those held for a launch that evicted for them (R273, R297). -/
def State.usedIn (s : State) (r except : Nat) : Nat :=
  let under (id : Nat) : Bool := match s.launchNo id with | some l => l.path.any fun x => x.1 == r | none => false
  (s.clusters.filter fun p => p.2.launch != 0 && under p.2.launch).length +
    (s.evicted.filter fun e => match s.reservedFor e.phys with
      | .launch i => e.saved && i != except && under i
      | _ => false).length

/-- What a waiting COHORT launch keeps from another launch of its path: all it needs from one that ranks behind it, and what has been
released for it from any other (R278). -/
def cohortShare (c l : Launch) : Nat := if c.before l then c.need else c.held.length

/-- Clusters that the budgets on a launch's path still allow it beside some COHORT launches (R273, R278, R329). -/
def State.roomBeside (s : State) (cs : List Launch) (l : Launch) : Nat :=
  l.path.foldl (fun m r =>
    let held := (cs.filter fun c => c.id != l.id && c.path.any fun x => x.1 == r.1).foldl (fun n c => n + cohortShare c l) 0
    min m (min r.2 s.inService - s.usedIn r.1 l.id - held)) 8192

/-- Clusters that the budgets on a launch's path still allow it. -/
def State.roomFor (s : State) (l : Launch) : Nat := s.roomBeside s.topCohorts l

/-- Vacant clusters that must be left for COHORT launches of its path that rank before a launch (R278). -/
def State.leaveFor (s : State) (l : Launch) : Nat :=
  (s.topCohorts.filter fun c => c.id != l.id && c.shares l && c.before l).foldl (fun n c => n + (c.need - c.held.length)) 0

/-- Take one of some clusters; which one the spec leaves open (notes/assumptions/19). -/
def pickOne (s : State) (seed : Nat) (l : List Nat) : Option Nat :=
  match l with
  | [] => none
  | [x] => some x
  | l => l[Config.pick s.free seed % l.length]?

/-- Give virtual clusters their physical ones, in order, until one finds none (R276, R277, R295). -/
def assign (s : State) (loc : Nat) : List Nat → List Nat → List (Nat × Nat)
  | [], _ => []
  | v :: t, pool => match pickOne s v (pool.filter fun c => areaFits loc v c) with
    | none => []
    | some c => (v, c) :: assign s loc t (pool.erase c)

/-- The slot under which a launch places, and the copy: those of the live context, else its own. -/
def State.slotNow (s : State) (l : Launch) : Nat × CtxCopy := match s.liveCopy l.pid with | some p => p | none => (l.slot, l.ctx)

/-- The slot's kept copy belongs to another context: the launch waits (notes/assumptions/25). -/
def State.slotTaken (s : State) (l : Launch) : Bool :=
  match afind s.contexts (s.slotNow l).1 with
  | some c => c.pid != l.pid
  | none => false

/-- The virtual clusters that a launch is due to place next: those still free in its context, in order, up to the first that another
launch holds (R277). -/
def State.dueVcs (s : State) (l : Launch) : List Nat :=
  if s.slotTaken l then []
  else ((List.range (l.need - l.next)).map fun i => l.vb + l.next + i).takeWhile fun v => (placed s (s.slotNow l).1 v).isNone

/-- What a placement step gives a launch: virtual clusters with their physical ones (R275 to R278). -/
def State.placement_ (s : State) (l : Launch) : List (Nat × Nat) :=
  let vs := s.dueVcs l
  let pool := s.poolFor l
  let limit := min (s.roomFor l) (pool.length - s.leaveFor l)
  let got := assign s (s.slotNow l).2.loc (vs.take limit) pool
  if l.cohort && got.length != l.need then [] else got

/-- A packet ranks before a priority and a push, under its region's priority (R275). -/
def State.packetBefore (s : State) (w : List Word) (order prio push : Nat) : Bool :=
  match s.resolve (regionOf (w.getD 0 0)) with
  | none => false
  | some g => let p := prioOf g (w.getD 0 0); decide (prio < p) || (p == prio && decide (order < push))

/-- A packet that ranks before a priority and a push is due to be taken first: the pushed head of a queue with its dependency met, or the next
entry of a replay (R275, R279; notes/assumptions/25). -/
def State.takesBefore (s : State) (prio push : Nat) : Bool :=
  (List.range 64).any (fun q => match s.readyHead q with
    | none => false
    | some (e, n) => s.packetBefore e.packet n prio push && (dependency s q e.packet).1 == .met) ||
  s.replays.any fun x => x.current.isNone && match x.entries with
    | [] => false
    | w :: _ => s.packetBefore w x.order prio push

/-- A packet that ranks before a launch is due to be taken first (R275). -/
def State.takesFirst (s : State) (l : Launch) : Bool := s.takesBefore l.prio l.order

/-- A set of evicted clusters of a priority or above waits to resume, its saves complete or not (R304). -/
def State.setsAbove (s : State) (prio : Nat) : Bool := s.evicted.any fun e => e.target.isNone && decide (prio ≤ e.prio)

/-- A launch may be placed now: nothing that ranks before it is still to be taken or can be placed, and no evicted set of its priority or
above waits (R275, R304). -/
def State.mayPlace (s : State) (l : Launch) : Bool :=
  l.waiting && !s.takesFirst l && !s.setsAbove l.prio &&
    s.launches.all fun m => m.id == l.id || !m.waiting || !m.before l || s.placement_ m == []

/-- The cores of cluster i of a launch that receive a task message (R276). -/
def Launch.groupCores (l : Launch) (i : Nat) : List Nat :=
  if l.cluster then List.range 8 else (List.range 8).filter fun j => decide (8 * i + j < l.count)

/-- The header of a task message (R276). -/
def taskHeader (l : Launch) (vc core : Nat) : Word := BitVec.ofNat 64 (vc * 2 ^ 51 + core * 2 ^ 48 + l.cls * 2 ^ 40 + 63 * 2 ^ 34)

/-- A launch station as a source. -/
def stationRef (q : Nat) : CoreRef := ⟨8192 + q, 0⟩

/-- A task message on its way (R276, R194). -/
def taskFlight (s : State) (l : Launch) (slot vc core : Nat) : Flight :=
  { rel := none, src := stationRef l.queue, fromStation := true, slot := slot, vc := vc, core := core, chan := 0,
    body := .msg (msgItem (taskHeader l vc core) (BitVec.ofNat 64 (0xC * 2 ^ 60 + l.queue)) s.cyc []), addr := 0, recq := 0,
    since := none, launch := l.id, pid := l.pid, issue := 0, eng := none, backed := false, joined := false, stage := .bank }

/-- `CID` and `GID` of a core of cluster i of a launch (R276); those of a core without a group are free values
(notes/assumptions/24). -/
def idsOf (s : State) (l : Launch) (i j : Nat) : Word × Word :=
  if l.cluster then (BitVec.ofNat 64 (8 * i + j), BitVec.ofNat 64 i)
  else if 8 * i + j < l.count then (BitVec.ofNat 64 (8 * i + j), BitVec.ofNat 64 (8 * i + j))
  else (Config.freeWord (s.free + j), Config.freeWord (s.free + 8 + j))

/-- A core as a launch finds it. -/
def Launch.startCore (s : State) (l : Launch) (i j : Nat) (c : Core) : Core :=
  let ids := idsOf s l i j
  c.startLaunch l.code.pers l.code.classes l.code.slots l.cls l.frames l.nv l.pid l.id ids.1 ids.2 l.param

/-- When the matrix unit of cluster n of a placement step has ramped (R15): windows of 190 cycles. -/
def rampEnd (s : State) (n : Nat) : Word := s.cyc + BitVec.ofNat 64 (190 * (n / 512 + 1))

/-- Load the first 1 KiB of a routine into a cluster's instruction cache (R282), halfword by halfword as far as it can be fetched. -/
def loadRoutine (s : State) (cl : Nat) (a : Word) : State :=
  (List.range 512).foldl (fun (s : State) i => fetchEffect s cl none (plus a (2 * i))) s

/-- Place cluster n of a step: the placement entry first, then the cores, then the task messages (R276). -/
def placeOne (l : Launch) (slot : Nat) (s : State) (n vc cl : Nat) : State :=
  let i := vc - l.vb
  let s1 := { s with placement := aput s.placement (slot * 8192 + vc) ⟨false, cl⟩ }
  let s2 := s1.updCluster cl fun k =>
    let fresh : Cluster := { k.vacated with launch := l.id, slot := slot, pid := l.pid, vc := vc, rampAt := rampEnd s n }
    (List.range 8).foldl (fun (x : Cluster) j => x.setCore j (l.startCore s i j (k.core j))) fresh
  let s3 := match afind l.code.classes l.cls with | some e => loadRoutine s2 cl e.routine | none => s2
  { s3 with flight := s3.flight ++ (l.groupCores i).map fun j => taskFlight s l slot vc j }

/-- Place a list of clusters one after the other. -/
def placeAll (l : Launch) (slot : Nat) : Nat → List (Nat × Nat) → State → State
  | _, [], s => s
  | n, (vc, cl) :: t, s => placeAll l slot (n + 1) t (placeOne l slot s n vc cl)

/-- Clusters are given to a launch, with the code object that the station has read for them (R269, R276). -/
def State.place (s : State) (l : Launch) (code : CodeObj) (got : List (Nat × Nat)) : State :=
  let ctx := s.slotNow l
  let s1 := { s with contexts := aput s.contexts ctx.1 ctx.2 }
  let s2 := placeAll { l with code := code } ctx.1 0 got s1
  { s2 with launches := s2.launches.map fun (m : Launch) =>
      if m.id = l.id then
        { m with slot := ctx.1, next := m.next + got.length, firstPlaced := m.firstPlaced.or (some s.free),
                 vcs := m.vcs ++ got.map (·.1), held := if m.next + got.length < m.need then m.held else [], code := code,
                 cores := m.cores ++ got.flatMap fun p => (l.groupCores (p.1 - l.vb)).map fun j => (p.1, j) }
      else m }

/-- A launch none of whose groups is placed yet is refused with a code (R269, R270). -/
def State.refuseLaunch (s : State) (l : Launch) (code : Nat) : State :=
  (({ s with launches := s.launches.filter fun m => m.id != l.id } : State).reportLaunch l.queue (some (s.slotNow l).2.root) l.counter
    (some code)).failReplay l.replay code

/-- One placement step of a launch (R275 to R278, R283). The station reads the code object again and applies what it reads (R269): a launch
whose object no longer keeps the rule is refused, or, once a group of it is placed, goes on with what was last read
(notes/assumptions/25). -/
def execLaunchPlace (id : Nat) (s : State) : Host.Outcome State Fault Refusal :=
  match s.launchNo id with
  | none => .next s
  | some l =>
    let got := if s.mayPlace l then s.placement_ l else []
    if got = [] then .next s
    else match takeCode s l.queue (s.slotNow l).2.root l.code.base l.cls l.cluster.toNat l.nv l.frames with
      | (.ok code, t) => .next (t.place l code got)
      | (.error c, t) => .next (if l.next = 0 then t.refuseLaunch l c else t.place l l.code got)

/-! ## The end of a launch (R270, R279) -/

/-- A replay goes on, or ends with its counter advanced, when an entry has ended (R279). -/
def State.replayOn (s : State) (id : Option Nat) : State :=
  match id with
  | none => s
  | some r => match s.replays.find? fun x => x.id == r with
    | none => s
    | some x =>
      if x.entries = [] then
        { s with replays := s.replays.filter fun y => y.id != r }.reportLaunch x.queue (some (s.copyFor x.pid x.ctx).root) x.counter none
      else { s with replays := s.replays.map fun (y : Replay) => if y.id = r then { y with current := none } else y }

/-- A launch has ended on every core that received one of its task messages: its counter is advanced (R270). -/
def execLaunchComplete (id : Nat) (s : State) : Host.Outcome State Fault Refusal :=
  match s.launchNo id with
  | none => .next s
  | some l =>
    if l.ended ∨ l.waiting = true ∨ l.cores ≠ [] then .next s
    else
      let s1 := s.reportLaunch l.queue (some (s.copyFor l.pid l.ctx).root) l.counter none
      let s2 := s1.replayOn l.replay
      .next ({ s2 with launches := s2.launches.map fun (m : Launch) => if m.id = id then { m with ended := true } else m }.dropLaunch id)

end Sys2Proof.Machine
end

