-- ==== Sys2Proof/Machine/Evictions.lean ====
section
/-! DEFINITION. Eviction and resumption of clusters (R297 to R305), with the save block (R301 to R303). -/
namespace Sys2Proof.Machine

/-! ## Choosing victims (R297, R298) -/

/-- A free cluster would not place a waiting launch: it waits for virtual clusters of its context, or for room in a budget. -/
def State.waitsElsewhere (s : State) (m : Launch) : Bool :=
  let need := if m.cohort then m.need else 1
  decide ((s.dueVcs m).length < need) || decide (s.roomFor m < need)

/-- A launch is the one that placement would serve next: nothing that ranks before it is still to be taken or waits for clusters (R275, R297,
R304). -/
def State.servedNext (s : State) (l : Launch) : Bool :=
  l.waiting && s.placement_ l == [] && !s.waitsElsewhere l && !s.takesFirst l && !s.setsAbove l.prio &&
    s.launches.all fun m => m.id == l.id || !m.waiting || !m.before l || s.waitsElsewhere m

/-- The virtual clusters for which a launch needs clusters (R297): all of a COHORT launch; of another, the next, or, under LOCAL 1 or 2, all
that its budgets allow it (notes/assumptions/26). -/
def State.needVcs (s : State) (l : Launch) : List Nat :=
  if l.cohort then s.dueVcs l
  else if (s.slotNow l).2.loc = 0 then (s.dueVcs l).take 1
  else (s.dueVcs l).take (s.roomFor l)

/-- The areas that some virtual clusters are held to, each with the first of them and their number (R295). -/
def areasOf (loc : Nat) (vs : List Nat) : List (Nat × Nat) :=
  vs.foldl (fun (l : List (Nat × Nat)) v =>
    if l.any fun p => areaOf loc p.1 == areaOf loc v then l.map fun p => if areaOf loc p.1 = areaOf loc v then (p.1, p.2 + 1) else p
    else l ++ [(v, 1)]) []

/-- A cluster that may be evicted for a launch (R297). -/
structure Candidate where
  cl : Nat
  launch : Nat
  prio : Nat
  placedAt : Nat
  vc : Nat
deriving DecidableEq, Repr

/-- The order in which candidates are taken (R297). -/
def Candidate.before (a b : Candidate) : Bool :=
  decide (a.prio < b.prio) || (a.prio == b.prio && (decide (b.placedAt < a.placedAt) ||
    (a.placedAt == b.placedAt && decide (b.vc < a.vc))))

/-- Put a candidate in its place. -/
def insertCandidate (x : Candidate) : List Candidate → List Candidate
  | [] => [x]
  | y :: t => if x.before y then x :: y :: t else y :: insertCandidate x t

/-- The candidates for a launch, in order. -/
def State.candidates (s : State) (l : Launch) : List Candidate :=
  (s.clusters.filterMap fun p =>
    if p.2.launch = 0 ∨ p.2.evict ≠ .none then none
    else match s.launchNo p.2.launch with
      | none => none
      | some v => if v.prio < l.prio then some (⟨p.1, v.id, v.prio, v.firstPlaced.getD 0, p.2.vc⟩ : Candidate) else none).foldl
    (fun t x => insertCandidate x t) []

/-- Choose the victims for each area: none at all unless every area has enough. -/
def chooseVictims (loc : Nat) (pool : List Nat) : List (Nat × Nat) → List Candidate → Option (List Candidate)
  | [], _ => some []
  | (v, n) :: t, cs =>
    let free := (pool.filter fun c => areaFits loc v c).length
    let mine := (cs.filter fun c => areaFits loc v c.cl).take (n - free)
    if mine.length < n - free then none else (chooseVictims loc pool t cs).map fun r => mine ++ r

/-- Blocks of the eviction pool that are free (R298). -/
def State.freeBlocks (s : State) : List Nat :=
  (List.range (s.ctlGet Reg.evcount).toNat).filter fun i => s.evicted.all fun e => e.block != i

/-- The base of a save block (R298). -/
def State.blockBase (s : State) (i : Nat) : Nat := bits (s.ctlGet Reg.evbase) 12 40 * 4096 + 0x240000 * i

/-- An eviction for a launch is under way. -/
def State.evictingFor (s : State) (id : Nat) : Bool := s.evicted.any fun e => e.forLaunch == some id && !e.saved

/-- Begin the eviction of one cluster: its placement entry becomes moving (R299). -/
def State.startEviction (s : State) (e : Evicted) : State :=
  let slot := (s.cluster e.phys).slot
  { s.updCluster e.phys fun k => { k with evict := .moving } with
    placement := aput s.placement (slot * 8192 + e.vc) ⟨true, e.phys⟩
    evicted := s.evicted ++ [e] }

/-- The number of the set of a launch's clusters in an eviction: they resume together (R304). -/
def setNo (first : Nat) (ls : List Nat) (launch : Nat) : Nat := first + (ls.findIdx? (· == launch)).getD 0

/-- A launch takes clusters from launches of lower priority (R297, R298), while PREEMPT is 1 (R3). -/
def execEvictionStart (id : Nat) (s : State) : Host.Outcome State Fault Refusal :=
  match s.launchNo id with
  | none => .next s
  | some l =>
    if bit s.feat0 5 = false ∨ s.servedNext l = false ∨ s.evictingFor id = true then .next s
    else
      let loc := (s.slotNow l).2.loc
      match chooseVictims loc (s.poolFor l) (areasOf loc (s.needVcs l)) (s.candidates l) with
      | none => .next s
      | some vs =>
        let blocks := s.freeBlocks
        if vs = [] ∨ blocks.length < vs.length then .next s
        else
          let ls := (vs.map (·.launch)).eraseDups
          let s1 := (vs.zip blocks).foldl (fun (s : State) p =>
            s.startEviction ⟨setNo s.nextSet ls p.1.launch, p.1.launch, p.1.vc, p.1.cl, p.2, some id, p.1.prio, false, none, [], none,
              none⟩) s
          .next { s1 with nextSet := s1.nextSet + ls.length }

/-! ## Stopping (R299, R300) -/

/-- A core stands at an instruction boundary, or at an access that is to be issued again. -/
def Core.settled (c : Core) : Bool :=
  c.conv.isNone && c.after == [] && match c.pend with
    | none => true
    | some a => match a.stage with
      | .retry _ | .backoff _ _ => true
      | _ => false

/-- The engine work of a cluster has settled: no command holds the array, and no tile can be written. -/
def State.enginesSettled (s : State) (cl : Nat) : Bool :=
  let k := s.cluster cl
  (List.range 8).all (fun j => (k.core j).mq.all fun q => q.stage != .granted) &&
    k.port.all fun j => (tileWrite s cl j).isNone

/-- Abandon what a core waits for: it is executed again whole (R299), a lane-by-lane access from the lane at which it was taken up, which
`VPROG` still holds (R140). -/
def Core.abandon (c : Core) (now : Word) : Core :=
  let c := match c.pend with
    | none => c
    | some a => if a.reissue then { c with reissue := some ⟨a.tag, a.addr, a.idx, a.op, a.instr, now⟩ } else c
  { c with pend := none, wait := none }

/-- The workspace of a running activation: in trap mode, that of the code that trapped. -/
def Core.workspace (c : Core) : Nat := if c.tm then (c.cr_ Cr.twpsave).toNat else c.wp

/-- What the stop of an activation leaves in its frame header at an eviction (R20; notes/assumptions/26). -/
def Core.saveAct (c : Core) : Core := if c.act.isSome then c.saveHeader c.workspace c.pc else c

/-- A copy request as it starts again (R300). -/
def CReq.afresh (q : CReq) : CReq :=
  { q with started := false, block := [], coords := [], moved := 0, got := none, image := [], since := none, till := 0 }

/-- A rule job as it starts again (R300). -/
def Job.afresh (j : Job) : Job :=
  { j with running := false, words := [], table := [], off := 0, med := Med.start 0, got := [], row := none, since := none, till := 0 }

/-- A cluster whose cores have stopped, as it is streamed out. -/
def Cluster.stilled (k : Cluster) (now : Word) : Cluster :=
  let k1 := (List.range 8).foldl (fun (k : Cluster) j =>
    let c := ((k.core j).abandon now).saveAct
    k.setCore j { c with copies := c.copies.map CReq.afresh, mq := c.mq.map fun q => { q with since := none } }) k
  { k1 with jobs := k1.jobs.map Job.afresh, evict := .streaming }

/-- Streaming begins when all eight cores have stopped, of which a sealed one has, and the engine work has settled (R299). -/
def execSaveStreamStart (cl : Nat) (s : State) : Host.Outcome State Fault Refusal :=
  let k := s.cluster cl
  if k.evict == .moving && ((List.range 8).all fun j => (k.core j).run == .sealed || (k.core j).settled) && s.enginesSettled cl then
    .next (s.updCluster cl fun k => k.stilled s.cyc)
  else .next s

/-- The items of a cluster that its router holds or that its engines' moved homes keep, with all that waits behind them (R294, R300). -/
def State.heldOut (s : State) (cl launch : Nat) : List Flight :=
  s.flight.foldl (fun (l : List Flight) f =>
    if !f.fromStation && f.src.cl == cl && f.launch == launch &&
        ((match f.stage with | .retry _ => true | _ => false) || l.any fun g => g.precedes s f) then l ++ [f] else l) []

/-- A held item that is saved: a core's, or an engine's whose command has ended; a command that starts again writes again (R300). -/
def Flight.savedOut (s : State) (f : Flight) : Bool := f.eng.isNone || f.ended s

/-! ## The save block (R301, R302) -/

/-- A list cut or filled to a length. -/
def fit (n : Nat) (l : List Word) : List Word := (l ++ List.replicate n 0).take n

/-- A number as a word. -/
def wd (n : Nat) : Word := BitVec.ofNat 64 n

/-- The words of a bank (R301). -/
def bankWords (hid : Nat → Word) (b : Bank) : List Word :=
  [b.pers.zeroExtend 64,
   wd (b.first + b.gsize * 16 + (if b.shard then 64 else 0) + (b.keepClass.getD 0) * 128 + (if b.keepClass.isSome then 2048 else 0))] ++
    (List.range 14).map hid

/-- The words of a trigger slot (R301). -/
def trigWords (t : Trig) : List Word :=
  [t.remaining.zeroExtend 64, t.early.zeroExtend 64,
   wd ((match t.st with | .disarmed => 0 | .armed => 1 | .pending => 2) + (t.binding.getD 0) * 4 + (if t.binding.isNone then 64 else 0)),
   t.arg]

/-- The ready queue of a core, head first. -/
def Core.readyOrder (c : Core) : List Ready := [3, 2, 1, 0].flatMap fun lv => c.ready.filter fun e => e.level == lv

/-- A core as a save block holds it: its ready entries with the cycles that they have waited (R301, R305). -/
def Core.image (c : Core) (now : Word) : Core := { c with ready := c.readyOrder.map fun e => { e with since := now - e.since } }

/-- A core that a save block gives back: its ready entries go on waiting (R305). -/
def Core.wake (c : Core) (now : Word) : Core := { c with ready := c.ready.map fun e => { e with since := now - e.since } }

/-- A ready entry's word (R301): `since` holds the cycles it has waited. -/
def readyWord (stride : Nat) (e : Ready) : Word :=
  wd (e.cls + e.level * 16 + (e.item.getD 255) * 256 + e.since.toNat % 2 ^ 32 * 65536 +
    (match e.resume with | some a => a.frame / stride | none => 0) % 2 ^ 16 * 2 ^ 48)

/-- A class entry's words (R301). -/
def classWords (text : Word) (e : Option ClassE) : List Word :=
  match e with
  | none => [0, 0]
  | some e => [wd (bits (e.routine - text) 0 48 + e.nv * 2 ^ 48 + e.prio * 2 ^ 53 + (if e.cluster then 2 ^ 55 else 0) + 2 ^ 56), 0]

/-- The words of a copy request (R301). -/
def CReq.blockWords (q : CReq) : List Word := [q.w0, q.w1, q.w2, q.w3]

/-- The words of a rule job (R302). -/
def Job.blockWords (j : Job) : List Word := [j.desc, wd (j.core + j.num % 2 ^ 32 * 2 ^ 32)]

/-- A saved matrix command's words (R301). -/
def mcmdWords (q : MCmd) : List Word :=
  [wd (q.instr.word.toNat % 2 ^ 32 + q.arb * 2 ^ 32 + (if q.nsat then 2 ^ 36 else 0)), q.sa, q.sb, q.sc, q.sc1, 0, 0, 0]

/-- The words of a reissue record (R301). -/
def reissueWords (r : Option Reissue) : List Word :=
  match r with
  | none => List.replicate 6 0
  | some r =>
    let x := match r.op with
      | .amo _ _ b d => (b, d)
      | .store _ d => (d, r.idx)
      | _ => (r.idx, 0)
    [wd r.tag, r.addr, wd (bits r.instr.word 27 5 + bits r.instr.word 22 5 * 32), x.1, x.2, r.cyc]

/-- The first 8 KiB of a core's area, as words (Table 1 of spec/20). -/
def coreWords (s : State) (text : Word) (stride : Nat) (hid : Nat → Word) (c : Core) : List Word :=
  (List.range 80).map (fun n => if (crLayout n).isSome then crRead s c n else 0) ++
    [c.pc, wd ((if c.act.isSome then 1 else 0) + (if c.engPend then 2 else 0))] ++ reissueWords c.reissue ++
    (List.range 4).map (fun i => wd (c.flagsRead (8 * i) 8)) ++
    (List.range 3).map (fun i => match afind c.keeps (i + 1) with | some p => wd (p.1.toNat + p.2 * 65536) | none => 0) ++
    [c.freeHead] ++ (List.range 16).flatMap (fun b => bankWords (fun i => hid (0x310 + 128 * b + 8 * i)) (c.bank b)) ++
    (List.range 64).flatMap (fun k => trigWords (c.trig k)) ++
    fit 64 (c.readyOrder.map (readyWord stride)) ++
    (List.range 16).flatMap (fun n => classWords text (afind c.classes n)) ++
    fit 64 (c.copies.flatMap CReq.blockWords) ++ fit 128 (c.mq.flatMap mcmdWords) ++
    fit 128 (match c.held with | h :: _ => h.words | [] => [])

/-- The image of the group's `REPSTATE` (R302): its leader's, at the position and pass that the front end issues next. -/
def Cluster.repImage (k : Cluster) : Word :=
  match k.group.rep, k.leader with
  | some x, some j => let c := k.core j; repState c.repStag (c.repStride - 1) c.repLen x.pos x.pass
  | _, _ => 0

/-- The word of a fetched instruction (R302). -/
def Fetched.word (e : Fetched) : Nat :=
  match e with
  | .instr i => i.word.toNat % 2 ^ 32
  | .bad w _ => w.toNat
  | .fault _ => 0

/-- 32-bit words in pairs. -/
def pairUp : List Nat → List Word
  | [] => []
  | [a] => [wd a]
  | a :: b :: t => wd (a % 2 ^ 32 + b % 2 ^ 32 * 2 ^ 32) :: pairUp t

/-- The cluster's area, as words (Table 2 of spec/20). -/
def clusterWords (hid : Nat → Word) (outbound : Nat) (k : Cluster) : List Word :=
  let mask (p : Core → Bool) : Nat := (List.range 8).foldl (fun m j => if p (k.core j) then m + 2 ^ j else m) 0
  let once := k.onces.getLast?
  let post := once.bind (·.result)
  let rep := k.repImage
  let acc (n : Nat) : Acc := (k.core (n / 4)).acc (n % 4)
  [wd (1 + k.vc * 65536 + k.pid * 2 ^ 32), k.group.pc,
   wd (mask (·.att) + mask (·.arrived) * 256 + (match k.group.join with
     | some (n, b) => n * 65536 + (if b then 2 ^ 20 else 0) + 2 ^ 21
     | none => 0)),
   wd (match once with
     | some o => (o.receivers.filter fun j => o.elected != some j).foldl (fun m j => m + 2 ^ j) 0 +
         (o.elected.getD 0) * 256 + (if o.result.isSome then 2048 else 0)
     | none => 0)] ++
    (match post with
    | some p => [(match p.dst with | some d => d.2.2 | none => 0), wd (p.br.getD 0), wd (p.flags * 16), rep]
    | none => [0, 0, 0, rep]) ++
    (List.range 8).flatMap (fun j => fit 8 (pairUp ((k.core j).buf.map fun e => e.what.word))) ++
    fit 8 (pairUp ((k.group.rep.map (·.body)).getD [] |>.map fun p => p.2.word)) ++
    fit 32 (k.jobs.flatMap Job.blockWords) ++ fit 16 [wd k.nextJob] ++
    censusWords k.census ++ (List.range 4).flatMap (fun t => pairUp ((List.range 256).map fun i => (k.entry t i).toNat)) ++
    (List.range 512).map (fun i => if i / 16 < outbound then hid (0x211800 + 8 * i) else 0) ++
    (List.range 32).flatMap (fun n => (List.range 16).map fun i => wd ((acc n).poison.toNat / 2 ^ (64 * i) % 2 ^ 64)) ++
    (List.range 32).flatMap fun n => pairUp ((List.range 1024).map fun e => ((acc n).at_ e).toNat)

/-- Write words at an address, but for zeros: the range has been cleared. -/
def putSparse (m : Memory) (a : Nat) : List Word → Memory
  | [] => m
  | w :: t => putSparse (if w = 0 then m else m.store a 8 w.toNat) (a + 8) t

/-- Write a core's area. -/
def putCore (s : State) (text : Word) (stride : Nat) (hid : Nat → Word) (base : Nat) (c : Core) (m : Memory) : Memory :=
  c.store.cells.foldl (fun (m : Memory) p => m.set (base + 0x2000 + p.1) p.2) (putSparse m base (coreWords s text stride hid c))

/-- Bursts of a save block: 36,064 lines of 64 bytes, which the edge buffers do not keep (R301, R331; notes/assumptions/20). -/
def State.blockBursts (s : State) (base : Nat) : State := (List.range 36064).foldl (fun (s : State) i =>
  let p := base + 64 * i
  (s.waitOut p none s.blockFuel).burst p 1) s

/-- The unpublished words of a set's cluster. -/
def hiddenOf (e : Evicted) (off : Nat) : Word := Config.hidden (e.set * 8192 + e.vc) off

/-- Write a save block (R301, R302). -/
def State.writeBlock (s : State) (e : Evicted) (l : Launch) (k : Cluster) (outbound : Nat) : State :=
  let base := s.blockBase e.block
  let hid := hiddenOf e
  let stride := 512 + 64 * l.nv
  let s1 := s.blockBursts base
  let m0 := s1.hbm.zero base 0x240000
  let m1 := (List.range 8).foldl (fun (m : Memory) j =>
    putCore s l.code.text stride (fun o => hid (0x42000 * j + o)) (base + 0x42000 * j) (k.core j) m) m0
  { s1 with hbm := putSparse m1 (base + 0x210000) (clusterWords hid outbound k) }

end Sys2Proof.Machine
end

