-- ==== Sys2Proof/Machine/Resume.lean ====
section
/-! DEFINITION. The end of a save, and the resumption of evicted clusters from their save blocks (R297, R299 to R305, R327). -/
namespace Sys2Proof.Machine

/-! ## The end of a save -/

/-- A core of a cluster as a restart finds it: re-initialised as at the start of the launch, with nothing kept, and the items that it had
still to deliver (R326, R327). In a cluster task that goes on without it, it counts as halted (R203). -/
def restartCore (l : Launch) (k : Cluster) (now : Word) (c : Core) : Core :=
  let fresh := ({ Core.blank with delays := c.delays, delayPid := c.delayPid, stopped := c.stopped, stopReq := c.stopReq } : Core).startLaunch l.code.pers
    l.code.classes l.code.slots l.cls l.frames l.nv l.pid l.id (c.cr_ Cr.cid) (c.cr_ Cr.gid) l.param
  let run : Run := if l.vcs.contains k.vc then (if k.group.active then .halted else .idle) else .off
  let x : Core := { fresh with run := run, past := k.group.active }
  x.topUp now c.redeliver

/-- What stays of a core when its cluster has been handed over (R301). -/
def Core.vacated (c : Core) : Core := { Core.blank with delays := c.delays, delayPid := c.delayPid }

/-- What stays of a core at its place after a save: a sealed one stays sealed until its test ends (R327). -/
def Core.leftBehind (c : Core) : Core := if c.run = .sealed then { c.vacated with run := .sealed } else c.vacated

/-- A physical cluster after its save: handed over, or, after a failed test, replaced by a spare or taken out of service (R327). -/
def State.handedOver (s : State) (e : Evicted) (k : Cluster) : Cluster :=
  if s.outOfService.contains e.phys then Cluster.blank
  else if e.spareDie.isSome then { Cluster.blank with powered := true }
  else (List.range 8).foldl (fun (x : Cluster) j => x.setCore j (k.core j).leftBehind) k.vacated

/-- A cluster as its save block holds it: a sealed core is re-initialised, and its work delivered again where it resumes (R326, R327;
notes/assumptions/26). -/
def Cluster.image (k : Cluster) (l : Launch) (now : Word) : Cluster :=
  (List.range 8).foldl (fun (x : Cluster) j =>
    let c := x.core j
    x.setCore j ((if c.run = .sealed then restartCore l k now c else c).image now)) k

/-- The save of a cluster completes (R299): every other posted access of its cores and engines has been performed, and its outbound
requests are saved with it, those that wait behind one among them (R300). -/
def execSaveComplete (cl : Nat) (s : State) : Host.Outcome State Fault Refusal :=
  let k := s.cluster cl
  match s.evicted.find? fun e => e.phys == cl && !e.saved with
  | none => .next s
  | some e => match s.launchNo e.launch with
    | none => .next s
    | some l =>
      let held := s.heldOut cl k.launch
      let mine (f : Flight) : Bool := !f.fromStation && f.src.cl == cl && f.launch == k.launch
      let out := held.filter (·.savedOut s)
      let still := (s.flight.filter mine).length == held.length
      if k.evict ≠ .streaming ∨ still = false then .next s
      else
        let k1 := k.image l s.cyc
        let s1 := s.writeBlock e l k1 out.length
        let e1 : Evicted := { e with saved := true, save := some k1, outbound := out }
        let s2 := s1.setCluster cl (s.handedOver e k)
        .next { s2 with
          flight := s2.flight.filter fun f => !mine f
          placement := aput s2.placement (k.slot * 8192 + k.vc) ⟨true, 8192⟩
          evicted := s2.evicted.map fun (x : Evicted) => if x.phys = cl ∧ x.saved = false then e1 else x }

/-! ## Resumption (R304) -/

/-- The clusters of a set. -/
def State.setOf (s : State) (n : Nat) : List Evicted := s.evicted.filter fun e => e.set == n

/-- The COHORT launches that rank before a set of a launch: those of higher priority (R304). -/
def State.cohortsAbove (s : State) (l : Launch) : List Launch := s.topCohorts.filter fun c => decide (l.prio < c.prio)

/-- The clusters on which a set would resume: its virtual clusters with physical ones, all of them or none (R304, R327). It ranks ahead of
every launch of equal priority, and so takes what is held for one. -/
def State.resumeOn (s : State) (n : Nat) : List (Nat × Nat) :=
  let es := s.setOf n
  match es.head? with
  | none => []
  | some e => match s.launchNo e.launch with
    | none => []
    | some l =>
      let fixed := (es.filter fun x => x.spareDie.isSome && !s.outOfService.contains x.phys).map fun x => (x.vc, x.phys)
      let rest := (es.filter fun x => !(x.spareDie.isSome && !s.outOfService.contains x.phys)).map (·.vc)
      let got := fixed ++ assign s (s.slotNow l).2.loc rest (s.poolBeside (s.cohortsAbove l) l)
      if (es.all fun x => x.saved && x.target.isNone) && got.length == es.length && decide (es.length ≤ s.roomBeside (s.cohortsAbove l) l) then got else []

/-- A set may resume now: no due launch of higher priority is still to be taken or can be placed, no set of higher priority can resume, and no set of its
priority that waits, saved or not, was evicted before it (R304). -/
def State.mayResume (s : State) (n : Nat) : Bool :=
  match (s.setOf n).head? with
  | none => false
  | some e =>
    !s.takesBefore e.prio 0 && (s.launches.all fun m => !m.waiting || decide (m.prio ≤ e.prio) || s.placement_ m == []) &&
      s.evicted.all fun x => x.set == n || x.target.isSome || decide (x.prio < e.prio) || (x.prio == e.prio && decide (n < x.set)) ||
        (decide (e.prio < x.prio) && s.resumeOn x.set == [])

/-- Give a set its clusters, number by number; their restore begins. -/
def beginRestore (l : Launch) (slot set : Nat) : Nat → List (Nat × Nat) → State → State
  | _, [], s => s
  | n, (vc, cl) :: t, s =>
    let ramp := rampEnd s n
    let s1 := s.updCluster cl fun k => { k with
      launch := l.id, slot := slot, pid := l.pid, vc := vc, rampAt := ramp, ramped := false, evict := .streaming }
    let s2 := { s1 with
      evicted := s1.evicted.map fun (e : Evicted) => if e.set = set ∧ e.vc = vc then { e with target := some cl } else e
      launches := s1.launches.map fun (m : Launch) => { m with held := m.held.filter fun c => c != cl } }
    beginRestore l slot set (n + 1) t s2

/-- The clusters of a set are chosen, and their restore begins (R304, R15). -/
def execResumption (n : Nat) (s : State) : Host.Outcome State Fault Refusal :=
  match (s.setOf n).head? with
  | none => .next s
  | some e => match s.launchNo e.launch with
    | none => .next s
    | some l =>
      let got := if s.mayResume n then s.resumeOn n else []
      if got = [] then .next s else .next (beginRestore l (s.slotNow l).1 n 0 got s)

/-! ## Reading a save block back (R303) -/

/-- A bank whose unpublished state has been overwritten resumes empty and ARRAY (R303). -/
def Core.spoilBank (c : Core) (b : Nat) : Core :=
  { c.setBank b (Bank.blank b 0) with store := c.store.zero (b * 0x4000) 0x4000 }

/-- A changed word of a bank (R301, R303). -/
def Core.bankPatch (c : Core) (b i : Nat) (w : Word) : Core :=
  let x := c.bank b
  if i = 0 then
    (if persOk w && bits w 32 32 == 0 && kindOf (w.truncate 32) == kindOf x.pers && itemOf (w.truncate 32) == itemOf x.pers then
      c.setBank b { x with pers := w.truncate 32 }
    else c.spoilBank b)
  else if i = 1 then
    c.setBank b { x with first := bits w 0 4, gsize := bits w 4 2, shard := bit w 6,
                         keepClass := if bit w 11 then some (bits w 7 4) else none }
  else c.spoilBank b

/-- A changed word of a trigger slot. -/
def Core.trigPatch (c : Core) (k i : Nat) (w : Word) : Core :=
  let t := c.trig k
  match i with
  | 0 => c.setTrig k { t with remaining := w.truncate 32 }
  | 1 => c.setTrig k { t with early := w.truncate 32 }
  | 2 => c.setTrig k { t with
      st := (match bits w 0 2 with | 1 => .armed | 2 => .pending | _ => .disarmed)
      binding := if bit w 6 then none else some (bits w 2 4) }
  | _ => c.setTrig k { t with arg := w }

/-- A changed word of a class entry. -/
def Core.classPatch (c : Core) (text : Word) (n i : Nat) (w : Word) : Core :=
  if i = 0 then
    { c with classes := if bit w 56 then aput c.classes n ⟨text + BitVec.ofNat 64 (bits w 0 48), bits w 48 5, bits w 53 2, bit w 55⟩
      else adel c.classes n }
  else c

/-- Entries of a table as their words stand: one whose words have all become 0 is gone, and further words that are not all 0 add one. -/
def entriesBack {α : Type} (words : α → List Word) (old : List α) (n k : Nat) (cur : Nat → Word) (make : Nat → Option α → List Word → Option α) : List α :=
  (List.range n).filterMap fun i =>
    let ws := (List.range k).map fun j => cur (k * i + j)
    let e := old[i]?
    if e.map words = some ws then e else if ws.all (· == 0) then none else make i e ws

/-- The copy requests as their words stand (R303); one that has been added works under the registers of its core. -/
def Core.copiesBack (c : Core) (cur : Nat → Word) : Core :=
  let fresh (i : Nat) : CReq :=
    { w0 := 0, w1 := 0, w2 := 0, w3 := 0, pattern := c.cr_ Cr.cpattern, recq := c.recq, promise := 0, started := false, block := [],
      coords := [], seq := c.engSeq + i, seed := 0, moved := 0, got := none, image := [], since := none, till := 0 }
  { c with
    copies := entriesBack CReq.blockWords c.copies 16 4 cur fun i q ws =>
      let q : CReq := q.getD (fresh i)
      some { q with w0 := ws.getD 0 0, w1 := ws.getD 1 0, w2 := ws.getD 2 0, w3 := ws.getD 3 0 }
    engSeq := c.engSeq + 16 }

/-- A matrix command. -/
def queuesCommand : Instr → Bool
  | .mma _ _ _ _ _ | .mmaz _ _ _ _ _ | .mstream _ _ _ _ _ | .mzero _ | .mstore _ _ _ | .mload _ _ => true
  | _ => false

/-- The matrix commands as their words stand (R303); a word that is no matrix command leaves the instruction that was saved, and adds none. -/
def Core.mcmdsBack (c : Core) (cur : Nat → Word) : Core :=
  { c with mq := entriesBack mcmdWords c.mq 16 8 cur fun _ q ws =>
      let w := ws.getD 0 0
      let named : Option Instr := match decode (w.truncate 16) (BitVec.ofNat 16 (bits w 16 16)) with
        | .ok x => if queuesCommand x then some x else none
        | .error _ => none
      (named.or (q.map (·.instr))).map fun x =>
        let q : MCmd := q.getD (c.command x 0 0 0 0)
        { q with
          instr := x, arb := bits w 32 4, nsat := bit w 36
          sa := ws.getD 1 0, sb := ws.getD 2 0, sc := ws.getD 3 0, sc1 := ws.getD 4 0 } }

/-- The first held record as its words stand (R303); one that has been added waits for the bank that `RECQ` names. -/
def Core.heldBack (c : Core) (cur : Nat → Word) : Core :=
  { c with held := entriesBack (fun h => fit 4 h.words) (c.held.take 1) 1 4 cur (fun _ h ws =>
      let h : Held := h.getD ⟨c.recq, ws, none⟩
      some { h with words := ws }) ++ c.held.drop 1 }

/-- The activation that a frame describes (R20). -/
def Core.actAt (c : Core) (h : Nat) (now : Word) : Act :=
  let w := c.store.read8 (h + 48)
  ⟨h, bits w 6 4, bits w 10 2, bit w 12, bits w 0 6, [], now, none⟩

/-- A changed RUN and ENGP word: RUN says whether an activation runs in the saved workspace. -/
def Core.runPatch (c : Core) (now : Word) (w : Word) : Core :=
  let c := { c with engPend := bit w 1 }
  if bit w 0 = c.act.isSome then c
  else if bit w 0 then { c with act := some (c.actAt c.workspace now), run := .running }
  else { c with act := none, run := c.resting, att := false }

/-- An instruction with other FN and C fields. -/
def withFnC (i : Instr) (w : Word) : Instr :=
  let x := setBits (setBits i.word 27 5 (bits w 0 5)) 22 5 (bits w 5 5)
  match decode (x.truncate 16) (BitVec.ofNat 16 (bits x 16 16)) with
  | .ok j => j
  | .error _ => i

/-- An operation with another first or second operand value. -/
def Reissue.operand (r : Reissue) (second : Bool) (w : Word) : Reissue :=
  match r.op, second with
  | .amo f n _ d, false => { r with op := .amo f n w d }
  | .amo f n b _, true => { r with op := .amo f n b w }
  | .store n _, false => { r with op := .store n w }
  | .store _ _, true => { r with idx := w }
  | _, false => { r with idx := w }
  | _, true => r

/-- A changed word of the reissue record; a record whose tag is 0 is none. -/
def Core.reissuePatch (c : Core) (i : Nat) (w : Word) : Core :=
  let r := c.reissue.getD ⟨0, 0, 0, .amo 0 8 0 0, .amoadd 0 0 0 0 0 0, 0⟩
  if i = 0 ∧ w = 0 then { c with reissue := none }
  else { c with reissue := some (match i with
    | 0 => { r with tag := w.toNat }
    | 1 => { r with addr := w }
    | 2 => { r with instr := withFnC r.instr w, op := match r.op with
        | .amo _ _ b d => .amo (bits w 1 4) (if bit w 0 then 8 else 4) b d
        | o => o }
    | 3 => r.operand false w
    | 4 => r.operand true w
    | _ => { r with cyc := w }) }

/-- The ready entry that a changed word describes. -/
def Core.readyFrom (c : Core) (stride : Nat) (now : Word) (old : Option Ready) (w : Word) : Ready :=
  let f := bits w 48 16 * stride
  let e := old.getD ⟨0, 0, if f = 0 then none else some (c.actAt f now), 63, none, 0, now, 0⟩
  { e with cls := bits w 0 4, level := bits w 4 2, item := if bits w 8 8 = 255 then none else some (bits w 8 8),
           since := BitVec.ofNat 64 (bits w 16 32), resume := e.resume.map fun a => { a with frame := f } }

/-- The ready queue as its words stand: an entry whose word has become 0 is gone, and a further word that is not 0 adds one. -/
def Core.readyBack (c : Core) (stride : Nat) (now : Word) (cur : Nat → Word) : Core :=
  { c with ready := (List.range 64).filterMap fun n =>
      let e := c.readyOrder[n]?
      if e.map (readyWord stride) = some (cur n) then e
      else if cur n = 0 then none else some (c.readyFrom stride now e (cur n)) }

/-- A changed word of a core's area (Table 1 of spec/20): the cluster resumes with what system software wrote (R303). Words that this
does not name keep what the device saved (notes/assumptions/18). -/
def Core.patch (c : Core) (text now : Word) (i : Nat) (w : Word) : Core :=
  if i < 0x40 then (if i = Cr.cyc ∨ (crLayout i).isNone then c else if i = Cr.mode then { c with why := bits w 1 4, jpt := bits w 5 4 } else if i = Cr.stat then c.setCr i (w &&& 0x3FB#64) else c.setCr i w)
  else if i < 80 then c
  else if i = 80 then { c with pc := w }
  else if i = 81 then c.runPatch now w
  else if i < 88 then c.reissuePatch (i - 82) w
  else if i < 92 then c.flagsWrite (8 * (i - 88)) 8 w.toNat
  else if i < 95 then
    (let k := i - 91
     if w = 0 then { c with keeps := adel c.keeps k } else { c with keeps := aput c.keeps k (w.truncate 16, bits w 16 4) })
  else if i = 95 then { c with freeHead := w }
  else if i < 352 then c.bankPatch ((i - 96) / 16) ((i - 96) % 16) w
  else if i < 608 then c.trigPatch ((i - 352) / 4) ((i - 352) % 4) w
  else if i < 672 then c
  else if i < 704 then c.classPatch text ((i - 672) / 2) ((i - 672) % 2) w
  else c

/-- What a word of 32 bits of a block holds as an instruction, a 16-bit one zero-extended (R302). -/
def fetchedOf (w : Nat) : Fetched :=
  let lo := BitVec.ofNat 16 w
  if isHalf lo then (match decode lo 0 with | .ok i => .instr i | .error _ => .bad (lo.zeroExtend 32) true)
  else match decode lo (BitVec.ofNat 16 (w / 65536)) with
    | .ok i => .instr i
    | .error _ => .bad (BitVec.ofNat 32 w) false

/-- The 32-bit word of a number in some doublewords. -/
def half32 (cur : Nat → Word) (n : Nat) : Nat := bits (cur (n / 2)) (32 * (n % 2)) 32

/-- Undelivered instructions as their words stand: a changed word is another instruction, the first that has become 0 ends them, and a further
one follows at the next address. -/
def issuedBack (k : Cluster) (old : List Issued) (cur : Nat → Word) : Nat → Nat → Word → List Issued
  | 0, _, _ => []
  | m + 1, n, a =>
    let w := half32 cur n
    let go (e : Issued) : List Issued := e :: issuedBack k old cur m (n + 1) (e.addr + BitVec.ofNat 64 e.what.len)
    match old[n]? with
    | some e => if e.what.word = w then go e else if w = 0 then [] else go { e with what := fetchedOf w }
    | none => if w = 0 then [] else go ⟨a, fetchedOf w, none, none, k.attMask, k.groupNv, [], none⟩

/-- The instructions issued to a core and not delivered, as their words stand. -/
def Cluster.bufBack (k : Cluster) (j : Nat) (cur : Nat → Word) : Cluster :=
  let c := k.core j
  k.setCore j { c with buf := issuedBack k c.buf cur 16 0 k.group.pc }

/-- The front end's repetition buffer as its words stand. -/
def Cluster.repBack (k : Cluster) (image : Word) (cur : Nat → Word) : Cluster :=
  let body (x : RepRun) : List (Word × Fetched) := (List.range x.body.length).filterMap fun n =>
    x.body[n]?.map fun p => if p.2.word = half32 cur n then p else (p.1, fetchedOf (half32 cur n))
  let rep : Option RepRun := match k.group.rep with
    | none => none
    | some x =>
      if image = k.repImage then some { x with body := body x }
      else if bit image 45 then some { x with body := body x, pos := bits image 32 4, pass := bits image 0 32 }
      else none
  { k with group := { k.group with rep := rep } }

/-- A changed word of the `once` in force or of its posted values. -/
def Cluster.oncePatch (k : Cluster) (i : Nat) (w : Word) : Cluster :=
  let change (o : OnceRec) : OnceRec := match i with
    | 3 => { o with
        receivers := (List.range 8).filter fun j => bit w j || (o.elected.isSome && j == bits w 8 3 && o.receivers.contains (o.elected.getD 8))
        elected := o.elected.map fun _ => bits w 8 3
        result := if bit w 11 then some (o.result.getD Posting.blank) else none }
    | 4 => { o with result := o.result.map fun (p : Posting) => { p with dst := p.dst.map fun d => (d.1, d.2.1, w) } }
    | 5 => { o with result := o.result.map fun (p : Posting) => { p with br := some (bits w 0 3) } }
    | _ => { o with result := o.result.map fun (p : Posting) => { p with flags := bits w 4 5 } }
  match k.onces.getLast? with
  | none => k
  | some o => { k with onces := k.onces.dropLast ++ [change o] }

/-- The rule jobs as their words stand (R303); one that has been added works under the registers of its core. -/
def Cluster.jobsBack (k : Cluster) (cur : Nat → Word) : Cluster :=
  { k with
    jobs := entriesBack Job.blockWords k.jobs 16 2 cur fun _ j ws =>
      let w := ws.getD 1 0
      let c := k.core (bits w 0 3)
      let q : Job := j.getD ⟨0, 0, 0, false, c.recq, false, [], [], c.engSeq, 0, Med.start 0, [], none, none, 0⟩
      some { q with desc := ws.getD 0 0, core := bits w 0 3, num := bits w 32 32 } }

/-- A core whose arrived bit has been written (R93). -/
def Core.arrivedPatch (c : Core) (v : Bool) : Core :=
  match c.run, v with
  | .running, true => { c with run := .joining }
  | .joining, false => { c with run := .running }
  | _, _ => c

/-- A changed word of the cluster's area (Table 2 of spec/20). -/
def Cluster.patch (k : Cluster) (i : Nat) (w : Word) : Cluster :=
  let lo : W32 := w.truncate 32
  let hi : W32 := BitVec.ofNat 32 (bits w 32 32)
  if i = 1 then { k with group := { k.group with pc := w } }
  else if i = 2 then
    (List.range 8).foldl (fun (k : Cluster) j => k.setCore j ({ k.core j with att := bit w j }.arrivedPatch (bit w (8 + j))))
      { k with group := { k.group with join := if bit w 21 then some (bits w 16 4, bit w 20) else none } }
  else if 3 ≤ i ∧ i < 7 then k.oncePatch i w
  else if i = 112 then { k with nextJob := bits w 0 32 }
  else if 128 ≤ i ∧ i < 256 then
    { k with census := (List.range (max k.census.length ((i - 128) / 2 + 1))).map fun n =>
        let e := k.census.getD n ⟨0, 0, 0, 0, 0⟩
        if n ≠ (i - 128) / 2 then e
        else if i % 2 = 0 then { e with site := w }
        else { e with nan := bits w 0 16, inf := bits w 16 16, sat := bits w 32 16, unf := bits w 48 16 } }
  else if 256 ≤ i ∧ i < 768 then
    (let t := (i - 256) / 128
     let n := (i - 256) % 128 * 2
     { k with tables := aput k.tables t (setAt (setAt ((List.range 256).map fun x => k.entry t x) n lo) (n + 1) hi) })
  else if 1280 ≤ i ∧ i < 1792 then
    (let n := (i - 1280) / 16
     let c := k.core (n / 4)
     let a := c.acc (n % 4)
     let at_ := (i - 1280) % 16 * 64
     let mask : BitVec 1024 := ((BitVec.allOnes 64).zeroExtend 1024) <<< at_
     k.setCore (n / 4) { c with accs := aput c.accs (n % 4) { a with poison := (a.poison &&& ~~~mask) ||| (w.zeroExtend 1024 <<< at_) } })
  else if 1792 ≤ i then
    (let n := (i - 1792) / 512
     let c := k.core (n / 4)
     let a := c.acc (n % 4)
     let e := (i - 1792) % 512 * 2
     let vals := (List.range 1024).map fun x => if x = e then lo else if x = e + 1 then hi else a.at_ x
     k.setCore (n / 4) { c with accs := aput c.accs (n % 4) { a with vals := vals } })
  else k

/-- The words of a range that differ from what the save wrote there, with their places. -/
def changed (m : Memory) (base : Nat) : Nat → List Word → List (Nat × Word)
  | _, [] => []
  | i, w :: t =>
    let now := m.read8 (base + 8 * i)
    if now = w then changed m base (i + 1) t else (i, now) :: changed m base (i + 1) t

/-- The store of a core as its image stands; a word that has changed since the save carries no poison. -/
def imageStore (m : Memory) (base : Nat) (old : Memory) : Memory :=
  { cells := (m.cells.filter fun p => decide (base ≤ p.1 ∧ p.1 < base + 0x40000)).map fun p => (p.1 - base, p.2)
    poison := old.poison.filter fun w => m.read8 (base + 8 * w) == old.read8 (8 * w) }

/-- A core as its area gives it back: word by word, and the queues and the held record as their entries stand. -/
def readCore (s : State) (l : Launch) (hid : Nat → Word) (base : Nat) (c : Core) : Core :=
  let stride := 512 + 64 * l.nv
  let c1 : Core := { c with store := imageStore s.hbm (base + 0x2000) c.store }
  let cur (off n : Nat) : Word := s.hbm.read8 (base + off + 8 * n)
  ((((changed s.hbm base 0 (coreWords s l.code.text stride hid c)).foldl (fun (c : Core) p => c.patch l.code.text s.cyc p.1 p.2) c1).readyBack
    stride s.cyc (cur 0x1300)).copiesBack (cur 0x1600)).mcmdsBack (cur 0x1800) |>.heldBack (cur 0x1C00)

/-- A cluster as its save block gives it back. -/
def State.readBlock (s : State) (e : Evicted) (l : Launch) (k : Cluster) : Cluster :=
  let base := s.blockBase e.block
  let hid := hiddenOf e
  let cur (off i : Nat) : Word := s.hbm.read8 (base + 0x210000 + off + 8 * i)
  let k1 := (List.range 8).foldl (fun (x : Cluster) j =>
    x.setCore j (readCore s l (fun o => hid (0x42000 * j + o)) (base + 0x42000 * j) (k.core j))) k
  let k2 := (changed s.hbm (base + 0x210000) 0 (clusterWords hid e.outbound.length k)).foldl (fun (k : Cluster) p => k.patch p.1 p.2) k1
  ((List.range 8).foldl (fun (x : Cluster) j => x.bufBack j (cur (0x40 + 64 * j))) (k2.jobsBack (cur 0x280))).repBack (cur 0x38 0) (cur 0x240)

/-! ## The end of a restore (R304, R305) -/

/-- A restored core on its physical core, whose delay table it finds there (R301, R338), with a stop that is in force or requested there
(R341). -/
def Core.onto (c phys : Core) (pid : Nat) : Core :=
  { c with
    delays := if phys.delayPid = some pid then phys.delays else []
    delayPid := some pid
    stopped := c.stopped || phys.stopped
    stopReq := c.stopReq.or phys.stopReq }

/-- A core whose area holds an uncorrectable error is sealed as it is restored (R303); an error that the reading itself finds has been
counted (R325). -/
def State.sealRestored (before s : State) (base cl j : Nat) : State :=
  let a := base + 0x42000 * j
  if s.hbm.poisoned a 0x42000 then
    (if before.hbm.poisoned a 0x42000 then s.uncorrectable cl else s.clusterError cl 1).seal ⟨cl, j⟩ tPOISON
  else s

/-- Restore one cluster on its target: its outbound requests are issued again, then its placement entry becomes valid, then its cores
start (R303, R304). -/
def restoreOne (s0 : State) (e : Evicted) : State :=
  match e.target, e.save, s0.launchNo e.launch with
  | some cl, some k, some l =>
    let base := s0.blockBase e.block
    let s := s0.blockBursts base
    let p := s.cluster cl
    let r := s.readBlock e l k
    let cores := (List.range 8).map fun j => (j, ((r.core j).wake s.cyc).onto (p.core j) l.pid)
    let k1 : Cluster := { r with
      powered := true, launch := l.id, slot := p.slot, pid := l.pid, vc := e.vc, cores := cores, ramped := p.ramped, rampAt := p.rampAt,
      lastGrant := p.lastGrant, lastCopy := p.lastCopy, credits := p.credits, opBuf := [], ruleBuf := [], icache := p.icache,
      evict := .none, errors := p.errors, failed := p.failed }
    let s1 := s.setCluster cl k1
    let out := e.outbound.map fun (f : Flight) => { f with src := ⟨cl, f.src.core⟩, slot := p.slot, since := none,
                                                                stage := (match f.body with | .gstore p _ _ => .home p | _ => .bank : Stage) }
    let s2 : State := { s1 with
      flight := s1.flight ++ out
      placement := aput s1.placement (p.slot * 8192 + e.vc) ⟨false, cl⟩
      evicted := s1.evicted.filter fun x => !(x.set == e.set && x.vc == e.vc) }
    (List.range 8).foldl (fun (t : State) j => State.sealRestored s0 t base cl j) s2
  | _, _, _ => s0

/-- The restore of a set completes, and its clusters go on (R304, R305). -/
def execRestoreComplete (n : Nat) (s : State) : Host.Outcome State Fault Refusal :=
  let es := s.setOf n
  if es.all fun e => e.target.isSome && e.saved then .next (es.foldl restoreOne s) else .next s

end Sys2Proof.Machine
end

