-- ==== Sys2Proof/Machine/Reliability.lean ====
section
/-! DEFINITION. Sealing on an error in a core's own state, the test that follows, and the retirement of clusters (R320, R324, R326 to
R329). -/
namespace Sys2Proof.Machine

/-- An uncorrectable error in state that seals its core (R317, R320, R324). -/
def execCoreSeal (r : CoreRef) (cause : Nat) (s : State) : Host.Outcome State Fault Refusal :=
  if (s.core r).run = .sealed then .next s else .next ((s.uncorrectable r.cl).seal r cause)

/-- A cluster joins the running repair map, once, or goes out of service where its die has no spare left (R327, R329); the flash keeps the
addition. -/
def State.failCluster (s : State) (cl : Nat) : State :=
  if (s.cluster cl).failed then s
  else
    let s := { s.updCluster cl fun k => { k with failed := true } with flash := { s.flash with repairs := s.flash.repairs ++ [cl] } }
    if s.sparesOf (dieOf cl) = 0 then { s with outOfService := s.outOfService ++ [cl] } else { s with repaired := s.repaired ++ [cl] }

/-- What stands at a failed cluster's place: a spare, or nothing. -/
def State.replaceCluster (s : State) (cl : Nat) : State :=
  s.setCluster cl (if s.outOfService.contains cl then Cluster.blank else { Cluster.blank with powered := true })

/-- The eviction of a failed cluster (R327): within an eviction that is already moving it, or of its own once a save block is free (R298;
notes/assumptions/26). -/
def State.evictFailed (s : State) (cl : Nat) : State :=
  let k := s.cluster cl
  let die := some (dieOf cl)
  if k.evict = .moving then
    { s with evicted := s.evicted.map fun (e : Evicted) => if e.phys = cl ∧ e.saved = false then { e with spareDie := die } else e }
  else match s.freeBlocks, s.launchNo k.launch with
    | b :: _, some l =>
      let s1 := s.startEviction ⟨s.nextSet, k.launch, k.vc, cl, b, none, l.prio, false, none, [], none, die⟩
      { s1 with nextSet := s1.nextSet + 1 }
    | _, _ => s

/-- The test of a sealed core ends (R326, R327): a core that passes is re-initialised and its work delivered again; the cluster of one
that fails moves to a spare. -/
def execCoreTestComplete (r : CoreRef) (pass : Bool) (s : State) : Host.Outcome State Fault Refusal :=
  let k := s.cluster r.cl
  let c := s.core r
  if c.run ≠ .sealed ∨ k.evict = .streaming then .next s
  else match pass, s.launchOf r.cl with
    | true, some l =>
      .next (s.setCore r (restartCore l k s.cyc c))
    | true, none => .next (s.setCore r c.vacated)
    | false, some _ => .next ((s.failCluster r.cl).evictFailed r.cl)
    | false, none => .next ((s.failCluster r.cl).replaceCluster r.cl)

/-- A cluster whose errors have reached 16 is retired at its next launch boundary (R328). -/
def execClusterRetire (cl : Nat) (s : State) : Host.Outcome State Fault Refusal :=
  let k := s.cluster cl
  if k.powered && k.launch == 0 && k.evict == .none && decide (wornOut ≤ k.errors) && !s.outOfService.contains cl then
    .next ((s.failCluster cl).replaceCluster cl)
  else .next s

/-! ## Errors that the codes meet (R317) -/

/-- The line of 64 bytes that a halfword of the instruction cache stands in. -/
def Cluster.dropHalves (k : Cluster) (a : Nat) : Cluster := { k with icache := k.icache.filter fun p => p.1 / 64 != a / 64 }

/-- An uncorrectable error in what a cluster holds, and what the device does with it (Table 1 of spec/23). -/
def Cluster.struck (k : Cluster) (u : Upset) : Cluster :=
  match u with
  | .acc r n e _ =>
    let c := k.core r.core
    let a := c.acc n
    k.setCore r.core { c with accs := aput c.accs n { a with poison := a.poison ||| (1#1024 <<< (e % 1024)) } }
  | .table _ t e _ => { k with tablePoison := k.tablePoison ++ [(t, e)] }
  | .scratch _ id _ => if id < k.scratch.length then { k with scratchPoison := k.scratchPoison ++ [id] } else k
  | .icache _ a _ => k.dropHalves a
  | .census _ n _ => { k with census := setAt k.census n Census.empty }
  | .delay r n _ => let c := k.core r.core; k.setCore r.core { c with delays := setAt c.delays n Delay.empty }
  | _ => k

/-- An error of the hardware that a code of a cluster's own store corrects, or does not (R317, R325). -/
def State.strike (s : State) (cl : Nat) (u : Upset) (bad : Bool) : State :=
  if (s.cluster cl).powered = false then s
  else if bad then (s.uncorrectable cl).updCluster cl fun k => k.struck u
  else s.bump Reg.corr 1

/-- An error of the hardware arises, and its codes meet it: one in HBM at the next burst or scrub of its word (R336), the others at once
(R317). A parity error of a read buffer drops its line and counts nowhere (notes/assumptions/37). One of the front end's repetition buffer seals every
core that would execute from it. -/
def State.upset (s : State) (u : Upset) : State :=
  match u with
  | .hbm a bad => if a < 2 ^ 40 then { s with flaws := aput s.flaws (a / 8) (bad || aget false s.flaws (a / 8)) } else s
  | .store r off bad => if off < 0x40020 then s.eccStore r off (if bad then .uncorrectable else .corrected) else s
  | .controller r bad => if bad then (if (s.core r).run = .sealed then s else (s.uncorrectable r.cl).seal r tPOISON) else s.bump Reg.corr 1
  | .acc r _ _ bad => s.strike r.cl u bad
  | .delay r _ bad => s.strike r.cl u bad
  | .table cl _ _ bad => s.strike cl u bad
  | .scratch cl _ bad => s.strike cl u bad
  | .icache cl _ bad => s.strike cl u bad
  | .census cl _ bad => s.strike cl u bad
  | .repBuffer cl bad =>
    let k := s.cluster cl
    if bad = false then s.bump Reg.corr 1
    else if k.group.rep.isSome && k.attached != [] then
      k.attached.foldl (fun (s : State) j => s.seal ⟨cl, j⟩ tPOISON) (s.uncorrectable cl)
    else s
  | .matrixLine cl key => s.updCluster cl fun k => { k with opBuf := k.opBuf.filter fun p => p.1 != key }
  | .ruleLine cl key => s.updCluster cl fun k => { k with ruleBuf := k.ruleBuf.filter fun l => l.key != key }

end Sys2Proof.Machine
end

