-- ==== Sys2Proof/Machine/HostLink.lean ====
section
/-! DEFINITION. Requests of the host (R252, R306, R307, R349) and of peer modules (R253, R312, R313), as they arrive. -/
namespace Sys2Proof.Machine

/-- HBM answers BAR2: bring-up has reached state 4 (R306, R350). -/
def State.hbmUp (s : State) : Bool := s.boot.state == 4 || s.boot.state == 5

/-! ## The recovery window (R306, R349) -/

/-- The strap RECOVERY. -/
def Boot.recoveryMode (b : Boot) : Bool := bit b.straps 8

/-- The recovery window accepts writes: the RECOVERY strap is set, and the ROM waits for an image, the first in state 0 or, after one has
failed, a new one in state 8 (R306, R349; notes/assumptions/38). -/
def Boot.takesImage (b : Boot) : Bool := b.romRead && b.recoveryMode && !b.checking && (b.state == 0 || b.state == 8)

/-- Bytes of an image written into the recovery window (R349). -/
def State.recoveryWrite (s : State) (off : Nat) (bytes : List (Option Byte)) : State :=
  if s.boot.takesImage && decide (off + bytes.length ≤ 0x7FFF8) then
    let got := (List.range bytes.length).foldl (fun m i => match bytes.getD i none with | some b => aput m (off + i) b | none => m) s.boot.recovery
    ({ s with boot := { s.boot with recovery := got } } : State).say .done
  else s.say .unsupported

/-- The write of the doubleword that starts the checks (R349). -/
def State.recoveryStart (s : State) : State :=
  if s.boot.takesImage then ({ s with boot := { s.boot with checking := true, state := 1 } } : State).say .done else s.say .unsupported

/-! ## Host (R306, R307) -/

/-- A host request to HBM through an alias of BAR2 arrives at the alias's service core, or completes with Unsupported Request. -/
def State.hostRequest (s : State) (svc a n : Nat) (op : GuestOp) : State :=
  s.fromHost fun s => if s.hbmUp && decide (a + n ≤ 2 ^ 40) then s.arrive ⟨svc, none, a, op, false, 0⟩ else s.say .unsupported

/-- A host request at an offset of BAR0, in its turn at its service core. -/
def State.barRequest (s : State) (off : Nat) (op : AccOp) : State := s.inTurn .host off op fun s => s.hostWindow off op

/-- A host memory read (R306, R307): `bar` names BAR0 or BAR2. -/
def execHostMemoryRead (svc bar a len : Nat) (s : State) : Host.Outcome State Fault Refusal :=
  .next (if bar = 0 then s.barRequest a (.load len false) else s.hostRequest svc a len (.read len))

/-- The bytes of a host write as one doubleword, if they are one. -/
def dwordOf (bytes : List (Option Byte)) : Option Word :=
  if bytes.length = 8 ∧ bytes.all (·.isSome) = true then some (wordOf (bytes.map fun b => b.getD 0) 0) else none

/-- A host memory write with byte enables (R306, R307). -/
def execHostMemoryWrite (svc bar a : Nat) (bytes : List (Option Byte)) (s : State) : Host.Outcome State Fault Refusal :=
  .next (
    if bar ≠ 0 then s.hostRequest svc a bytes.length (.write bytes)
    else if 0x180000 ≤ a ∧ a < 0x200000 then
      s.fromHost fun s => (if a = 0x1FFFF8 ∧ (dwordOf bytes).isSome = true then s.recoveryStart else s.recoveryWrite (a - 0x180000) bytes)
    else s.barRequest a (match dwordOf bytes with | some w => .store 8 w | none => .store 1 0))

/-- A host AtomicOp (R307): one that is not aligned or not 32 or 64 bits wide changes nothing. -/
def State.hostAtomic (s : State) (svc bar a width fn : Nat) (b d : Word) : State :=
  if (width = 4 ∨ width = 8) ∧ a % width = 0 then
    (if bar = 0 then s.barRequest a (.amo fn width b d) else s.hostRequest svc a width (.amo fn width b d none))
  else s.fromHost fun s => s.say .unsupported

/-- FetchAdd (R307). -/
def execHostFetchadd (svc bar a width : Nat) (v : Word) (s : State) : Host.Outcome State Fault Refusal :=
  .next (s.hostAtomic svc bar a width 0 v 0)

/-- Swap (R307). -/
def execHostSwap (svc bar a width : Nat) (v : Word) (s : State) : Host.Outcome State Fault Refusal :=
  .next (s.hostAtomic svc bar a width 8 v 0)

/-- CAS (R307). -/
def execHostCas (svc bar a width : Nat) (cmp v : Word) (s : State) : Host.Outcome State Fault Refusal :=
  .next (s.hostAtomic svc bar a width 9 v cmp)

/-! ## Peers (R312, R313) -/

/-- Entry e of the peer memory windows allows a module a request (R312). -/
def State.pmemAllows (s : State) (e m a n : Nat) (rd wr : Bool) : Bool :=
  let w0 := s.ctlGet (0x3000 + 32 * e)
  let base := bits (s.ctlGet (0x3008 + 32 * e)) 12 28 * 4096
  let len := bits (s.ctlGet (0x3010 + 32 * e)) 12 29 * 4096
  bit w0 8 && bits w0 0 8 == m && (!rd || bit w0 9) && (!wr || bit w0 10) && decide (base ≤ a ∧ a + n ≤ base + len)

/-- A peer request is accepted (R312, R3). -/
def State.peerOk (s : State) (m a n : Nat) (rd wr : Bool) : Bool :=
  s.fabric && decide (a + n ≤ 2 ^ 40) && (List.range 64).any fun e => s.pmemAllows e m a n rd wr

/-- A peer request is refused and counted (R312). -/
def State.peerRefuse (s : State) : State := (s.bump Reg.peerref 1).say .refused

/-- A peer read (R312). -/
def execPeerRead (m a len : Nat) (s : State) : Host.Outcome State Fault Refusal :=
  .next (if s.peerOk m a len true false then s.arrive ⟨0, some m, a, .read len, false, 0⟩ else s.peerRefuse)

/-- A peer write (R312). -/
def execPeerWrite (m a : Nat) (bytes : List Byte) (s : State) : Host.Outcome State Fault Refusal :=
  .next (if s.peerOk m a bytes.length false true then s.arrive ⟨0, some m, a, .write (bytes.map some), false, 0⟩ else s.peerRefuse)

/-- A peer atomic (R312): answered at once from the deduplication table, or performed once under its tag (R116, R313). -/
def execPeerAtomic (m core tag fn size a : Nat) (b d : Word) (reissue : Bool) (s : State) : Host.Outcome State Fault Refusal :=
  .next (
    if s.peerOk m a size true true && (size == 4 || size == 8) && a % size == 0 && decide (fn < 12) && m != ownModule then
      (match s.peerKnown m core tag reissue with
      | some x => s.say x
      | none => s.arrive ⟨0, some m, a, .amo fn size b d (some (core, tag, reissue)), false, 0⟩)
    else s.peerRefuse)

end Sys2Proof.Machine
end

