-- ==== Sys2Proof/Machine/Platform.lean ====
section
/-! DEFINITION. Reset, verified images and bring-up (R348 to R351), configuration requests and the recovery window (R306), and power
(R353). -/
namespace Sys2Proof.Machine

/-! ## Reset (R350) -/

/-- PERST# is asserted: everything but the flash is lost. The agenda and the free values' counter are the model's own
(notes/assumptions/1, 3). -/
def execPerstAssert (s : State) : Host.Outcome State Fault Refusal :=
  .next { State.resetWith s.flash with agenda := s.agenda, free := s.free }

/-- PERST# is deasserted: the straps are sampled, and MODID takes MODSTRAP (R347, R350). -/
def execPerstDeassert (straps : Word) (s : State) : Host.Outcome State Fault Refusal :=
  if s.boot.inReset then
    .next (({ s with boot := { s.boot with inReset := false, straps := straps &&& 0x1FF#64 } } : State).ctlPut Reg.modid (straps &&& 0xFF#64))
  else .next s

/-- The boot ROM has read straps and flash (R350): with RECOVERY set it then waits for an image. -/
def execBootRomReadComplete (s : State) : Host.Outcome State Fault Refusal :=
  if !s.boot.inReset && !s.boot.romRead then
    .next { s with boot := { s.boot with romRead := true, state := if s.boot.recoveryMode then 0 else 1, checking := !s.boot.recoveryMode } }
  else .next s

/-! ## Images (R348, R349) -/

/-- Fields of an image's header (Table 2 of spec/27). -/
def imageWord (l : List Byte) (i : Nat) : Word := wordOf l i
def imageKind (l : List Byte) : Nat := bits (imageWord l 0) 0 16
def imageVersion (l : List Byte) : Nat := bits (imageWord l 0) 16 16
def imageLen (l : List Byte) : Nat := bits (imageWord l 0) 32 32

/-- An image keeps Table 2, its key's digest is the vendor's, and its signature verifies (R348, R349). -/
def imageOk (l : List Byte) (kind : Nat) : Bool :=
  let n := imageLen l
  let key := (l.drop 8).take 68
  imageKind l == kind && decide (1 ≤ n ∧ n ≤ 520448 ∧ 128 + n + 2820 ≤ l.length) && ((l.drop 76).take 52).all (· == 0) &&
    shake256 key == Config.vendorDigest && xmssVerify key (l.take (128 + n)) ((l.drop (128 + n)).take 2820)

/-- An image as the boot ROM takes it: as long as its header says. -/
def trimImage (l : List Byte) : List Byte := l.take (128 + imageLen l + 2820)

/-- The slots of a list of images with their numbers, in descending version order; equal versions in slot order. -/
def insertSlot (x : Nat × List Byte) : List (Nat × List Byte) → List (Nat × List Byte)
  | [] => [x]
  | y :: t => if imageVersion y.2 < imageVersion x.2 then x :: y :: t else y :: insertSlot x t

/-- The first slot that qualifies (R349). -/
def chooseSlot (slots : List (List Byte)) (kind least : Nat) : Option (Nat × List Byte) :=
  (((List.range slots.length).map fun i => (i, slots.getD i [])).foldl (fun l x => insertSlot x l) []).find? fun x =>
    imageOk x.2 kind && decide (least ≤ imageVersion x.2)

/-- The bytes that the host has written into the recovery window. -/
def recoveryImage (b : Boot) : List Byte := (List.range (b.recovery.foldl (fun n p => max n (p.1 + 1)) 0)).map fun i => aget 0 b.recovery i

/-- The firmware that qualifies: from the flash, or from the recovery window (R349). -/
def State.firmware (s : State) : Option (Nat × List Byte) :=
  if s.boot.recoveryMode then
    (let l := recoveryImage s.boot
     if imageOk l 1 && decide (s.flash.minFirmware ≤ imageVersion l) then some (0, l) else none)
  else chooseSlot (s.flash.firmware.take 2) 1 s.flash.minFirmware

/-- The images are verified (R349): state 2, or 8 or 9 where none qualifies. With RECOVERY set, a failed image leaves the ROM waiting
for another. -/
def execBootVerifyComplete (s : State) : Host.Outcome State Fault Refusal :=
  if s.boot.checking then
    let b := { s.boot with checking := false }
    match s.firmware with
    | none => .next { s with boot := { b with state := 8, recovery := [] } }
    | some (i, fw) => match chooseSlot (s.flash.config.take 2) 2 s.flash.minConfig with
      | none => .next { s with boot := { b with state := 9 } }
      | some (_, cfg) =>
        .next { s with boot := { b with
          state := 2, slot := i, version := imageVersion fw, minVersion := s.flash.minFirmware, accepted := true, recovery := [],
          image := trimImage fw, configImage := trimImage cfg } }
  else .next s

/-- The host writes bytes of an image into the recovery window (R349). -/
def execRecoveryImageWrite (off : Nat) (bytes : List Byte) (s : State) : Host.Outcome State Fault Refusal :=
  .next (s.fromHost fun s => s.recoveryWrite off (bytes.map some))

/-- The host writes the doubleword that starts the checks (R349). -/
def execRecoveryImageComplete (s : State) : Host.Outcome State Fault Refusal := .next (s.fromHost State.recoveryStart)

/-! ## Bring-up (R350) -/

/-- Power wave w: mesh rows 2w and 2w + 1 (R350). -/
def State.powerRows (s : State) (w : Nat) : State :=
  (List.range 256).foldl (fun (s : State) i => s.updCluster (256 * w + i) fun k => { k with powered := true }) s

/-- The next power wave (R350). -/
def execPowerWave (s : State) : Host.Outcome State Fault Refusal :=
  if s.boot.state = 2 then
    let w := s.boot.waves
    let t := s.powerRows w
    .next { t with boot := { t.boot with waves := w + 1, state := if w + 1 ≥ 32 then 3 else 2 } }
  else .next s

/-- Apply one entry of a repair map: a spare of the die takes over, or none is left (R5, R329). -/
def State.applyRepair (s : State) (cl : Nat) : State :=
  if s.sparesOf (dieOf cl) = 0 then
    { s.updCluster cl fun k => { k with powered := false } with outOfService := s.outOfService ++ [cl] }
  else { s with repaired := s.repaired ++ [cl] }

/-- HBM training ends, and the repair map is applied: the configuration's, with the flash's additions (R5, R327, R350). -/
def execHbmTrainingComplete (s : State) : Host.Outcome State Fault Refusal :=
  if s.boot.state = 3 then
    let t := (Config.repairMap s.boot.configImage ++ s.flash.repairs).foldl State.applyRepair s
    .next { t with boot := { t.boot with state := 4 } }
  else .next s

/-- A configuration request (R350): none is answered in reset, and until the ROM has read the flash it is to be tried again. -/
def execConfigRequest (s : State) : Host.Outcome State Fault Refusal :=
  if s.boot.inReset then .next s else .next (s.say (if s.boot.romRead then .config else .retryStatus))

/-! ## Power (R353) -/

/-- The matrix duty after a window with a mean power under a limit. -/
def nextDuty (d mean limit : Nat) : Nat :=
  if limit < mean ∧ 4 < d then d - 1 else if mean + 200 < limit ∧ d < 16 then d + 1 else d

/-- A 1 ms window ends (R353): its mean is compared with the limit as it stood when the window began, and PWRLIM as it stands now applies to the
next. OVER is set while the mean exceeds the limit at d = 4. -/
def execPowerWindow (mean : Nat) (s : State) : Host.Outcome State Fault Refusal :=
  let limit := s.boot.pwrLimit.toNat
  let d := nextDuty s.boot.duty mean limit
  let above := decide (limit < mean ∧ s.boot.duty = 4)
  let t : State := { s with boot := { s.boot with duty := d, pwrLimit := s.ctlGet Reg.pwrlim } }
  .next (t.ctlPut Reg.pwrstat (BitVec.ofNat 64 (mean % 8192 + d * 65536 + (if above then 2 ^ 24 else 0))))

end Sys2Proof.Machine
end

