-- ==== Sys2Proof/Machine/Dispatch.lean ====
section
/-! DEFINITION. One arm per row of spec/opcode_table.json: the meaning of each instruction and step. -/
namespace Sys2Proof.Machine

def exec (i : Instr) (s : State) : Host.Outcome State Fault Refusal :=
  match i with
  | .add d a b => Sys2Proof.Machine.execAdd d a b s
  | .sub d a b => Sys2Proof.Machine.execSub d a b s
  | .and d a b => Sys2Proof.Machine.execAnd d a b s
  | .or d a b => Sys2Proof.Machine.execOr d a b s
  | .xor d a b => Sys2Proof.Machine.execXor d a b s
  | .shl d a b => Sys2Proof.Machine.execShl d a b s
  | .shr d a b => Sys2Proof.Machine.execShr d a b s
  | .sra d a b => Sys2Proof.Machine.execSra d a b s
  | .rot d a b => Sys2Proof.Machine.execRot d a b s
  | .mul d a b => Sys2Proof.Machine.execMul d a b s
  | .mulh d a b => Sys2Proof.Machine.execMulh d a b s
  | .mulhu d a b => Sys2Proof.Machine.execMulhu d a b s
  | .div d a b => Sys2Proof.Machine.execDiv d a b s
  | .divu d a b => Sys2Proof.Machine.execDivu d a b s
  | .rem d a b => Sys2Proof.Machine.execRem d a b s
  | .remu d a b => Sys2Proof.Machine.execRemu d a b s
  | .slt d a b => Sys2Proof.Machine.execSlt d a b s
  | .sltu d a b => Sys2Proof.Machine.execSltu d a b s
  | .seq d a b => Sys2Proof.Machine.execSeq d a b s
  | .min d a b => Sys2Proof.Machine.execMin d a b s
  | .max d a b => Sys2Proof.Machine.execMax d a b s
  | .minu d a b => Sys2Proof.Machine.execMinu d a b s
  | .maxu d a b => Sys2Proof.Machine.execMaxu d a b s
  | .clz d a => Sys2Proof.Machine.execClz d a s
  | .ctz d a => Sys2Proof.Machine.execCtz d a s
  | .popc d a => Sys2Proof.Machine.execPopc d a s
  | .madd d a b c => Sys2Proof.Machine.execMadd d a b c s
  | .csel d a b c => Sys2Proof.Machine.execCsel d a b c s
  | .addi d a n1 => Sys2Proof.Machine.execAddi d a n1 s
  | .andi d a n1 => Sys2Proof.Machine.execAndi d a n1 s
  | .ori d a n1 => Sys2Proof.Machine.execOri d a n1 s
  | .xori d a n1 => Sys2Proof.Machine.execXori d a n1 s
  | .shi d a n k => Sys2Proof.Machine.execShi d a n k s
  | .slti d a n1 => Sys2Proof.Machine.execSlti d a n1 s
  | .sltiu d a n1 => Sys2Proof.Machine.execSltiu d a n1 s
  | .lui d n1 => Sys2Proof.Machine.execLui d n1 s
  | .addpc d n1 => Sys2Proof.Machine.execAddpc d n1 s
  | .crd d n => Sys2Proof.Machine.execCrd d n s
  | .cwr a n => Sys2Proof.Machine.execCwr a n s
  | .cset d a n => Sys2Proof.Machine.execCset d a n s
  | .cclr d a n => Sys2Proof.Machine.execCclr d a n s
  | .cswp d a n => Sys2Proof.Machine.execCswp d a n s
  | .beq x y o => Sys2Proof.Machine.execBeq x y o s
  | .bne x y o => Sys2Proof.Machine.execBne x y o s
  | .blt x y o => Sys2Proof.Machine.execBlt x y o s
  | .bge x y o => Sys2Proof.Machine.execBge x y o s
  | .bltu x y o => Sys2Proof.Machine.execBltu x y o s
  | .bgeu x y o => Sys2Proof.Machine.execBgeu x y o s
  | .bok o => Sys2Proof.Machine.execBok o s
  | .bempty o => Sys2Proof.Machine.execBempty o s
  | .bfull o => Sys2Proof.Machine.execBfull o s
  | .babsent o => Sys2Proof.Machine.execBabsent o s
  | .bany m o => Sys2Proof.Machine.execBany m o s
  | .ball m o => Sys2Proof.Machine.execBall m o s
  | .bnone m o => Sys2Proof.Machine.execBnone m o s
  | .bflag x o => Sys2Proof.Machine.execBflag x o s
  | .jal d o => Sys2Proof.Machine.execJal d o s
  | .jalr d a n1 => Sys2Proof.Machine.execJalr d a n1 s
  | .ldx d a b w1 o c h => Sys2Proof.Machine.execLdx d a b w1 o c h s
  | .stx d a b w1 o c h => Sys2Proof.Machine.execStx d a b w1 o c h s
  | .ldb d a n1 => Sys2Proof.Machine.execLdb d a n1 s
  | .ldbz d a n1 => Sys2Proof.Machine.execLdbz d a n1 s
  | .ldh d a n1 => Sys2Proof.Machine.execLdh d a n1 s
  | .ldhz d a n1 => Sys2Proof.Machine.execLdhz d a n1 s
  | .ldw d a n1 => Sys2Proof.Machine.execLdw d a n1 s
  | .ldwz d a n1 => Sys2Proof.Machine.execLdwz d a n1 s
  | .ldd d a n1 => Sys2Proof.Machine.execLdd d a n1 s
  | .stb d a n1 => Sys2Proof.Machine.execStb d a n1 s
  | .sth d a n1 => Sys2Proof.Machine.execSth d a n1 s
  | .stw d a n1 => Sys2Proof.Machine.execStw d a n1 s
  | .std d a n1 => Sys2Proof.Machine.execStd d a n1 s
  | .amoadd d a b o w1 w => Sys2Proof.Machine.execAmoadd d a b o w1 w s
  | .amoand d a b o w1 w => Sys2Proof.Machine.execAmoand d a b o w1 w s
  | .amoor d a b o w1 w => Sys2Proof.Machine.execAmoor d a b o w1 w s
  | .amoxor d a b o w1 w => Sys2Proof.Machine.execAmoxor d a b o w1 w s
  | .amomin d a b o w1 w => Sys2Proof.Machine.execAmomin d a b o w1 w s
  | .amomax d a b o w1 w => Sys2Proof.Machine.execAmomax d a b o w1 w s
  | .amominu d a b o w1 w => Sys2Proof.Machine.execAmominu d a b o w1 w s
  | .amomaxu d a b o w1 w => Sys2Proof.Machine.execAmomaxu d a b o w1 w s
  | .amoswap d a b o w1 w => Sys2Proof.Machine.execAmoswap d a b o w1 w s
  | .amocas d a b o w1 w => Sys2Proof.Machine.execAmocas d a b o w1 w s
  | .amofadd d a b o w1 => Sys2Proof.Machine.execAmofadd d a b o w1 s
  | .amoincb d a b o w1 w => Sys2Proof.Machine.execAmoincb d a b o w1 w s
  | .fence w1 => Sys2Proof.Machine.execFence w1 s
  | .pfence a b w1 => Sys2Proof.Machine.execPfence a b w1 s
  | .ifence => Sys2Proof.Machine.execIfence s
  | .waitge d a b => Sys2Proof.Machine.execWaitge d a b s
  | .waitp d a b c => Sys2Proof.Machine.execWaitp d a b c s
  | .sleep a => Sys2Proof.Machine.execSleep a s
  | .fwait a v c => Sys2Proof.Machine.execFwait a v c s
  | .fset a b c => Sys2Proof.Machine.execFset a b c s
  | .fclr a b c => Sys2Proof.Machine.execFclr a b c s
  | .ftest d a => Sys2Proof.Machine.execFtest d a s
  | .yield => Sys2Proof.Machine.execYield s
  | .bpers d a b => Sys2Proof.Machine.execBpers d a b s
  | .bquery d a => Sys2Proof.Machine.execBquery d a s
  | .bgroup d a b c => Sys2Proof.Machine.execBgroup d a b c s
  | .bspread d a b => Sys2Proof.Machine.execBspread d a b s
  | .bkeep a b c => Sys2Proof.Machine.execBkeep a b c s
  | .bclear d a => Sys2Proof.Machine.execBclear d a s
  | .vadd d a b m t => Sys2Proof.Machine.execVadd d a b m t s
  | .vsub d a b m t => Sys2Proof.Machine.execVsub d a b m t s
  | .vmul d a b m t => Sys2Proof.Machine.execVmul d a b m t s
  | .vmin d a b m t => Sys2Proof.Machine.execVmin d a b m t s
  | .vmax d a b m t => Sys2Proof.Machine.execVmax d a b m t s
  | .vand d a b m t => Sys2Proof.Machine.execVand d a b m t s
  | .vor d a b m t => Sys2Proof.Machine.execVor d a b m t s
  | .vxor d a b m t => Sys2Proof.Machine.execVxor d a b m t s
  | .vshl d a b m t => Sys2Proof.Machine.execVshl d a b m t s
  | .vshr d a b m t => Sys2Proof.Machine.execVshr d a b m t s
  | .vsra d a b m t => Sys2Proof.Machine.execVsra d a b m t s
  | .vceq d a b m => Sys2Proof.Machine.execVceq d a b m s
  | .vclt d a b m => Sys2Proof.Machine.execVclt d a b m s
  | .vcle d a b m => Sys2Proof.Machine.execVcle d a b m s
  | .vsel d a b m t => Sys2Proof.Machine.execVsel d a b m t s
  | .vaddsat d a b m t => Sys2Proof.Machine.execVaddsat d a b m t s
  | .vmadd d a b m t => Sys2Proof.Machine.execVmadd d a b m t s
  | .vfadd d a b m t => Sys2Proof.Machine.execVfadd d a b m t s
  | .vfsub d a b m t => Sys2Proof.Machine.execVfsub d a b m t s
  | .vfmul d a b m t => Sys2Proof.Machine.execVfmul d a b m t s
  | .vfma d a b m t => Sys2Proof.Machine.execVfma d a b m t s
  | .vfmin d a b m t => Sys2Proof.Machine.execVfmin d a b m t s
  | .vfmax d a b m t => Sys2Proof.Machine.execVfmax d a b m t s
  | .vfceq d a b m => Sys2Proof.Machine.execVfceq d a b m s
  | .vfclt d a b m => Sys2Proof.Machine.execVfclt d a b m s
  | .vfcle d a b m => Sys2Proof.Machine.execVfcle d a b m s
  | .vfdiv d a b m t => Sys2Proof.Machine.execVfdiv d a b m t s
  | .vfsqrt d a m t => Sys2Proof.Machine.execVfsqrt d a m t s
  | .vfrcp d a m t => Sys2Proof.Machine.execVfrcp d a m t s
  | .vfexp2 d a m t => Sys2Proof.Machine.execVfexp2 d a m t s
  | .vflog2 d a m t => Sys2Proof.Machine.execVflog2 d a m t s
  | .vfabs d a m t => Sys2Proof.Machine.execVfabs d a m t s
  | .vfneg d a m t => Sys2Proof.Machine.execVfneg d a m t s
  | .vld d a m => Sys2Proof.Machine.execVld d a m s
  | .vst d a m => Sys2Proof.Machine.execVst d a m s
  | .vldx d a b m => Sys2Proof.Machine.execVldx d a b m s
  | .vstx d a b m => Sys2Proof.Machine.execVstx d a b m s
  | .vstxadd d a b m t => Sys2Proof.Machine.execVstxadd d a b m t s
  | .vldb d a m => Sys2Proof.Machine.execVldb d a m s
  | .vldk d a b m => Sys2Proof.Machine.execVldk d a b m s
  | .vstk d a b m => Sys2Proof.Machine.execVstk d a b m s
  | .vbcast d a m => Sys2Proof.Machine.execVbcast d a m s
  | .vext d a n => Sys2Proof.Machine.execVext d a n s
  | .vins d a n => Sys2Proof.Machine.execVins d a n s
  | .vredaddI32 d a m => Sys2Proof.Machine.execVredaddI32 d a m s
  | .vredaddF32 d a m => Sys2Proof.Machine.execVredaddF32 d a m s
  | .vredmin d a m t => Sys2Proof.Machine.execVredmin d a m t s
  | .vredmax d a m t => Sys2Proof.Machine.execVredmax d a m t s
  | .vperm d a b m => Sys2Proof.Machine.execVperm d a b m s
  | .vslide d a b m => Sys2Proof.Machine.execVslide d a b m s
  | .vmpop d a => Sys2Proof.Machine.execVmpop d a s
  | .vmand d a b => Sys2Proof.Machine.execVmand d a b s
  | .vmor d a b => Sys2Proof.Machine.execVmor d a b s
  | .vmxor d a b => Sys2Proof.Machine.execVmxor d a b s
  | .vmnot d a => Sys2Proof.Machine.execVmnot d a s
  | .vmset d a => Sys2Proof.Machine.execVmset d a s
  | .vmget d a => Sys2Proof.Machine.execVmget d a s
  | .vlane d m => Sys2Proof.Machine.execVlane d m s
  | .cvtF32I32 d a m v => Sys2Proof.Machine.execCvtF32I32 d a m v s
  | .cvtI32F32 d a m v => Sys2Proof.Machine.execCvtI32F32 d a m v s
  | .cvtF64F32 d a => Sys2Proof.Machine.execCvtF64F32 d a s
  | .cvtF32F64 d a => Sys2Proof.Machine.execCvtF32F64 d a s
  | .vcvtBf16F32 d a b m => Sys2Proof.Machine.execVcvtBf16F32 d a b m s
  | .vcvtF32Bf16 d a h m => Sys2Proof.Machine.execVcvtF32Bf16 d a h m s
  | .vdec d a n m t => Sys2Proof.Machine.execVdec d a n m t s
  | .venc d a n m t => Sys2Proof.Machine.execVenc d a n m t s
  | .vqmx d a b h => Sys2Proof.Machine.execVqmx d a b h s
  | .vdqmx d a b h => Sys2Proof.Machine.execVdqmx d a b h s
  | .fadd d a b t => Sys2Proof.Machine.execFadd d a b t s
  | .fsub d a b t => Sys2Proof.Machine.execFsub d a b t s
  | .fmul d a b t => Sys2Proof.Machine.execFmul d a b t s
  | .fma d a b c t => Sys2Proof.Machine.execFma d a b c t s
  | .fdiv d a b t => Sys2Proof.Machine.execFdiv d a b t s
  | .fsqrt d a t => Sys2Proof.Machine.execFsqrt d a t s
  | .fmin d a b t => Sys2Proof.Machine.execFmin d a b t s
  | .fmax d a b t => Sys2Proof.Machine.execFmax d a b t s
  | .feq d a b t => Sys2Proof.Machine.execFeq d a b t s
  | .flt d a b t => Sys2Proof.Machine.execFlt d a b t s
  | .fle d a b t => Sys2Proof.Machine.execFle d a b t s
  | .fabs d a t => Sys2Proof.Machine.execFabs d a t s
  | .fneg d a t => Sys2Proof.Machine.execFneg d a t s
  | .fclass d a t => Sys2Proof.Machine.execFclass d a t s
  | .tblld t a => Sys2Proof.Machine.execTblld t a s
  | .tblrd d a t => Sys2Proof.Machine.execTblrd d a t s
  | .tblpre t p => Sys2Proof.Machine.execTblpre t p s
  | .mma d a b c p => Sys2Proof.Machine.execMma d a b c p s
  | .mmaz d a b c p => Sys2Proof.Machine.execMmaz d a b c p s
  | .mstream d a b c p => Sys2Proof.Machine.execMstream d a b c p s
  | .mzero d => Sys2Proof.Machine.execMzero d s
  | .mstore d a b => Sys2Proof.Machine.execMstore d a b s
  | .mread d a b => Sys2Proof.Machine.execMread d a b s
  | .mpeek d a b => Sys2Proof.Machine.execMpeek d a b s
  | .msync => Sys2Proof.Machine.execMsync s
  | .mload d a => Sys2Proof.Machine.execMload d a s
  | .rrun d a => Sys2Proof.Machine.execRrun d a s
  | .rverify d a => Sys2Proof.Machine.execRverify d a s
  | .rstat d a => Sys2Proof.Machine.execRstat d a s
  | .cpy d a => Sys2Proof.Machine.execCpy d a s
  | .cpyTry d a => Sys2Proof.Machine.execCpyTry d a s
  | .cpyq d => Sys2Proof.Machine.execCpyq d s
  | .send a b => Sys2Proof.Machine.execSend a b s
  | .sendm a b c => Sys2Proof.Machine.execSendm a b c s
  | .arm a b c => Sys2Proof.Machine.execArm a b c s
  | .bind a b => Sys2Proof.Machine.execBind a b s
  | .spawn a b => Sys2Proof.Machine.execSpawn a b s
  | .reply a b c => Sys2Proof.Machine.execReply a b c s
  | .halt k => Sys2Proof.Machine.execHalt k s
  | .self d => Sys2Proof.Machine.execSelf d s
  | .detach => Sys2Proof.Machine.execDetach s
  | .join k => Sys2Proof.Machine.execJoin k s
  | .bar k => Sys2Proof.Machine.execBar k s
  | .lead d => Sys2Proof.Machine.execLead d s
  | .grow n => Sys2Proof.Machine.execGrow n s
  | .shrink n => Sys2Proof.Machine.execShrink n s
  | .swp d a => Sys2Proof.Machine.execSwp d a s
  | .rdws d a b => Sys2Proof.Machine.execRdws d a b s
  | .trap n => Sys2Proof.Machine.execTrap n s
  | .eret => Sys2Proof.Machine.execEret s
  | .stop n => Sys2Proof.Machine.execStop n s
  | .census a c => Sys2Proof.Machine.execCensus a c s
  | .nop => Sys2Proof.Machine.execNop s
  | .rep a l w1 g => Sys2Proof.Machine.execRep a l w1 g s
  | .cMov d r => Sys2Proof.Machine.execCMov d r s
  | .cAddi d n1 => Sys2Proof.Machine.execCAddi d n1 s
  | .cLi d n1 => Sys2Proof.Machine.execCLi d n1 s
  | .cLdd d r => Sys2Proof.Machine.execCLdd d r s
  | .cStd d r => Sys2Proof.Machine.execCStd d r s
  | .cAdd d r => Sys2Proof.Machine.execCAdd d r s
  | .cBeqz d n1 => Sys2Proof.Machine.execCBeqz d n1 s
  | .cBnez d n1 => Sys2Proof.Machine.execCBnez d n1 s
  | .cJ o => Sys2Proof.Machine.execCJ o s
  | .once => Sys2Proof.Machine.execOnce s
  | .cHalt => Sys2Proof.Machine.execCHalt s
  | .cJoin k => Sys2Proof.Machine.execCJoin k s
  | .cRet => Sys2Proof.Machine.execCRet s
  | .cNop => Sys2Proof.Machine.execCNop s
  | .waitSatisfied r frame => Sys2Proof.Machine.execWaitSatisfied r frame s
  | .engineTrap r => Sys2Proof.Machine.execEngineTrap r s
  | .driftDetach r => Sys2Proof.Machine.execDriftDetach r s
  | .messageArrival n1 => Sys2Proof.Machine.execMessageArrival n1 s
  | .bankOperationRequest q => Sys2Proof.Machine.execBankOperationRequest q s
  | .accessResponse r ans => Sys2Proof.Machine.execAccessResponse r ans s
  | .retryReissue q => Sys2Proof.Machine.execRetryReissue q s
  | .retryTimeout q => Sys2Proof.Machine.execRetryTimeout q s
  | .backoffReissue q => Sys2Proof.Machine.execBackoffReissue q s
  | .inboxItemHandle r => Sys2Proof.Machine.execInboxItemHandle r s
  | .activationStart r => Sys2Proof.Machine.execActivationStart r s
  | .readyPromotion r n => Sys2Proof.Machine.execReadyPromotion r n s
  | .groupStart cl => Sys2Proof.Machine.execGroupStart cl s
  | .coreLaunchEnd r => Sys2Proof.Machine.execCoreLaunchEnd r s
  | .recordRetry r => Sys2Proof.Machine.execRecordRetry r s
  | .bankConversionEnd r => Sys2Proof.Machine.execBankConversionEnd r s
  | .spreadWindowClose r d => Sys2Proof.Machine.execSpreadWindowClose r d s
  | .matrixRamp cl => Sys2Proof.Machine.execMatrixRamp cl s
  | .matrixGrant cl => Sys2Proof.Machine.execMatrixGrant cl s
  | .matrixRetire cl residue shadow => Sys2Proof.Machine.execMatrixRetire cl residue shadow s
  | .matrixPortCommand r => Sys2Proof.Machine.execMatrixPortCommand r s
  | .tileWriteEnd cl => Sys2Proof.Machine.execTileWriteEnd cl s
  | .copyStart r => Sys2Proof.Machine.execCopyStart r s
  | .copyEnd r n => Sys2Proof.Machine.execCopyEnd r n s
  | .ruleJobStart cl => Sys2Proof.Machine.execRuleJobStart cl s
  | .ruleJobEnd cl => Sys2Proof.Machine.execRuleJobEnd cl s
  | .memoryRequest q e => Sys2Proof.Machine.execMemoryRequest q e s
  | .bankBlockEnd stack chan bank => Sys2Proof.Machine.execBankBlockEnd stack chan bank s
  | .refreshWindowStart stack => Sys2Proof.Machine.execRefreshWindowStart stack s
  | .hbmScrub a e => Sys2Proof.Machine.execHbmScrub a e s
  | .storeScrub r off e => Sys2Proof.Machine.execStoreScrub r off e s
  | .translationRequest q => Sys2Proof.Machine.execTranslationRequest q s
  | .walkStepComplete q => Sys2Proof.Machine.execWalkStepComplete q s
  | .queueReserve src q v core tag reissue => Sys2Proof.Machine.execQueueReserve src q v core tag reissue s
  | .queueEntryWrite src q n1 k v => Sys2Proof.Machine.execQueueEntryWrite src q n1 k v s
  | .entryDiscard q => Sys2Proof.Machine.execEntryDiscard q s
  | .launchTake q => Sys2Proof.Machine.execLaunchTake q s
  | .launchPlace id => Sys2Proof.Machine.execLaunchPlace id s
  | .replayEntryStart id => Sys2Proof.Machine.execReplayEntryStart id s
  | .launchComplete id => Sys2Proof.Machine.execLaunchComplete id s
  | .evictionStart id => Sys2Proof.Machine.execEvictionStart id s
  | .saveStreamStart cl => Sys2Proof.Machine.execSaveStreamStart cl s
  | .saveComplete cl => Sys2Proof.Machine.execSaveComplete cl s
  | .resumption n => Sys2Proof.Machine.execResumption n s
  | .dieLinkFailure link posted before after => Sys2Proof.Machine.execDieLinkFailure link posted before after s
  | .filestenPortFailure port posted accs => Sys2Proof.Machine.execFilestenPortFailure port posted accs s
  | .dedupEntryExpiry n1 => Sys2Proof.Machine.execDedupEntryExpiry n1 s
  | .coreSeal r cause => Sys2Proof.Machine.execCoreSeal r cause s
  | .coreTestComplete r pass => Sys2Proof.Machine.execCoreTestComplete r pass s
  | .clusterRetire cl => Sys2Proof.Machine.execClusterRetire cl s
  | .stopAtBoundary r => Sys2Proof.Machine.execStopAtBoundary r s
  | .serviceStopRequest r => Sys2Proof.Machine.execServiceStopRequest r s
  | .serviceRelease r => Sys2Proof.Machine.execServiceRelease r s
  | .dlyselCopy r => Sys2Proof.Machine.execDlyselCopy r s
  | .dlyselClear r => Sys2Proof.Machine.execDlyselClear r s
  | .hostMemoryRead svc bar a len => Sys2Proof.Machine.execHostMemoryRead svc bar a len s
  | .hostMemoryWrite svc bar a bytes => Sys2Proof.Machine.execHostMemoryWrite svc bar a bytes s
  | .hostFetchadd svc bar a width v => Sys2Proof.Machine.execHostFetchadd svc bar a width v s
  | .hostSwap svc bar a width v => Sys2Proof.Machine.execHostSwap svc bar a width v s
  | .hostCas svc bar a width cmp v => Sys2Proof.Machine.execHostCas svc bar a width cmp v s
  | .configRequest => Sys2Proof.Machine.execConfigRequest s
  | .recoveryImageWrite off bytes => Sys2Proof.Machine.execRecoveryImageWrite off bytes s
  | .recoveryImageComplete => Sys2Proof.Machine.execRecoveryImageComplete s
  | .peerRead m a len => Sys2Proof.Machine.execPeerRead m a len s
  | .peerWrite m a bytes => Sys2Proof.Machine.execPeerWrite m a bytes s
  | .peerAtomic m core tag fn size a b d reissue => Sys2Proof.Machine.execPeerAtomic m core tag fn size a b d reissue s
  | .controlPathWrite src off v => Sys2Proof.Machine.execControlPathWrite src off v s
  | .invalidateSlot src v => Sys2Proof.Machine.execInvalidateSlot src v s
  | .invalidateRange src v => Sys2Proof.Machine.execInvalidateRange src v s
  | .invalidationComplete => Sys2Proof.Machine.execInvalidationComplete s
  | .faccept src v => Sys2Proof.Machine.execFaccept src v s
  | .attcmd src v => Sys2Proof.Machine.execAttcmd src v s
  | .attestationComplete => Sys2Proof.Machine.execAttestationComplete s
  | .powerWindow mean => Sys2Proof.Machine.execPowerWindow mean s
  | .perstAssert => Sys2Proof.Machine.execPerstAssert s
  | .perstDeassert straps => Sys2Proof.Machine.execPerstDeassert straps s
  | .bootVerifyComplete => Sys2Proof.Machine.execBootVerifyComplete s
  | .powerWave => Sys2Proof.Machine.execPowerWave s
  | .hbmTrainingComplete => Sys2Proof.Machine.execHbmTrainingComplete s
  | .unassignedEncoding w half => Sys2Proof.Machine.execUnassignedEncoding w half s
  | .fetchFault a => Sys2Proof.Machine.execFetchFault a s
  | .bootRomReadComplete => Sys2Proof.Machine.execBootRomReadComplete s
  | .restoreComplete n => Sys2Proof.Machine.execRestoreComplete n s
  | .droppedWindowAccess src off read => Sys2Proof.Machine.execDroppedWindowAccess src off read s

end Sys2Proof.Machine
end

