-- ==== Sys2Proof/Machine/Issue.lean ====
section
/-! DEFINITION. What a core does in its turn up to the execution of an instruction: steps left by its own writes (R234, R339), the
ENGINE trap (R191), delivery or private fetch (R33, R89, R204 to R206), repetition (R100 to R102, R188), debug matches (R341), errors
in registers (R320) and the siblings of a `once` (R90, R189). -/
namespace Sys2Proof.Machine

/-- The state that an outcome leaves. -/
def settleOut (s : State) : Host.Outcome State Fault Refusal → State
  | .next t => t
  | _ => s

/-- What a turn comes to: a whole step, or an instruction to execute. -/
inductive Turned where
  | done (s : State)
  | run (f : Fetched) (s : State)
deriving DecidableEq, Repr

/-! ## Registers in error (R320) -/

/-- The store range of a register. -/
def regRange (c : Core) (cls : Cls) (n : Nat) : Nat × Nat :=
  match cls with
  | .v => (vAddr c n, 64)
  | .m => (mAddr c n, 2)
  | .run => (sAddr c n, 32)
  | _ => (sAddr c n, 8)

/-- Registers that an instruction reads beyond those its fields name: the payload of a message (R168). -/
def extraReads (c : Core) : Instr → List (Nat × Nat)
  | .send a b | .sendm a b _ | .reply a b _ => [(sAddr c b.toNat, 8 * min (bits (c.s a.toNat) 22 4) (32 - b.toNat))]
  | _ => []

/-- An instruction reads a register whose frame word holds an uncorrectable error. -/
def badRegister (c : Core) (i : Instr) : Bool :=
  (i.uses.any fun u => u.rd && u.cls != .acc && u.cls != .tbl && !(u.cls == .s && u.num == 0) &&
    (let r := regRange c u.cls u.num; c.store.poisoned r.1 r.2)) ||
    (extraReads c i).any fun r => r.2 != 0 && c.store.poisoned r.1 r.2

/-! ## Debug matches (R341) -/

/-- Match control i fires at an address with an action. -/
def Core.matchAt (c : Core) (a : Word) (act : Bool) (i : Nat) : Bool :=
  let w := c.cr_ (Cr.dbgm0 + i)
  bit w 63 && bit w 62 == act && bits w 1 56 == bits a 1 56

/-- The lowest match control that traps at an address. -/
def Core.trapMatch (c : Core) (a : Word) : Option Nat := (List.range 8).find? (c.matchAt a true)

/-- A match at an address that requests a stop, while stops are enabled. -/
def Core.stopMatch (c : Core) (a : Word) : Bool := bit (c.cr_ Cr.dbgctl) 0 && (List.range 8).any (c.matchAt a false)

/-! ## The siblings of a once (R90, R189) -/

/-- How a core stands at an instruction that a `once` governs. -/
inductive Stand where
  | executes
  | takes (p : Posting)
  | lost
  | waits
deriving DecidableEq, Repr

/-- The standing of a core of a cluster: the elected core executes, or the lowest remaining receiver when none is elected. -/
def Cluster.standing (k : Cluster) (j : Nat) : Stand :=
  match (k.core j).governed with
  | none => .executes
  | some id => match k.onces.find? fun o => o.id == id with
    | none => .executes
    | some o =>
      if o.elected = some j then .executes
      else match o.result with
        | some p => .takes p
        | none => if o.failed then .lost else if o.elected = none ∧ o.receivers.head? = some j then .executes else .waits

/-- The lowest remaining receiver becomes the elected core. -/
def Cluster.elect (k : Cluster) (j : Nat) : Cluster :=
  match (k.core j).governed with
  | none => k
  | some id => { k with onces := k.onces.map fun (o : OnceRec) => if o.id = id ∧ o.elected = none then { o with elected := some j } else o }

/-- A sibling takes the posted results in place of the governed instruction. -/
def State.takeResults (s : State) (f : Fetched) (p : Posting) : State :=
  let s1 := s.upd fun c => { (c.takePosting p).retired f.len with governed := none }
  let s2 := match s.me.governed with
    | some id => s1.updCluster s.cur.cl fun k => k.dropOnce id s.cur.core
    | none => s1
  if s.me.att then s2.updCluster s.cur.cl Cluster.settle else s2

/-! ## Execution of what is selected -/

/-- What stands at a place cannot be fetched or is illegal: every core to which the group's stream issued it traps for itself (R39,
R40). -/
def Fetched.refused (f0 : Word) : Fetched → Bool
  | .instr i => !i.legal f0
  | _ => true

/-- A core that cannot fetch or decode the instruction that a `once` governs has no part in the `once` (R40; notes/assumptions/29). -/
def State.leaveOnce (s : State) : State :=
  match s.me.governed with
  | none => s
  | some id => s.updCluster s.cur.cl fun k => (k.setCore s.cur.core { k.core s.cur.core with governed := none }).dropOnce id s.cur.core

/-- A write form may name a control register (R24). -/
def crTakes (n : Nat) : Bool := match crLayout n with | some (w, _) => w != 0 | none => false

/-- What the entry of an instruction refuses whatever its registers hold, and so before they are read (R24, R39, R91, R101). -/
def entryRefusal (s : State) (i : Instr) : Option (Nat × Word) :=
  match i with
  | .once => onceRefusal s
  | .rep _ l _ _ => bodyRefused s.feat0 (repBody l s)
  | .crd _ n => if (crLayout n.toNat).isSome then none else some (tILLEGAL, i.word)
  | .cwr _ n | .cset _ _ n | .cclr _ _ n | .cswp _ _ n => if crTakes n.toNat then none else some (tILLEGAL, i.word)
  | _ => none

/-- An instruction gets as far as reading a register whose frame word holds an uncorrectable error (R22, R23, R39, R320). -/
def meetsBadRegister (s : State) (i : Instr) : Bool := reaches i (entryRefusal s i) s && badRegister s.me i

/-- A core stands at an instruction that the group's stream delivered. -/
def Core.streamed (c : Core) : Bool := match c.taken with | some e => e.mask != 0 | none => false

/-- The last step before execution. What the group's stream delivered and no core can execute is every core's own trap; a core that
fetches privately, as after `eret`, keeps its place in the `once` (R40, R189). -/
def launchInstr (f : Fetched) (s : State) : Turned :=
  if s.me.streamed && f.refused s.feat0 then .run f s.leaveOnce
  else match s.mine.standing s.cur.core with
  | .takes p => .done (s.takeResults f p)
  | .lost => .done (s.raise tREMOTEERROR 0)
  | .waits => .done s
  | .executes =>
    let s := s.fetchBody f
    match f with
    | .instr i =>
      if meetsBadRegister s i then .done ((s.uncorrectable s.cur.cl).seal s.cur tPOISON)
      else .run f (s.updCluster s.cur.cl fun k => k.elect s.cur.core)
    | _ => .run f (s.updCluster s.cur.cl fun k => k.elect s.cur.core)

/-- A newly selected instruction at an address: debug matches come before it, a stop request also beside a trap (R341). -/
def beginInstr (a : Word) (f : Fetched) (s : State) : Turned :=
  let s1 := if s.me.stopMatch a then s.upd fun c => { c with stopReq := some (c.stopReq.getD noCode) } else s
  match s.me.trapMatch a with
  | some i => .done (s1.raise tDEBUGSTOP (BitVec.ofNat 64 (Cr.dbgm0 + i)))
  | none => launchInstr f s1

/-- The instruction of a repetition (R100, R102): its staggered fields raised for the pass. `e` is the entry that the front end issued
for it, or that of a private fetch. -/
def repInstr (e : Issued) (s : State) : Turned :=
  let c := s.me
  if c.repBuf = [] then
    (let s1 := s.fetchRep
    match resumeRep s1 with
    | .error e => .done (s1.raise e.1 e.2)
    | .ok c1 => .done (s1.setCore s1.cur c1))
  else match c.repBuf[c.repPos]? with
    | none => .done (s.raise tILLEGAL 0)
    | some (a, f) =>
      let begin_ (f : Fetched) : Turned := beginInstr a f (s.upd fun c => { c with taken := some { e with addr := a, what := f } })
      match f with
      | .instr i => (match i.stagger (BitVec.ofNat 3 c.repStag) (c.repPass * c.repStride) c.nv with
        | .error n => .done (s.raise tREGISTER (BitVec.ofNat 64 n))
        | .ok j => begin_ (.instr j))
      | f => begin_ f

/-- An entry that a core has fetched for itself. -/
def Issued.own (a : Word) (f : Fetched) : Issued := ⟨a, f, none, none, 0, 0, [], none⟩

/-- The instruction issued to a core is the one that it executes next: at its next address, or the next of its `rep` body (R100,
R206). -/
def Core.expects (c : Core) (e : Issued) : Bool :=
  if c.inRep then e.pass == some (c.repPos, c.repPass) && e.addr == c.instrAddr else e.pass.isNone && e.addr == c.pc

/-- Deliver the oldest instruction issued to a core (R204); one that it does not execute next shows that the core has
diverged (R206). -/
def deliver (e : Issued) (t : List Issued) (s : State) : Turned :=
  if s.me.expects e then
    (if s.me.inRep then repInstr e (s.upd fun c => { c with buf := t })
    else beginInstr e.addr e.what (s.upd fun c => { c with buf := t, taken := some e }))
  else
    .done (s.updCluster s.cur.cl fun k =>
      if (k.core s.cur.core).att then (k.detach s.cur.core 1).settle else k.dropBuf s.cur.core)

/-- The front end of a cluster can do something: a core left behind detaches, or the next instruction is issued (R204, R205). -/
def Cluster.frontDue (k : Cluster) : Bool :=
  k.powered && k.evict == .none && (k.mayIssue || (List.range 8).any (mustDrift k))

/-- The front end of a cluster: a core left behind detaches, or the next instruction is issued; a blocked core does not hold it back
(R204, R205). -/
def State.front (s : State) (cl : Nat) : State :=
  if (s.cluster cl).frontDue then
    match (List.range 8).find? (mustDrift (s.cluster cl)) with
    | some j => s.updCluster cl fun k => (k.detach j 2).settle
    | none => s.issue cl
  else s

/-- A private fetch (R89, R205). -/
def fetchTurn (s : State) : Turned :=
  let a := s.me.pc
  if s.fetchHeld s.cur.cl a then .done s else
  let s1 := cacheAfter s s.cur.cl (some s.cur) a
  let f := (fetchAt s1 s.cur.cl a).1
  beginInstr a f (s1.upd fun c => { c with taken := some (Issued.own a f) })

/-- Select the core's next instruction. -/
def selectInstr (s : State) : Turned :=
  let c := s.me
  match c.taken with
  | some e => launchInstr e.what s
  | none =>
    match c.buf with
    | e :: t => deliver e t s
    | [] =>
      if c.att then .done (s.front s.cur.cl)
      else if c.inRep then repInstr (Issued.own c.pc (.fault c.pc)) s
      else fetchTurn s

/-- A core can do something in its turn: it has steps left by its own writes, which an eviction lets it finish (R299); or it runs an
activation, nothing is outstanding, no stop holds it, and it does not wait. -/
def State.canTurn (s : State) (r : CoreRef) : Bool :=
  let k := s.cluster r.cl
  let c := s.core r
  k.powered && (c.after != [] && k.evict != .streaming || k.evict == .none && c.run == .running && c.pend.isNone && c.conv.isNone &&
    !c.stopped && !s.selfPosted r && (c.engineDue || match c.wait with | none => true | some w => w.polls))

/-- The turn of the current core. -/
def turn (s : State) : Turned :=
  let c := s.me
  if s.canTurn s.cur = false then .done s
  else match c.after with
    | .dlyClear :: _ => .done (settleOut s (execDlyselClear s.cur s))
    | .dlyCopy :: _ => .done (settleOut s (execDlyselCopy s.cur s))
    | .spreadClose d :: _ => .done (settleOut s (execSpreadWindowClose s.cur d s))
    | [] => if c.engineDue then .done (settleOut s (execEngineTrap s.cur s)) else selectInstr s

end Sys2Proof.Machine
end

