-- ==== Sys2Proof/Machine/Schedule.lean ====
section
/-! DEFINITION. Who moves: a core in its turn (R33, R204), the steps of the module's own agents, and their order, which the spec leaves
open (notes/assumptions/1, 2, 11). -/
namespace Sys2Proof.Machine

/-- Execute what a core selects. -/
def runTurn (x : Turned) : Host.Outcome State Fault Refusal :=
  match x with
  | .done t => .next t
  | .run (.instr i) t => exec i t
  | .run (.bad w half) t => execUnassignedEncoding w half t
  | .run (.fault a) t => execFetchFault a t

/-- A core's turn. -/
def coreTurn (r : CoreRef) (s : State) : Host.Outcome State Fault Refusal := runTurn (turn { s with cur := r })

/-- The turn of a cluster's front end (R204). -/
def frontTurn (cl : Nat) (s : State) : Host.Outcome State Fault Refusal := .next (s.front cl)

/-- A core's turn in which its shadow unit forms a result of what it executes (R321). -/
def shadowTurn (r : CoreRef) (x : Shadow) (s : State) : Host.Outcome State Fault Refusal :=
  match coreTurn r { s with shadowHit := some x } with
  | .next t => .next { t with shadowHit := none }
  | x => x

/-! ## The steps of the module's own agents -/

/-- A step that may be due. -/
abbrev Own := State → Host.Outcome State Fault Refusal

/-- What moves an outstanding access on. -/
def pendStep (s : State) (r : CoreRef) (a : Access) : Own :=
  match a.stage with
  | .translate | .waiting => execTranslationRequest (.pend r)
  | .walk _ _ _ _ => execWalkStepComplete (.pend r)
  | .home _ => execMemoryRequest (.pend r) .clean
  | .sent _ _ => execAccessResponse r (Config.outside s.free 0)
  | .bank => execBankOperationRequest (.pend r)
  | .retry limited => if limited && overLimit s.cyc a.since then execRetryTimeout (.pend r) else execRetryReissue (.pend r)
  | .backoff _ _ => execBackoffReissue (.pend r)
  | .answered _ => execAccessResponse r .own

/-- What moves the item at a place in flight on. -/
def flightStep (s : State) (i : Nat) (f : Flight) : Own :=
  match f.stage with
  | .retry limited => if limited && overLimit s.cyc f.since then execRetryTimeout (.posted i) else execRetryReissue (.posted i)
  | .backoff _ _ => execBackoffReissue (.posted i)
  | .home _ | .sent _ _ => execMemoryRequest (.posted i) .clean
  | _ => match f.body with
    | .msg _ => execMessageArrival i
    | _ => execBankOperationRequest (.posted i)

/-- What moves a request of the host or a peer on. -/
def guestStep (i : Nat) (g : Guest) : Own :=
  if g.till = 0 then execMemoryRequest (.guest i) .clean else execBackoffReissue (.guest i)

/-- The steps of a core and of the units that serve it. -/
def coreSteps (s : State) (r : CoreRef) (c : Core) : List Own :=
  (if s.canTurn r then [coreTurn r] else []) ++
  (match c.pend with | some a => [pendStep s r a] | none => []) ++
  (if c.conv.isSome then [execBankConversionEnd r] else []) ++
  (if c.copies != [] then execCopyStart r :: (List.range c.copies.length).map (fun n => execCopyEnd r n) else []) ++
  (if c.mq != [] then [execMatrixPortCommand r] else []) ++
  (if (c.bank 15).count != 0 || c.redeliver != [] then [execInboxItemHandle r] else []) ++
  (if c.ready != [] then execActivationStart r :: (List.range c.ready.length).map (fun n => execReadyPromotion r n) else []) ++
  (if c.held != [] then [execRecordRetry r] else []) ++
  (if c.stopReq.isSome then [execStopAtBoundary r] else []) ++
  (if c.wait.isSome then [execWaitSatisfied r c.wp] else []) ++
  c.parked.map (fun p => execWaitSatisfied r p.act.frame) ++
  (if s.mayEnd r then [execCoreLaunchEnd r] else [])

/-- The steps of a cluster: its cores, its matrix unit, its rule engine, its group, and an eviction. -/
def clusterSteps (s : State) (cl : Nat) (k : Cluster) : List Own :=
  k.cores.flatMap (fun p => coreSteps s ⟨cl, p.1⟩ p.2) ++
  (if k.frontDue then [frontTurn cl] else []) ++
  (if k.launch != 0 && !k.ramped then [execMatrixRamp cl] else []) ++
  (if k.cores.any (fun p => p.2.mq != []) then [execMatrixGrant cl, execMatrixRetire cl [] []] else []) ++
  (if k.port != [] then [execTileWriteEnd cl] else []) ++
  (if k.jobs != [] then [execRuleJobStart cl, execRuleJobEnd cl] else []) ++
  (if k.allAccepted then [execGroupStart cl] else []) ++
  (if k.launch = 0 then [execClusterRetire cl] else []) ++
  (match k.evict with
    | .none => if k.failed then ((List.range 8).filter fun j => (k.core j).run == .sealed).map fun j => execCoreTestComplete ⟨cl, j⟩ false
      else []
    | .moving => [execSaveStreamStart cl]
    | .streaming => [execSaveComplete cl])

/-- The steps of the launch stations. -/
def stationSteps (s : State) : List Own :=
  (s.queues.filter fun p => p.2.entries != []).flatMap (fun p => [execLaunchTake p.1, execEntryDiscard p.1]) ++
  s.launches.flatMap (fun l => if l.waiting then [execLaunchPlace l.id, execEvictionStart l.id] else [execLaunchComplete l.id]) ++
  s.replays.map (fun x => execReplayEntryStart x.id) ++
  ((s.evicted.map fun e => e.set).eraseDups).flatMap (fun n => [execResumption n, execRestoreComplete n])

/-- The steps of the platform while it comes up (R350). -/
def bootSteps (s : State) : List Own :=
  (if !s.boot.inReset && !s.boot.romRead then [execBootRomReadComplete] else []) ++
  (if s.boot.checking then [execBootVerifyComplete] else []) ++
  (if s.boot.state = 2 then [execPowerWave] else []) ++
  (if s.boot.state = 3 then [execHbmTrainingComplete] else [])

/-- All steps that may be due. Inputs, errors of the hardware, tests of sealed cores and scrubs come by the agenda alone. -/
def State.own (s : State) : List Own :=
  bootSteps s ++ stationSteps s ++ s.clusters.flatMap (fun p => clusterSteps s p.1 p.2) ++
  (List.range s.flight.length).filterMap (fun i => s.flight[i]?.map fun f => flightStep s i f) ++
  (List.range s.guests.length).filterMap (fun i => s.guests[i]?.map fun g => guestStep i g) ++
  (if s.invalidating.isSome then [execInvalidationComplete] else []) ++
  (if s.boot.attesting.isSome then [execAttestationComplete] else []) ++
  s.blocked.map (fun b => execBankBlockEnd b.stack b.chan b.bank) ++
  (if s.dedup != [] then [execDedupEntryExpiry 0] else [])

/-- With no turn named, one of the steps that may be due is taken. -/
def ownStep (s : State) : Host.Outcome State Fault Refusal :=
  match s.own[s.free % s.own.length]? with
  | some f => f s
  | none => .next s

/-! ## Time -/

/-- The clock runs from the first power wave on, while the module is up (R350). -/
def State.clocked (s : State) : Bool := decide (2 ≤ s.boot.state ∧ s.boot.state ≤ 5)

/-- The end of a step: the free values move on, and `CYC` advances (R6; notes/assumptions/2, 3). -/
def State.tick (s : State) : State :=
  { s with free := s.free + 1, cyc := if s.clocked then s.cyc + 1 + (Config.delay s.free).zeroExtend 64 else s.cyc }

/-- One turn of the agenda. -/
def takeTurn (t : Turn) (s : State) : Host.Outcome State Fault Refusal :=
  match t with
  | .core r => coreTurn r s
  | .front cl => frontTurn cl s
  | .shadow r x => shadowTurn r x s
  | .upset u => .next (s.upset u)
  | .event i => exec i s

/-- What the module does next, before the clock moves. -/
def move (s : State) : Host.Outcome State Fault Refusal :=
  match s.agenda with
  | [] => ownStep s
  | t :: rest => takeTurn t { s with agenda := rest }

end Sys2Proof.Machine
end

