-- ==== Sys2Proof/Machine/Placing.lean ====
section
/-! DEFINITION. A program put in place from outside (notes/assumptions/6): the module as bring-up and a launch leave it, with a core
about to fetch given code. -/
namespace Sys2Proof.Machine

/-- Where placed code lies in HBM. -/
def placeCode : Nat := 0x10000

/-- The global address of placed code. -/
def placePc : Word := BitVec.ofNat 64 (2 ^ 63 + placeCode)

/-- A page-table entry that points to a table. -/
def pointerEntry (table : Nat) : Nat := table + 1

/-- A leaf of 16 GiB at physical address 0 with R, W and X. -/
def identityLeaf : Nat := 1 + 2 + 4 + 8 + 16 + 7 * 32

/-- Page tables at 0, 0x1000 and 0x2000 that map the first 16 GiB onto themselves, and four bytes of code. -/
def placeMemory (m : Memory) (w : Nat) : Memory :=
  (((m.store 0 8 (pointerEntry 0x1000)).store 0x1000 8 (pointerEntry 0x2000)).store 0x2000 8 identityLeaf).store placeCode 4 w

/-- A core that runs an activation of a detached core task, about to fetch at the placed code; one that runs nothing gets a frame
at 0 with 16 vector registers. -/
def Core.placedAt (c : Core) (now : Word) : Core :=
  let c := if c.act.isNone then (c.setCr Cr.wp 0).setCr Cr.wsize 16 else c
  { c.setCr Cr.repstate 0 with
    run := .running, pc := placePc, att := false, act := some (c.act.getD ⟨c.wp, 0, 0, false, 0, [], now, none⟩), wait := none, pend := none,
    conv := none, buf := [], taken := none, governed := none, repBuf := [], engPend := false, after := [] }

/-- The module with a word of code where the current core fetches next. -/
def State.placeWord (s : State) (w : Nat) : State :=
  let k := s.mine
  let k1 : Cluster := { k with powered := true, slot := 0, pid := 0, vc := 0, evict := .none, icache := [] }
  { s with
    agenda := [.core s.cur]
    feat0 := 0xFF
    clusters := aput s.clusters s.cur.cl (k1.setCore s.cur.core (s.me.placedAt s.cyc))
    hbm := placeMemory s.hbm w
    contexts := aput s.contexts 0 ⟨0, 0, 0⟩
    placement := aput s.placement 0 ⟨false, s.cur.cl⟩
    cached := []
    flight := []
    boot := { s.boot with state := 5, inReset := false, romRead := true, waves := 32 } }

end Sys2Proof.Machine
end

