-- ==== Sys2Proof/Machine/Step.lean ====
section
/-! DEFINITION. One step of the module (notes/assumptions/1), and a word of code placed for its next step. -/
namespace Sys2Proof.Machine

/-- One step: the next turn of the agenda, or a step of the module's own, and then the clock. -/
def step (s : State) : Host.Outcome State Fault Refusal :=
  match move s with
  | .next t => .next t.tick
  | .fault e => .fault e
  | .refused e => .refused e

/-- The module with an instruction placed where the next step fetches it: the instruction's bits above the given ones are 0. -/
def State.withFetchWord (s : State) (nbits w : Nat) : State := s.placeWord (w % 2 ^ min nbits 32)

end Sys2Proof.Machine
end

