-- ==== Sys2Proof/Safety.lean ====
section
/-! DEFINITION. The terms in which claims about the module are stated: what an outcome answers, and what a step leaves as it was. -/
namespace Sys2Proof.Machine

/-- An outcome is a next state with a property. -/
def Answers (o : Host.Outcome State Fault Refusal) (p : State → Prop) : Prop := ∃ t, o = .next t ∧ p t

/-! ## What stays as it was -/

/-- The module apart from its clusters. -/
def State.outer (s : State) : State := { s with clusters := [] }

/-- A cluster apart from its cores, its stream and its `once` records (R90, R204) and the lines that its operand buffer holds, which a
core's own store drops (R255). -/
def Cluster.fixed (k : Cluster) : Cluster :=
  { k with cores := [], group := Group.blank, onces := [], nextOnce := 0, opBuf := [] }

/-- A core apart from its standing in its group and in a `once` (R89, R90, R204 to R207), and from the transfer that the end of its divergence is
charged to (R186): what other cores' progress may change. -/
def Core.apart (c : Core) : Core := { c with att := false, why := 0, buf := [], governed := none, obligation := none, transfer := none }

/-- A core apart from that, from its place in the program and in a `rep` body, and from its store and control registers: flags, banks,
activations, engine queues, accumulators, and all else it holds. -/
def Core.rest (c : Core) : Core :=
  { c.apart with store := Memory.empty, cr := [], pc := 0, wait := none, taken := none, repBuf := [], brSet := false, flagsRaised := 0,
                 fell := none }

/-- Two clusters that agree apart from their group's progress. -/
def Cluster.Alike (k l : Cluster) : Prop := l.fixed = k.fixed ∧ ∀ j, (l.core j).apart = (k.core j).apart

/-- Nothing changes outside the current core, apart from the progress of its group. -/
def OnlyMine (s t : State) : Prop :=
  t.outer = s.outer ∧ (∀ k, (t.cluster k).fixed = (s.cluster k).fixed) ∧ ∀ q, q ≠ s.cur → (t.core q).apart = (s.core q).apart

/-- A memory keeps every byte outside a set, and the poison marks of the words that the set does not meet. -/
def Memory.Keeps (m k : Memory) (b : Nat → Prop) : Prop :=
  (∀ a, ¬ b a → k.get a = m.get a) ∧ ∀ w, (∀ a, 8 * w ≤ a → a < 8 * w + 8 → ¬ b a) → (w ∈ k.poison ↔ w ∈ m.poison)

/-- A core keeps all but a set of store bytes and a set of control registers. `REPSTATE` changes besides as a `rep` goes on (R100). -/
def Core.Keeps (c d : Core) (b n : Nat → Prop) : Prop :=
  d.rest = c.rest ∧ c.store.Keeps d.store b ∧ ∀ m, ¬ n m → m ≠ Cr.repstate → d.cr_ m = c.cr_ m

/-- No byte, or no control register. -/
def nothing (_ : Nat) : Prop := False

/-- The bytes of scalar register d, none for `s0` (R18, R20). -/
def Core.sBytes (c : Core) (d : Reg) (a : Nat) : Prop := d ≠ 0 ∧ sAddr c d.toNat ≤ a ∧ a < sAddr c d.toNat + 8

/-- The bytes of mask register d. -/
def Core.mBytes (c : Core) (d : Reg) (a : Nat) : Prop := mAddr c d.toNat ≤ a ∧ a < mAddr c d.toNat + 2

/-- The bytes of vector register d. -/
def Core.vBytes (c : Core) (d : Reg) (a : Nat) : Prop := vAddr c d.toNat ≤ a ∧ a < vAddr c d.toNat + 64

/-! ## Instructions -/

/-- An instruction passes the checks that come before its own (R38, R39, R22, R23): its encoding is legal under the feature word, the
core's allotment agrees with its group's, and every vector register it names is allotted. -/
def Passes (s : State) (i : Instr) : Prop := i.legal s.feat0 = true ∧ nvClash s = none ∧ regFault i s.me = none

/-- Outside a `rep` body the program goes on after an instruction (R79). -/
def GoesOn (s t : State) (i : Instr) : Prop := s.me.inRep = false → t.me.pc = s.me.pc + BitVec.ofNat 64 i.len

/-- An instruction completes, and leaves the state u but for its core's place, a set of its store bytes and a set of its control
registers; and the next state has a property. -/
def Leaves (i : Instr) (s u : State) (b n : Nat → Prop) (p : State → Prop) : Prop :=
  Passes s i → Answers (exec i s) fun t => OnlyMine u t ∧ u.me.Keeps t.me b n ∧ GoesOn s t i ∧ p t

/-- An instruction completes, and nothing changes but its core's place, a set of its store bytes and a set of its control registers. -/
def Does (i : Instr) (s : State) (b n : Nat → Prop) (p : State → Prop) : Prop := Leaves i s s b n p

/-- An instruction's only result is a value in a scalar register. -/
def Writes (i : Instr) (s : State) (d : Reg) (v : Word) : Prop :=
  Does i s (s.me.sBytes d) nothing fun t => t.me.s d.toNat = if d = 0 then 0 else v

/-- An instruction's only result is a value in a mask register. -/
def WritesM (i : Instr) (s : State) (d : Reg) (v : BitVec 16) : Prop :=
  Does i s (s.me.mBytes d) nothing fun t => t.me.m d.toNat = v

/-- Lane l takes part under a mask operand: `m0` names all lanes (R134). -/
def Core.inUse (c : Core) (m : BitVec 3) (l : Nat) : Prop := m = 0 ∨ (c.m m.toNat).getLsbD l = true

/-- The lanes of a vector register after a write of the active lanes: the others keep their values. -/
def LanesAre (s t : State) (d : Reg) (m : BitVec 3) (f : Nat → W32) : Prop :=
  ∀ l < 16, (s.me.inUse m l → t.me.v d.toNat l = f l) ∧ (¬ s.me.inUse m l → t.me.v d.toNat l = s.me.v d.toNat l)

/-- An instruction's only result is a value in each active lane of a vector register. -/
def WritesV (i : Instr) (s : State) (d : Reg) (m : BitVec 3) (f : Nat → W32) : Prop :=
  Does i s (s.me.vBytes d) nothing fun t => LanesAre s t d m f

/-- An instruction transfers control, and changes no more than a set of its core's store bytes. -/
def Jumps (i : Instr) (s : State) (b : Nat → Prop) (a : Word) (p : State → Prop) : Prop :=
  Passes s i → Answers (exec i s) fun t =>
    OnlyMine s t ∧ s.me.Keeps t.me b nothing ∧ t.me.pc = a ∧ t.me.transfer = some s.me.pc ∧ p t

/-- A branch: it goes to its target when taken, and goes on else; no register, flag or byte changes (R86, R87). -/
def Branches (i : Instr) (s : State) (taken : Prop) (a : Word) : Prop :=
  (taken → Jumps i s nothing a fun _ => True) ∧ (¬ taken → Does i s nothing nothing fun _ => True)

/-- An instruction raises a trap at itself and has no other effect. -/
def Traps (i : Instr) (s : State) (cause : Nat) (v : Word) : Prop := Passes s i → exec i s = .next (s.raise cause v)

/-- What an instruction's entry refuses whatever its registers hold comes before the group's allotment and its registers (R24, R39, R91,
R101): it raises a trap at itself and has no other effect. -/
def Refuses (i : Instr) (s : State) (cause : Nat) (v : Word) : Prop := i.legal s.feat0 = true → exec i s = .next (s.raise cause v)

/-- What the entry of an instruction refuses as a whole, before the group's allotment and the vector registers are looked at (R24, R39, R85,
R91, R101, R158, R165, R177): the trap and its value. -/
def refusedWhole (s : State) (i : Instr) : Option (Nat × Word) :=
  let writes (n : BitVec 12) (v : Word) : Option (Nat × Word) := if crWritable s.me n.toNat v then none else some (tILLEGAL, i.word)
  match i with
  | .once => onceRefusal s
  | .rep _ l _ _ => bodyRefused s.feat0 (repBody l s)
  | .eret => if s.me.tm = false ∨ s.me.eretBad = true then some (tILLEGAL, i.word) else none
  | .crd _ n => if (crLayout n.toNat).isSome then none else some (tILLEGAL, i.word)
  | .cwr a n | .cswp _ a n => writes n (s.me.s a.toNat)
  | .cset _ a n => writes n (crRead s s.me n.toNat ||| s.me.s a.toNat)
  | .cclr _ a n => writes n (crRead s s.me n.toNat &&& ~~~ s.me.s a.toNat)
  | .cpy _ a | .cpyTry _ a => copyRefusal i a s
  | .mstream _ _ _ c _ => outRefusal i s (s.me.s (c.toNat + 1))
  | .mstore _ a _ => outRefusal i s (s.me.s a.toNat)
  | _ => none

/-- An instruction is tried again: its core stays at it with nothing else changed, and says what holds it up. -/
def StallsFor (i : Instr) (s : State) (w : Cond) : Prop := Passes s i → exec i s = .next (s.upd fun c => { c with wait := some w })

/-- A stall on a full engine queue or a converting bank (R97, R152). -/
def Stalls (i : Instr) (s : State) : Prop := StallsFor i s .retry

/-- A stall behind what the core has posted before (R111, R117, R118, R205). -/
def Follows (i : Instr) (s : State) : Prop := StallsFor i s .order

/-- Only `FPC`, or only `STAT`. -/
def onlyFpc (n : Nat) : Prop := n = Cr.fpc
def onlyStat (n : Nat) : Prop := n = Cr.stat

/-- A floating-point instruction with flags `fl` (R27, R43, R134, R321): with one of them enabled it raises FP, which keeps the enabled ones, or
nothing where the trap is a DOUBLE (R193); else a result that its shadow unit disputes raises SHADOW with the lane; else it completes and sets
them in `FPC`. `units` are the lanes in use, none for a scalar, and `div` compares what a shadow unit forms with the result. -/
def Floats (i : Instr) (s : State) (fl : Nat) (units : Option (List Nat)) (div : Shadow → Bool) (b : Nat → Prop) (p : State → Prop) : Prop :=
  let hit := fl &&& s.me.enables
  (hit = 0 → s.disputed units div = none → Does i s b onlyFpc fun t =>
    t.me.cr_ Cr.fpc = s.me.cr_ Cr.fpc ||| BitVec.ofNat 64 (fl * 16) ∧ p t) ∧
  (hit = 0 → ∀ n, s.disputed units div = some n → Traps i s tSHADOW (BitVec.ofNat 64 n)) ∧
  (hit ≠ 0 → Passes s i → exec i s = .next
    ((if s.me.cannotTrap then s else s.upd fun c => c.raise hit).raise tFP (BitVec.ofNat 64 (hit * 16))))

/-- A floating-point instruction with a scalar result and its flags. -/
def FloatsS (i : Instr) (s : State) (d : Reg) (r : Word × Nat) (units : Option (List Nat)) (div : Shadow → Bool) : Prop :=
  Floats i s r.2 units div (s.me.sBytes d) fun t => t.me.s d.toNat = if d = 0 then 0 else r.1

/-- A floating-point instruction with a number of a format as its scalar result. -/
def FloatsTo (f : Fmt) (i : Instr) (s : State) (d : Reg) (r : Nat × Nat) : Prop :=
  FloatsS i s d (BitVec.ofNat 64 r.1, r.2) none (f.diverges r.1)

/-- The union of the flags of the active lanes. -/
def Core.flagsUsed (c : Core) (m : BitVec 3) (f : Nat → Nat) : Nat := (c.lanes m.toNat).foldl (fun x l => x ||| f l) 0

/-- A floating-point instruction with a result and flags in each active lane. -/
def FloatsV (i : Instr) (s : State) (d : Reg) (m : BitVec 3) (div : W32 → Shadow → Bool) (f : Nat → W32 × Nat) : Prop :=
  Floats i s (s.me.flagsUsed m fun l => (f l).2) (some (s.me.lanes m.toNat)) (fun h => div (f h.lane).1 h) (s.me.vBytes d) fun t =>
    LanesAre s t d m fun l => (f l).1

/-- A floating-point compare of the active lanes into a mask register; inactive lanes give 0 (R134). -/
def FloatsM (i : Instr) (s : State) (d : Reg) (m : BitVec 3) (f : Nat → Bool × Nat) : Prop :=
  Floats i s (s.me.flagsUsed m fun l => (f l).2) (some (s.me.lanes m.toNat)) otherDiverges (s.me.mBytes d) fun t =>
    ∀ l < 16, (t.me.m d.toNat).getLsbD l = true ↔ s.me.inUse m l ∧ (f l).1 = true

/-- The magnitude of a finite pattern in units of the least subnormal (R41). -/
def Fmt.mag (f : Fmt) (p : Nat) : Nat := if p < 2 ^ f.mb then p else (2 ^ f.mb + p % 2 ^ f.mb) * 2 ^ (p / 2 ^ f.mb - 1)

/-- Element k of width w of a lane (R134). -/
def elemAt (w : Nat) (x : W32) (k : Nat) : Nat := x.toNat / 2 ^ (w * k) % 2 ^ w

/-- A w-bit element as a signed number. -/
def elemInt (w : Nat) (x : Nat) : Int := if 2 ^ (w - 1) ≤ x then (x : Int) - 2 ^ w else x

/-- A lane-wise integer operation: each element of an active lane becomes f of the elements of A, B and the old D, modulo 2^w. -/
def WritesElems (i : Instr) (s : State) (t : BitVec 2) (d a b : Reg) (m : BitVec 3) (f : Nat → Nat → Nat → Nat → Int) : Prop :=
  let w := if t = 0 then 32 else if t = 1 then 16 else 8
  Does i s (s.me.vBytes d) nothing fun u =>
    ∀ l < 16, (s.me.inUse m l → ∀ k < 32 / w, (elemAt w (u.me.v d.toNat l) k : Int) =
        f w (elemAt w (s.me.v a.toNat l) k) (elemAt w (s.me.v b.toNat l) k) (elemAt w (s.me.v d.toNat l) k) % 2 ^ w) ∧
      (¬ s.me.inUse m l → u.me.v d.toNat l = s.me.v d.toNat l)

/-! ## Store accesses -/

/-- An aligned access of n bytes to plain memory of the own store (R62, R105). -/
def OwnPlain (s : State) (a : Word) (n : Nat) : Prop :=
  a.toNat + n ≤ 0x40000 ∧ a.toNat % n = 0 ∧ s.me.hit a.toNat n = .plain

/-- The address of lane l of a gather or scatter (Table 5 of spec/07). -/
def Core.laneAt (c : Core) (a b : Reg) (l : Nat) : Word := c.s a.toNat + (c.v b.toNat l).signExtend 64 * 4

/-- The lanes that a gather or scatter performs: those in use from `VPROG` on (R140). -/
def Core.toDo (c : Core) (m : BitVec 3) (l : Nat) : Prop := l < 16 ∧ c.inUse m l ∧ (c.cr_ Cr.vprog).toNat % 16 ≤ l

/-- Only `VPROG`. -/
def onlyVprog (n : Nat) : Prop := n = Cr.vprog

/-- A sum over a group of lanes in the order given, with the union of the flags (R141). -/
def merged (add : Nat → Nat → Nat × Nat) (data : Nat → Nat) : List Nat → Nat × Nat
  | [] => (0, 0)
  | l :: t => t.foldl (fun r k => let q := add r.1 (data k); (q.1, r.2 ||| q.2)) (data l, 0)

/-- The bytes of an access. -/
def span (a n : Nat) (x : Nat) : Prop := a ≤ x ∧ x < a + n

/-- A store's only effect is n bytes of a value at an own address, little-endian (R17); a doubleword stored whole is not poisoned
(R318). -/
def StoresOwn (i : Instr) (s : State) (a : Word) (n : Nat) (v : Word) : Prop :=
  Does i s (span a.toNat n) nothing fun t =>
    t.me.store.readLE a.toNat n = v.toNat % 2 ^ (8 * n) ∧ (n = 8 → t.me.store.poisoned a.toNat 8 = false)

/-- An own-store AMO of n bytes (R114): the location takes a new value, S(D) the old one, zero-extended; outside trap mode it uses up the
reissue record (R116); a poisoned old value raises POISON and writes nothing; a release waits for what was posted. -/
def AmoOwn (i : Instr) (s : State) (d : Reg) (a : Word) (o : BitVec 2) (sc : BitVec 3) (n : Nat) (new : Nat → Nat) : Prop :=
  OwnPlain s a n →
  let old := s.me.store.readLE a.toNat n
  ((o.getLsbD 1 = true → s.drained s.cur sc.toNat = true) →
    (s.me.store.poisoned a.toNat n = false → Leaves i s (s.upd fun c => { c with reissue := if c.tm then c.reissue else none })
      (fun x => span a.toNat n x ∨ s.me.sBytes d x) nothing fun t =>
        t.me.s d.toNat = (if d = 0 then 0 else BitVec.ofNat 64 old) ∧
        ∀ x < n, ¬ s.me.sBytes d (a.toNat + x) → t.me.store.get (a.toNat + x) = BitVec.ofNat 8 (new old / 256 ^ x)) ∧
    (s.me.store.poisoned a.toNat n = true → Traps i s tPOISON a)) ∧
  (o.getLsbD 1 = true → s.drained s.cur sc.toNat = false → Follows i s)

/-- The signed value of n bytes. -/
def signedVal (n x : Nat) : Int := elemInt (8 * n) x

/-- An own-store load of n bytes (R105, R109): S(D) takes the value; a poisoned word raises POISON and nothing else happens. -/
def LoadsOwn (i : Instr) (s : State) (d : Reg) (a : Word) (n : Nat) (ext : Nat → Word) : Prop :=
  OwnPlain s a n →
  (s.me.store.poisoned a.toNat n = false → Writes i s d (ext (s.me.store.readLE a.toNat n))) ∧
  (s.me.store.poisoned a.toNat n = true → Traps i s tPOISON a)

/-- The extensions of Table 1 of spec/06. -/
def sext8 (x : Nat) : Word := (BitVec.ofNat 8 x).signExtend 64
def sext16 (x : Nat) : Word := (BitVec.ofNat 16 x).signExtend 64
def sext32 (x : Nat) : Word := (BitVec.ofNat 32 x).signExtend 64
def zext (x : Nat) : Word := BitVec.ofNat 64 x

/-- What an address outside every window, or a misaligned one, raises (R31, R105), with the address as `TVAL`. -/
def RefusesBad (i : Instr) (s : State) (a : Word) (n : Nat) : Prop :=
  (a.toNat < 2 ^ 62 → 0x40020 ≤ a.toNat → ¬ (0x41000 ≤ a.toNat ∧ a.toNat < 0x41400) → Traps i s tLOCALBOUNDS a) ∧
  (a.toNat / 2 ^ 62 = 1 → (a.toNat / 2 ^ 37 % 2 ^ 25 ≠ 0 ∨ 0x40020 ≤ a.toNat % 2 ^ 21) → Traps i s tMESH a) ∧
  (2 ^ 63 ≤ a.toNat → a.toNat / 2 ^ 57 % 2 ^ 6 ≠ 0 → Traps i s tTRANSLATION a) ∧
  (a.toNat < 0x40020 ∨ (0x41000 ≤ a.toNat ∧ a.toNat < 0x41400) ∨ (2 ^ 63 ≤ a.toNat ∧ a.toNat / 2 ^ 57 % 2 ^ 6 = 0) →
    a.toNat % n ≠ 0 → Traps i s tALIGN a)

/-- An access to an own port answers with a result (R26, R63, R69): BR takes it, and the controller changes its core; no other bit of `STAT`
does. -/
def PortDone (i : Instr) (s : State) (br : Nat) (change : Core → Core) (bytes : Nat → Prop) (p : State → Prop) : Prop :=
  Leaves i s (s.upd change) bytes onlyStat fun t =>
    t.me.br = br ∧ (∀ k, 2 ≤ k → (t.me.cr_ Cr.stat).getLsbD k = (s.me.cr_ Cr.stat).getLsbD k) ∧ p t

/-- A result blocks an access at the wait port (R70). -/
def PortBlocks (b : Bank) (p br : Nat) (key : Word) : Prop :=
  p = 0x08 ∧ (br = brEMPTY ∨ br = brFULL ∨ (br = brABSENT ∧ kindOf b.pers = 3 ∧ key.toNat ≠ 0xFFFFFFFF))

/-- A load of n bytes at an own port p of the bank f with a key, as `portLoad` decides it (R62 to R70): refused; POISON where the entry that it
reads stands in a poisoned word (R318); blocked at the wait port, until it is tried again; or answered; an answer other than OK writes 0. -/
def PortLoads (i : Instr) (s : State) (d : Reg) (a : Word) (n : Nat) (sg : Bool) (key : Word) : Prop :=
  ∀ f p, a.toNat + n ≤ 0x40000 → a.toNat % n = 0 → s.me.hit a.toNat n = .port f p →
    let x := s.me.bank f
    (portLoad x p n sg key 0 = none → Traps i s tBANKPORT a) ∧
    ∀ v br b, portLoad x p n sg key 0 = some (v, br, b) → br < 4 →
      (s.me.store.entryPoisoned x p key = true → Traps i s tPOISON a) ∧
      (s.me.store.entryPoisoned x p key = false →
        (PortBlocks x p br key → StallsFor i s .port) ∧
        (¬ PortBlocks x p br key → PortDone i s br (fun c => c.setBank f b) (s.me.sBytes d) fun t =>
          t.me.s d.toNat = if d = 0 ∨ br ≠ brOK then 0 else v))

/-- A store at an own port, as `portStore` decides it: an entry written whole is poisoned no more (R318), and an inbox item that is released
starts no activation (R75). -/
def PortStores (i : Instr) (s : State) (a : Word) (n : Nat) (v key : Word) : Prop :=
  ∀ f p, a.toNat + n ≤ 0x40000 → a.toNat % n = 0 → s.me.hit a.toNat n = .port f p →
    let x := s.me.bank f
    let r := portStore x p n v key (sourceWord s s.cur) (s.mine.clearHeld s.cur.core f)
    (r = none → Traps i s tBANKPORT a) ∧
    ∀ br b, r = some (br, b) → br < 4 →
      (PortBlocks x p br key → StallsFor i s .port) ∧
      (¬ PortBlocks x p br key → PortDone i s br
        (fun c => ({ c.setBank f b with store := if br = brOK then c.store.entryStored x p v key else c.store } : Core).itemsGone f)
        nothing fun _ => True)

/-- An access leaves its core for another home: the instruction has done nothing yet, and its core waits for the answer (R72, R105); a
tag is taken, and a reissue record may be used up (R116). -/
def SendsOut (i : Instr) (s : State) (op : AccOp) (a : Word) (st : Stage) : Prop :=
  Passes s i → Answers (exec i s) fun t => OnlyMine { s with nextTag := s.nextTag + 1 } t ∧
    { t.me with pend := none, reissue := none } = { s.me with pend := none, reissue := none } ∧
    ∃ x, t.me.pend = some x ∧ x.op = op ∧ x.addr = a ∧ x.instr = i ∧ x.stage = st

/-- An aligned access of n bytes to the own flag page (R31, R113). -/
def OwnFlags (a : Word) (n : Nat) : Prop := 0x40000 ≤ a.toNat ∧ a.toNat + n ≤ 0x40020 ∧ a.toNat % n = 0

/-- The flags of a page as a number of n bytes at an address of it: bit f is bit f mod 8 of byte f div 8 (R113). -/
def flagBytes (f : BitVec 256) (a n : Nat) : Nat := f.toNat / 2 ^ (8 * (a - 0x40000)) % 2 ^ (8 * n)

/-- The word of the flag page at an address of it is poisoned (R317). -/
def Core.flagsBad (c : Core) (a : Word) : Bool := c.flagPoison.contains ((a.toNat - 0x40000) / 8)

/-- A page of flags after a store of n bytes at an address of it. -/
def FlagsStored (f g : BitVec 256) (a n v : Nat) : Prop :=
  flagBytes g a n = v % 2 ^ (8 * n) ∧
    ∀ k, (k < 8 * (a - 0x40000) ∨ 8 * (a - 0x40000) + 8 * n ≤ k) → g.getLsbD k = f.getLsbD k

/-- A mesh address of the store or flag page of a core of the own context, aligned for n bytes, whose entry is present (R31, R72). -/
def Mesh (s : State) (a : Word) (n vc core o : Nat) : Prop :=
  vc < 8192 ∧ core < 8 ∧ o < 0x40020 ∧ a = meshAddr vc core o ∧ a.toNat % n = 0 ∧ (meshTarget s s.mine.slot vc core).isSome = true

/-- A global address aligned for n bytes (R31). -/
def Global (a : Word) (n : Nat) : Prop := 2 ^ 63 ≤ a.toNat ∧ a.toNat < 2 ^ 63 + 2 ^ 57 ∧ a.toNat % n = 0

/-- Everything that the current core has posted to homes that a scope covers has been performed (R246, R250); what its engines write on
their own paths is not counted (R118). -/
def State.performed (s : State) (sc : Nat) : Prop :=
  ∀ f ∈ s.flight, f.src = s.cur → f.fromStation = false → f.eng = none → f.covered s sc = false

/-- The current core may have observed as complete a write through a path of Table 5 of spec/06 that is not yet performed at a home that a
scope covers (R118): its own posted stores, the writes of its cluster's engine commands that have ended (R254), those of the host, and those of
peers. -/
def State.Observes (s : State) (path sc : Nat) : Prop :=
  if path = 0 then ¬ s.performed sc
  else if path = 5 ∨ path = 6 then
    ∃ g ∈ s.guests, (g.peer = none ↔ path = 5) ∧ g.op.writes = true ∧ s.scopeCoversPhys sc s.cur.cl g.a = true
  else ∃ f ∈ s.flight, ∃ e, f.eng = some e ∧ e.path = path ∧ f.ended s = true ∧ f.homeCovered s s.cur sc = true

/-- A load, AMO or store whose answer its core needs goes out to a global or to a mesh home; a release waits first; a channel that a lost
link has closed raises LINK-LOST (R251). -/
def GoesOut (i : Instr) (s : State) (op : AccOp) (a : Word) (n : Nat) (rel : Option Nat) : Prop :=
  (Global a n → (∀ sc, rel = some sc → s.performed sc) → SendsOut i s op a .translate) ∧
  (∀ vc core o, Mesh s a n vc core o → (∀ sc, rel = some sc → s.performed sc) →
    (chanKey vc core ∉ s.me.closed → SendsOut i s op a .bank) ∧
    (chanKey vc core ∈ s.me.closed → Traps i s tLINKLOST a)) ∧
  ((Global a n ∨ ∃ vc core o, Mesh s a n vc core o) → ∀ sc, rel = some sc → ¬ s.performed sc → Follows i s)

/-- An item that the current core posts to a core of its context: on channel 0, for its launch, with the record bank that `RECQ` names. -/
def State.posted (s : State) (rel : Option Nat) (vc core : Nat) (b : FBody) (a : Word) : Flight :=
  { rel := rel, src := s.cur, fromStation := false, slot := s.mine.slot, vc := vc, core := core, chan := 0, body := b, addr := a,
    recq := s.me.recq, since := none, launch := s.mine.launch, pid := s.mine.pid, issue := 0, eng := none, backed := false, joined := false,
    stage := .bank }

/-- A store to plain memory of another core is posted: the instruction completes, and the store is under way behind those that the core
has posted before (R72, R245). -/
def PostsStore (i : Instr) (s : State) (op : AccOp) (a : Word) (n : Nat) (rel : Option Nat) : Prop :=
  ∀ vc core o, Mesh s a n vc core o → 0x40 ≤ o % 0x4000 ∨ 0x40000 ≤ o → chanKey vc core ∉ s.me.closed →
    Leaves i s { s with flight := s.flight ++ [s.posted rel vc core (.store o op) a] } nothing nothing fun _ => True

/-- A store goes where its address says: it leaves for a global home and for a port of another core, whose answer its core needs, and is
posted to plain memory and to a flag page (R72, R105). At a port a release waits first; one that is posted carries its scope, and waits on
its way (R111). -/
def StoresOut (i : Instr) (s : State) (op : AccOp) (a : Word) (n : Nat) (rel : Option Nat) : Prop :=
  (Global a n → SendsOut i s op a .translate) ∧ PostsStore i s op a n rel ∧
  ∀ vc core o, Mesh s a n vc core o → o < 0x40000 → o % 0x4000 < 0x40 →
    ((∀ sc, rel = some sc → s.performed sc) →
      (chanKey vc core ∉ s.me.closed → SendsOut i s op a .bank) ∧ (chanKey vc core ∈ s.me.closed → Traps i s tLINKLOST a)) ∧
    (∀ sc, rel = some sc → ¬ s.performed sc → Follows i s)

/-- The current core runs an activation of a core task, outside the group and outside trap mode, and its trace is off. -/
def Core.solo (c : Core) (a : Act) : Prop :=
  c.act = some a ∧ a.cluster = false ∧ c.tm = false ∧ c.att = false ∧ c.governed = none ∧ bit (c.cr_ Cr.dbgctl) 1 = false

/-- A wait that is not met: a core task saves its header and parks, with everything else as it was (R120, R202); a cluster task and a handler
block. -/
def Waits (i : Instr) (s : State) (cond : Cond) : Prop :=
  (∀ a, s.me.solo a → Passes s i → Answers (exec i s) fun t => OnlyMine s t ∧ t.me.run = s.me.resting ∧ t.me.act = none ∧
    t.me.parked = s.me.parked ++ [⟨{ a with frame := s.me.wp }, cond⟩] ∧ t.me.cr = s.me.cr ∧
    { t.me.rest with run := .off, act := none, parked := [] } = { s.me.rest with run := .off, act := none, parked := [] } ∧
    t.me.store.words s.me.wp 5 = [s.me.pc, s.me.stat, s.me.cr_ Cr.fpc, s.me.cr_ Cr.wsize, s.me.cr_ Cr.repstate] ∧
    ∀ x, ¬ span s.me.wp 40 x → t.me.store.get x = s.me.store.get x) ∧
  (s.me.tm = true ∨ (∀ a, s.me.act = some a → a.cluster = true) → StallsFor i s cond)

/-! ## Banks -/

/-- A result in S(D) and BR; no other bit of `STAT` changes. -/
def GivesBr (i : Instr) (s : State) (d : Reg) (v : Word) (br : Nat) : Prop :=
  Does i s (s.me.sBytes d) onlyStat fun t => t.me.s d.toNat = (if d = 0 then 0 else v) ∧ t.me.br = br ∧
    ∀ n, 2 ≤ n → (t.me.cr_ Cr.stat).getLsbD n = (s.me.cr_ Cr.stat).getLsbD n

/-- A bank is busy: a byte of it lies in the running activation's frame, the trap frame or the launch's frame area (R127). -/
def State.Busy (s : State) (b : Nat) : Prop :=
  ∃ x, span (b * 0x4000) 0x4000 x ∧ (span s.me.wp (448 + 64 * s.me.nv) x ∨
    (s.me.cr_ Cr.twp ≠ 0 ∧ span (s.me.cr_ Cr.twp).toNat 448 x) ∨ x < s.frameBytes s.cur.cl)

/-- What a `bpers` or `bspread` may not change: a pinned bank, bank 15, a member of a group (R128, R233). -/
def State.Fixed (s : State) (b : Nat) : Prop := pinnedBank s b = true ∨ b = 15 ∨ (s.me.bank b).gsize ≠ 0

/-- A change of banks has begun: the current core is core c but for its banks, which are those of c and answer as converting where the
change names them, and it waits for the end of the change with a result (R127, R230). -/
def Changes (i : Instr) (s : State) (d : Reg) (v : Word) (br : Nat) (l : List Nat) (c : Core) : Prop :=
  Passes s i → Answers (exec i s) fun t => OnlyMine s t ∧ { t.me with banks := [], conv := none } = { c with banks := [], conv := none } ∧
    t.me.conv = some (d, v, br) ∧ ∀ b, t.me.bank b = if b ∈ l then { c.bank b with converting := true } else c.bank b

/-- Steps that a core's own write leaves to do before its next instruction. -/
def Core.due (c : Core) (l : List After) : Core := { c with after := c.after ++ l }

/-! ## Taking a trap (R181) -/

/-- The control registers that trap entry writes. -/
def trapWrites (n : Nat) : Prop := n ∈ [Cr.epc, Cr.cause, Cr.tval, Cr.twpsave, Cr.wp, Cr.stat, Cr.fpc, Cr.wsize, Cr.repstate]

/-- Core d is core c after trap entry for a cause at an address with a trap value (R181). -/
def Core.Trapped (c d : Core) (cause : Nat) (e v : Word) : Prop :=
  let h := (c.cr_ Cr.twp).toNat
  d.pc = c.cr_ Cr.tvec ∧ d.att = false ∧ d.wait = none ∧
  d.cr_ Cr.epc = e ∧ d.cr_ Cr.cause = BitVec.ofNat 64 cause ∧ d.cr_ Cr.tval = v ∧ d.cr_ Cr.twpsave = c.cr_ Cr.wp ∧
  d.cr_ Cr.wp = c.cr_ Cr.twp ∧ d.cr_ Cr.stat = BitVec.ofNat 64 (8 + c.br) ∧ d.cr_ Cr.fpc = 0 ∧ d.cr_ Cr.wsize = 0 ∧
  d.cr_ Cr.repstate = 0 ∧
  d.store.words h 5 = [e, c.cr_ Cr.stat, c.cr_ Cr.fpc, c.cr_ Cr.wsize, c.cr_ Cr.repstate] ∧
  (∀ a, ¬ span h 40 a → d.store.get a = c.store.get a) ∧
  (∀ n, ¬ trapWrites n → n ≠ Cr.bsrc → d.cr_ n = c.cr_ n) ∧ d.rest = c.rest

/-- Core c can take a trap: it is not in trap mode, it has a vector and a trap frame, and the frame lies in ARRAY banks (R30, R181). -/
def Core.canTrap (c : Core) : Prop :=
  c.tm = false ∧ c.cr_ Cr.tvec ≠ 0 ∧ c.cr_ Cr.twp ≠ 0 ∧ c.arrayRange (c.cr_ Cr.twp).toNat 448 = true

/-- The trace of a core is off (R340). -/
def Core.untraced (c : Core) : Prop := bit (c.cr_ Cr.dbgctl) 1 = false

/-! ## Steps of the module's agents -/

/-- A step changes nothing outside one core. -/
def OnlyCore (s t : State) (r : CoreRef) : Prop :=
  t.outer = s.outer ∧ (∀ k, { t.cluster k with cores := [] } = { s.cluster k with cores := [] }) ∧ ∀ q, q ≠ r → t.core q = s.core q

/-- A step moves the outstanding access of a core on, and changes nothing else of any core or of HBM. -/
def MovesOn (i : Instr) (s : State) (r : CoreRef) (x : Access) : Prop :=
  Answers (exec i s) fun t => t.core r = { s.core r with pend := some x } ∧ (∀ q, q ≠ r → t.core q = s.core q) ∧ t.hbm = s.hbm ∧
    t.flight = s.flight ∧ t.placement = s.placement

/-- Every memory is in its canonical form: HBM, the cores' stores, and those in saved clusters. -/
def State.Canonical (s : State) : Prop :=
  s.hbm.wf = true ∧ (∀ r, (s.core r).store.wf = true) ∧ ∀ e ∈ s.evicted, ∀ k, e.save = some k → ∀ j, (k.core j).store.wf = true

/-! ## Steps -/

/-- A core is about to fetch for itself: it may take its turn, and nothing comes before its next instruction (R33, R204). -/
def State.fetches (s : State) (r : CoreRef) : Prop :=
  s.canTurn r = true ∧ (s.core r).after = [] ∧ (s.core r).engineDue = false ∧ (s.core r).taken = none ∧ (s.core r).inRep = false ∧
    (s.core r).buf = [] ∧ (s.core r).att = false ∧ s.fetchHeld r.cl (s.core r).pc = false

/-- Nothing stands before the execution of an instruction at an address: no `once` governs it (R90), no debug match (R341), and no
register in error (R320). -/
def State.plain (s : State) (r : CoreRef) (a : Word) (i : Instr) : Prop :=
  (s.core r).governed = none ∧ (s.core r).trapMatch a = none ∧ (s.core r).stopMatch a = false ∧ badRegister (s.core r) i = false

/-- What a step leaves of an outcome: the clock and the free values move on. -/
def ticked (o : Host.Outcome State Fault Refusal) : Host.Outcome State Fault Refusal :=
  match o with
  | .next t => .next t.tick
  | x => x

end Sys2Proof.Machine
end

