-- ==== Sys2Proof/Certificates/Slice0/Obligations.lean ====
section
/-! DEFINITION. What is claimed of the module: one proposition per claim, each from the numbered rules that its text names. -/
open Sys2Proof Sys2Proof.Machine

/-- Words that spec/05 to spec/08 write out for their examples decode to the instructions they stand for. -/
def Obligations.ExampleWordsDecode : Prop :=
  decode 0x8381 0x4812 = .ok (.mul 7 8 9) ∧ decode 0x4181 0xD18A = .ok (.madd 3 4 5 6) ∧ decode 0x3183 0xFFFE = .ok (.addi 3 3 (-1)) ∧
  decode 0x0295 0x0010 = .ok (.crd 5 8) ∧ decode 0x0197 0xFFC2 = .ok (.bne 3 0 (-4)) ∧ decode 0x009B 0x0002 = .ok (.jal 1 32) ∧
  decode 0x3221 0x24CA = .ok (.stx 4 3 5 3 2 4 0) ∧ decode 0x32B9 0xB4C8 = .ok (.amoincb 5 3 4 3 4 0) ∧
  decode 0x103B 0x0840 = .ok (.pfence 1 0 1) ∧ decode 0x41CB 0x998A = .ok (.fma 3 4 5 6 1) ∧
  decode 0x10C1 0x7CC4 = .ok (.vaddsat 1 1 2 3 2) ∧ decode 0x2345 0x220E = .ok (.vstxadd 6 2 7 0 1) ∧
  decode 0x20C7 0x3806 = .ok (.vperm 1 2 3 0) ∧ decode 0x5149 0x3602 = .ok (.vdec 2 5 1 0 3) ∧
  decode 0x804F 0x9292 = .ok (.mstream 0 8 9 10 2) ∧ decode 0x1057 0x0000 = .ok (.halt 1) ∧ decode 0x405F 0x0842 = .ok (.rep 4 1 1 1)

/-- Every encoded instruction is read back whole from its word: no bit of an encoding is dropped. -/
def Obligations.DecodeOfEncode : Prop :=
  ∀ (i : Instr) (w : W32), encode i = some w → decode (w.extractLsb' 0 16) (w.extractLsb' 16 16) = .ok i

/-- Every word that decodes is the one encoding of what it decodes to: an unused field, a reserved bit or an unassigned selector is refused
(R36, R38). A 16-bit form is decided by its own halfword. The encodings of Table 19 of spec/02 that no instruction has are refused,
whatever their other fields hold. -/
def Obligations.WordsHaveOneMeaning : Prop :=
  (∀ (lo hi : Half) (i : Instr), decode lo hi = .ok i →
    if lo.getLsbD 0 then isShort i = false ∧ encode i = some (hi ++ lo) else isShort i = true ∧ encode i = some (lo.zeroExtend 32)) ∧
  ((∀ lo hi, lo.getLsbD 0 = true → 0x30 ≤ (lo.extractLsb' 1 6).toNat → ∃ e, decode lo hi = .error e) ∧
  (∀ lo hi, lo.getLsbD 0 = false → ((lo.extractLsb' 1 4) = 0 ∨ (lo.extractLsb' 1 4) = 15) → ∃ e, decode lo hi = .error e) ∧
  (∀ lo hi, lo.getLsbD 0 = true → (lo.extractLsb' 1 6) = 0 → 28 ≤ (hi.extractLsb' 11 5).toNat → ∃ e, decode lo hi = .error e) ∧
  (∀ lo hi, lo.getLsbD 0 = true → (lo.extractLsb' 1 6) = 0x0B → 6 ≤ (hi.extractLsb' 1 3).toNat → ∃ e, decode lo hi = .error e) ∧
  (∀ lo hi, lo.getLsbD 0 = true → (lo.extractLsb' 1 6) = 0x05 → (hi.extractLsb' 9 7) ≠ 0 → ∃ e, decode lo hi = .error e))

/-- What the assertion of PERST# leaves (R350): state 0, `CYC` 0, no feature, empty memories, every core off, nothing queued, and the reset
values that the control path gives (R309, R335, R347). The memories have their canonical form. The assertion of PERST# in any state leaves
the state after reset with that state's flash (R350); the agenda and the count of free values are the model's own (log entries 1 and 3). -/
def Obligations.ResetLeaves : Prop :=
  (State.reset.boot.state = 0 ∧ State.reset.boot.inReset = true ∧ State.reset.cyc = 0 ∧ State.reset.feat0 = 0 ∧
  State.reset.flight = [] ∧ State.reset.launches = [] ∧ (∀ a, State.reset.hbm.get a = 0) ∧
  (∀ q a, (State.reset.core q).store.get a = 0) ∧ (∀ q, (State.reset.core q).run = .off) ∧ (∀ k, (State.reset.cluster k).powered = false) ∧
  (∀ q, State.reset.queue q = ⟨0, 0, 0, 0, []⟩) ∧
  State.reset.ctlGet Reg.ramth = 2048 ∧ State.reset.ctlGet Reg.ramwin = 60800000 ∧ State.reset.ctlGet Reg.pwrlim = 5400 ∧
  State.reset.Canonical) ∧
  (∀ s, Answers (exec .perstAssert s) fun t => t.flash = s.flash ∧ { t with flash := State.reset.flash, agenda := [], free := 0 } = State.reset)

/-- A core's turn with a private fetch executes the instruction that it fetches: `step` is `exec` of it in the state after the fetch, of a
`rep` with the fetch of its body, and then the clock. What is fetched is the instruction that the decoder reads from the two halfwords at
the address (R33, R34), each translated for itself: their pages must allow a fetch from this module's HBM, the words must be sound, and
the instruction cache must hold neither (R119). The fetch itself changes nothing of that where the station holds both pages, no bank is
blocked and no hidden error is met. An attached core's turn executes the instruction that the group's stream has issued to it at its next
address (R204). A turn of another agent is that agent's step (log entry 1). -/
def Obligations.StepRunsTheInstruction : Prop :=
  (∀ (s : State) (r : CoreRef) (rest : List Turn) (i : Instr), s.agenda = .core r :: rest →
    let s0 : State := { s with agenda := rest, cur := r }
    let s1 := cacheAfter s0 r.cl (some r) s0.me.pc
    s0.fetches r → (fetchAt s1 r.cl s0.me.pc).1 = .instr i → s0.plain r s0.me.pc i →
    step s = ticked (exec i ((s1.upd fun c => { c with taken := some (Issued.own s0.me.pc (.instr i)) }).fetchBody (.instr i)))) ∧
  (∀ (s : State) (cl : Nat) (r : Option CoreRef) (a : Word) (x y p q : Nat) (i : Instr),
    bit a 63 = true → bits a 57 6 = 0 → bit a 0 = false → bit (a + 2) 63 = true → bits (a + 2) 57 6 = 0 →
    translate s cl (s.cluster cl).slot (bits a 0 57) .fetch = .ok x → ownHbm s x = some p →
    translate s cl (s.cluster cl).slot (bits (a + 2) 0 57) .fetch = .ok y → ownHbm s y = some q →
    s.hbm.poisoned p 2 = false → s.hbm.poisoned q 2 = false →
    afind (s.cluster cl).icache p = none → afind (s.cluster cl).icache q = none →
    decode (BitVec.ofNat 16 (s.hbm.readLE p 2)) (BitVec.ofNat 16 (s.hbm.readLE q 2)) = .ok i →
    (fetchAt s cl a).1 = .instr i ∧
    ((cachedLeaf s (stationOf cl) (s.cluster cl).slot (bits a 0 57)).isSome = true →
      (cachedLeaf s (stationOf cl) (s.cluster cl).slot (bits (a + 2) 0 57)).isSome = true → s.blocked = [] → s.flaws = [] →
      (fetchAt (cacheAfter s cl r a) cl a).1 = .instr i)) ∧
  (∀ (s : State) (r : CoreRef) (rest : List Turn) (e : Issued) (t : List Issued) (i : Instr), s.agenda = .core r :: rest →
    let s0 : State := { s with agenda := rest, cur := r }
    s0.canTurn r = true → s0.me.after = [] → s0.me.engineDue = false → s0.me.taken = none → s0.me.inRep = false →
    s0.me.buf = e :: t → e.addr = s0.me.pc → e.pass = none → e.what = .instr i → s0.plain r s0.me.pc i →
    step s = ticked (exec i ((s0.upd fun c => { c with buf := t, taken := some e }).fetchBody (.instr i)))) ∧
  (∀ (s : State) (i : Instr) (rest : List Turn), s.agenda = .event i :: rest → step s = ticked (exec i { s with agenda := rest }))

/-- Every step answers a next state: the module never stops as a whole. Behind what a step does, `CYC` moves forward by at least one and at
most 2^32 while the module is up, and stands still else (R25, R350; that it is at most 2^32 a step is the model's choice, log entry 2): as
a number it grows, until the 64 bits are used up. -/
def Obligations.StepsGoOnAndTheClockMoves : Prop :=
  (∀ s, ∃ t, step s = .next t) ∧
  (∀ s t, move s = .next t → ∃ u, step s = .next u ∧ u.free = t.free + 1 ∧
    (2 ≤ t.boot.state ∧ t.boot.state ≤ 5 →
      1 ≤ (u.cyc - t.cyc).toNat ∧ (u.cyc - t.cyc).toNat ≤ 2 ^ 32 ∧ (t.cyc.toNat + 2 ^ 32 < 2 ^ 64 → t.cyc.toNat < u.cyc.toNat)) ∧
    (¬ (2 ≤ t.boot.state ∧ t.boot.state ≤ 5) → u.cyc = t.cyc))

/-- The order of R39 for every encoded instruction: an illegal encoding raises ILLEGAL with the word (R38); then what its entry refuses as a
whole raises its FETCH or ILLEGAL; a core whose allotment differs from its leader's detaches, with what this lets its group do, and raises
REGISTER (R23, R206); and a vector register that is not allotted raises REGISTER (R22); none has another effect. R39 does not order these
among each other: that what an entry refuses comes before the allotment, and R23's REGISTER before R22's, is the model's choice (log entry
27). `unassignedEncoding` is the fate of a word that no table assigns: ILLEGAL with the word (R38); `fetchFault` of an address that cannot
be fetched: FETCH with the address (R33). -/
def Obligations.ChecksComeFirst : Prop :=
  (∀ (i : Instr) (s : State), (encode i).isSome = true →
    (i.legal s.feat0 = false → exec i s = .next (s.raise tILLEGAL i.word)) ∧
    (i.legal s.feat0 = true → ∀ x, refusedWhole s i = some x → exec i s = .next (s.raise x.1 x.2)) ∧
    (i.legal s.feat0 = true → refusedWhole s i = none → ∀ v, nvClash s = some v →
      exec i s = .next ((s.updCluster s.cur.cl fun k => (k.detach s.cur.core 5).settle).raise tREGISTER v)) ∧
    (i.legal s.feat0 = true → refusedWhole s i = none → nvClash s = none → ∀ n, regFault i s.me = some n →
      exec i s = .next (s.raise tREGISTER (BitVec.ofNat 64 n)))) ∧
  ((∀ w h s, exec (.unassignedEncoding w h) s = .next (s.raise tILLEGAL (w.zeroExtend 64))) ∧
  (∀ a s, exec (.fetchFault a) s = .next (s.raise tFETCH a)))

/-- Trap entry (R181): the header is saved at `TWP`, the trap registers are written, and execution goes on at `TVEC` in trap mode, alone;
nothing else of the core changes, and nothing outside it. A FETCH sets `BSRC` (R186): to the instruction that transferred to the boundary
when it is the boundary that cannot be fetched, else to 0. A SHADOW at the address of the SHADOW before it seals the core (R320). -/
def Obligations.TrapEntry : Prop :=
  ∀ (s : State) (cause : Nat) (v : Word), s.me.canTrap → s.me.untraced →
    let t := s.raise cause v
    (cause ≠ tSHADOW → s.me.Trapped t.me cause s.me.pc v ∧ (cause ≠ tPOISON → OnlyMine s t) ∧
      t.me.cr_ Cr.bsrc = (if cause = tFETCH then (if v = s.me.pc then s.me.transfer.getD 0 else 0) else s.me.cr_ Cr.bsrc)) ∧
    (cause = tSHADOW → if s.me.shadowEpc = some s.me.pc then t.me.run = .sealed
      else s.me.Trapped { t.me with shadowEpc := s.me.shadowEpc } cause s.me.pc v ∧ t.me.shadowEpc = some s.me.pc) ∧
    (s.me.att = true → cause ≠ tSHADOW ∨ s.me.shadowEpc ≠ some s.me.pc → t.me.why = 4 ∧ t.me.buf = [])

/-- A trap in trap mode, without a vector or trap frame, or with a trap frame outside ARRAY banks is handled as DOUBLE: the core is sealed,
`CAUSE` says so, and its quadrant's service core is told, with what could not be taken (R30, R181, R193). -/
def Obligations.DoubleSeals : Prop :=
  ∀ (s : State) (cause : Nat) (v : Word), ¬ s.me.canTrap → s.me.run ≠ .sealed →
    let t := s.raise cause v
    t.me.run = .sealed ∧ t.me.cr_ Cr.cause = BitVec.ofNat 64 tDOUBLE ∧
    t.reports = s.reports ++ [(quadrant s.cur.cl, .double s.cur cause s.me.pc v), (quadrant s.cur.cl, .sealedCore s.cur tDOUBLE)]

/-- Add, subtract, logic, shifts, rotate, multiply and multiply-add, and the 16-bit forms (R80, R81, R104). Division and remainder with their
corners (R80, Table 1 of spec/05): signed division truncates toward zero and wraps on overflow, and division by zero gives all ones, or
the dividend as the remainder. Compares, selections and counts of bits. The immediate forms, `lui` and `addpc` outside a `rep` body, and
the 16-bit forms of `addi` and `add`. -/
def Obligations.IntegerOperations : Prop :=
  (∀ (s : State) (d a b c : Reg), let x := s.me.s a.toNat; let y := s.me.s b.toNat; let z := s.me.s c.toNat
    Writes (.add d a b) s d (x + y) ∧ Writes (.sub d a b) s d (x - y) ∧ Writes (.and d a b) s d (x &&& y) ∧
    Writes (.or d a b) s d (x ||| y) ∧ Writes (.xor d a b) s d (x ^^^ y) ∧
    Writes (.shl d a b) s d (x <<< (y.toNat % 64)) ∧ Writes (.shr d a b) s d (x >>> (y.toNat % 64)) ∧
    Writes (.sra d a b) s d (x.sshiftRight (y.toNat % 64)) ∧ Writes (.rot d a b) s d (x.rotateLeft (y.toNat % 64)) ∧
    Writes (.mul d a b) s d (x * y) ∧ Writes (.mulh d a b) s d (BitVec.ofInt 64 (x.toInt * y.toInt / 2 ^ 64)) ∧
    Writes (.mulhu d a b) s d (BitVec.ofNat 64 (x.toNat * y.toNat / 2 ^ 64)) ∧
    Writes (.madd d a b c) s d (x * y + z) ∧ Writes (.csel d a b c) s d (if z ≠ 0 then x else y)) ∧
  (∀ (s : State) (d a b : Reg), let x := s.me.s a.toNat; let y := s.me.s b.toNat
    Writes (.div d a b) s d (if y = 0 then -1 else BitVec.ofInt 64 (x.toInt.tdiv y.toInt)) ∧
    Writes (.divu d a b) s d (if y = 0 then -1 else BitVec.ofNat 64 (x.toNat / y.toNat)) ∧
    Writes (.rem d a b) s d (if y = 0 then x else BitVec.ofInt 64 (x.toInt.tmod y.toInt)) ∧
    Writes (.remu d a b) s d (if y = 0 then x else BitVec.ofNat 64 (x.toNat % y.toNat))) ∧
  (∀ (s : State) (d a b : Reg), let x := s.me.s a.toNat; let y := s.me.s b.toNat
    Writes (.slt d a b) s d (if x.toInt < y.toInt then 1 else 0) ∧ Writes (.sltu d a b) s d (if x.toNat < y.toNat then 1 else 0) ∧
    Writes (.seq d a b) s d (if x = y then 1 else 0) ∧
    Writes (.min d a b) s d (if x.toInt ≤ y.toInt then x else y) ∧ Writes (.max d a b) s d (if x.toInt ≤ y.toInt then y else x) ∧
    Writes (.minu d a b) s d (if x.toNat ≤ y.toNat then x else y) ∧ Writes (.maxu d a b) s d (if x.toNat ≤ y.toNat then y else x) ∧
    Writes (.clz d a) s d (if x = 0 then 64 else BitVec.ofNat 64 (63 - x.toNat.log2)) ∧
    (∃ n, Writes (.ctz d a) s d (BitVec.ofNat 64 n) ∧ (x = 0 → n = 64) ∧ (x ≠ 0 → n < 64 ∧ x.getLsbD n = true ∧ ∀ m < n, x.getLsbD m = false)) ∧
    Writes (.popc d a) s d (BitVec.ofNat 64 ((List.range 64).countP x.getLsbD))) ∧
  (∀ (s : State) (d a : Reg) (i : BitVec 15) (n : BitVec 6) (j : BitVec 6), let x := s.me.s a.toNat; let y := i.signExtend 64
    Writes (.addi d a i) s d (x + y) ∧ Writes (.andi d a i) s d (x &&& y) ∧ Writes (.ori d a i) s d (x ||| y) ∧
    Writes (.xori d a i) s d (x ^^^ y) ∧ Writes (.slti d a i) s d (if x.toInt < y.toInt then 1 else 0) ∧
    Writes (.sltiu d a i) s d (if x.toNat < y.toNat then 1 else 0) ∧
    Writes (.shi d a n 0) s d (x <<< n.toNat) ∧ Writes (.shi d a n 1) s d (x >>> n.toNat) ∧
    Writes (.shi d a n 2) s d (x.sshiftRight n.toNat) ∧ Writes (.shi d a n 3) s d (x.rotateLeft n.toNat) ∧
    Writes (.cMov d a) s d x ∧ Writes (.cAddi d j) s d (s.me.s d.toNat + j.signExtend 64) ∧
    Writes (.cLi d j) s d (j.signExtend 64) ∧ Writes (.cAdd d a) s d (s.me.s d.toNat + x))

/-- `lui` and `addpc` write what R82 gives, `addpc` from its own address (its place in the body within a `rep`), and raise no trap; `lui` and
an OR of the low 12 bits build every constant whose bit 31 is 0. -/
def Obligations.LuiAndAddpc : Prop :=
  ∀ (s : State) (d : Reg) (i : BitVec 20),
    Writes (.lui d i) s d (i.signExtend 64 * 4096) ∧
    (s.me.inRep = false → Writes (.addpc d i) s d (s.me.pc + i.signExtend 64 * 4096)) ∧
    (∀ a f, s.me.inRep = true → s.me.repBuf[s.me.repPos]? = some (a, f) → Writes (.addpc d i) s d (a + i.signExtend 64 * 4096)) ∧
    ∀ v < 2 ^ 31, (BitVec.ofNat 20 (v / 4096)).signExtend 64 * 4096 ||| BitVec.ofNat 64 (v % 4096) = BitVec.ofNat 64 v

/-- `nop` has no effect, and a word of `nop` or `eret` with a nonzero field beside FN is no instruction: it raises ILLEGAL. -/
def Obligations.NopDoesNothing : Prop :=
  (∀ s, Does .nop s nothing nothing fun _ => True) ∧ (∀ s, Does .cNop s nothing nothing fun _ => True) ∧
  (∀ lo hi, decode lo hi = .ok .nop → (hi ++ lo).extractLsb' 7 20 = 0) ∧
  (∀ lo hi, decode lo hi = .ok .eret → (hi ++ lo).extractLsb' 7 20 = 0) ∧
  (∀ lo hi, let w : W32 := hi ++ lo; w.extractLsb' 0 7 = 0x5D#7 → (w.extractLsb' 27 5 = 4#5 ∨ w.extractLsb' 27 5 = 1#5) → w.extractLsb' 7 20 ≠ 0 →
    ∃ e, decode lo hi = .error e) ∧
  ∀ w half s, exec (.unassignedEncoding w half) s = .next (s.raise tILLEGAL (w.zeroExtend 64))

/-- `crd` reads any listed control register: `CYC` reads the clock, `FEAT0` the features, `STAT` shows ATT, `MODE` shows ATT, WHY, JPT and
DRIFT (Tables 5 and 7 of spec/02), and any other reads what it holds. The write forms on a control register other than `DLYSEL` and the
`SPREAD` registers: where the register may be written and no reserved bit is set, its writable bits take the new value and every other bit
stays, and S(D) takes the old value where the form has one; a reserved bit raises ILLEGAL before the group's allotment is looked at, and
changes nothing. What R24 and R85 refuse raises ILLEGAL and changes nothing: an unlisted number, a register that may only be read, a
reserved bit, and `REPSTATE` outside trap mode. The steps that a core's own write of a control register leaves to do (R234, R339): a
`SPREAD` write with V 0 closes its window, and a `DLYSEL` write empties the delay table when its CLR bit says so and copies the chosen
entry; each is done once. Those steps themselves. -/
def Obligations.ControlRegisters : Prop :=
  (∀ (s : State) (d : Reg) (n : BitVec 12), (crLayout n.toNat).isSome = true → ∃ v, Writes (.crd d n) s d v ∧
    (n.toNat = Cr.cyc → v = s.cyc) ∧ (n.toNat = 0x40 → v = s.feat0) ∧
    (n.toNat = Cr.stat → v = s.me.cr_ Cr.stat ||| (if s.me.att then 4 else 0)) ∧
    (n.toNat = Cr.mode → v = BitVec.ofNat 64 ((if s.me.att then 1 else 0) + 2 * s.me.why + 32 * s.me.jpt + 512 * s.me.buf.length)) ∧
    (n.toNat ∉ [Cr.cyc, 0x40, Cr.stat, Cr.mode] → v = s.me.cr_ n.toNat)) ∧
  (∀ (s : State) (d a : Reg) (n : BitVec 12) (w r : Word), crLayout n.toNat = some (w, r) → w ≠ 0 → n.toNat ≠ Cr.dlysel →
    ¬ (0x14 ≤ n.toNat ∧ n.toNat ≤ 0x17) → (n.toNat = Cr.repstate → s.me.tm = true ∧ s.me.repBuf = []) →
    let old := crRead s s.me n.toNat; let x := s.me.s a.toNat
    let gives (i : Instr) (b : Nat → Prop) (v : Word) (p : State → Prop) : Prop :=
      (v &&& r = 0 → Does i s b (fun m => m = n.toNat) fun t =>
        (∀ k < 64, (t.me.cr_ n.toNat).getLsbD k = if w.getLsbD k then v.getLsbD k else (s.me.cr_ n.toNat).getLsbD k) ∧ p t) ∧
      (v &&& r ≠ 0 → Refuses i s tILLEGAL i.word)
    let took (t : State) : Prop := t.me.s d.toNat = if d = 0 then 0 else old
    gives (.cwr a n) nothing x (fun _ => True) ∧ gives (.cset d a n) (s.me.sBytes d) (old ||| x) took ∧
    gives (.cclr d a n) (s.me.sBytes d) (old &&& ~~~x) took ∧ gives (.cswp d a n) (s.me.sBytes d) x took) ∧
  (∀ (s : State) (d a : Reg) (n : BitVec 12),
    (crLayout n.toNat = none ∨ (∃ r, crLayout n.toNat = some (0, r)) ∨ (n.toNat = Cr.repstate ∧ s.me.tm = false) →
      Refuses (.cwr a n) s tILLEGAL (Instr.cwr a n).word ∧ Refuses (.cset d a n) s tILLEGAL (Instr.cset d a n).word ∧
      Refuses (.cclr d a n) s tILLEGAL (Instr.cclr d a n).word ∧ Refuses (.cswp d a n) s tILLEGAL (Instr.cswp d a n).word) ∧
    (crLayout n.toNat = none → Refuses (.crd d n) s tILLEGAL (Instr.crd d n).word)) ∧
  (∀ (s : State) (a : Reg) (n : BitVec 12), let x := s.me.s a.toNat; let i := Instr.cwr a n
    (n.toNat = Cr.dlysel → x.toNat < 128 → (s.me.cr_ Cr.dlysel).toNat < 128 → Leaves i s (s.upd fun c => (c.setCr Cr.dlysel (setBits x 6 1 0)).due
      (if bit x 6 then [.dlyClear, .dlyCopy] else [.dlyCopy])) nothing nothing fun _ => True) ∧
    (∀ k < 4, n.toNat = 0x14 + k → x = 0 → bit (s.me.cr_ n.toNat) 63 = true →
      Leaves i s (s.upd fun c => c.due [.spreadClose k]) nothing nothing fun _ => True) ∧
    (∀ k < 4, n.toNat = 0x14 + k → bit x 63 = true → bit (s.me.cr_ n.toNat) 63 = false → Refuses i s tILLEGAL i.word)) ∧
  (∀ (s : State) (r : CoreRef) (l : List After), let c := s.core r
    (c.after = .dlyClear :: l → exec (.dlyselClear r) s = .next (s.updCore r fun c => { c with delays := [], after := l })) ∧
    (c.after = .dlyCopy :: l → let e := c.delays.getD (bits (c.cr_ Cr.dlysel) 0 6) ⟨0, 0, 0, 0, 0⟩
      Answers (exec (.dlyselCopy r) s) fun t => (t.core r).after = l ∧ (t.core r).cr_ 0x23 = e.src ∧ (t.core r).cr_ 0x24 = e.n ∧
        (t.core r).cr_ 0x25 = e.trn ∧ (t.core r).cr_ 0x26 = e.qw ∧ (t.core r).cr_ 0x27 = e.run ∧
        (∀ m, ¬ (0x23 ≤ m ∧ m ≤ 0x27) → (t.core r).cr_ m = c.cr_ m) ∧ (t.core r).store = c.store ∧ t.outer = s.outer) ∧
    (∀ k < 4, c.after = .spreadClose k :: l → exec (.spreadWindowClose r k) s = .next (s.updCore r fun c =>
      { c.setCr (0x14 + k) (setBits (c.cr_ (0x14 + k)) 63 1 0) with after := l })))

/-- The branches: what each tests, and where it goes. The jumps: the link is the address after the jump, the target of `jalr` is read before
it is written, and an odd target raises ALIGN with no link. -/
def Obligations.ControlTransfers : Prop :=
  (∀ (s : State) (x y m : Reg) (o : BitVec 12) (j : BitVec 6), let a := s.me.s x.toNat; let b := s.me.s y.toNat
    let to_ := s.me.pc + o.signExtend 64 * 2; let near := s.me.pc + j.signExtend 64 * 2
    Branches (.beq x y o) s (a = b) to_ ∧ Branches (.bne x y o) s (a ≠ b) to_ ∧
    Branches (.blt x y o) s (a.toInt < b.toInt) to_ ∧ Branches (.bge x y o) s (b.toInt ≤ a.toInt) to_ ∧
    Branches (.bltu x y o) s (a.toNat < b.toNat) to_ ∧ Branches (.bgeu x y o) s (b.toNat ≤ a.toNat) to_ ∧
    Branches (.bok o) s (s.me.br = 0) to_ ∧ Branches (.bempty o) s (s.me.br = 1) to_ ∧
    Branches (.bfull o) s (s.me.br = 2) to_ ∧ Branches (.babsent o) s (s.me.br = 3) to_ ∧
    Branches (.bany m o) s (s.me.m m.toNat ≠ 0) to_ ∧ Branches (.ball m o) s (s.me.m m.toNat = 0xFFFF#16) to_ ∧
    Branches (.bnone m o) s (s.me.m m.toNat = 0) to_ ∧
    (a.toNat < 256 → Branches (.bflag x o) s (s.me.flags.getLsbD a.toNat = true) to_) ∧
    (256 ≤ a.toNat → Traps (.bflag x o) s tLOCALBOUNDS a) ∧
    Branches (.cBeqz x j) s (a = 0) near ∧ Branches (.cBnez x j) s (a ≠ 0) near) ∧
  (∀ (s : State) (d a : Reg) (i : BitVec 15) (o : BitVec 20) (j : BitVec 11), let t := s.me.s a.toNat + i.signExtend 64
    let linked (u : State) : Prop := u.me.s d.toNat = if d = 0 then 0 else s.me.pc + 4
    Jumps (.jal d o) s (s.me.sBytes d) (s.me.pc + o.signExtend 64 * 2) linked ∧
    (t.getLsbD 0 = false → Jumps (.jalr d a i) s (s.me.sBytes d) t linked) ∧
    (t.getLsbD 0 = true → Traps (.jalr d a i) s tALIGN t) ∧
    Jumps (.cJ j) s nothing (s.me.pc + j.signExtend 64 * 2) (fun _ => True) ∧
    ((s.me.s 1).getLsbD 0 = false → Jumps .cRet s nothing (s.me.s 1) (fun _ => True)) ∧
    ((s.me.s 1).getLsbD 0 = true → Traps .cRet s tALIGN (s.me.s 1)))

/-- The displacement loads, `c.ldd`, and `ldx` from an own address: value, extension and poison (R106, R108, R109). The displacement stores,
`c.std`, and `stx` to an own address: the bytes stored, and nothing else; a release waits until what the core has posted is performed
within its scope, which is the model's reading of R111 for the own store (R106, R108, R110; log entry 13). The AMOs on the own store, of
both widths (Table 3 of spec/06). That a release to the own store holds its core is the model's reading of R111 (log entry 13). Addresses
outside every window raise LOCAL-BOUNDS, MESH or TRANSLATION, and misaligned ones ALIGN, for every displacement load and store, `c.ldd`,
`c.std` and AMO, with the address in `TVAL` and no effect (R31, R105). -/
def Obligations.OwnStoreAccesses : Prop :=
  (∀ (s : State) (d a b : Reg) (i : BitVec 15) (o : BitVec 2) (c : BitVec 3) (h : BitVec 2),
    let x := s.me.s a.toNat + i.signExtend 64
    LoadsOwn (.ldb d a i) s d x 1 sext8 ∧ LoadsOwn (.ldbz d a i) s d x 1 zext ∧ LoadsOwn (.ldh d a i) s d x 2 sext16 ∧
    LoadsOwn (.ldhz d a i) s d x 2 zext ∧ LoadsOwn (.ldw d a i) s d x 4 sext32 ∧ LoadsOwn (.ldwz d a i) s d x 4 zext ∧
    LoadsOwn (.ldd d a i) s d x 8 zext ∧ LoadsOwn (.cLdd d a) s d (s.me.s a.toNat) 8 zext ∧
    let y (n : Nat) : Word := s.me.s a.toNat + s.me.s b.toNat * BitVec.ofNat 64 n
    ((s.me.s a.toNat).toNat < 0x40000 → s.me.isPort (s.me.s a.toNat).toNat = false →
      LoadsOwn (.ldx d a b 0 o c h) s d (y 1) 1 sext8 ∧ LoadsOwn (.ldx d a b 1 o c h) s d (y 2) 2 sext16 ∧
      LoadsOwn (.ldx d a b 2 o c h) s d (y 4) 4 sext32 ∧ LoadsOwn (.ldx d a b 3 o c h) s d (y 8) 8 zext ∧
      LoadsOwn (.ldx d a b 4 o c h) s d (y 1) 1 zext ∧ LoadsOwn (.ldx d a b 5 o c h) s d (y 2) 2 zext ∧
      LoadsOwn (.ldx d a b 6 o c h) s d (y 4) 4 zext)) ∧
  (∀ (s : State) (d a b : Reg) (i : BitVec 15) (c : BitVec 3) (h : BitVec 2),
    let x := s.me.s a.toNat + i.signExtend 64; let v := s.me.s d.toNat
    (OwnPlain s x 1 → StoresOwn (.stb d a i) s x 1 v) ∧ (OwnPlain s x 2 → StoresOwn (.sth d a i) s x 2 v) ∧
    (OwnPlain s x 4 → StoresOwn (.stw d a i) s x 4 v) ∧ (OwnPlain s x 8 → StoresOwn (.std d a i) s x 8 v) ∧
    (OwnPlain s (s.me.s a.toNat) 8 → StoresOwn (.cStd d a) s (s.me.s a.toNat) 8 v) ∧
    ((s.me.s a.toNat).toNat < 0x40000 → s.me.isPort (s.me.s a.toNat).toNat = false → ∀ (z : BitVec 3) (n : Nat),
      (z, n) ∈ [((0 : BitVec 3), 1), (1, 2), (2, 4), (3, 8)] →
      let y := s.me.s a.toNat + s.me.s b.toNat * BitVec.ofNat 64 n
      OwnPlain s y n →
      StoresOwn (.stx d a b z 0 7 h) s y n v ∧ (s.drained s.cur c.toNat = true → StoresOwn (.stx d a b z 2 c h) s y n v) ∧
      (s.drained s.cur c.toNat = false → Follows (.stx d a b z 2 c h) s))) ∧
  (∀ (s : State) (d a b : Reg) (o : BitVec 2) (c : BitVec 3) (w : BitVec 1),
    let n := if w = 1 then 8 else 4; let x := s.me.s a.toNat
    let y := (s.me.s b.toNat).toNat % 2 ^ (8 * n); let z := (s.me.s d.toNat).toNat % 2 ^ (8 * n)
    AmoOwn (.amoadd d a b o c w) s d x o c n (fun m => (m + y) % 2 ^ (8 * n)) ∧ AmoOwn (.amoand d a b o c w) s d x o c n (fun m => m &&& y) ∧
    AmoOwn (.amoor d a b o c w) s d x o c n (fun m => m ||| y) ∧ AmoOwn (.amoxor d a b o c w) s d x o c n (fun m => m ^^^ y) ∧
    AmoOwn (.amomin d a b o c w) s d x o c n (fun m => if signedVal n y < signedVal n m then y else m) ∧
    AmoOwn (.amomax d a b o c w) s d x o c n (fun m => if signedVal n m < signedVal n y then y else m) ∧
    AmoOwn (.amominu d a b o c w) s d x o c n (fun m => min m y) ∧ AmoOwn (.amomaxu d a b o c w) s d x o c n (fun m => max m y) ∧
    AmoOwn (.amoswap d a b o c w) s d x o c n (fun _ => y) ∧ AmoOwn (.amocas d a b o c w) s d x o c n (fun m => if m = z then y else m) ∧
    AmoOwn (.amoincb d a b o c w) s d x o c n (fun m => if m < y then m + 1 else 0) ∧
    AmoOwn (.amofadd d a b o c) s d x o c 4
      (fun m => (rneAdd32 (BitVec.ofNat 32 m) (BitVec.ofNat 32 (s.me.s b.toNat).toNat)).toNat)) ∧
  (∀ (s : State) (d a b : Reg) (i : BitVec 15) (o : BitVec 2) (c : BitVec 3) (w : BitVec 1),
    let x := s.me.s a.toNat + i.signExtend 64; let y := s.me.s a.toNat; let n := if w = 1 then 8 else 4
    (∀ j ∈ [Instr.ldb d a i, .ldbz d a i, .stb d a i], RefusesBad j s x 1) ∧
    (∀ j ∈ [Instr.ldh d a i, .ldhz d a i, .sth d a i], RefusesBad j s x 2) ∧
    (∀ j ∈ [Instr.ldw d a i, .ldwz d a i, .stw d a i], RefusesBad j s x 4) ∧
    (∀ j ∈ [Instr.ldd d a i, .std d a i], RefusesBad j s x 8) ∧ (∀ j ∈ [Instr.cLdd d a, .cStd d a], RefusesBad j s y 8) ∧
    (∀ j ∈ [Instr.amoadd d a b o c w, .amoand d a b o c w, .amoor d a b o c w, .amoxor d a b o c w, .amomin d a b o c w,
        .amomax d a b o c w, .amominu d a b o c w, .amomaxu d a b o c w, .amoswap d a b o c w, .amocas d a b o c w,
        .amoincb d a b o c w], RefusesBad j s y n) ∧ RefusesBad (.amofadd d a b o c) s y 4)

/-- Displacement and indexed accesses of the own core at the ports of its structured banks: refused with BANK-PORT, POISON at a poisoned
entry, blocked at the wait port, or answered with a result in BR. That a release holds its core until what it posted is performed is the
model's reading of R111 (log entry 13). A QUEUE and a STACK of 4- or 8-byte items: a store at the main or wait port adds an item, FULL at
capacity; a load takes the head or top, EMPTY when there is none; a peek takes nothing; the count is the number of items; a clear empties
(R60, R64 to R67). A MAP: what a store puts under a key a lookup gives back and a delete takes away, and other keys keep their values; a
key that is not held is ABSENT, the key 0xFFFFFFFF always, and a new key beyond capacity FULL (R60, R65). A PQ: a load takes an entry of
least priority, behind which every entry has at least its priority, as stores keep it; equal priorities leave in the order they came
(R65). A HIST: a store adds to a bin, which stays at all ones with FULL when the sum does not fit; a load reads a bin, and the peek port
reads and resets it; a bin beyond the capacity is ABSENT (R65). A bank of 64·n-byte items: a reserve names a free slot, its commit makes
it an item, an acquire names an item not yet acquired, and its release frees it; a slot that is not so held is ABSENT, no free slot is
FULL and no item EMPTY; slot j lies at 0x40 + 64·n·j of the window (R61, R66). -/
def Obligations.PortOperations : Prop :=
  (∀ (s : State) (d a b : Reg) (i : BitVec 15) (h : BitVec 2),
    let x := s.me.s a.toNat + i.signExtend 64; let v := s.me.s d.toNat
    PortLoads (.ldw d a i) s d x 4 true 0 ∧ PortLoads (.ldwz d a i) s d x 4 false 0 ∧ PortLoads (.ldd d a i) s d x 8 false 0 ∧
    PortLoads (.ldb d a i) s d x 1 true 0 ∧ PortLoads (.ldbz d a i) s d x 1 false 0 ∧ PortLoads (.ldh d a i) s d x 2 true 0 ∧
    PortLoads (.ldhz d a i) s d x 2 false 0 ∧
    PortStores (.stb d a i) s x 1 v 0 ∧ PortStores (.sth d a i) s x 2 v 0 ∧ PortStores (.stw d a i) s x 4 v 0 ∧
    PortStores (.std d a i) s x 8 v 0 ∧
    PortLoads (.cLdd d a) s d (s.me.s a.toNat) 8 false 0 ∧ PortStores (.cStd d a) s (s.me.s a.toNat) 8 v 0 ∧
    (s.me.isPort (s.me.s a.toNat).toNat = true → let y := s.me.s a.toNat; let k := s.me.s b.toNat
      (∀ (o : BitVec 2) (c : BitVec 3), (∀ q ∈ [((0 : BitVec 3), 1, true), (1, 2, true), (2, 4, true), (3, 8, false), (4, 1, false), (5, 2, false), (6, 4, false)],
        PortLoads (.ldx d a b q.1 o c h) s d y q.2.1 q.2.2 k)) ∧
      ∀ q ∈ [((0 : BitVec 3), 1), (1, 2), (2, 4), (3, 8)], PortStores (.stx d a b q.1 0 7 h) s y q.2 v k ∧
        ∀ c : BitVec 3, (s.drained s.cur c.toNat = true → PortStores (.stx d a b q.1 2 c h) s y q.2 v k) ∧
          (s.drained s.cur c.toNat = false → y.toNat % q.2 = 0 → Follows (.stx d a b q.1 2 c h) s))) ∧
  (∀ (b : Bank) (size p : Nat) (sg held : Bool) (data key base mesh : Word),
    (kindOf b.pers = 1 ∨ kindOf b.pers = 2) → itemOf b.pers = size → (size = 4 ∨ size = 8) → (p = 0 ∨ p = 8) →
    let item := BitVec.ofNat 64 (data.toNat % 2 ^ (8 * size)); let cap := 2 ^ b.gsize * 16384 / size
    portStore b p size data key mesh held = some (if cap ≤ b.items.length then (2, b)
      else (0, { b with items := if kindOf b.pers = 1 then b.items ++ [item] else item :: b.items })) ∧
    portLoad b p size sg key base = some (match b.items with
      | e :: t => (extend size sg e.toNat, 0, { b with items := t })
      | [] => (0, 1, b)) ∧
    portLoad b 0x10 size sg key base = some (match b.items[key.toNat]? with
      | some e => (extend size sg e.toNat, 0, b)
      | none => (0, 3, b)) ∧
    portLoad b 0x18 size sg key base = some (extend size sg b.items.length, 0, b) ∧
    portStore b 0x20 size data key mesh held = some (if held then (2, b) else (0, { b with items := [], ring := [], nextSlot := 0 })) ∧
    portStore b 0x10 size data key mesh held = none ∧ portStore b 0x18 size data key mesh held = none ∧
    portLoad b 0x20 size sg key base = none ∧ portLoad b 0x28 size sg key base = none) ∧
  (∀ (b : Bank) (data key base mesh : Word), kindOf b.pers = 3 → key.toNat < 0xFFFFFFFF →
    let holds (x : Bank) (k v : Nat) : Prop := portLoad x 0 4 false (BitVec.ofNat 64 k) base = some (BitVec.ofNat 64 (v % 2 ^ 32), 0, x)
    let lacks (x : Bank) (k : Nat) : Prop := portLoad x 0 4 false (BitVec.ofNat 64 k) base = some (0, 3, x)
    let full := 2 ^ b.gsize * 1536 ≤ b.items.length
    (lacks b key.toNat → full → portStore b 0 4 data key mesh false = some (2, b)) ∧
    (¬ lacks b key.toNat ∨ ¬ full → ∃ x, portStore b 0 4 data key mesh false = some (0, x) ∧ holds x key.toNat (data.toNat % 2 ^ 32) ∧
      ∀ k < 0xFFFFFFFF, k ≠ key.toNat → (lacks b k → lacks x k) ∧ ∀ v, holds b k v → holds x k v) ∧
    (∀ v, holds b key.toNat v → ∃ x, portLoad b 0x10 4 false key base = some (BitVec.ofNat 64 (v % 2 ^ 32), 0, x) ∧ lacks x key.toNat ∧
      ∀ k < 0xFFFFFFFF, k ≠ key.toNat → (lacks b k → lacks x k) ∧ ∀ u, holds b k u → holds x k u) ∧
    portStore b 0 4 data 0xFFFFFFFF mesh false = some (3, b) ∧ lacks b 0xFFFFFFFF ∧
    (∀ (k : Word) (p size : Nat) (sg held : Bool), 2 ^ 32 ≤ k.toNat →
      portLoad b p size sg k base = none ∧ portStore b p size data k mesh held = none)) ∧
  (∀ (b : Bank) (data key base mesh : Word), kindOf b.pers = 4 → key.toNat < 2 ^ 32 →
    (b.items.Pairwise fun x y => keyOf x ≤ keyOf y) →
    (2 ^ b.gsize * 2048 - 1 ≤ b.items.length → portStore b 0 4 data key mesh false = some (2, b)) ∧
    (b.items.length < 2 ^ b.gsize * 2048 - 1 → ∃ l, portStore b 0 4 data key mesh false = some (0, { b with items := l }) ∧
      (l.Pairwise fun x y => keyOf x ≤ keyOf y) ∧
      l.filter (fun e => keyOf e ≤ key.toNat) = b.items.filter (fun e => keyOf e ≤ key.toNat) ++ [entry key.toNat (data.toNat % 2 ^ 32)] ∧
      l.filter (fun e => key.toNat < keyOf e) = b.items.filter (fun e => key.toNat < keyOf e)) ∧
    (∀ e t, b.items = e :: t → portLoad b 0 4 false 0 base = some (BitVec.ofNat 64 (valOf e % 2 ^ 32), 0, { b with items := t }) ∧
      portLoad b 0 8 false 0 base = some (BitVec.ofNat 64 (valOf e % 2 ^ 32 + keyOf e * 2 ^ 32), 0, { b with items := t }) ∧
      portLoad b 0x10 4 false 0 base = some (BitVec.ofNat 64 (valOf e % 2 ^ 32), 0, b)) ∧
    (b.items = [] → portLoad b 0 4 false 0 base = some (0, 1, b))) ∧
  (∀ (b : Bank) (data key base mesh : Word), kindOf b.pers = 5 → b.gsize ≤ 3 →
    let bin (x : Bank) (k : Nat) : Nat := (findKey k x.items).getD 0
    let sum := bin b key.toNat + data.toNat % 2 ^ 32
    (key.toNat < 2 ^ b.gsize * 4096 → (∃ x, portStore b 0 4 data key mesh false = some (if sum < 2 ^ 32 then 0 else 2, x) ∧
        bin x key.toNat = min sum (2 ^ 32 - 1) ∧ ∀ k < 2 ^ b.gsize * 4096, k ≠ key.toNat → bin x k = bin b k) ∧
      portLoad b 0 4 false key base = some (BitVec.ofNat 64 (bin b key.toNat % 2 ^ 32), 0, b) ∧
      ∃ x, portLoad b 0x10 4 false key base = some (BitVec.ofNat 64 (bin b key.toNat % 2 ^ 32), 0, x) ∧ bin x key.toNat = 0 ∧
        ∀ k, k ≠ key.toNat → bin x k = bin b k) ∧
    (2 ^ b.gsize * 4096 ≤ key.toNat → portStore b 0 4 data key mesh false = some (3, b) ∧ portLoad b 0 4 false key base = some (0, 3, b)) ∧
    portStore b 8 4 data key mesh false = none ∧ portLoad b 8 4 false key base = none) ∧
  (∀ (b : Bank) (data base : Word) (vc core : Nat), isSlotBank b.pers = true → b.first < 16 → b.gsize ≤ 3 → vc < 8192 → core < 8 →
    let mesh := meshAddr vc core 0
    let slot (x : Word) (j : Nat) : Word := x + BitVec.ofNat 64 (b.first * 0x4000 + 0x40 + itemOf b.pers * j)
    let names (j : Nat) : Prop := data = slot 0 j ∨ data = slot mesh j
    let others (x : Bank) (j : Nat) : Prop := ∀ q ∈ b.ring, q.1 ≠ j → q.2 ≠ .released → q ∈ x.ring
    (∀ j x, b.reserve = some (j, x) → portLoad b 0x28 8 false 0 base = some (slot base j, 0, x) ∧ (∀ q ∈ b.ring, q.1 ≠ j) ∧
      x.ring = b.ring ++ [(j, .reserved)]) ∧
    (b.reserve = none → portLoad b 0x28 8 false 0 base = some (0, 2, b)) ∧
    (∀ j x, b.acquire = some (j, x) → portLoad b 0x38 8 false 0 base = some (slot base j, 0, x) ∧ (j, SlotSt.item) ∈ b.ring ∧
      (j, SlotSt.acquired) ∈ x.ring ∧ others x j) ∧
    (b.acquire = none → portLoad b 0x38 8 false 0 base = some (0, 1, b)) ∧
    (∀ j < slotCount b.pers b.gsize, names j →
      ((j, SlotSt.reserved) ∈ b.ring → ∃ x, portStore b 0x30 8 data 0 mesh false = some (0, x) ∧ (j, SlotSt.item) ∈ x.ring ∧ others x j) ∧
      ((j, SlotSt.reserved) ∉ b.ring → portStore b 0x30 8 data 0 mesh false = some (3, b)) ∧
      ((j, SlotSt.acquired) ∈ b.ring → ∃ x, portStore b 0 8 data 0 mesh false = some (0, x) ∧ (j, SlotSt.acquired) ∉ x.ring ∧ others x j) ∧
      ((j, SlotSt.acquired) ∉ b.ring → portStore b 0 8 data 0 mesh false = some (3, b))) ∧
    ((∀ j < slotCount b.pers b.gsize, ¬ names j) →
      portStore b 0x30 8 data 0 mesh false = some (3, b) ∧ portStore b 0 8 data 0 mesh false = some (3, b)) ∧
    portLoad b 0x18 8 false 0 base = some (BitVec.ofNat 64 b.joined.length, 0, b) ∧ portLoad b 0 8 false 0 base = none)

/-- Displacement loads and stores of the own flag page (R113): a load reads its bytes, or raises POISON where an error has left its word
poisoned, and a store writes them and nothing else; one of a whole word takes its poison away (R317, R318). An AMO of the own flag page:
S(D) takes the old bytes, and the page the new ones, behind what was posted when it releases (R113, R114); a poisoned word raises POISON
(R318). That such a release holds its core is the model's reading of R111 (log entry 13). `fset`, `fclr` and `ftest` (R125): an own flag
takes the value at once and every other keeps its own, behind what was posted when the instruction releases; another core's flag takes a
posted request; a target that is no flag page raises MESH. That a release on an own flag holds its core is the model's reading of R111
(log entry 13). -/
def Obligations.FlagPages : Prop :=
  (∀ (s : State) (d a : Reg) (i : BitVec 15), let x := s.me.s a.toNat + i.signExtend 64; let y := s.me.s a.toNat
    let loads (j : Instr) (x : Word) (n : Nat) (ext : Nat → Word) : Prop := OwnFlags x n →
      (s.me.flagsBad x = false → Writes j s d (ext (flagBytes s.me.flags x.toNat n))) ∧ (s.me.flagsBad x = true → Traps j s tPOISON x)
    let stores (j : Instr) (x : Word) (n : Nat) : Prop := OwnFlags x n → ∃ g, FlagsStored s.me.flags g x.toNat n (s.me.s d.toNat).toNat ∧
      Leaves j s (s.upd fun c => { c with
        flags := g, flagPoison := c.flagPoison.filter fun w => !(n == 8 && w == (x.toNat - 0x40000) / 8) }) nothing nothing fun _ => True
    loads (.ldb d a i) x 1 sext8 ∧ loads (.ldbz d a i) x 1 zext ∧ loads (.ldh d a i) x 2 sext16 ∧ loads (.ldhz d a i) x 2 zext ∧
    loads (.ldw d a i) x 4 sext32 ∧ loads (.ldwz d a i) x 4 zext ∧ loads (.ldd d a i) x 8 zext ∧ loads (.cLdd d a) y 8 zext ∧
    stores (.stb d a i) x 1 ∧ stores (.sth d a i) x 2 ∧ stores (.stw d a i) x 4 ∧ stores (.std d a i) x 8 ∧ stores (.cStd d a) y 8) ∧
  (∀ (s : State) (d a b : Reg) (o : BitVec 2) (c : BitVec 3) (w : BitVec 1), let n := if w = 1 then 8 else 4; let x := s.me.s a.toNat
    let y := (s.me.s b.toNat).toNat % 2 ^ (8 * n); let z := (s.me.s d.toNat).toNat % 2 ^ (8 * n)
    let old := flagBytes s.me.flags x.toNat n; let old4 := flagBytes s.me.flags x.toNat 4
    let does (i : Instr) (n old new : Nat) : Prop := (s.me.flagsBad x = true → Traps i s tPOISON x) ∧
      (s.me.flagsBad x = false → ∃ g, FlagsStored s.me.flags g x.toNat n new ∧
        Leaves i s (s.upd fun c => { c with flags := g, reissue := if c.tm then c.reissue else none }) (s.me.sBytes d) nothing fun t =>
          t.me.s d.toNat = if d = 0 then 0 else BitVec.ofNat 64 old)
    (o.getLsbD 1 = true → s.performed c.toNat) →
    (OwnFlags x n → does (.amoadd d a b o c w) n old (old + y) ∧ does (.amoand d a b o c w) n old (old &&& y) ∧
      does (.amoor d a b o c w) n old (old ||| y) ∧ does (.amoxor d a b o c w) n old (old ^^^ y) ∧ does (.amoswap d a b o c w) n old y ∧
      does (.amocas d a b o c w) n old (if old = z then y else old) ∧ does (.amominu d a b o c w) n old (min old y) ∧
      does (.amomaxu d a b o c w) n old (max old y) ∧ does (.amoincb d a b o c w) n old (if old < y then old + 1 else 0) ∧
      does (.amomin d a b o c w) n old (if signedVal n y < signedVal n old then y else old) ∧
      does (.amomax d a b o c w) n old (if signedVal n old < signedVal n y then y else old)) ∧
    (OwnFlags x 4 → does (.amofadd d a b o c) 4 old4 (rneAdd32 (BitVec.ofNat 32 old4) (BitVec.ofNat 32 (s.me.s b.toNat).toNat)).toNat)) ∧
  (∀ (s : State) (d a b c : Reg), let f := s.me.s a.toNat; let t := s.me.s b.toNat
    let both (p : Instr → Bool → Prop) : Prop := p (.fset a b c) true ∧ p (.fclr a b c) false
    let rel := if c = 7 then none else some c.toNat
    (f.toNat < 256 → Writes (.ftest d a) s d (if s.me.flags.getLsbD f.toNat then 1 else 0)) ∧
    (256 ≤ f.toNat → Traps (.ftest d a) s tLOCALBOUNDS f ∧ both fun i _ => Traps i s tLOCALBOUNDS f) ∧
    (f.toNat < 256 → t = 0 → (c = 7 ∨ s.performed c.toNat) → both fun i v => ∃ g : BitVec 256,
      (∀ k < 256, g.getLsbD k = if k = f.toNat then v else s.me.flags.getLsbD k) ∧
      Leaves i s (s.upd fun c => { c with flags := g }) nothing nothing fun _ => True) ∧
    (f.toNat < 256 → t = 0 → c ≠ 7 → ¬ s.performed c.toNat → both fun i _ => Follows i s) ∧
    (f.toNat < 256 → ∀ vc core, Mesh s t 8 vc core 0x40000 → chanKey vc core ∉ s.me.closed → both fun i v =>
      Leaves i s { s with flight := s.flight ++ [s.posted rel vc core (.flag f.toNat v) t] } nothing nothing fun _ => True) ∧
    (f.toNat < 256 → t ≠ 0 → (∀ vc core, ¬ Mesh s t 8 vc core 0x40000) → both fun i _ => Traps i s tMESH t))

/-- Loads and AMOs of another home leave their core with nothing done and wait for the answer there (R72, R105); an AMO that releases waits
first (R111, R114). A store to a sibling's or another cluster's plain memory or flag page is posted, in order, and completes (R72, R245);
on a channel that a lost link has closed it is dropped with a LINK-LOST record of the mesh unit (R251). A store to a global address or to
a port of another core waits for its answer. A release carries its scope on its way, but at a port it waits first (R111). R251 names no
unit for that record: the mesh unit is the model's choice (log entry 28). Vector accesses to a global address and to another core's store
go out whole, and gathers and scatters with their first lane (R105, R140); a keyed access goes whole to the one bank (R142); a `vst` to
another core is posted at every offset, and completes (R72). -/
def Obligations.RemoteAccesses : Prop :=
  (∀ (s : State) (d a b : Reg) (i : BitVec 15) (o : BitVec 2) (c : BitVec 3) (w : BitVec 1) (h : BitVec 2),
    let x := s.me.s a.toNat + i.signExtend 64; let y := s.me.s a.toNat; let v := s.me.s d.toNat; let u := s.me.s b.toNat
    let n := if w = 1 then 8 else 4; let rel := if o.getLsbD 1 then some c.toNat else none
    GoesOut (.ldb d a i) s (.load 1 true) x 1 none ∧ GoesOut (.ldbz d a i) s (.load 1 false) x 1 none ∧
    GoesOut (.ldh d a i) s (.load 2 true) x 2 none ∧ GoesOut (.ldhz d a i) s (.load 2 false) x 2 none ∧
    GoesOut (.ldw d a i) s (.load 4 true) x 4 none ∧ GoesOut (.ldwz d a i) s (.load 4 false) x 4 none ∧
    GoesOut (.ldd d a i) s (.load 8 false) x 8 none ∧ GoesOut (.cLdd d a) s (.load 8 false) y 8 none ∧
    (2 ^ 63 ≤ y.toNat ∨ u = 0 → ∀ (z : BitVec 3) (k : Nat) (g : Bool),
      (z, k, g) ∈ [((0 : BitVec 3), 1, true), (1, 2, true), (2, 4, true), (3, 8, false), (4, 1, false), (5, 2, false), (6, 4, false)] →
      GoesOut (.ldx d a b z o c h) s (.load k g) (y + u * BitVec.ofNat 64 k) k none) ∧
    (∀ p ∈ [(Instr.amoadd d a b o c w, 0), (.amoand d a b o c w, 1), (.amoor d a b o c w, 2), (.amoxor d a b o c w, 3),
        (.amomin d a b o c w, 4), (.amomax d a b o c w, 5), (.amominu d a b o c w, 6), (.amomaxu d a b o c w, 7),
        (.amoswap d a b o c w, 8), (.amocas d a b o c w, 9), (.amoincb d a b o c w, 11)],
      GoesOut p.1 s (.amo p.2 n u v) y n rel) ∧ GoesOut (.amofadd d a b o c) s (.amo 10 4 u v) y 4 rel) ∧
  (∀ (s : State) (d a b : Reg) (i : BitVec 15) (c : BitVec 3) (h : BitVec 2),
    let x := s.me.s a.toNat + i.signExtend 64; let y := s.me.s a.toNat; let v := s.me.s d.toNat; let u := s.me.s b.toNat
    StoresOut (.stb d a i) s (.store 1 v) x 1 none ∧ StoresOut (.sth d a i) s (.store 2 v) x 2 none ∧
    StoresOut (.stw d a i) s (.store 4 v) x 4 none ∧ StoresOut (.std d a i) s (.store 8 v) x 8 none ∧
    StoresOut (.cStd d a) s (.store 8 v) y 8 none ∧
    (2 ^ 63 ≤ y.toNat ∨ u = 0 → ∀ (z : BitVec 3) (k : Nat), (z, k) ∈ [((0 : BitVec 3), 1), (1, 2), (2, 4), (3, 8)] →
      StoresOut (.stx d a b z 0 7 h) s (.store k v) (y + u * BitVec.ofNat 64 k) k none ∧
      StoresOut (.stx d a b z 2 c h) s (.store k v) (y + u * BitVec.ofNat 64 k) k (some c.toNat)) ∧
    (∀ vc core o, Mesh s x 8 vc core o → 0x40 ≤ o % 0x4000 ∨ 0x40000 ≤ o → chanKey vc core ∈ s.me.closed →
      Leaves (.std d a i) s (s.record s.cur s.me.recq 0 uMesh tLINKLOST x x) nothing nothing fun _ => True)) ∧
  (∀ (s : State) (d a b : Reg) (m : BitVec 3) (l : Nat), let x := s.me.s a.toNat; let y := s.me.laneAt a b l
    let k := if m = 0 then 0xFFFF else s.me.m m.toNat
    let vec (r : Reg) : List W32 := (List.range 16).map (s.me.v r.toNat)
    let out (i : Instr) (op : AccOp) (n : Nat) : Prop := (Global x n → SendsOut i s op x .translate) ∧
      ∀ vc core o, Mesh s x n vc core o → o < 0x40000 →
        (chanKey vc core ∉ s.me.closed → SendsOut i s op x .bank) ∧ (chanKey vc core ∈ s.me.closed → Traps i s tLINKLOST x)
    (k ≠ 0 → out (.vld d a m) (.vload k) 64 ∧ out (.vldb d a m) (.load 4 false) 4 ∧ out (.vldk d a b m) (.keyed false k (vec b) []) 4 ∧
      out (.vstk d a b m) (.keyed true k (vec b) (vec d)) 4 ∧ (Global x 64 → SendsOut (.vst d a m) s (.vstore k (vec d)) x .translate)) ∧
    (k ≠ 0 → ∀ vc core o, Mesh s x 64 vc core o → o < 0x40000 → Leaves (.vst d a m) s
      { s with flight := s.flight ++ [s.posted none vc core (.store o (.vstore k (vec d))) x] } nothing nothing fun _ => True) ∧
    (s.me.toDo m l → (∀ j < l, ¬ s.me.toDo m j) → Global y 4 → SendsOut (.vldx d a b m) s (.load 4 false) y .translate ∧
      SendsOut (.vstx d a b m) s (.store 4 ((s.me.v d.toNat l).zeroExtend 64)) y .translate))

/-- `fence`, `pfence` and `ifence` complete (R117 to R119): `fence` once what its core has posted within the scope is performed, and it
reopens the channels of that reach (R251, R311); `pfence` once what its core has observed of the first path is performed, and it empties
the read buffer of the second (R255); each stalls before. `ifence` always completes: with nothing buffered it changes no more than the
instruction cache, which it empties. What a `pfence` takes as observed, and which buffered lines it empties, is the model's reading (log
entry 15). -/
def Obligations.FencesComplete : Prop :=
  ∀ (s : State) (a b : Reg) (c : BitVec 3),
    let reopens (k : Core) : Core := { k with closed := k.closed.filter fun x => ¬ (4 ≤ c.toNat ∧ (x < 65536 ∨ c.toNat = 6)) }
    (s.performed c.toNat → Leaves (.fence c) s (s.upd reopens) nothing nothing (fun _ => True) ∧
      Leaves (.pfence 0 0 c) s (s.upd reopens) nothing nothing fun _ => True) ∧
    (¬ s.performed c.toNat → Follows (.fence c) s) ∧
    (s.Observes a.toNat c.toNat → Follows (.pfence a b c) s) ∧
    (¬ s.Observes a.toNat c.toNat → a ≠ 0 ∨ b ≠ 0 →
      Leaves (.pfence a b c) s (s.updCluster s.cur.cl fun k => { k with ruleBuf := if b = 3 then [] else k.ruleBuf }) nothing nothing fun t =>
        t.mine.opBuf = if b = 2 then [] else s.mine.opBuf) ∧
    (Passes s .ifence → Answers (exec .ifence s) fun t => s.me.Keeps t.me nothing nothing ∧ GoesOn s t .ifence) ∧
    ((∀ j < 8, (s.mine.core j).buf = []) →
      Leaves .ifence s (s.updCluster s.cur.cl fun k => { k with icache := [] }) nothing nothing fun _ => True)

/-- `waitge` and `waitp` on a counter of the cluster, named in own or mesh form (R120 to R123): the counter in S(D) with OK at the target or
FULL on a marked one; else `waitge` waits, and `waitp` raises PROMISE-MISSED once its time has come and waits for that time before. That
addresses trap at once, while `waitp` looks at the bank and the core after the time has come, is the model's reading of R121 and R123 (log
entry 28). Where a counter may not lie (R121): misaligned, at a port or in a structured bank, on a sealed core, in another cluster, or
outside every window. `waitp` looks at the bank and the core when it reads the counter, after its time has come (R123). That order, and
BANK-PORT for a counter in the flag page, are the model's reading (log entry 28). A counter in a bank under conversion is answered RETRY,
and MESH after 2^16 cycles of it (R127, R230). `sleep` and `fwait` (R124, R125): complete when the time has come or the flag has the
value, wait otherwise; a flag number beyond the page raises LOCAL-BOUNDS. -/
def Obligations.WaitsComplete : Prop :=
  (∀ (s : State) (d a b c : Reg) (k o : Nat), let x := s.me.s a.toNat; let target := s.me.s b.toNat
    s.mine.vc < 8192 → k < 8 → (k = s.cur.core ∧ x.toNat = o ∨ x = meshAddr s.mine.vc k o) → o + 8 ≤ 0x40000 → o % 8 = 0 →
    (s.mine.core k).hit o 8 = .plain → (s.mine.core k).run ≠ .sealed → ((s.mine.core k).bank (o / 0x4000)).converting = false →
    let w := (s.mine.core k).store.read8 o; let early := s.cyc < s.me.s c.toNat
    let met := bit w 63 = true ∨ bits target 0 48 ≤ bits w 0 48
    let gives (i : Instr) : Prop := Does i s (s.me.sBytes d) onlyStat fun t => t.me.s d.toNat = (if d = 0 then 0 else w) ∧
      t.me.br = (if bit w 63 then 2 else 0) ∧ ∀ n, 2 ≤ n → (t.me.cr_ Cr.stat).getLsbD n = (s.me.cr_ Cr.stat).getLsbD n
    (early → Waits (.waitp d a b c) s (.time (s.me.s c.toNat))) ∧
    (s.postedTo k = true → Follows (.waitge d a b) s ∧ (¬ early → Follows (.waitp d a b c) s)) ∧
    (s.postedTo k = false → met → gives (.waitge d a b) ∧ (¬ early → gives (.waitp d a b c))) ∧
    (s.postedTo k = false → ¬ met → Waits (.waitge d a b) s (.counter k o target) ∧ (¬ early → Traps (.waitp d a b c) s tPROMISEMISSED w))) ∧
  (∀ (s : State) (d a b c : Reg) (k o : Nat), let x := s.me.s a.toNat
    let both (cause : Nat) : Prop := Traps (.waitge d a b) s cause x ∧ Traps (.waitp d a b c) s cause x
    let inTime (cause : Nat) : Prop := Traps (.waitge d a b) s cause x ∧
      if s.cyc < s.me.s c.toNat then Waits (.waitp d a b c) s (.time (s.me.s c.toNat)) else Traps (.waitp d a b c) s cause x
    (2 ^ 63 ≤ x.toNat → both tMESH) ∧
    (∀ vc, vc < 8192 → k < 8 → o < 0x40020 → vc ≠ s.mine.vc → x = meshAddr vc k o → both tMESH) ∧
    (0x41400 ≤ x.toNat → x.toNat < 2 ^ 62 → both tLOCALBOUNDS) ∧
    (s.mine.vc < 8192 → k < 8 → o < 0x40020 → (k = s.cur.core ∧ x.toNat = o ∨ x = meshAddr s.mine.vc k o) →
      (o % 8 ≠ 0 → both tALIGN) ∧
      (o % 8 = 0 → 0x40000 ≤ o → both tBANKPORT) ∧
      (let conv := ((s.mine.core k).bank (o / 0x4000)).converting; let early := s.cyc < s.me.s c.toNat
       let since := match s.me.wait with | some (.converting t) => t | _ => s.cyc; let time := s.me.s c.toNat
       o % 8 = 0 → o < 0x40000 →
        (conv = false ∨ (s.mine.core k).run = .sealed → (s.mine.core k).hit o 8 ≠ .plain → inTime tBANKPORT) ∧
        (conv = true → (s.mine.core k).run ≠ .sealed → (early → Waits (.waitp d a b c) s (.time time)) ∧ ∀ j,
          j = .waitge d a b ∨ (¬ early ∧ j = .waitp d a b c) →
          ((s.cyc - since).toNat < 2 ^ 16 → StallsFor j s (.converting since)) ∧ (2 ^ 16 ≤ (s.cyc - since).toNat → Traps j s tMESH x))) ∧
      (o % 8 = 0 → o < 0x40000 → (s.mine.core k).hit o 8 = .plain → (s.mine.core k).run = .sealed → inTime tREMOTEERROR))) ∧
  (∀ (s : State) (a v c : Reg), let t := s.me.s a.toNat
    (t ≤ s.cyc → Does (.sleep a) s nothing nothing fun _ => True) ∧ (s.cyc < t → Waits (.sleep a) s (.time t)) ∧
    (t.toNat < 256 → s.me.flags.getLsbD t.toNat = (v == 1) → Does (.fwait a v c) s nothing nothing fun _ => True) ∧
    (t.toNat < 256 → s.me.flags.getLsbD t.toNat ≠ (v == 1) → Waits (.fwait a v c) s (.flag t.toNat (v == 1))) ∧
    (256 ≤ t.toNat → Traps (.fwait a v c) s tLOCALBOUNDS t))

/-- `yield` completes (R126): it does nothing but where an entry of at least its own priority is ready; there a core task gives way: it parks
behind the instruction, with its header saved, and is ready again at its own priority, behind the others of its level; with 64 entries
ready it becomes ready as soon as there is room (R199; log entry 25). -/
def Obligations.YieldGivesWay : Prop :=
  ∀ s : State,
    ((∀ a, s.me.act = some a → a.cluster = true ∨ s.me.tm = true ∨ ∀ e ∈ s.me.ready, e.level < a.prio) →
      Does .yield s nothing nothing fun _ => True) ∧
    (∀ a e, s.me.solo a → s.me.inRep = false → e ∈ s.me.ready → a.prio ≤ e.level → Passes s .yield →
      Answers (exec .yield s) fun t => OnlyMine s t ∧ t.me.run = s.me.resting ∧ t.me.act = none ∧
        (if s.me.ready.length < 64 then t.me.parked = s.me.parked ∧
          t.me.ready = s.me.ready ++ [⟨a.cls, a.prio, some { a with frame := s.me.wp }, a.slot, none, 0, s.cyc, s.cyc⟩]
        else t.me.ready = s.me.ready ∧ t.me.parked = s.me.parked ++ [⟨{ a with frame := s.me.wp }, .time 0⟩]) ∧
        t.me.store.words s.me.wp 5 = [s.me.pc + 4, s.me.stat, s.me.cr_ Cr.fpc, s.me.cr_ Cr.wsize, s.me.cr_ Cr.repstate] ∧
        ∀ x, ¬ span s.me.wp 40 x → t.me.store.get x = s.me.store.get x)

/-- `bpers` (R128): what it refuses, when it answers at once, and that it else begins the conversion, which gives the new count. A view into
an ARRAY takes 8 bytes for each element when the elements differ in size, which is log entry 31's reading. `bgroup` (R130, R232): 2, 4 or
8 aligned banks become one structure; what it refuses, when it answers at once, and that it else begins the change, with all entries in
the order of the banks. The count that FULL gives for banks that are no group yet is that of the first bank, the model's choice (log entry
43), and that ARRAY merges such banks into one image is its reading (log entry 31). `bspread` (R131, R233): with a definition block that
keeps the limits and names the core, the bank becomes a shard, or leaves as an ARRAY, with the descriptor in its `SPREAD` register and the
shard index in S(D). That FULL writes the count that R131 gives is the model's reading (log entry 31). The end of a change of banks: they
answer under their new state, and the instruction completes with the result that it had found (R229, R230). -/
def Obligations.BankChanges : Prop :=
  (∀ (s : State) (d a b : Reg), let w := s.me.s a.toNat; let p := s.me.s b.toNat; let n := w.toNat; let i := Instr.bpers d a b
    let count (c : Core) : Word := BitVec.ofNat 64 (c.bank (c.bank n).first).count
    (16 ≤ n → Traps i s tBANKPORT w) ∧ (n < 16 → persOk p = false → Traps i s tBANKPORT p) ∧
    (n < 16 → persOk p = true → s.Busy n → Traps i s tBANKBUSY (BitVec.ofNat 64 (n * 0x4000))) ∧
    (n < 16 → persOk p = true → ¬ s.Busy n →
      (s.Fixed n ∨ (s.me.bank n).shard = true → GivesBr i s d (count s.me) 2) ∧
      (¬ s.Fixed n → (s.me.bank n).shard = false →
        ((s.me.bank n).pers = p.truncate 32 → GivesBr i s d (count s.me) 0) ∧
        ((s.me.bank n).pers ≠ p.truncate 32 →
          (s.me.convertAt n 0 (p.truncate 32) = none → GivesBr i s d (count s.me) 2) ∧
          ∀ c, s.me.convertAt n 0 (p.truncate 32) = some c → Changes i s d (count c) 0 [n] c)))) ∧
  (∀ (s : State) (d a b n : Reg), let w := s.me.s a.toNat; let p := s.me.s b.toNat; let f := w.toNat; let g := n.toNat
    let i := Instr.bgroup d a b n; let ms := (List.range (2 ^ g)).map fun k => f + k
    let count (c : Core) : Word := BitVec.ofNat 64 (c.bank (c.bank f).first).count
    let same := (s.me.bank f).first = f ∧ (s.me.bank f).gsize = g
    let free := ∀ m ∈ ms, pinnedBank s m = false ∧ m ≠ 15 ∧ (s.me.bank m).shard = false ∧ (same ∨ (s.me.bank m).gsize = 0)
    (16 ≤ f ∨ f % 2 ^ g ≠ 0 → Traps i s tBANKPORT w) ∧
    (f < 16 → f % 2 ^ g = 0 → persOk p = false → Traps i s tBANKPORT p) ∧
    (f < 16 → f % 2 ^ g = 0 → persOk p = true → ∀ k < 2 ^ g, s.Busy (f + k) → (∀ j < k, ¬ s.Busy (f + j)) →
      Traps i s tBANKBUSY (BitVec.ofNat 64 ((f + k) * 0x4000))) ∧
    (f < 16 → f % 2 ^ g = 0 → persOk p = true → (∀ m ∈ ms, ¬ s.Busy m) →
      (¬ free → GivesBr i s d (count s.me) 2) ∧
      (free → same → (s.me.bank f).pers = p.truncate 32 → GivesBr i s d (count s.me) 0) ∧
      (free → ¬ (same ∧ (s.me.bank f).pers = p.truncate 32) →
        let r := if same then s.me.convertAt f g (p.truncate 32)
          else (s.me.views (p.truncate 32) ms).bind fun l => s.me.build f g (p.truncate 32) l
        (r = none → GivesBr i s d (count s.me) 2) ∧ ∀ c, r = some c → Changes i s d (count c) 0 ms c))) ∧
  (∀ (s : State) (d a n : Reg), let w := s.me.s a.toNat; let i := Instr.bspread d a n; let ws := s.me.store.words w.toNat 4
    let place := w.toNat < 0x40000 ∧ w.toNat % 32 = 0 ∧ s.me.arrayRange w.toNat 32 = true
    let p : W32 := (ws.getD 0 0).truncate 32; let b := bits (ws.getD 0 0) 32 4; let leave := kindOf p = 0
    let count : Word := BitVec.ofNat 64 (s.me.bank (s.me.bank b).first).count
    (¬ place → Traps i s tBANKPORT w) ∧
    (place → spreadIndex ws s.mine.vc s.cur.core = none → Traps i s tBANKPORT w) ∧
    ∀ k, place → spreadIndex ws s.mine.vc s.cur.core = some k →
      (s.Busy b → Traps i s tBANKBUSY (BitVec.ofNat 64 (b * 0x4000))) ∧
      (¬ s.Busy b → (s.Fixed b ∨ ((s.me.bank b).shard = true ∧ ¬ leave) → GivesBr i s d count 2) ∧
        (¬ s.Fixed b → ((s.me.bank b).shard = false ∨ leave) →
          let r := if (s.me.bank b).pers = p then some s.me else s.me.convertAt b 0 p
          (r = none → GivesBr i s d count 2) ∧
          ∀ c, r = some c → Changes i s d (BitVec.ofNat 64 k) 0 [b]
            ((c.setBank b { c.bank b with shard := !decide leave }).setCr (Cr.spread0 + n.toNat) (if leave then 0 else spreadWord ws))))) ∧
  (∀ (s : State) (r : CoreRef) (d : Reg) (v : Word) (br : Nat), (s.core r).conv = some (d, v, br) → br < 4 →
    let s0 : State := { s with cur := r }
    Answers (exec (.bankConversionEnd r) s) fun t => t.cur = s.cur ∧ OnlyMine s0 { t with cur := r } ∧ (t.core r).conv = none ∧
      (∀ b < 16, (t.core r).bank b = { (s.core r).bank b with converting := false }) ∧ (t.core r).br = br ∧
      (t.core r).s d.toNat = (if d = 0 then 0 else v) ∧ ((s.core r).inRep = false → (t.core r).pc = (s.core r).pc + 4) ∧
      ∀ x, ¬ (s.core r).sBytes d x → (t.core r).store.get x = (s.core r).store.get x)

/-- `bquery` reads the state of a bank (R129, Table 7 of spec/06). `bkeep` (R132): a keep set and its successor class, or none, for a class;
nothing else changes. `bclear` (R133): the banks that it may clear are emptied, ARRAY banks to zero, and answer as converting until its
end; S(D) names them, and BR says whether they were all. A conversion of one bank keeps the entries in the order of the source's view
(R227, R228): a QUEUE read head to tail, a STACK bottom to top, an ARRAY image from its count at the window's start; a MAP keeps the last
value of a key, a PQ sorts by priority and keeps the order of equal ones, and an image of words holds them behind a header of 64 bytes
with zeros around. -/
def Obligations.BankRecords : Prop :=
  (∀ (s : State) (d a : Reg), let w := s.me.s a.toNat; let n := w.toNat; let b := s.me.bank n
    (16 ≤ n → Traps (.bquery d a) s tBANKPORT w) ∧
    (n < 16 → b.first < 16 → b.gsize < 4 → ∃ v, Writes (.bquery d a) s d v ∧ bits v 0 32 = b.pers.toNat ∧ bits v 34 2 = b.gsize ∧
      bits v 36 4 = b.first ∧ (bit v 40 = true ↔ ∃ k m x, (k, m, x) ∈ s.me.keeps ∧ m.getLsbD n = true) ∧
      bit v 41 = pinnedBank s n ∧ (bit v 42 = true ↔ s.Busy n) ∧ bit v 43 = decide (n = 15) ∧ bit v 44 = decide (s.me.recq = n) ∧
      bit v 45 = b.shard ∧ bits v 48 16 = (s.me.bank b.first).count % 65536)) ∧
  (∀ (s : State) (a b k : Reg), let m := s.me.s a.toNat; let x := s.me.s b.toNat; let i := Instr.bkeep a b k
    (2 ^ 16 ≤ m.toNat → Traps i s tBANKPORT m) ∧ (m.toNat < 2 ^ 16 → 16 ≤ x.toNat → Traps i s tBANKPORT x) ∧
    (m.toNat < 2 ^ 16 → x.toNat < 16 → ∃ l, Leaves i s (s.upd fun c => { c with keeps := l }) nothing nothing (fun _ => True) ∧
      afind l k.toNat = (if m = 0 then none else some (m.truncate 16, x.toNat)) ∧ ∀ j, j ≠ k.toNat → afind l j = afind s.me.keeps j)) ∧
  (∀ (s : State) (d a : Reg), let m := s.me.s a.toNat; let i := Instr.bclear d a
    let held (b : Nat) : Prop := if kindOf (s.me.bank b).pers = 0 then pinnedBank s b = true
      else s.mine.clearHeld s.cur.core (s.me.bank b).first = true
    (2 ^ 16 ≤ m.toNat → Traps i s tBANKPORT m) ∧
    (m.toNat < 2 ^ 16 → ∀ k < 16, bit m k = true → s.Busy k → (∀ j < k, bit m j = true → ¬ s.Busy j) →
      Traps i s tBANKBUSY (BitVec.ofNat 64 (k * 0x4000))) ∧
    (m.toNat < 2 ^ 16 → (∀ k < 16, bit m k = true → ¬ s.Busy k) →
      ((∀ k < 16, bit m k = true → held k) → GivesBr i s d 0 (if m = 0 then 0 else 2)) ∧
      ((∃ k < 16, bit m k = true ∧ ¬ held k) → (∀ k < 16, bit m k = true → (s.me.bank k).first = k ∧ (s.me.bank k).gsize = 0) →
        Passes s i → Answers (exec i s) fun t => OnlyMine s t ∧ t.me.pc = s.me.pc ∧ t.me.cr = s.me.cr ∧
          (∃ v br, t.me.conv = some (d, v, br) ∧ (∀ k < 16, bit v k = true ↔ bit m k = true ∧ ¬ held k) ∧
            (br = 0 ↔ ∀ k < 16, bit m k = true → ¬ held k)) ∧
          ∀ k < 16, if bit m k = true ∧ ¬ held k then t.me.bank k = { (if kindOf (s.me.bank k).pers = 0 then s.me.bank k
                else (s.me.bank k).emptied) with converting := true } ∧
              (kindOf (s.me.bank k).pers = 0 → ∀ x, span (k * 0x4000) 0x4000 x → t.me.store.get x = 0)
            else t.me.bank k = s.me.bank k ∧ ∀ x, span (k * 0x4000) 0x4000 x → t.me.store.get x = s.me.store.get x))) ∧
  (∀ (c : Core) (f : Nat) (b : Bank) (q8 s8 : W32), f < 16 → c.bank f = b → b.gsize = 0 → b.first = f → q8 = 0x80001 → s8 = 0x80002 →
    (b.pers = q8 → b.items.length ≤ 2040 →
      (∃ d, c.convertAt f 0 s8 = some d ∧ (d.bank f).items = b.items.reverse ∧ (d.bank f).pers = s8 ∧ d.store = c.store) ∧
      (∃ d, c.convertAt f 0 0 = some d ∧ (d.bank f).pers = 0 ∧ d.store.read8 (f * 0x4000) = BitVec.ofNat 64 b.items.length ∧
        (∀ k < b.items.length, d.store.read8 (f * 0x4000 + 0x40 + 8 * k) = b.items.getD k 0) ∧
        (∀ a, span (f * 0x4000) 0x4000 a → f * 0x4000 + 8 ≤ a → a < f * 0x4000 + 0x40 ∨ f * 0x4000 + 0x40 + 8 * b.items.length ≤ a →
          d.store.get a = 0) ∧ ∀ a, ¬ span (f * 0x4000) 0x4000 a → d.store.get a = c.store.get a) ∧
      (∃ d, c.convertAt f 0 4 = some d ∧ ((d.bank f).items.Pairwise fun x y => keyOf x ≤ keyOf y) ∧
        ∀ k, (d.bank f).items.filter (fun e => keyOf e = k) = b.items.filter fun e => keyOf e = k)) ∧
    (b.pers = 0 → let n := (c.store.read8 (f * 0x4000)).toNat
      (2040 < n → c.convertAt f 0 q8 = none) ∧
      (n ≤ 2040 → ∃ d, c.convertAt f 0 q8 = some d ∧ d.store = c.store ∧
        (d.bank f).items = (List.range n).map fun k => c.store.read8 (f * 0x4000 + 0x40 + 8 * k))))

/-- The lane-wise integer operations on 32-, 16- and 8-bit elements (R136): each element of an active lane, modulo its width. `vsel` writes
every lane (R136); the compares write a mask with 0 in the inactive lanes (R134, R136). The reductions over the active lanes (R144): the
integer sum, least and greatest, sign-extended, with the operation's neutral value for an inactive lane; the f32 sum and extremes pair the
lanes as the fixed tree of R44 does, level by level, with the union of the flags of every step; the extremes set flags and raise no FP. A
result that a shadow unit disputes raises SHADOW (R134). -/
def Obligations.VectorIntegers : Prop :=
  (∀ (s : State) (d a b : Reg) (m : BitVec 3) (t : BitVec 2), let n (w x : Nat) : Int := elemInt w x
    WritesElems (.vadd d a b m t) s t d a b m (fun _ x y _ => x + y) ∧ WritesElems (.vsub d a b m t) s t d a b m (fun _ x y _ => x - y) ∧
    WritesElems (.vmul d a b m t) s t d a b m (fun _ x y _ => x * y) ∧ WritesElems (.vmadd d a b m t) s t d a b m (fun _ x y z => x * y + z) ∧
    WritesElems (.vmin d a b m t) s t d a b m (fun w x y _ => min (n w x) (n w y)) ∧
    WritesElems (.vmax d a b m t) s t d a b m (fun w x y _ => max (n w x) (n w y)) ∧
    WritesElems (.vand d a b m t) s t d a b m (fun _ x y _ => (x &&& y : Nat)) ∧
    WritesElems (.vor d a b m t) s t d a b m (fun _ x y _ => (x ||| y : Nat)) ∧
    WritesElems (.vxor d a b m t) s t d a b m (fun _ x y _ => (x ^^^ y : Nat)) ∧
    WritesElems (.vshl d a b m t) s t d a b m (fun w x y _ => x * 2 ^ (y % w)) ∧
    WritesElems (.vshr d a b m t) s t d a b m (fun w x y _ => x / 2 ^ (y % w)) ∧
    WritesElems (.vsra d a b m t) s t d a b m (fun w x y _ => n w x / 2 ^ (y % w)) ∧
    WritesElems (.vaddsat d a b m t) s t d a b m (fun w x y _ => max (-(2 ^ (w - 1))) (min (n w x + n w y) (2 ^ (w - 1) - 1)))) ∧
  (∀ (s : State) (d a b : Reg) (m : BitVec 3) (t : BitVec 2), let x (l : Nat) : W32 := s.me.v a.toNat l; let y (l : Nat) : W32 := s.me.v b.toNat l
    let compares (i : Instr) (f : W32 → W32 → Prop) : Prop := Does i s (s.me.mBytes d) nothing fun u =>
      ∀ l < 16, (u.me.m d.toNat).getLsbD l = true ↔ s.me.inUse m l ∧ f (x l) (y l)
    (Does (.vsel d a b m t) s (s.me.vBytes d) nothing fun u =>
      ∀ l < 16, (s.me.inUse m l → u.me.v d.toNat l = x l) ∧ (¬ s.me.inUse m l → u.me.v d.toNat l = y l)) ∧
    compares (.vceq d a b m) (fun x y => x = y) ∧ compares (.vclt d a b m) (fun x y => x.toInt < y.toInt) ∧
    compares (.vcle d a b m) fun x y => x.toInt ≤ y.toInt) ∧
  (∀ (s : State) (d a : Reg) (m : BitVec 3), let x (idle : W32) (l : Nat) : W32 := if s.me.active m.toNat l then s.me.v a.toNat l else idle
    let c := s.me
    let tree (op : Nat → Nat → Nat × Nat) (idle : W32) : Nat × Nat :=
      let up (v : Nat → Nat × Nat) (l : Nat) : Nat × Nat :=
        let r := op (v (2 * l)).1 (v (2 * l + 1)).1; (r.1, (v (2 * l)).2 ||| (v (2 * l + 1)).2 ||| r.2)
      up (up (up (up fun l => ((x idle l).toNat, 0)))) 0
    Writes (.vredaddI32 d a m) s d (((List.range 16).foldl (fun n l => n + x 0 l) 0).signExtend 64) ∧
    (∃ v : W32, Writes (.vredmin d a m 0) s d (v.signExtend 64) ∧ (∃ l < 16, v = x 0x7FFFFFFF l) ∧ ∀ l < 16, v.toInt ≤ (x 0x7FFFFFFF l).toInt) ∧
    (∃ v : W32, Writes (.vredmax d a m 0) s d (v.signExtend 64) ∧ (∃ l < 16, v = x 0x80000000 l) ∧ ∀ l < 16, (x 0x80000000 l).toInt ≤ v.toInt) ∧
    (let r := tree (fpOp2 f32 c (f32.add c.rm c.ftz)) 0x80000000; FloatsS (.vredaddF32 d a m) s d (BitVec.ofNat 64 r.1, r.2) (some (c.lanes m.toNat)) (f32.diverges r.1)) ∧
    ∀ k, let r := tree (fpOp2 f32 c (f32.minmax k)) (if k then 0xFF800000 else 0x7F800000)
      let i := if k then Instr.vredmax d a m 1 else .vredmin d a m 1; let hit := s.disputed (some (c.lanes m.toNat)) (f32.diverges r.1)
      (hit = none → Does i s (s.me.sBytes d) onlyFpc fun t =>
        t.me.cr_ Cr.fpc = s.me.cr_ Cr.fpc ||| BitVec.ofNat 64 (r.2 * 16) ∧ t.me.s d.toNat = if d = 0 then 0 else BitVec.ofNat 64 r.1) ∧
      ∀ n, hit = some n → Traps i s tSHADOW (BitVec.ofNat 64 n))

/-- Moves between registers and lanes (R143). Operations on mask registers (R143). -/
def Obligations.VectorMovesAndMasks : Prop :=
  (∀ (s : State) (d a b : Reg) (m : BitVec 3) (n : Reg), let x := s.me.s a.toNat; let k := (s.me.s b.toNat).toInt
    WritesV (.vbcast d a m) s d m (fun _ => x.truncate 32) ∧
    Writes (.vext d a n) s d ((s.me.v a.toNat n.toNat).zeroExtend 64) ∧
    (Does (.vins d a n) s (s.me.vBytes d) nothing fun t =>
      ∀ l < 16, t.me.v d.toNat l = if l = n.toNat then x.truncate 32 else s.me.v d.toNat l) ∧
    WritesV (.vperm d a b m) s d m (fun l => s.me.v a.toNat ((s.me.v b.toNat l).toNat % 16)) ∧
    WritesV (.vslide d a b m) s d m (fun l => if 0 ≤ (l : Int) + k ∧ (l : Int) + k < 16 then s.me.v a.toNat (l + k).toNat else 0) ∧
    WritesV (.vlane d m) s d m fun l => BitVec.ofNat 32 l) ∧
  (∀ (s : State) (d a b : Reg), let x := s.me.m a.toNat; let y := s.me.m b.toNat
    WritesM (.vmand d a b) s d (x &&& y) ∧ WritesM (.vmor d a b) s d (x ||| y) ∧ WritesM (.vmxor d a b) s d (x ^^^ y) ∧
    WritesM (.vmnot d a) s d (~~~x) ∧ WritesM (.vmset d a) s d ((s.me.s a.toNat).truncate 16) ∧
    Writes (.vmget d a) s d (x.zeroExtend 64) ∧ Writes (.vmpop d a) s d (BitVec.ofNat 64 ((List.range 16).countP x.getLsbD)))

/-- The scalar floating-point operations in both formats: the result and the flags of the one rounding in the mode of `FPC`, under its flush
mode; `feq`, `flt` and `fle` give 1 or 0; signs of numbers and classes raise no flag (R135; that `fabs` and `fneg` of a signalling NaN
give NV is log entry 30's reading). An enabled flag raises FP, and a disputed result SHADOW. The vector floating-point operations: each
active lane holds one f32 element or two bf16 elements, and the flags of all of them are raised together; `vfabs` and `vfneg` flush a
subnormal under FTZ as the other operations do, to a zero with UF (R27, R134, R137). That they raise NV for a signalling NaN is the
model's reading (log entry 30). -/
def Obligations.FloatingPoint : Prop :=
  (∀ (s : State) (d a b c : Reg) (t : BitVec 1), let f := fmtOf t; let k := s.me
    let x := (k.s a.toNat).toNat % 2 ^ f.width; let y := (k.s b.toNat).toNat % 2 ^ f.width; let z := (k.s c.toNat).toNat % 2 ^ f.width
    let two (i : Instr) (op : Fp → Fp → Nat × Nat) : Prop := FloatsTo f i s d (fpOp2 f k op x y)
    let cmp (i : Instr) (n : Nat) : Prop := let r := fpOp2 f k (fun a b => ((fpCompare n a b).1.toNat, (fpCompare n a b).2)) x y
      FloatsS i s d (BitVec.ofNat 64 r.1, r.2) none otherDiverges
    two (.fadd d a b t) (f.add k.rm k.ftz) ∧ two (.fsub d a b t) (fun a b => f.add k.rm k.ftz a b.negate) ∧
    two (.fmul d a b t) (f.mul k.rm k.ftz) ∧ two (.fdiv d a b t) (f.div k.rm k.ftz) ∧ two (.fmin d a b t) (f.minmax false) ∧
    two (.fmax d a b t) (f.minmax true) ∧ FloatsTo f (.fma d a b c t) s d (fpOp3 f k (f.fma k.rm k.ftz) x y z) ∧
    FloatsTo f (.fsqrt d a t) s d (fpOp1 f k (f.sqrt k.rm k.ftz) x) ∧ cmp (.feq d a b t) 0 ∧ cmp (.flt d a b t) 1 ∧ cmp (.fle d a b t) 2 ∧
    FloatsTo f (.fabs d a t) s d (f.signOp false x) ∧ FloatsTo f (.fneg d a t) s d (f.signOp true x) ∧
    FloatsS (.fclass d a t) s d (f.classWord x, 0) none otherDiverges) ∧
  (∀ (s : State) (d a b : Reg) (m : BitVec 3) (t : BitVec 1), let k := s.me
    let x (l : Nat) : Nat := (k.v a.toNat l).toNat; let y (l : Nat) : Nat := (k.v b.toNat l).toNat; let z (l : Nat) : Nat := (k.v d.toNat l).toNat
    let lane (op : Fmt → Nat → Nat → Nat → Nat × Nat) (l : Nat) : W32 × Nat :=
      if t = 0 then (let r := op f32 (x l) (y l) (z l); (BitVec.ofNat 32 r.1, r.2))
      else (let p := op bf16 (x l % 65536) (y l % 65536) (z l % 65536); let q := op bf16 (x l / 65536) (y l / 65536) (z l / 65536)
        (BitVec.ofNat 32 (p.1 % 65536 + q.1 * 65536), p.2 ||| q.2))
    let two (op : Fmt → Fp → Fp → Nat × Nat) : Nat → W32 × Nat := lane fun f x y _ => fpOp2 f k (op f) x y
    let one (op : Fmt → Fp → Nat × Nat) : Nat → W32 × Nat := lane fun f x _ _ => fpOp1 f k (op f) x
    let cmp (n l : Nat) : Bool × Nat :=
      let r := fpOp2 f32 k (fun a b => ((fpCompare n a b).1.toNat, (fpCompare n a b).2)) (x l) (y l); (r.1 == 1, r.2)
    FloatsV (.vfadd d a b m t) s d m (laneDiverges t) (two fun f => f.add k.rm k.ftz) ∧
    FloatsV (.vfsub d a b m t) s d m (laneDiverges t) (two fun f a b => f.add k.rm k.ftz a b.negate) ∧
    FloatsV (.vfmul d a b m t) s d m (laneDiverges t) (two fun f => f.mul k.rm k.ftz) ∧ FloatsV (.vfdiv d a b m t) s d m (laneDiverges t) (two fun f => f.div k.rm k.ftz) ∧
    FloatsV (.vfmin d a b m t) s d m (laneDiverges t) (two fun f => f.minmax false) ∧ FloatsV (.vfmax d a b m t) s d m (laneDiverges t) (two fun f => f.minmax true) ∧
    FloatsV (.vfma d a b m t) s d m (laneDiverges t) (lane fun f => fpOp3 f k (f.fma k.rm k.ftz)) ∧
    FloatsV (.vfsqrt d a m t) s d m (laneDiverges t) (one fun f => f.sqrt k.rm k.ftz) ∧
    FloatsV (.vfrcp d a m t) s d m (laneDiverges t) (one fun f => f.div k.rm k.ftz (.fin false 1 0)) ∧
    FloatsV (.vfexp2 d a m t) s d m (laneDiverges t) (one fun f => f.exp2 k.rm k.ftz) ∧ FloatsV (.vflog2 d a m t) s d m (laneDiverges t) (one fun f => f.log2 k.rm k.ftz) ∧
    FloatsV (.vfabs d a m t) s d m (laneDiverges t) (lane fun f x _ _ => f.signFlushed k.ftz false x) ∧
    FloatsV (.vfneg d a m t) s d m (laneDiverges t) (lane fun f x _ _ => f.signFlushed k.ftz true x) ∧
    (∀ f ∈ [f32, bf16], ∀ (v n : Bool) (u : Nat), u < f.signBit → (k.ftz = false ∨ f.isSub u = false → f.signFlushed k.ftz v (f.signed n u) = f.signOp v (f.signed n u)) ∧
      (f.isSub u = true → f.signFlushed true v (f.signed n u) = (f.signed (v && !n) 0, 8))) ∧
    FloatsM (.vfceq d a b m) s d m (cmp 0) ∧ FloatsM (.vfclt d a b m) s d m (cmp 1) ∧ FloatsM (.vfcle d a b m) s d m (cmp 2))

/-- One rounding (R27, R41): of a positive value m·2^e, in units of both it and the least subnormal, the result is the neighbour that the mode
names: toward zero or down the greatest not above it, up the least not below it, to nearest the nearest, an even one at a tie; infinity
stands for what lies beyond; NX says whether it is inexact. A negative value mirrors its positive one, with up and down exchanged. Finite
results (R41, R135, R137): the sum, the product and the fused value are the format's one rounding of the exact value; a quotient and a
root are that of every approximation to K more bits from below, the last bit set where it is not exact. An exact zero takes the sign of
both operands, or −0 toward −∞ and +0 else. `vfexp2` of an integer is exact before its rounding; of other operands of `vfexp2` and
`vflog2` nothing is claimed beyond the functions named above (log entry 10). Operands that are not finite, and results without a rounding
(R41, R135): a NaN gives the canonical NaN, with NV where one signals; ∞ − ∞, 0 × ∞, 0 ÷ 0, ∞ ÷ ∞ and the root of a negative number give
NV; a finite number over 0 gives DZ. -/
def Obligations.Rounding : Prop :=
  (∀ f ∈ [f32, f64, bf16], ∀ (rm m : Nat) (e : Int), rm < 4 → 0 < m →
    let u := f.emin - f.mb; let r := f.round rm false false m e false; let b := r.1; let X := m * 2 ^ (e - u).toNat
    let V (p : Nat) : Nat := f.mag p * 2 ^ (u - e).toNat; let far (p : Nat) : Nat := ((V p : Int) - X).natAbs
    b ≤ f.infBits ∧
    ((rm = 1 ∨ rm = 3) → b < f.infBits ∧ V b ≤ X ∧ (b + 1 < f.infBits → X < V (b + 1))) ∧
    (rm = 2 → (b < f.infBits → X ≤ V b) ∧ (0 < b → V (b - 1) < X)) ∧
    (rm = 0 → b < f.infBits → ∀ p < f.infBits, far b ≤ far p ∧ (far p = far b → p ≠ b → b % 2 = 0)) ∧
    (rm = 0 → (b = f.infBits ↔ V (f.infBits - 1) + V f.infBits ≤ 2 * X)) ∧
    (r.2 / 16 % 2 = 1 ↔ b = f.infBits ∨ V b ≠ X) ∧
    ∀ rn, rn = (if rm = 2 then 3 else if rm = 3 then 2 else rm) → f.round rn false true m e false = (f.signBit + b, r.2)) ∧
  (∀ f ∈ [f32, f64, bf16], ∀ (rm : Nat) (ftz n1 n2 n3 : Bool) (m1 m2 m3 K : Nat) (e1 e2 e3 : Int),
    let a : Fp := .fin n1 m1 e1; let b : Fp := .fin n2 m2 e2; let c : Fp := .fin n3 m3 e3; let sg := n1 != n2
    let sum (x y : Bool) (p q : Nat) (g h : Int) : Nat × Nat := let lo := min g h; let t := scaled x p g lo + scaled y q h lo
      if t = 0 then (f.signed (if p = 0 ∧ x = y then x else rm == 3) 0, 0) else f.round rm ftz (decide (t < 0)) t.natAbs lo false
    f.add rm ftz a b = sum n1 n2 m1 m2 e1 e2 ∧
    f.fma rm ftz a b c = sum sg n3 (m1 * m2) m3 (e1 + e2) e3 ∧
    f.mul rm ftz a b = (if m1 * m2 = 0 then (f.signed sg 0, 0) else f.round rm ftz sg (m1 * m2) (e1 + e2) false) ∧
    (0 < m2 → m1 = 0 → f.div rm ftz a b = (f.signed sg 0, 0)) ∧
    (0 < m1 → 0 < m2 → f.mb + 4 + Nat.log2 m2 ≤ K → let n := m1 * 2 ^ K
      f.div rm ftz a b = f.round rm ftz sg (2 * (n / m2) + (if n % m2 = 0 then 0 else 1)) (e1 - e2 - K - 1) false) ∧
    (0 < m1 → f.mb + 4 ≤ K → ∀ n r : Nat, n = m1 * 2 ^ (2 * K + (e1 % 2).toNat) → r * r ≤ n → n < (r + 1) * (r + 1) →
      f.sqrt rm ftz (.fin false m1 e1) = f.round rm ftz false (2 * r + (if r * r = n then 0 else 1)) (e1 / 2 - K - 1) false) ∧
    (m1 < 4096 → f.exp2 rm ftz (.fin n1 m1 0) = f.round rm ftz false 1 (if n1 then -(m1 : Int) else m1) false)) ∧
  (∀ (f : Fmt) (rm : Nat) (ftz : Bool) (a : Fp) (n p : Bool) (m : Nat) (e : Int), let x : Fp := .fin p m e
    (a.isNan = true → let r := (f.nan, a.snan)
      f.add rm ftz a x = r ∧ f.add rm ftz x a = r ∧ f.mul rm ftz a x = r ∧ f.mul rm ftz x a = r ∧ f.div rm ftz a x = r ∧
      f.div rm ftz x a = r ∧ f.fma rm ftz a x x = r ∧ f.fma rm ftz x a x = r ∧ f.fma rm ftz x x a = r ∧ f.sqrt rm ftz a = r ∧
      (f.minmax n a x).1 = f.bits x ∧ (f.minmax n x a).1 = f.bits x ∧ fpCompare 0 a x = (false, a.snan) ∧ fpCompare 1 a x = (false, 1) ∧
      fpCompare 2 x a = (false, 1)) ∧
    f.add rm ftz (.inf n) (.inf p) = (if n = p then (f.signed n f.infBits, 0) else (f.nan, 1)) ∧
    f.add rm ftz (.inf n) x = (f.signed n f.infBits, 0) ∧
    f.mul rm ftz (.inf n) x = (if m = 0 then (f.nan, 1) else (f.signed (n != p) f.infBits, 0)) ∧
    f.div rm ftz (.inf n) (.inf p) = (f.nan, 1) ∧ f.div rm ftz x (.inf n) = (f.signed (p != n) 0, 0) ∧
    f.div rm ftz x (.fin n 0 e) = (if m = 0 then (f.nan, 1) else (f.signed (p != n) f.infBits, 2)) ∧
    f.sqrt rm ftz x = (if m = 0 then (f.signed p 0, 0) else if p then (f.nan, 1) else f.sqrt rm ftz (.fin false m e)) ∧
    f.fma rm ftz (.inf n) (.fin p 0 e) a = (f.nan, a.snan ||| 1) ∧
    f.add rm ftz (.fin n 0 e) (.fin p 0 e) = (f.signed (if n = p then n else rm == 3) 0, 0) ∧
    (0 < m → f.add rm ftz x x.negate = (f.signed (rm == 3) 0, 0)))

/-- The conversions between formats and integers (R145, R146): the rounding of the exact value, in the scalar forms and lane by lane. A signed
32-bit integer from a number (R145): the number rounded in the mode, within the range; beyond it, and for a NaN, the nearest end or 0,
with NV. -/
def Obligations.FormatConversions : Prop :=
  (∀ (s : State) (d a b h : Reg) (m : BitVec 3), let k := s.me
    let lane (r : Nat × Nat) : W32 × Nat := (BitVec.ofNat 32 r.1, r.2)
    let ofInt (x : W32) : Nat × Nat := f32.round k.rm k.ftz (decide (x.toInt < 0)) x.toInt.natAbs 0 false
    let toInt (x : Nat) : W32 × Nat := let o := f32.operand k.ftz x; let r := toI32 k.rm o.1; (r.1, r.2 ||| o.2)
    let x := k.s a.toNat; let y := (toInt (x.toNat % 2 ^ 32))
    FloatsTo f32 (.cvtF32I32 d a 0 0) s d (ofInt (x.truncate 32)) ∧
    FloatsV (.cvtF32I32 d a m 1) s d m (laneDiverges 0) (fun l => lane (ofInt (k.v a.toNat l))) ∧
    FloatsS (.cvtI32F32 d a 0 0) s d (y.1.signExtend 64, y.2) none otherDiverges ∧
    FloatsV (.cvtI32F32 d a m 1) s d m (fun _ => otherDiverges) (fun l => toInt (k.v a.toNat l).toNat) ∧
    FloatsTo f64 (.cvtF64F32 d a) s d (fpOp1 f32 k (f64.convert k.rm false) (x.toNat % 2 ^ 32)) ∧
    FloatsTo f32 (.cvtF32F64 d a) s d (fpOp1 f64 k (f32.convert k.rm k.ftz) x.toNat) ∧
    FloatsV (.vcvtBf16F32 d a b m) s d m (laneDiverges 1) (fun l =>
      let p := fpOp1 f32 k (bf16.convert k.rm k.ftz) (k.v a.toNat l).toNat; let q := fpOp1 f32 k (bf16.convert k.rm k.ftz) (k.v b.toNat l).toNat
      lane (p.1 + q.1 * 65536, p.2 ||| q.2)) ∧
    FloatsV (.vcvtF32Bf16 d a h m) s d m (laneDiverges 0) (fun l =>
      lane (fpOp1 bf16 k (f32.convert 0 false) ((k.v a.toNat l).toNat / 2 ^ (16 * h.toNat) % 65536)))) ∧
  (∀ (rm m : Nat) (n : Bool) (e : Int), rm < 4 →
    let r := roundAt rm n m e 0 false; let v : Int := if n then -(r.1 : Int) else r.1; let y := toI32 rm (.fin n m e)
    (v < -2 ^ 31 → y = (0x80000000, 1)) ∧ (2 ^ 31 ≤ v → y = (0x7FFFFFFF, 1)) ∧
    (-2 ^ 31 ≤ v → v < 2 ^ 31 → y.1.toInt = v ∧ y.2 = if r.2 then 16 else 0) ∧
    (0 ≤ e → v = (if n then -(m * 2 ^ e.toNat : Nat) else (m * 2 ^ e.toNat : Nat) : Int) ∧ r.2 = false) ∧
    (e < 0 → (r.2 = true ↔ m % 2 ^ (-e).toNat ≠ 0) ∧ (r.1 = m / 2 ^ (-e).toNat ∨ (r.2 = true ∧ r.1 = m / 2 ^ (-e).toNat + 1))) ∧
    toI32 rm (.nan n) = (0, 1) ∧ toI32 rm (.inf n) = (if n then 0x80000000 else 0x7FFFFFFF, 1))

/-- `vdec` and `venc` through a table (R147, R319): each active lane decodes the entry that one byte indexes, or puts a code into one byte and
keeps the rest; saturations count at the instruction's own address; a poisoned entry raises POISON. Decoded subnormals and signalling NaNs
are as log entry 30 reads the rules. Encoding through a table that keeps the checks of R46 (R48): of a finite value within its range the
code names a finite entry nearest to it, of an even significand or else the lowest where two are as near; a value beyond takes the extreme
entry and saturates, unless `FPC`.NSAT finds an infinity. Of several infinities of one sign the lowest code is taken, the model's choice
(log entry 43). `vqmx` and `vdqmx` (R55, R148): 32 elements from two vector registers become bytes in half a register with their scale in
S(B), and back; saturations count at the instruction's own address. A code of −128 at the scale 254 gives −∞, the model's choice (log
entry 43), and the flags raised are as in log entry 30. -/
def Obligations.TableAndBlockFormats : Prop :=
  (∀ (s : State) (d a n : Reg) (m : BitVec 3) (t : BitVec 2), let k := s.me; let sh := 2 ^ (8 * n.toNat)
    let index (l : Nat) : Nat := (k.v a.toNat l).toNat / sh % 256; let entry (j : Nat) : W32 := s.mine.entry t.toNat j
    let code (l : Nat) : Nat × Bool := encodeValue ((List.range 256).map entry) k.nsat (k.v a.toNat l)
    ((∀ l ∈ k.lanes m.toNat, (t.toNat, index l) ∉ s.mine.tablePoison) →
      FloatsV (.vdec d a n m t) s d m (laneDiverges 0) fun l => decodeEntry k.ftz (entry (index l))) ∧
    (∀ l ∈ k.lanes m.toNat, (t.toNat, index l) ∈ s.mine.tablePoison → (∀ j ∈ k.lanes m.toNat, j < l → (t.toNat, index j) ∉ s.mine.tablePoison) →
      Traps (.vdec d a n m t) s tPOISON (BitVec.ofNat 64 (index l))) ∧
    (k.lanes m.toNat ≠ [] → (∃ p ∈ s.mine.tablePoison, p.1 = t.toNat) →
      ∃ j, (t.toNat, j) ∈ s.mine.tablePoison ∧ Traps (.venc d a n m t) s tPOISON (BitVec.ofNat 64 j)) ∧
    ((k.lanes m.toNat = [] ∨ ∀ p ∈ s.mine.tablePoison, p.1 ≠ t.toNat) → s.shadowHit = none →
      Leaves (.venc d a n m t) s (s.census s.cur.cl k.instrAddr ⟨0, 0, (k.lanes m.toNat).countP fun l => (code l).2, 0⟩)
        (k.vBytes d) onlyFpc fun u => u.me.cr_ Cr.fpc = k.cr_ Cr.fpc ∧ LanesAre s u d m fun l =>
          BitVec.ofNat 32 ((k.v d.toNat l).toNat - (k.v d.toNat l).toNat / sh % 256 * sh + (code l).1 * sh))) ∧
  (∀ (l : List W32) (nsat : Bool) (x : W32) (n : Bool) (m : Nat) (e : Int), l.length = 256 → tableBad l = none →
    f32.value x.toNat = .fin n m e →
    let u := scaled n m e (-149); let r := encodeValue l nsat x; let far (j : Nat) : Nat := (entryUnits (l.getD j 0) - u).natAbs
    ((∃ y ∈ l, enFinite y = true ∧ entryUnits y ≤ u) → (∃ y ∈ l, enFinite y = true ∧ u ≤ entryUnits y) → r.2 = false ∧ r.1 < 256 ∧
      enFinite (l.getD r.1 0) = true ∧ ∀ j < 256, enFinite (l.getD j 0) = true → far r.1 ≤ far j ∧
        (far j = far r.1 → (enM10 (l.getD r.1 0) % 2 = 0 ∨ enM10 (l.getD j 0) % 2 = 1) ∧
          (j < r.1 → enM10 (l.getD r.1 0) % 2 = 0 ∧ enM10 (l.getD j 0) % 2 = 1))) ∧
    ((∀ y ∈ l, enFinite y = true → entryUnits y < u) → (nsat = false ∨ ∀ y ∈ l, ¬ (enInf y = true ∧ enSign y = false)) →
      r.2 = true ∧ ∀ j < 256, enFinite (l.getD j 0) = true → entryUnits (l.getD j 0) ≤ entryUnits (l.getD r.1 0))) ∧
  (∀ (s : State) (d a b : Reg) (h : BitVec 1), let k := s.me; let q := quantise (k.vec a.toNat ++ k.vec (a.toNat + 1)); let o := 8 * h.toNat
    let sc := (k.s b.toNat).toNat % 256
    let elem (j : Nat) : W32 := dequantElem sc (BitVec.ofNat 8 ((k.v a.toNat (o + j / 4)).toNat / 2 ^ (8 * (j % 4))))
    s.shadowHit = none →
    (Leaves (.vqmx d a b h) s (s.census s.cur.cl k.instrAddr ⟨0, 0, q.2.2, 0⟩) (fun x => k.vBytes d x ∨ k.sBytes b x) onlyFpc fun t =>
      t.me.cr_ Cr.fpc = k.cr_ Cr.fpc ∧ t.me.s b.toNat = (if b = 0 then 0 else BitVec.ofNat 64 q.1) ∧
      ∀ l < 16, if o ≤ l ∧ l < o + 8 then ∀ j < 4, elemAt 8 (t.me.v d.toNat l) j = (q.2.1.getD (4 * (l - o) + j) 0).toNat
        else t.me.v d.toNat l = k.v d.toNat l) ∧
    Does (.vdqmx d a b h) s (fun x => k.vBytes d x ∨ (vAddr k (d.toNat + 1) ≤ x ∧ x < vAddr k (d.toNat + 1) + 64)) onlyFpc fun t =>
      t.me.cr_ Cr.fpc = k.cr_ Cr.fpc ∧ ∀ l < 16, t.me.v d.toNat l = elem l ∧ t.me.v (d.toNat + 1) l = elem (16 + l))

/-- Tables (R46, R149 to R151): `tblld` refuses a place outside the store, misaligned or outside ARRAY banks, a poisoned word, and a table
that breaks a check, and else replaces the table whole, as `tblpre` does with a preset; `tblrd` reads an entry. The presets (R47): each
keeps the checks of R46, and its finite entries have the values of its number format. -/
def Obligations.DecodeTables : Prop :=
  (∀ (s : State) (d a p : Reg) (t : BitVec 2), let w := s.me.s a.toNat; let i := Instr.tblld t a; let m := s.me.store
    let l := (List.range 256).map fun j => m.read4 (w.toNat + 4 * j); let place := w.toNat < 0x40000 ∧ w.toNat % 1024 = 0
    let sets (i : Instr) (e : Nat → W32) : Prop := ∃ k : Cluster,
      (∀ u < 4, ∀ j < 256, k.entry u j = if u = t.toNat then e j else s.mine.entry u j) ∧
      (∀ q, q ∈ k.tablePoison ↔ q ∈ s.mine.tablePoison ∧ q.1 ≠ t.toNat) ∧
      Leaves i s (s.updCluster s.cur.cl fun c => { c with tables := k.tables, tablePoison := k.tablePoison }) nothing nothing fun _ => True
    (0x40000 ≤ w.toNat → Traps i s tLOCALBOUNDS w) ∧ (w.toNat < 0x40000 → w.toNat % 1024 ≠ 0 → Traps i s tALIGN w) ∧
    (place → s.me.arrayRange w.toNat 1024 = false → Traps i s tBANKPORT w) ∧
    (place → s.me.arrayRange w.toNat 1024 = true →
      (∀ j < 128, m.poisoned (w.toNat + 8 * j) 8 = true → (∀ k < j, m.poisoned (w.toNat + 8 * k) 8 = false) →
        Traps i s tPOISON (w + BitVec.ofNat 64 (8 * j))) ∧
      ((∀ j < 128, m.poisoned (w.toNat + 8 * j) 8 = false) →
        (∀ n, tableBad l = some n → Traps i s tTABLE (BitVec.ofNat 64 n)) ∧ (tableBad l = none → sets i fun j => l.getD j 0))) ∧
    sets (.tblpre t p) (presetEntry p.toNat) ∧ Writes (.tblrd d a t) s d ((s.mine.entry t.toNat (w.toNat % 256)).zeroExtend 64)) ∧
  ((∀ p < 3, tableBad ((List.range 256).map (presetEntry p)) = none) ∧
  ∀ c < 256, let sg : Int := if c < 128 then 1 else -1; let x := c % 128
    (x ≠ 127 → entryUnits (presetEntry 0 c) =
      sg * ((if x < 8 then x else (8 + x % 8) * 2 ^ (x / 8 - 1) : Nat) : Int) * 2 ^ 140 ∧ enFinite (presetEntry 0 c) = true) ∧
    (x = 127 → enNan (presetEntry 0 c) = true) ∧
    (x < 124 → entryUnits (presetEntry 1 c) =
      sg * ((if x < 4 then x else (4 + x % 4) * 2 ^ (x / 4 - 1) : Nat) : Int) * 2 ^ 133 ∧ enFinite (presetEntry 1 c) = true) ∧
    (x = 124 → enInf (presetEntry 1 c) = true ∧ enSign (presetEntry 1 c) = decide (128 ≤ c)) ∧
    (124 < x → enNan (presetEntry 1 c) = true) ∧
    entryUnits (presetEntry 2 c) = (BitVec.ofNat 8 c).toInt * 2 ^ 149 ∧ enFinite (presetEntry 2 c) = true)

/-- `vld`, `vst` and `vldb` complete on plain memory of the own store (R138, R139): 64 aligned bytes lane by lane, or one word for every lane;
inactive lanes are not accessed. With no active lane each completes with no effect and nothing is checked. A poisoned word that a load
reads raises POISON with its address, and a place that is no plain memory BANK-PORT with the address of the lowest active lane (log entry
27); an address that does not exist or is not aligned raises its trap. -/
def Obligations.VectorLoadsAndStores : Prop :=
  ∀ (s : State) (d a : Reg) (m : BitVec 3), let x := s.me.s a.toNat; let o := x.toNat; let none_ := ∀ l < 16, ¬ s.me.inUse m l
    let all (p : Instr → Prop) : Prop := p (.vld d a m) ∧ p (.vst d a m) ∧ p (.vldb d a m)
    let bad (l : Nat) : Bool := s.me.store.poisoned (o + 4 * l) 4
    (none_ → all fun i => Does i s nothing nothing fun _ => True) ∧
    (¬ none_ →
      (OwnPlain s x 64 → (∀ l < 16, s.me.inUse m l → bad l = false) → WritesV (.vld d a m) s d m fun l => s.me.store.read4 (o + 4 * l)) ∧
      (OwnPlain s x 64 → ∀ l < 16, s.me.inUse m l → bad l = true → (∀ k < l, s.me.inUse m k → bad k = false) →
        Traps (.vld d a m) s tPOISON (x + BitVec.ofNat 64 (4 * l))) ∧
      (OwnPlain s x 64 → Does (.vst d a m) s (fun y => ∃ l < 16, s.me.inUse m l ∧ span (o + 4 * l) 4 y) nothing fun t =>
        ∀ l < 16, s.me.inUse m l → t.me.store.read4 (o + 4 * l) = s.me.v d.toNat l) ∧
      (OwnPlain s x 4 → bad 0 = false → WritesV (.vldb d a m) s d m fun _ => s.me.store.read4 o) ∧
      (OwnPlain s x 4 → bad 0 = true → Traps (.vldb d a m) s tPOISON x) ∧
      (∀ l < 16, s.me.inUse m l → (∀ k < l, ¬ s.me.inUse m k) → o + 64 ≤ 0x40000 → o % 64 = 0 → s.me.hit o 64 ≠ .plain →
        Traps (.vld d a m) s tBANKPORT (x + BitVec.ofNat 64 (4 * l)) ∧ Traps (.vst d a m) s tBANKPORT (x + BitVec.ofNat 64 (4 * l))) ∧
      (o + 4 ≤ 0x40000 → o % 4 = 0 → s.me.hit o 4 ≠ .plain → Traps (.vldb d a m) s tBANKPORT x) ∧
      RefusesBad (.vldb d a m) s x 4)

/-- `vldk` and `vstk` complete at the main or peek port of an own structure (R142): one operation per active lane in ascending order, each in
the structure and the store's poison marks that the one before has left; a loaded lane without OK takes 0; the mask register tells which
lanes gave OK, and BR the result of the lowest that did not. With no active lane the mask register is 0 and BR OK. A lane that a port
refuses raises BANK-PORT and one that reads a poisoned entry POISON (R318), with nothing performed; any other place raises BANK-PORT. -/
def Obligations.KeyedVectors : Prop :=
  ∀ (s : State) (d a b : Reg) (m : BitVec 3), let x := s.me.s a.toNat; let o := x.toNat
    let key (l : Nat) : Word := (s.me.v b.toNat l).zeroExtend 64; let data (l : Nat) : Word := (s.me.v d.toNat l).zeroExtend 64
    let results (t : State) (ok : Nat → Prop) (br : Nat) : Prop :=
      (∀ l < 16, (t.me.m m.toNat).getLsbD l = true ↔ s.me.inUse m l ∧ ok l) ∧ t.me.br = br ∧
        ∀ n, 2 ≤ n → (t.me.cr_ Cr.stat).getLsbD n = (s.me.cr_ Cr.stat).getLsbD n
    let both (p : Instr → Prop) : Prop := p (.vldk d a b m) ∧ p (.vstk d a b m)
    ((∀ l < 16, ¬ s.me.inUse m l) → both fun i => Does i s (s.me.mBytes (m.zeroExtend 5)) onlyStat fun t => results t (fun _ => False) 0) ∧
    ((∃ l < 16, s.me.inUse m l) → o + 4 ≤ 0x40000 → o % 4 = 0 →
      ((∀ f, s.me.hit o 4 ≠ .port f 0 ∧ s.me.hit o 4 ≠ .port f 0x10) → both fun i => Traps i s tBANKPORT x) ∧
      ∀ (f p : Nat) (B : Nat → Bank) (M : Nat → Memory) (w : Nat → Word) (br : Nat → Nat), s.me.hit o 4 = .port f p → p = 0 ∨ p = 0x10 →
        B 0 = s.me.bank f → M 0 = s.me.store → (∀ l, br l < 4) →
        let runs (g : Nat → Option (Word × Nat × Bank)) (n : Nat) : Prop := ∀ l < n,
          (s.me.inUse m l → g l = some (w l, br l, B (l + 1))) ∧ (¬ s.me.inUse m l → B (l + 1) = B l ∧ M (l + 1) = M l)
        let loads (l : Nat) := portLoad (B l) p 4 false (key l) 0
        let stores (l : Nat) := (portStore (B l) p 4 (data l) (key l) (sourceWord s s.cur) false).map fun x => ((0 : Word), x.1, x.2)
        let sound (n : Nat) : Prop := ∀ l < n, s.me.inUse m l → (M l).entryPoisoned (B l) p (key l) = false ∧ M (l + 1) = M l
        let stored (n : Nat) : Prop := ∀ l < n, s.me.inUse m l →
          M (l + 1) = if br l = 0 then (M l).entryStored (B l) p (data l) (key l) else M l
        let gives (i : Instr) (bytes : Nat → Prop) (q : State → Prop) : Prop := ∀ r,
          ((∀ l < 16, s.me.inUse m l → br l = 0) → r = 0) →
          (∀ l < 16, s.me.inUse m l → br l ≠ 0 → (∀ k < l, s.me.inUse m k → br k = 0) → r = br l) →
          Leaves i s (s.upd fun c => { c.setBank f (B 16) with store := M 16 }) (fun y => s.me.mBytes (m.zeroExtend 5) y ∨ bytes y) onlyStat
            fun t => results t (fun l => br l = 0) r ∧ q t
        (runs loads 16 → sound 16 → gives (.vldk d a b m) (s.me.vBytes d) fun t =>
          LanesAre s t d m fun l => if br l = 0 then (w l).truncate 32 else 0) ∧
        (runs stores 16 → stored 16 → gives (.vstk d a b m) nothing fun _ => True) ∧
        ∀ l < 16, s.me.inUse m l →
          (runs loads l → sound l → (loads l = none → Traps (.vldk d a b m) s tBANKPORT x) ∧
            ((loads l).isSome = true → (M l).entryPoisoned (B l) p (key l) = true → Traps (.vldk d a b m) s tPOISON x)) ∧
          (runs stores l → stored l → stores l = none → Traps (.vstk d a b m) s tBANKPORT x))

/-- `vldx` from plain memory of the own store: from lane `VPROG` on each active lane takes the word at its address; `VPROG` is 0 at the end
(R140). The words do not lie in the destination itself. `vstx` to plain memory of the own store: each active lane from `VPROG` on stores
its word, a later lane over an earlier one; `VPROG` is 0 at the end (R138, R140). `vstxadd` on plain memory of the own store (R141): the
active lanes of one address are summed in ascending order, and the sum is added to the word as one operation; the f32 form rounds and
flags its sums under `FPC`, and its add at the memory rounds to nearest without flags. An enabled condition of the sums raises FP before
any lane, and keeps its flags unless the trap is a DOUBLE (R193); a sum that its shadow unit disputes raises SHADOW where no lane would
trap (R134, R192; log entry 27). A lane that faults (R140): the active lanes below it from `VPROG` on have been performed, none from it on
has, and `VPROG` names it; here a misaligned lane of a gather or scatter whose lower lanes reach plain memory of the own store, with
nothing posted to the own store before it, which the trap would follow (R240). A DOUBLE performs nothing (R193). -/
def Obligations.GathersAndScatters : Prop :=
  (∀ (s : State) (d a b : Reg) (m : BitVec 3), let at_ (l : Nat) : Word := s.me.laneAt a b l
    (∀ l, s.me.toDo m l → OwnPlain s (at_ l) 4 ∧ s.me.store.poisoned (at_ l).toNat 4 = false ∧
      ∀ y, span (at_ l).toNat 4 y → ¬ s.me.vBytes d y) →
    Does (.vldx d a b m) s (s.me.vBytes d) onlyVprog fun t => t.me.cr_ Cr.vprog = 0 ∧
      ∀ l < 16, (s.me.toDo m l → t.me.v d.toNat l = s.me.store.read4 (at_ l).toNat) ∧
        (¬ s.me.toDo m l → t.me.v d.toNat l = s.me.v d.toNat l)) ∧
  (∀ (s : State) (d a b : Reg) (m : BitVec 3), let at_ (l : Nat) : Nat := (s.me.laneAt a b l).toNat
    (∀ l, s.me.toDo m l → OwnPlain s (s.me.laneAt a b l) 4) →
    Does (.vstx d a b m) s (fun y => ∃ l, s.me.toDo m l ∧ span (at_ l) 4 y) onlyVprog fun t => t.me.cr_ Cr.vprog = 0 ∧
      ∀ l, s.me.toDo m l → (∀ k, l < k → s.me.toDo m k → at_ k ≠ at_ l) → t.me.store.read4 (at_ l) = s.me.v d.toNat l) ∧
  (∀ (s : State) (d a b : Reg) (m : BitVec 3) (t : BitVec 1), let c := s.me; let at_ (l : Nat) : Nat := (c.laneAt a b l).toNat
    let i := Instr.vstxadd d a b m t
    let add (x y : Nat) : Nat × Nat := if t = 1 then fpOp2 f32 c (f32.add c.rm c.ftz) x y else ((x + y) % 2 ^ 32, 0)
    let sum (l : Nat) : Nat × Nat := merged add (fun k => (c.v d.toNat k).toNat) ((c.lanes m.toNat).filter fun k => c.v b.toNat k = c.v b.toNat l)
    let fl := (c.lanes m.toNat).foldl (fun f l => f ||| (sum l).2) 0
    let reaches_ : Prop := ∀ l, c.toDo m l → OwnPlain s (c.laneAt a b l) 4 ∧ c.store.poisoned (at_ l) 4 = false
    let disputed := s.disputed (some (c.lanes m.toNat)) fun x => f32.diverges (sum x.lane).1 x
    bits (c.cr_ Cr.vprog) 0 4 = 0 →
    (fl &&& c.enables ≠ 0 → Passes s i → exec i s = .next
      ((if c.cannotTrap then s else s.upd fun c => c.raise (fl &&& c.enables)).raise tFP (BitVec.ofNat 64 ((fl &&& c.enables) * 16)))) ∧
    (fl &&& c.enables = 0 → reaches_ → t = 1 → ∀ n, disputed = some n → Traps i s tSHADOW (BitVec.ofNat 64 n)) ∧
    (fl &&& c.enables = 0 → reaches_ → t = 0 ∨ disputed = none →
      ∃ r, Leaves i s (s.upd fun c => { c with reissue := r }) (fun y => ∃ l, c.toDo m l ∧ span (at_ l) 4 y)
        (fun n => n = Cr.vprog ∨ n = Cr.fpc) fun u => u.me.cr_ Cr.vprog = 0 ∧ u.me.cr_ Cr.fpc = c.cr_ Cr.fpc ||| BitVec.ofNat 64 (fl * 16) ∧
          ∀ l, c.toDo m l → u.me.store.read4 (at_ l) = if t = 1 then rneAdd32 (c.store.read4 (at_ l)) (BitVec.ofNat 32 (sum l).1)
            else c.store.read4 (at_ l) + BitVec.ofNat 32 (sum l).1)) ∧
  (∀ (s : State) (d a b : Reg) (m : BitVec 3) (k : Nat), let at_ (l : Nat) : Word := s.me.laneAt a b l
    s.me.toDo m k → (at_ k).toNat < 0x40000 → (at_ k).toNat % 4 ≠ 0 → s.selfPosted s.cur = false →
    (∀ l < k, s.me.toDo m l → OwnPlain s (at_ l) 4 ∧ s.me.store.poisoned (at_ l).toNat 4 = false ∧
      ∀ y, span (at_ l).toNat 4 y → ¬ s.me.vBytes d y) →
    let faults (i : Instr) (b : Nat → Prop) (p : State → Prop) : Prop :=
      (s.me.cannotTrap = true → Traps i s tALIGN (at_ k)) ∧
      (s.me.cannotTrap = false → Passes s i → ∃ u, exec i s = .next (u.raise tALIGN (at_ k)) ∧
        OnlyMine s u ∧ s.me.Keeps u.me b onlyVprog ∧ u.me.pc = s.me.pc ∧ (u.me.cr_ Cr.vprog).toNat = k ∧ p u)
    faults (.vldx d a b m) (s.me.vBytes d) (fun u => ∀ l < 16, (s.me.toDo m l → l < k → u.me.v d.toNat l = s.me.store.read4 (at_ l).toNat) ∧
      (¬ s.me.toDo m l ∨ k ≤ l → u.me.v d.toNat l = s.me.v d.toNat l)) ∧
    faults (.vstx d a b m) (fun y => ∃ l < k, s.me.toDo m l ∧ span (at_ l).toNat 4 y) (fun u =>
      ∀ l < k, s.me.toDo m l → (∀ j < k, l < j → s.me.toDo m j → at_ j ≠ at_ l) → u.me.store.read4 (at_ l).toNat = s.me.v d.toNat l))

/-- A matrix command joins its core's queue behind the others with the values that it reads at issue, or stalls while 16 wait (R152, R156 to
R160); an MXINT8 output without its feature is ILLEGAL (R158). `msync` waits for the whole queue and `mread` for the commands that name
its accumulator; both snapshots read half a row of an accumulator, and a poisoned element raises POISON (R160, R161). -/
def Obligations.MatrixCommands : Prop :=
  (∀ (s : State) (d p : BitVec 2) (a b c : Reg), let r (x : Reg) : Word := s.me.s x.toNat; let k := s.me
    let queues (i : Instr) (sa sb sc sc1 : Word) : Prop :=
      (k.mq.length < 16 → ∃ q : MCmd, q.instr = i ∧ q.site = k.instrAddr ∧ q.sa = sa ∧ q.sb = sb ∧ q.sc = sc ∧ q.sc1 = sc1 ∧
        q.arb = bits (k.cr_ Cr.arb) 0 4 ∧ q.nsat = bit (k.cr_ Cr.fpc) 3 ∧ q.recq = bits (k.cr_ Cr.recq) 0 4 ∧ q.stage = .queued ∧ q.began = false ∧
        Leaves i s (s.upd fun c => { c with mq := c.mq ++ [q] }) nothing nothing fun _ => True) ∧
      (16 ≤ k.mq.length → Stalls i s)
    let z := k.s (c.toNat + 1)
    queues (.mma d a b c p) (r a) (r b) (r c) 0 ∧ queues (.mmaz d a b c p) (r a) (r b) (r c) 0 ∧ queues (.mzero d) 0 0 0 0 ∧
    queues (.mload d a) (r a) 0 0 0 ∧
    (oFmt z ≠ 3 ∨ bit s.feat0 3 = true → queues (.mstream d a b c p) (r a) (r b) (r c) z) ∧
    (oFmt z = 3 → bit s.feat0 3 = false → Refuses (.mstream d a b c p) s tILLEGAL (Instr.mstream d a b c p).word) ∧
    (oFmt (r a) ≠ 3 ∨ bit s.feat0 3 = true → queues (.mstore d a b) (r a) (r b) 0 0) ∧
    (oFmt (r a) = 3 → bit s.feat0 3 = false → Refuses (.mstore d a b) s tILLEGAL (Instr.mstore d a b).word)) ∧
  (∀ (s : State) (d : BitVec 2) (a b : Reg), let w := s.me.s b.toNat; let e (l : Nat) : Nat := bits w 0 5 * 32 + bits w 5 1 * 16 + l
    let acc := s.me.acc d.toNat; let clean := ∀ l < 16, acc.poison.getLsbD (e l) = false
    let busy := ∃ q ∈ s.me.mq, q.names d.toNat = true
    let reads (i : Instr) : Prop := (clean → WritesV i s a 0 fun l => acc.at_ (e l)) ∧ (¬ clean → Traps i s tPOISON w)
    (s.me.mq = [] → Does .msync s nothing nothing fun _ => True) ∧ (s.me.mq ≠ [] → Waits .msync s (.matrix none)) ∧
    reads (.mpeek d a b) ∧ (¬ busy → reads (.mread d a b)) ∧ (busy → Waits (.mread d a b) s (.matrix (some d.toNat))))

/-- A block's value (R49 to R51): the exact sum of the products of its integer elements under the two scales; NaN from a NaN element, a scale
of 255 or ∞ × 0, an infinity else. An accumulator takes the exact sum rounded once to nearest (R52): an exact zero is +0 unless both are
−0, a result below the normal range is a zero of its sign and counts as underflow, one above is an infinity and counts. A sum is below
that range when it rounds to less than 2^-126 with an unbounded exponent, which is when it is less than 2^-126 − 2^-151. -/
def Obligations.BlocksAreExact : Prop :=
  (∀ (x y : List Int) (p q : List MEl) (m n : Nat) (e : Int), x.length = 32 → y.length = 32 → p.length = q.length →
    (m ≠ 255 → n ≠ 255 → let t := ((x.zip y).map fun z => z.1 * z.2).sum
      blockValue (x.map .int) (y.map .int) m n e = .fin (decide (t < 0)) t.natAbs ((m : Int) + n + e)) ∧
    (m = 255 ∨ n = 255 ∨ (∃ z ∈ p.zip q, z.1 = .nan ∨ z.2 = .nan) → blockValue p q m n e = .nan false) ∧
    (∀ s, (MEl.inf s, MEl.int 0) ∈ p.zip q ∨ (MEl.int 0, MEl.inf s) ∈ p.zip q → blockValue p q m n e = .nan false) ∧
    (m ≠ 255 → n ≠ 255 → (∀ z ∈ p.zip q, z.1 ≠ .nan ∧ z.1 ≠ .inf true ∧ ∃ v > 0, z.2 = .int v) → (∃ z ∈ p.zip q, z.1 = .inf false) →
      blockValue p q m n e = .inf false)) ∧
  (∀ (acc : W32) (n1 n2 : Bool) (m1 m2 : Nat) (e1 e2 : Int), f32.value acc.toNat = .fin n1 m1 e1 →
    let lo := min e1 e2; let t := scaled n1 m1 e1 lo + scaled n2 m2 e2 lo; let r := addAcc acc (.fin n2 m2 e2)
    let exact := (f32.round 0 false (decide (t < 0)) t.natAbs lo false).1
    let below : Prop := t.natAbs * 2 ^ (lo + 151).toNat < (2 ^ 25 - 1) * 2 ^ (-151 - lo).toNat
    (t = 0 → r = (BitVec.ofNat 32 (f32.signed (m1 == 0 && m2 == 0 && n1 && n2) 0), ⟨0, 0, 0, 0⟩)) ∧
    (t ≠ 0 → below → r = (BitVec.ofNat 32 (f32.signed (decide (t < 0)) 0), ⟨0, 0, 0, 1⟩)) ∧
    (t ≠ 0 → ¬ below → exact % 2 ^ 31 < f32.infBits → 2 ^ 23 ≤ exact % 2 ^ 31 ∧ r = (BitVec.ofNat 32 exact, ⟨0, 0, 0, 0⟩)) ∧
    (t ≠ 0 → exact % 2 ^ 31 = f32.infBits → r = (BitVec.ofNat 32 exact, ⟨0, 1, 0, 0⟩)))

/-- The steps of the matrix unit: a ramp ends (R15); the arbiter grants a head command, which captures its operands (R209, R211); a granted
command retires into its accumulator, which its queue then no longer holds (R156, R211); and the port performs `mzero` and `mload` in
their turn (R160, R210). Here one core has commands, with operands in ARRAY banks that nothing is buffered of and that no conversion holds
up. That operands are read whole at the grant is the model's reading (log entry 34). `mstore` takes the write port in its turn, and the
tile's write ends the command (R158 to R160, R210): here an FP32 tile without poisoned elements goes to ARRAY banks of its own core, its
header first, then the valid elements of each row; no other core has commands. That the tile is taken at its turn and written whole at its
end is the model's choice (log entries 14 and 34). -/
def Obligations.MatrixUnitSteps : Prop :=
  (∀ (s : State) (cl j : Nat) (q : MCmd) (rest : List MCmd), let k := s.cluster cl; let c := s.core ⟨cl, j⟩
    let gets (i : Instr) (p : State → Prop) : Prop := Answers (exec i s) fun t => t.outer = s.outer ∧
      (∀ r, r ≠ ⟨cl, j⟩ → t.core r = s.core r) ∧ p t
    (k.launch ≠ 0 → k.ramped = false → k.rampAt ≤ s.cyc →
      exec (.matrixRamp cl) s = .next (s.updCluster cl fun k => { k with ramped := true })) ∧
    (j < 8 → (∀ i < 8, i ≠ j → (k.core i).mq = []) → k.evict = .none → c.mq = q :: rest →
      (k.ramped = true → q.isArith = true → q.isStream = false → q.stage = .queued → q.began = false → (∀ x ∈ rest, x.stage = .queued) → k.opBuf = [] →
        s.drained ⟨cl, j⟩ 1 = true → dCore q.sa = j → dCore q.sb = j → c.run ≠ .sealed → descOk k q.sa q.pair = true →
        descOk k q.sb q.pair = true → dKind q.sa = 1 → dKind q.sb = 1 → q.busy k j = false →
        dKb q.sa = dKb q.sb → let n := operandBytes q.pair (dKb q.sa)
        gets (.matrixGrant cl) fun t => ∃ g : MCmd, (t.core ⟨cl, j⟩).mq = g :: rest ∧ g.stage = .granted ∧ g.instr = q.instr ∧
          g.opA = c.store.bytes (dAddr q.sa) n ∧ g.opB = c.store.bytes (dAddr q.sb) n ∧ (t.core ⟨cl, j⟩).store = c.store ∧
          (g.bad = none ↔ headerOk (headerOf g.opA) q.pair = true ∧ headerOk (headerOf g.opB) q.pair = true)) ∧
      (q.isArith = true → q.isStream = false → q.stage = .granted → (∀ x ∈ rest, x.stage = .queued) → q.bad = none →
        q.sealedCore k = none → dKind q.sa = 1 → dKind q.sb = 1 → q.poisA = [] → q.poisB = [] →
        (∀ x ∈ q.tabA ++ q.tabB, x.getLsbD 28 = false) → bit s.feat0 7 = false →
        let zero := match q.instr with | .mmaz _ _ _ _ _ => true | _ => false
        gets (.matrixRetire cl [] []) fun t => (t.core ⟨cl, j⟩).mq = rest ∧ (t.core ⟨cl, j⟩).store = c.store ∧
          (∀ e < 1024, ((t.core ⟨cl, j⟩).acc q.acc).at_ e =
            (accElement q (cleanTable q.tabA) (cleanTable q.tabB) (if zero then 0 else (c.acc q.acc).at_ e) (e / 32) (e % 32) q.steps).1) ∧
          ((t.core ⟨cl, j⟩).acc q.acc).poison = (if zero then 0 else (c.acc q.acc).poison) ∧
          ∀ n, n ≠ q.acc → (t.core ⟨cl, j⟩).acc n = c.acc n) ∧
      (∀ d, q.instr = .mzero d → gets (.matrixPortCommand ⟨cl, j⟩) fun t => (t.core ⟨cl, j⟩).mq = rest ∧
        (t.core ⟨cl, j⟩).acc d.toNat = ⟨[], 0⟩ ∧ ∀ n, n ≠ d.toNat → (t.core ⟨cl, j⟩).acc n = c.acc n) ∧
      (∀ d a, q.instr = .mload d a → s.drained ⟨cl, j⟩ 1 = true → q.busy k j = false → q.sa.toNat + 4096 ≤ 0x40000 → q.sa.toNat % 64 = 0 →
        c.arrayRange q.sa.toNat 4096 = true → gets (.matrixPortCommand ⟨cl, j⟩) fun t => (t.core ⟨cl, j⟩).mq = rest ∧
          ∀ e < 1024, let x := c.store.read4 (q.sa.toNat + 4 * e); ((t.core ⟨cl, j⟩).acc d.toNat).at_ e =
            if (f32.value x.toNat).isNan then BitVec.ofNat 32 f32.nan else x))) ∧
  (∀ (s : State) (cl j : Nat) (q : MCmd) (rest : List MCmd) (d : BitVec 2) (a b : Reg), let k := s.cluster cl; let c := s.core ⟨cl, j⟩
    let r : CoreRef := ⟨cl, j⟩; let acc := c.acc d.toNat; let o := dAddr q.sa
    q.instr = .mstore d a b → c.mq = q :: rest → c.run ≠ .sealed → dCore q.sa = j → j < 8 →
    (q.stage = .queued → k.evict = .none → outOk k q.sa = true → Answers (exec (.matrixPortCommand r) s) fun t => t.outer = s.outer ∧
      (t.core r).mq = { q with stage := .writing } :: rest ∧ (t.cluster cl).port = k.port ++ [j] ∧ (t.core r).store = c.store) ∧
    (q.stage = .writing → q.tile = none → (∀ i < 8, i ≠ j → (k.core i).mq = []) → k.evict ≠ .streaming → k.port = [j] → outOk k q.sa = true → dKind q.sa = 1 → oFmt q.sa = 0 →
      (∀ e < 1024, acc.poison.getLsbD e = false) → (∀ b, (c.bank b).converting = false) →
      Answers (exec (.tileWriteEnd cl) s) fun t => t.outer = s.outer ∧ (t.core r).mq = rest ∧ (t.cluster cl).port = [] ∧
        (∀ p, p ≠ r → t.core p = s.core p) ∧ (t.core r).acc d.toNat = acc ∧
        (t.core r).store.read8 o = BitVec.ofNat 64 (bits q.sb 32 32 * 2 ^ 32 + 4 * 2 ^ 24 + (if bit q.sb 16 then 2 ^ 16 else 0) +
          oCols q.sa * 256 + oRows q.sa) ∧
        (∀ i, i < oRows q.sa → ∀ l, l < oCols q.sa → (t.core r).store.read4 (o + 64 + 4 * (32 * i + l)) = acc.at_ (32 * i + l)) ∧
        ∀ x, ¬ span o 4160 x → (t.core r).store.get x = c.store.get x))

/-- `rrun` and `rverify` queue a job of the cluster under the next number, which S(D) takes, or stall while 16 jobs stand; `rstat` tells where
a job stands: queued, in its levels, in its rows, or ended with a class (R163, R164, R225). That the flag page and the spread windows are
own-core addresses outside every ARRAY bank, and that the rows begin with the ROWS word, is the model's reading (log entry 33). The steps
of a rule job (R162, R225): it starts with its descriptor read, its table captured and an empty scratch file and read buffer, or ends with
a record where its descriptor is poisoned, breaks Table 4 of spec/08, or names the counter of a sealed core (R153, R318, R324); and an
empty walk over an END of rows goes on by a word, or ends it in its turn, adds its length to its counter and leaves the queue (how many
words a step takes is log entry 14). The words of a segment (R57, R223, R224): a terminal adds to each vector's sum the product of its
table value and the vector's word, once those words have been read; a rule reference adds the value of a rule that an earlier level
defined, or in the rows of any rule, as the scratch file holds it, and a poisoned one ends the job with its number (R317); an end of rule
defines it and an end of row stores the sums, here of one vector in the job's own cluster; levels, rows and the end open no item; each is
an error where it has no place. `rverify` reads and writes no vector (R163). -/
def Obligations.RuleJobs : Prop :=
  (∀ (s : State) (d a : Reg), let x := s.me.s a.toNat; let n := s.mine.nextJob
    let both (p : Instr → Bool → Prop) : Prop := p (.rrun d a) false ∧ p (.rverify d a) true
    let window : Prop := 0x41000 ≤ x.toNat ∧ x.toNat < 0x41400
    (0x40020 ≤ x.toNat → ¬ window → both fun i _ => Traps i s tLOCALBOUNDS x) ∧
    (window → both fun i _ => Traps i s (if x.toNat % 32 = 0 then tBANKPORT else tALIGN) x) ∧
    (x.toNat < 0x40020 → x.toNat % 32 ≠ 0 → both fun i _ => Traps i s tALIGN x) ∧
    (x.toNat < 0x40020 → x.toNat % 32 = 0 → s.me.arrayRange x.toNat 32 = false → both fun i _ => Traps i s tBANKPORT x) ∧
    (x.toNat % 32 = 0 → s.me.arrayRange x.toNat 32 = true →
      (16 ≤ s.mine.jobs.length → both fun i _ => Stalls i s) ∧
      (s.mine.jobs.length < 16 → both fun i v => ∃ j : Job, j.num = n ∧ j.desc = x ∧ j.core = s.cur.core ∧ j.verify = v ∧ j.recq = s.me.recq ∧
        j.running = false ∧ j.seq = s.me.engSeq ∧ j.off = 0 ∧ j.got = [] ∧ j.row = none ∧
        Leaves i s ((s.updCluster s.cur.cl fun k => { k with jobs := k.jobs ++ [j], nextJob := n + 1 }).upd fun c =>
          { c with engSeq := c.engSeq + 1 }) (s.me.sBytes d) nothing fun t =>
            t.me.s d.toNat = if d = 0 then 0 else BitVec.ofNat 64 (n % 2 ^ 32))) ∧
    ∃ v, Writes (.rstat d a) s d v ∧ (n < 2 ^ 32 → x.toNat < n →
      (∀ j, s.mine.jobs.find? (fun j => j.num == x.toNat) = some j → n ≤ x.toNat + 65 → j.running = false → v = 0) ∧
      (∀ j, s.mine.jobs.find? (fun j => j.num == x.toNat) = some j → n ≤ x.toNat + 65 → j.running = true →
        v = if 2 ≤ j.med.phase then 2 else 1) ∧
      (s.mine.jobs.find? (fun j => j.num == x.toNat) = none → n ≤ x.toNat + 65 → v = BitVec.ofNat 64 (3 + 256 * aget 0 s.mine.jobEnds x.toNat)) ∧
      (x.toNat + 65 < n → v = 0xFF03))) ∧
  (∀ (s : State) (cl : Nat) (j : Job) (rest : List Job), let k := s.cluster cl; let c := s.core ⟨cl, j.core⟩; let ws := c.store.words j.desc.toNat 4
    let ctr := counterOfDesc ws
    let ends (m : Option (Nat × Nat)) (cls : Nat) (detail : Word) : Prop := exec (.ruleJobStart cl) s = .next
      ((s.recordMark ⟨cl, j.core⟩ j.recq j.num uRule cls j.desc detail m).updCluster cl fun k => k.endJob j cls)
    k.jobs = j :: rest → (∀ x ∈ rest, x.num ≠ j.num) →
    (j.running = false → k.evict = .none → s.drained ⟨cl, j.core⟩ 6 = true →
      (c.store.poisoned j.desc.toNat 32 = true → ends (if c.store.poisoned (j.desc.toNat + 24) 8 then none else some ctr) tPOISON 0) ∧
      (c.store.poisoned j.desc.toNat 32 = false → (k.core ctr.1).run = .sealed → ends (some ctr) tREMOTEERROR (meshAddr k.vc ctr.1 0)) ∧
      (c.store.poisoned j.desc.toNat 32 = false → (k.core ctr.1).run ≠ .sealed →
        (descBad s cl ws = none → exec (.ruleJobStart cl) s = .next (s.updCluster cl fun k =>
          { k with scratch := [], ruleBuf := [],
                   jobs := { j with running := true, words := ws, table := captureTable k (tblOf ws), med := Med.start (nvecOf ws) } :: rest })) ∧
        (∀ o, descBad s cl ws = some o → ends (some ctr) kRULEFORMAT (BitVec.ofNat 64 (2 ^ 63 + o))))) ∧
    (j.running = true → j.till ≤ s.cyc → k.evict ≠ .streaming → ∀ o, o % 4 = 0 → o + 8 ≤ 0x40000 → (j.words.getD 0 0).toNat = o →
      lenOf j.words = 8 → j.off = 0 → j.med = Med.start (nvecOf j.words) → k.ruleBuf = [] → c.run ≠ .sealed → c.hit o 4 = .plain →
      c.hit (o + 4) 4 = .plain → (∀ b, (c.bank b).converting = false) → c.store.poisoned o 8 = false → c.store.read4 o = 0xC4000000 →
      c.store.read4 (o + 4) = 0x88000000 → (k.core (counterOfDesc j.words).1).run ≠ .sealed →
      k.addBefore j.core j.seq (counterOfDesc j.words) = false →
      ∃ b, let s1 := s.updCluster cl fun k => { k with ruleBuf := b }
        (1 ≤ Config.portion s.free → exec (.ruleJobEnd cl) s = .next ((s1.addCounter cl (counterOfDesc j.words) 8).updCluster cl fun k => k.endJob j 0)) ∧
        (Config.portion s.free = 0 → exec (.ruleJobEnd cl) s = .next (s1.updCluster cl fun k =>
          { k with jobs := { j with off := 4, med := { j.med with phase := 2 }, since := none } :: rest }))) ∧
    (j.running = true → j.till ≤ s.cyc → k.evict ≠ .streaming → ∀ o, o % 4 = 0 → o + 8 ≤ 0x40000 → (j.words.getD 0 0).toNat = o →
      lenOf j.words = 8 → j.off = 4 → j.med = { Med.start (nvecOf j.words) with phase := 2 } → k.ruleBuf = [] → c.run ≠ .sealed →
      c.hit (o + 4) 4 = .plain → (∀ b, (c.bank b).converting = false) → c.store.poisoned o 8 = false → c.store.read4 (o + 4) = 0x88000000 →
      (k.core (counterOfDesc j.words).1).run ≠ .sealed → k.addBefore j.core j.seq (counterOfDesc j.words) = false →
      ∃ b, exec (.ruleJobEnd cl) s = .next (((s.updCluster cl fun k => { k with ruleBuf := b }).addCounter cl (counterOfDesc j.words) 8).updCluster
        cl fun k => k.endJob j 0))) ∧
  (∀ (s : State) (cl : Nat) (j : Job) (k id code : Nat), let m := j.med; let q := s.cluster cl; let n := q.scratch.length
    let takes (w : W32) (x : MedRes) : Prop := medWord s cl j k w = x
    let ref : W32 := BitVec.ofNat 32 (2 ^ 30 + id * 2 ^ 18); let term : W32 := BitVec.ofNat 32 (id * 2 ^ 14 + code * 2 ^ 6)
    let inside := m.phase = 1 ∨ m.phase = 2; let lim := if m.phase = 1 then m.defined else n
    id < 4096 → code < 256 →
    (inside → j.verify = true → takes term (.go s { j with med := m.add [] })) ∧
    (inside → j.verify = false → j.got.length = m.acc.length →
      (∀ v, termValue j.table code = some v →
        takes term (.go s { j with med := m.add (j.got.map fun y => mulExact v (f32.value y.toNat)), got := [] })) ∧
      (termValue j.table code = none → takes term (.stop s j (.fault tPOISON 0 0)))) ∧
    (inside → id < lim → (j.verify = true ∨ id ∉ q.scratchPoison →
        takes ref (.go s { j with med := m.add ((q.scratch.getD id []).map fun y => f32.value y.toNat) })) ∧
      (j.verify = false → id ∈ q.scratchPoison → takes ref (.stop s j (.fault tPOISON 0 (BitVec.ofNat 64 id))))) ∧
    (inside → lim ≤ id → takes ref (.bad kRULEORDER)) ∧
    (m.phase = 1 → n < 4096 → takes 0x80000000 (.go (s.updCluster cl fun q => q.defineRule m.acc) { j with med := m.close })) ∧
    (m.phase = 1 → 4096 ≤ n → takes 0x80000000 (.bad kRULECAPACITY)) ∧
    (m.phase = 2 → j.verify = true → takes 0x84000000 (.go s { j with med := m.close })) ∧
    (m.phase = 2 → j.verify = false → j.row = none → accOf j.words = false → ∀ v vc core o t mv, m.acc = [v] →
      let y := j.words.getD 2 0; let a := y + BitVec.ofNat 64 (4 * id)
      placeOf y = .ok (.mesh vc core o) → placeOf a = .ok (.mesh vc core (o + 4 * id)) → o + 4 * id + 4 ≤ 0x40000 →
      meshTarget s q.slot vc core = some (t, mv) → t.cl = cl → q.evict ≠ .streaming → chanKey vc core ∉ (s.core ⟨cl, j.core⟩).closed →
      storeRefuses s t (o + 4 * id) 4 a = none →
      takes (BitVec.ofNat 32 (0x84000000 + id)) (.go (s.updCore t fun c => { c with store := c.store.store (o + 4 * id) 4 v.toNat })
        { j with med := m.close, got := [], row := none })) ∧
    (m.phase ≤ 1 → m.isOpen = false → m.levels < 16 →
      takes 0xC0000000 (.go s { j with med := { m with phase := 1, levels := m.levels + 1, defined := n } })) ∧
    (m.phase ≤ 1 → m.isOpen = false → 16 ≤ m.levels → takes 0xC0000000 (.bad kRULEDEPTH)) ∧
    (m.phase ≤ 1 → m.isOpen = false → takes 0xC4000000 (.go s { j with med := { m with phase := 2 } })) ∧
    (m.phase = 2 → m.isOpen = false → takes 0x88000000 (.go s { j with med := { m with phase := 3 } })) ∧
    (m.phase = 0 ∨ m.phase = 3 → takes term (.bad kRULEFORMAT) ∧ takes ref (.bad kRULEFORMAT) ∧ takes 0x80000000 (.bad kRULEFORMAT) ∧
      takes 0x84000000 (.bad kRULEFORMAT) ∧ takes 0x88000000 (.bad kRULEFORMAT)) ∧
    (m.isOpen = true → takes 0xC0000000 (.bad kRULEFORMAT) ∧ takes 0xC4000000 (.bad kRULEFORMAT) ∧ takes 0x88000000 (.bad kRULEFORMAT)))

/-- `cpy` and `cpy.try` push a request with its promise, which S(D) takes (R165, R215); a full FIFO stalls `cpy` and gives `cpy.try` 0; page
intake without its feature is ILLEGAL; `cpyq` reads the free and used places. The promise of a fill or a linear copy within the own store.
A copy starts in its turn, or ends at once with a record and a marked counter when its words break the rules (R165, R214; that its ADDR is
0 is the model's choice, log entry 43). A fill and a linear copy within the plain memory of the own store (R165, R166): a step moves some
of its elements, each once, whatever their order; with the last of them every byte is in place, its counter has grown by the length in its
turn, and the request is gone; before that the counter stands still (how many elements a step moves is log entry 14). -/
def Obligations.CopyRequests : Prop :=
  (∀ (s : State) (d a : Reg), let k := s.me; let w (n : Nat) : Word := k.s (a.toNat + n); let mode := bits (w 0) 60 4; let n := k.copies.length
    let both (p : Instr → Prop) : Prop := p (.cpy d a) ∧ p (.cpyTry d a)
    let own (x : Word) : Prop := x.toNat < 0x40000; let len := bits (w 3) 0 32
    let base := max (s.cyc.toNat + 24) k.promise.toNat + (len * s.mine.busyCopies s.cur.core + 63) / 64 + rampWait s s.mine
    (mode = 6 → bit s.feat0 2 = false → both fun i => Refuses i s tILLEGAL i.word) ∧
    ((mode ≠ 6 ∨ bit s.feat0 2 = true) →
      (16 ≤ n → Stalls (.cpy d a) s ∧ Writes (.cpyTry d a) s d 0) ∧
      (n < 16 → both fun i => ∃ (q : CReq) (p : Word), q.w0 = w 0 ∧ q.w1 = w 1 ∧ q.w2 = w 2 ∧ q.w3 = w 3 ∧ q.pattern = k.cr_ Cr.cpattern ∧
        q.recq = k.recq ∧ q.promise = p ∧ q.started = false ∧ q.seq = k.engSeq ∧ q.moved = 0 ∧ q.got = none ∧
        Leaves i s (s.upd fun c => { c with copies := c.copies ++ [q], promise := p, engSeq := c.engSeq + 1 }) (k.sBytes d) nothing (fun t =>
          t.me.s d.toNat = if d = 0 then 0 else p) ∧
        (mode = 7 → own (w 2) → p = BitVec.ofNat 64 (base + 3)) ∧ (mode = 0 → own (w 1) → own (w 2) → p = BitVec.ofNat 64 (base + 6)))) ∧
    Writes (.cpyq d) s d (BitVec.ofNat 64 (16 - n + n * 256))) ∧
  (∀ (s : State) (r : CoreRef) (i : Nat) (q : CReq), let k := s.cluster r.cl
    k.evict = .none → k.copyTurn = some (r.core, i) → s.drained r 6 = true → (s.core r).copies[i]? = some q →
    (k.core q.counter.1).run ≠ .sealed →
    let s0 := s.updCluster r.cl fun k => { k with lastCopy := r.core }
    (s.counterFits r.cl q.counter = false ∨ q.wordsBad = true → exec (.copyStart r) s = .next
      ((s0.recordMark r q.recq (q.promise.toNat % 2 ^ 32) uCopy kCOPYPARAM 0 q.w0 (some q.counter)).dropCopy r i)) ∧
    (s.counterFits r.cl q.counter = true → q.wordsBad = false → (q.mode = 0 ∨ q.mode = 7 ∨ q.len = 0) → exec (.copyStart r) s = .next
      (s0.updCore r fun c => { c with copies := setAt c.copies i { q with started := true, seed := s.free } }))) ∧
  (∀ (s : State) (r : CoreRef) (q : CReq) (rest : List CReq) (o p : Nat), let c := s.core r; let e := q.elem; let ctr := q.counter
    c.copies = q :: rest → (∀ f ∈ s.flight, f.src ≠ r) → (s.cluster r.cl).addBefore r.core q.seq ctr = false → q.started = true → q.moved = 0 →
    q.got = none → q.till ≤ s.cyc → (s.cluster r.cl).evict ≠ .streaming → c.run ≠ .sealed → q.wordsBad = false →
    (∀ b, (c.bank b).converting = false ∧ kindOf (c.bank b).pers = 0) → q.w2.toNat = o → o + q.len ≤ 0x40000 →
    ctr.1 = r.core → ctr.2 % 8 = 0 → ctr.2 + 8 ≤ 0x40000 → (ctr.2 + 8 ≤ o ∨ o + q.len ≤ ctr.2) →
    let ends (byte : Nat → Byte) : Prop := Answers (exec (.copyEnd r 0) s) fun t => t.outer = s.outer ∧ (∀ x, x ≠ r → t.core x = s.core x) ∧
      (t.core r).cr = c.cr ∧ (t.core r).banks = c.banks ∧ (t.core r).pc = c.pc ∧
      (∀ x, ¬ span o q.len x → ¬ span ctr.2 8 x → (t.core r).store.get x = c.store.get x) ∧
      ∃ l : List Nat, l.Nodup ∧ (∀ i ∈ l, e * i + e ≤ q.len) ∧ (q.len = 0 ∨ l ≠ []) ∧
        (q.len ≤ e * (Config.portion s.free + 1) → e * l.length = q.len) ∧
        (∀ x < q.len, (t.core r).store.get (o + x) = if x / e ∈ l then byte x else c.store.get (o + x)) ∧
        (e * l.length = q.len → (t.core r).copies = rest ∧
          (t.core r).store.read8 ctr.2 = setBits (c.store.read8 ctr.2) 0 48 (bits (c.store.read8 ctr.2) 0 48 + q.len)) ∧
        (e * l.length ≠ q.len → (t.core r).copies = { q with moved := l.length, since := none } :: rest ∧
          (t.core r).store.read8 ctr.2 = c.store.read8 ctr.2)
    (q.mode = 7 → ends fun x => BitVec.ofNat 8 (q.w1.toNat / 256 ^ (x % e))) ∧
    (q.mode = 0 → q.w1.toNat = p → p + q.len ≤ 0x40000 → (p + q.len ≤ o ∨ o + q.len ≤ p) → c.store.poisoned p q.len = false →
      ends fun x => c.store.get (p + x)))

/-- `grow`, `shrink`, `swp` and `rdws` (R97 to R99): the allotment and the place of the frame change within ARRAY banks of the store; `swp`
writes the old `WP` into the new frame. A frame that would end beyond the store, or that meets a bank of another personality, is refused,
and a converting bank stalls the instruction; the TVAL of REGISTER, n, and of BANK-PORT, the start of the first such bank, are the model's
reading (log entry 27). -/
def Obligations.WorkspaceMoves : Prop :=
  ∀ (s : State) (d a n : Reg), let c := s.me; let fits (h k : Nat) : Prop := c.arrayRange h (448 + 64 * k) = true
    let still (h k : Nat) : Prop := c.convertingIn h (448 + 64 * k) = false; let w := c.s a.toNat
    let sizes (i : Instr) : Prop := Does i s nothing (fun m => m = Cr.wsize) fun t => t.me.cr_ Cr.wsize = n.zeroExtend 64
    (n.toNat < c.nv → Traps (.grow n) s tREGISTER (n.zeroExtend 64)) ∧ (c.nv < n.toNat → Traps (.shrink n) s tREGISTER (n.zeroExtend 64)) ∧
    (c.nv ≤ n.toNat → fits c.wp n.toNat → still c.wp n.toNat → sizes (.grow n)) ∧ (n.toNat ≤ c.nv → sizes (.shrink n)) ∧
    (c.nv ≤ n.toNat → 0x40000 < c.wp + (448 + 64 * n.toNat) →
      Traps (.grow n) s tLOCALBOUNDS (BitVec.ofNat 64 (c.wp + (447 + 64 * n.toNat)))) ∧
    (let own (h k : Nat) : Prop := h + (448 + 64 * k) ≤ 0x40000
     let bad (h k b : Nat) : Prop := b * 0x4000 < h + (448 + 64 * k) ∧ h < b * 0x4000 + 0x4000 ∧ kindOf (c.bank b).pers ≠ 0
     let first (h k b : Nat) : Prop := bad h k b ∧ ∀ a < b, ¬ bad h k a
     (c.nv ≤ n.toNat → own c.wp n.toNat → (¬ still c.wp n.toNat → Stalls (.grow n) s) ∧
       ∀ b < 16, still c.wp n.toNat → first c.wp n.toNat b → Traps (.grow n) s tBANKPORT (BitVec.ofNat 64 (b * 0x4000))) ∧
     (w.toNat < 0x40000 → w.toNat % 128 = 0 →
       (¬ own w.toNat c.nv → Traps (.swp d a) s tLOCALBOUNDS (BitVec.ofNat 64 (w.toNat + (447 + 64 * c.nv)))) ∧
       (own w.toNat c.nv → (¬ still w.toNat c.nv → Stalls (.swp d a) s) ∧
         ∀ b < 16, still w.toNat c.nv → first w.toNat c.nv b → Traps (.swp d a) s tBANKPORT (BitVec.ofNat 64 (b * 0x4000))))) ∧
    (0x40000 ≤ w.toNat → Traps (.swp d a) s tLOCALBOUNDS w) ∧ (w.toNat < 0x40000 → w.toNat % 128 ≠ 0 → Traps (.swp d a) s tALIGN w) ∧
    (w.toNat % 128 = 0 → fits w.toNat c.nv → still w.toNat c.nv →
      Does (.swp d a) s (fun x => d ≠ 0 ∧ span (w.toNat + 128 + 8 * d.toNat) 8 x) (fun m => m = Cr.wp) fun t =>
        t.me.cr_ Cr.wp = w ∧ t.me.s d.toNat = if d = 0 then 0 else c.cr_ Cr.wp) ∧
    Writes (.rdws d a 0) s d (BitVec.ofNat 64 (c.wp + 128 + 8 * a.toNat)) ∧ Writes (.rdws d a 1) s d (BitVec.ofNat 64 (c.wp + 384 + 2 * a.toNat)) ∧
    Writes (.rdws d a 2) s d (BitVec.ofNat 64 (c.wp + 448 + 64 * a.toNat))

/-- `send`, `sendm` and `reply` post messages (R167 to R173): of the fields of the header, with the sender's word, the `CYC` of the send and
the payload registers; `sendm` one to each core of its mask, in order; `reply` one of kind 3 to the core that a source word names. What
each refuses: registers that do not hold the payload, then more than 8 words, a nonzero reserved field, another kind, a mask beyond 8
cores, a source word that names no core, and a cluster that is not placed; that the TVAL of a `reply` is the header it would send is log
entry 27's reading. `arm` and `bind` (R171, R197): BR FULL for a slot in use, ABSENT for one that does not exist; a slot is armed for what
is left of a count after the messages that came early, and fires at once where they were enough; a binding is kept, or taken back. `spawn`
(R172): a new activation of a core class enters the ready queue with its argument, or BR tells why not. -/
def Obligations.MessagesAndTriggers : Prop :=
  (∀ (s : State) (a b c : Reg), let h := s.me.s a.toNat; let n := bits h 22 4; let x := s.me.s c.toNat
    let pay : List Word := (List.range 8).map fun i => if i < n then s.me.s (b.toNat + i) else 0
    let item (h : Word) (core : Nat) : Flight := { s.posted none (bits h 51 13) core
      (.msg ([h, meshAddr s.mine.vc s.cur.core 0, s.cyc, 0] ++ pay ++ [0, 0, 0, 0])) 0 with chan := bits h 44 2 }
    let posts (i : Instr) (l : List Flight) : Prop := Leaves i s { s with flight := s.flight ++ l } nothing nothing fun _ => True
    let ok (h : Word) : Prop := n ≤ 8 ∧ (n = 0 ∨ (b ≠ 0 ∧ b.toNat + n ≤ 32)) ∧ bits h 0 22 = 0 ∧ (placed s s.mine.slot (bits h 51 13)).isSome = true
    let free (h : Word) (core : Nat) : Prop := chanKey (bits h 51 13) core ∉ s.me.closed
    let all (p : Instr → Prop) : Prop := p (.send a b) ∧ p (.sendm a b c) ∧ p (.reply a b c)
    (n ≠ 0 → b = 0 → all fun i => Traps i s tREGISTER 0) ∧
    (n ≠ 0 → b ≠ 0 → 32 < b.toNat + n → all fun i => Traps i s tREGISTER (BitVec.ofNat 64 (b.toNat + n - 1))) ∧
    (let regs : Prop := n = 0 ∨ (b ≠ 0 ∧ b.toNat + n ≤ 32)
     let none_ (h : Word) : Prop := placed s s.mine.slot (bits h 51 13) = none
     regs → (8 < n ∨ bits h 0 22 ≠ 0 ∨ bits h 46 2 ≠ 0 ∨ none_ h → Traps (.send a b) s tMESH h ∧ Traps (.sendm a b c) s tMESH h) ∧
       (256 ≤ x.toNat → Traps (.sendm a b c) s tMESH h) ∧
       ((∀ vc core, vc < 8192 → core < 8 → x ≠ meshAddr vc core 0) → Traps (.reply a b c) s tMESH h) ∧
       ∀ vc core, vc < 8192 → core < 8 → x = meshAddr vc core 0 → let g := setBits (setBits (setBits h 51 13 vc) 48 3 core) 46 2 3
         8 < n ∨ bits h 0 22 ≠ 0 ∨ none_ g → Traps (.reply a b c) s tMESH g) ∧
    (ok h → bits h 46 2 = 0 → free h (bits h 48 3) → posts (.send a b) [item h (bits h 48 3)]) ∧
    (ok h → bits h 46 2 = 0 → x.toNat < 256 → (∀ j < 8, free h j) → posts (.sendm a b c)
      (((List.range 8).filter fun j => bit x j).map fun j => item (setBits h 48 3 j) j)) ∧
    (∀ vc core, vc < 8192 → core < 8 → x = meshAddr vc core 0 →
      let g := setBits (setBits (setBits h 51 13 vc) 48 3 core) 46 2 3
      ok g → free g core → posts (.reply a b c) [item g core])) ∧
  (∀ (s : State) (a b c : Reg), let k := (s.me.s a.toNat).toNat; let v := s.me.s b.toNat; let cnt := v.toNat % 2 ^ 32; let t := s.me.trig k
    let gives (i : Instr) (br : Nat) (f : Core → Core) : Prop := Leaves i s (s.upd f) nothing onlyStat fun u => u.me.br = br
    let starts (d : Core) (n : Nat) (e : ClassE) (item : Option Nat) (arg : Word) : Core :=
      { (d.setTrig k { d.trig k with st := .disarmed }) with ready := d.ready ++ [⟨n, e.prio, none, k, item, arg, s.cyc, s.cyc⟩] }
    (62 < k → gives (.arm a b c) 3 id ∧ gives (.bind a b) 3 id) ∧ (32 ≤ v.toNat → gives (.bind a b) 3 id) ∧
    (k ≤ 62 → t.st ≠ .disarmed → gives (.arm a b c) 2 id) ∧
    (k ≤ 62 → t.st = .disarmed → t.early.toNat < cnt → gives (.arm a b c) 0 fun d => d.setTrig k
      { t with st := .armed, remaining := BitVec.ofNat 32 (cnt - t.early.toNat), early := 0, arg := s.me.s c.toNat }) ∧
    (k ≤ 62 → t.st = .disarmed → cnt ≤ t.early.toNat → t.binding = none → gives (.arm a b c) 0 fun d => d.setTrig k
      { t with st := .pending, early := BitVec.ofNat 32 (t.early.toNat - cnt), arg := s.me.s c.toNat, item := none }) ∧
    (k ≤ 62 → t.st = .disarmed → cnt ≤ t.early.toNat → ∀ n e, t.binding = some n → s.me.classOf n = some e →
      (64 ≤ s.me.ready.length → gives (.arm a b c) 2 id) ∧
      (s.me.ready.length < 64 → gives (.arm a b c) 0 fun d => starts (d.setTrig k { t with early := BitVec.ofNat 32 (t.early.toNat - cnt), arg := s.me.s c.toNat, item := none }) n e none (s.me.s c.toNat))) ∧
    (k ≤ 62 → v.toNat < 32 → t.st ≠ .pending ∨ bit v 4 = true → gives (.bind a b) 0 fun d => d.setTrig k
      { t with binding := if bit v 4 then none else some (bits v 0 4) }) ∧
    (k ≤ 62 → v.toNat < 16 → t.st = .pending → ∀ e, s.me.classOf v.toNat = some e →
      (64 ≤ s.me.ready.length → gives (.bind a b) 2 id) ∧
      (s.me.ready.length < 64 → gives (.bind a b) 0 fun d => starts (d.setTrig k { t with binding := some v.toNat, item := none }) v.toNat e t.item t.arg))) ∧
  (∀ (s : State) (a b : Reg), let n := (s.me.s a.toNat).toNat; let i := Instr.spawn a b
    let gives (br : Nat) (f : Core → Core) : Prop := Leaves i s (s.upd f) nothing onlyStat fun u => u.me.br = br
    (16 ≤ n → gives 3 id) ∧ (s.me.classOf n = none → gives 3 id) ∧
    ∀ e, n < 16 → s.me.classOf n = some e → (e.cluster = true → gives 3 id) ∧
      (e.cluster = false → (64 ≤ s.me.ready.length → gives 2 id) ∧ (s.me.ready.length < 64 → gives 0 fun d =>
        { d with ready := d.ready ++ [⟨n, e.prio, none, 63, none, s.me.s b.toNat, s.cyc, s.cyc⟩] })))

/-- `self` gives the mesh address of the core's own store, 2^62 + VC × 2^24 + core × 2^21, and with a local offset added the address of that
offset for every core of the context. -/
def Obligations.SelfNamesTheCore : Prop :=
  ∀ (s : State) (d : Reg), let a := BitVec.ofNat 64 (2 ^ 62 + s.mine.vc * 2 ^ 24 + s.cur.core * 2 ^ 21)
    Writes (.self d) s d a ∧
    (s.mine.vc < 8192 → s.cur.core < 8 → bits a 62 2 = 1 ∧ bits a 24 13 = s.mine.vc ∧ bits a 21 3 = s.cur.core ∧ bits a 0 21 = 0 ∧ bits a 37 25 = 0 ∧
      ∀ o < 0x40020, placeOf (a + BitVec.ofNat 64 o) = .ok (.mesh s.mine.vc s.cur.core o))

/-- `trap n` raises SOFTWARE with `TVAL` n and `EPC` at the `trap`; a handler that continues after it adds the 4 bytes of its word. -/
def Obligations.SoftwareTraps : Prop :=
  ∀ (s : State) (n : Reg), Traps (.trap n) s tSOFTWARE (n.zeroExtend 64) ∧ (Instr.trap n).len = 4 ∧
    (s.me.canTrap → s.me.untraced → Passes s (.trap n) → Answers (exec (.trap n) s) fun t =>
      t.me.cr_ Cr.cause = BitVec.ofNat 64 tSOFTWARE ∧ t.me.cr_ Cr.tval = n.zeroExtend 64 ∧ t.me.cr_ Cr.epc = s.me.pc ∧ t.me.pc = s.me.cr_ Cr.tvec)

/-- `halt` and `c.halt` complete whenever an activation runs, and end it (R20, R174, R236): its frame goes back to the free list, its header
word for the link written, and the keep set of the class given is recorded; a core task leaves the core at a boundary, a cluster task
leaves it halted until the others arrive, and the last of them ends the task on every core (R93, R207). -/
def Obligations.HaltsEndActivations : Prop :=
  ∀ (s : State) (k : Reg) (a : Act), let c := s.me; let h := if c.tm then (c.cr_ Cr.twpsave).toNat else c.wp
    let others (p : Core → Prop) : Prop := ∀ j < 8, j ≠ s.cur.core → p (s.mine.core j)
    c.act = some a → c.untraced → s.cur.core < 8 →
    let ends (p : State → Prop) : Prop :=
      let one (i : Instr) (n : Nat) : Prop := Passes s i → Answers (exec i s) fun t => t.outer = s.outer ∧
        t.me.act = none ∧ t.me.att = false ∧ t.me.freeHead = BitVec.ofNat 64 h ∧ t.me.store.read8 (h + 40) = c.freeHead ∧ t.me.wait = none ∧
        (∀ x, ¬ span (h + 40) 8 x → t.me.store.get x = c.store.get x) ∧ t.me.tm = false ∧
        (∀ m cls, afind c.keeps n = some (m, cls) → ∀ b < 15, (t.me.bank b).keepClass = if m.getLsbD b then some cls else (c.bank b).keepClass) ∧ p t
      one (.halt k) k.toNat ∧ one .cHalt 0
    (a.cluster = false → ends fun t => t.me.run = c.resting) ∧
    (a.cluster = true → s.mine.group.active = true →
      (¬ others (fun d => d.arrived = true) → ends fun t => t.me.run = .halted) ∧
      (c.stopped = false → c.stopReq = none → others (fun d => d.arrived = true ∧ d.run ≠ .joining) → ends fun t =>
        t.me.run = .idle ∧ t.mine.group = Group.blank ∧ t.mine.onces = []))

/-- `eret` (R177, R182) completes in trap mode with a sound header: it loads what the header at `WP` holds, takes `WP` from `TWPSAVE` and goes
on at `EPC`; ATT is not loaded; outside trap mode, or with a header that breaks R20 or R29, it is ILLEGAL. An elected core that owes its
siblings the results of a governed instruction governs it again where `eret` goes back to it, and else releases them with nothing (R189).
That ATT, the core's attached state, is not loaded is the model's reading of R26 (log entry 36). -/
def Obligations.TrapReturns : Prop :=
  ∀ s : State, let c := s.me; let h := c.wp; let rd (o : Nat) : Word := c.store.read8 (h + o); let w := (c.cr_ Cr.twpsave).toNat
    let nv := bits (rd 24) 0 5
    (c.tm = false → Refuses .eret s tILLEGAL Instr.eret.word) ∧
    (c.tm = true → (w % 128 ≠ 0 ∨ nv % 2 ≠ 0 ∨ 16 < nv ∨ c.arrayRange w (448 + 64 * nv) = false ∨
        bits (rd 32) 46 18 ≠ 0 ∨ (bit (rd 32) 45 = true ∧ bits (rd 32) 36 4 < bits (rd 32) 32 4)) → Refuses .eret s tILLEGAL Instr.eret.word) ∧
    (c.tm = true → w % 128 = 0 → nv % 2 = 0 → nv ≤ 16 → c.arrayRange w (448 + 64 * nv) = true → bits (rd 32) 46 18 = 0 →
      (bit (rd 32) 45 = true → bits (rd 32) 32 4 ≤ bits (rd 32) 36 4) → c.obligation = none → Passes s .eret →
      Answers (exec .eret s) fun t => OnlyMine s t ∧ t.me.pc = c.cr_ Cr.epc ∧ t.me.cr_ Cr.stat = rd 8 &&& 0x3F3 ∧ t.me.cr_ Cr.fpc = rd 16 &&& 0x1FF ∧
        t.me.cr_ Cr.wsize = BitVec.ofNat 64 nv ∧ t.me.cr_ Cr.repstate = rd 32 ∧ t.me.cr_ Cr.wp = c.cr_ Cr.twpsave ∧
        (∀ n, n ∉ [Cr.stat, Cr.fpc, Cr.wsize, Cr.repstate, Cr.wp] → t.me.cr_ n = c.cr_ n) ∧ t.me.store = c.store ∧ t.me.banks = c.banks ∧
        t.me.act = c.act ∧ t.me.ready = c.ready) ∧
    ∀ id o, c.tm = true → c.eretBad = false → c.obligation = some id → s.mine.onces = [o] → o.id = id → o.elected = some s.cur.core → Passes s .eret →
      Answers (exec .eret s) fun t => OnlyMine s t ∧ t.me.pc = c.cr_ Cr.epc ∧ t.me.obligation = none ∧ t.me.store = c.store ∧
        (o.addr = c.cr_ Cr.epc → t.me.governed = some id ∧ t.mine.onces = [o]) ∧
        (o.addr ≠ c.cr_ Cr.epc → t.me.governed = none ∧ let left := o.receivers.filter fun j => j != s.cur.core
          t.mine.onces = if left = [] then [] else [{ o with receivers := left, result := some ⟨none, none, 0⟩ }])

/-- `stop` completes always: it asks for a stop where stops are enabled, and does nothing else (R178). `census` completes at 1,024 aligned
bytes of ARRAY banks: it writes the cluster's 64 entries there, and clears their counts when asked (R179); other addresses raise its
traps. -/
def Obligations.StopsAndCensus : Prop :=
  ∀ (s : State) (n a c : Reg), let x := s.me.s a.toNat; let tab := s.mine.census; let i := Instr.census a c
    Leaves (.stop n) s (s.upd fun d => { d with stopReq := if bit (d.cr_ Cr.dbgctl) 0 then some n.toNat else d.stopReq }) nothing nothing (fun _ => True) ∧
    (0x40000 ≤ x.toNat → Traps i s tLOCALBOUNDS x) ∧ (x.toNat < 0x40000 → x.toNat % 1024 ≠ 0 → Traps i s tALIGN x) ∧
    (x.toNat < 0x40000 → x.toNat % 1024 = 0 → s.me.arrayRange x.toNat 1024 = false → Traps i s tBANKPORT x) ∧
    (x.toNat < 0x40000 → x.toNat % 1024 = 0 → s.me.arrayRange x.toNat 1024 = true → tab.length ≤ 64 →
      Leaves i s (s.updCluster s.cur.cl fun k => { k with census := if c = 1 then k.census.map fun e => ⟨e.site, 0, 0, 0, 0⟩ else k.census })
        (span x.toNat 1024) nothing fun t => ∀ j < 64, let e := tab.getD j ⟨0, 0, 0, 0, 0⟩
          t.me.store.read8 (x.toNat + 16 * j) = e.site ∧ t.me.store.read8 (x.toNat + 16 * j + 8) =
            BitVec.ofNat 64 (e.nan + e.inf * 2 ^ 16 + e.sat * 2 ^ 32 + e.unf * 2 ^ 48))

/-- `detach` and `lead` (R92, R96): an attached core leaves with WHY 3 and drops what was issued to it; the word of `lead` names the lowest
receiver and the mask of all of them, or the core alone on a private fetch. `once` (R90, R91): alone it only goes on; a receiver takes up
its record, and the lowest of those left is elected; what it may not govern is ILLEGAL. -/
def Obligations.GroupMembership : Prop :=
  (∀ (s : State) (d : Reg),
    (s.me.att = false → Does .detach s nothing nothing fun _ => True) ∧
    (s.me.att = true → Does .detach s nothing nothing fun t => t.me.att = false ∧ t.me.why = 3 ∧ t.me.buf = []) ∧
    (s.me.taken = none → Writes (.lead d) s d (BitVec.ofNat 64 s.cur.core)) ∧
    (∀ e j, s.me.taken = some e → e.mask < 256 → j < 8 → e.mask.testBit j = true → (∀ i < j, e.mask.testBit i = false) →
      Writes (.lead d) s d (BitVec.ofNat 64 (j + e.mask * 256)))) ∧
  (∀ s : State, s.me.inRep = false →
    (onceRefused (governedWhat s) = true → Refuses .once s tILLEGAL Instr.once.word) ∧
    (onceRefused (governedWhat s) = false → s.me.taken = none → Does .once s nothing nothing fun _ => True) ∧
    (∀ e id, onceRefused (governedWhat s) = false → s.me.taken = some e → e.once = some id → Passes s .once →
      Answers (exec .once s) fun t => t.me.governed = some id ∧ t.me.pc = s.me.pc + 2 ∧ t.me.store = s.me.store ∧ t.me.cr = s.me.cr ∧
        t.mine.onces = s.mine.onces.map fun o => if o.id = id ∧ o.elected = none ∧ o.receivers.head? = some s.cur.core
          then { o with elected := some s.cur.core } else o) ∧
    ∀ i, i ∈ [Instr.once, .eret, .detach, .halt 0, .jal 0 0, .vadd 0 0 0 0 0, .cwr 0 0, .rep 0 1 1 0] → onceRefused (.instr i) = true)

/-- `join`, `c.join` and `bar` (R93 to R95): in a core task they set JPT and go on; in a cluster task the core waits at the join point that it
sets, or raises JOIN-MISMATCH at one that differs; the last arrival re-attaches all and resumes the stream. A `bar` waits first for what
the core has posted in its cluster. That a `bar` holds its core before it arrives, until its stores are performed, is the model's reading
of R95 (log entries 13 and 29). -/
def Obligations.JoinsMeet : Prop :=
  ∀ (s : State) (k : Reg) (n : BitVec 4) (a : Act), s.me.act = some a → s.me.governed = none → s.me.inRep = false →
    let g := s.mine.group; let others (p : Core → Prop) : Prop := ∀ j < 8, j ≠ s.cur.core → p (s.mine.core j)
    let point (i : Instr) (m : Nat) (isBar : Bool) : Prop := (isBar = true → ¬ s.performed 1 → Follows i s) ∧ ((isBar = true → s.performed 1) →
      (a.cluster = false → Leaves i s (s.upd fun c => { c with jpt := m }) nothing nothing fun _ => True) ∧
      (a.cluster = true → g.active = true → s.cur.core < 8 →
        (∀ p b, g.join = some (p, b) → (p ≠ m ∨ b ≠ isBar) → Traps i s tJOINMISMATCH (BitVec.ofNat 64 (p + m * 16))) ∧
        (g.join = none ∨ g.join = some (m, isBar) →
          (¬ others (fun c => c.arrived = true) → Passes s i → Answers (exec i s) fun t => t.outer = s.outer ∧ t.me.run = .joining ∧
            t.me.pc = s.me.pc + BitVec.ofNat 64 i.len ∧ t.mine.group = { g with join := some (m, isBar) } ∧
            ∀ j < 8, j ≠ s.cur.core → t.mine.core j = s.mine.core j) ∧
          (others (fun c => c.arrived = true) → s.me.stopped = false → (∀ j < s.cur.core, (s.mine.core j).run ≠ .joining) → Passes s i →
            Answers (exec i s) fun t => t.outer = s.outer ∧ t.me.run = .running ∧ t.me.att = true ∧ t.me.jpt = m ∧ t.me.buf = [] ∧
              t.me.pc = s.me.pc + BitVec.ofNat 64 i.len ∧ t.mine.group =
                { g with pc := s.me.pc + BitVec.ofNat 64 i.len, hold := .none, join := none, rep := none } ∧
              ∀ j < 8, j ≠ s.cur.core → (s.mine.core j).run = .joining →
                let c := t.mine.core j; c.run = .running ∧ c.att = true ∧ c.jpt = m ∧ c.pc = t.me.pc ∧ c.store = (s.mine.core j).store))))
    point (.join k) k.toNat false ∧ point (.cJoin n) n.toNat false ∧ point (.bar k) k.toNat true

/-- `rep` (R100 to R103): a body that cannot be fetched or holds what it may not raises FETCH or ILLEGAL; a count of 0 goes on behind the body
with `REPSTATE` 0, and any other holds the body with pass and position 0. The body is what the front end has decoded for the group, or
what is fetched (R40). A repetition goes on (R100): within a body an instruction leads to the next position, at the end of a pass to the
first one of the next pass, and at the end of the last behind the body with `REPSTATE` 0; `nop` shows it. -/
def Obligations.Repetitions : Prop :=
  (∀ (s : State) (a l w : Reg) (g : BitVec 3), let i := Instr.rep a l w g; let fetched := bodyAt s s.cur.cl (s.me.pc + 4) l.toNat
    let body := repBody l s; let n := (s.me.s a.toNat).toNat % 2 ^ 32
    (s.me.taken = none → body = fetched) ∧ (∀ e, s.me.taken = some e → body = if e.body = [] then fetched else e.body) ∧
    (∀ e, bodyRefused s.feat0 body = some e → Refuses i s e.1 e.2) ∧
    (bodyRefused s.feat0 body = none → Passes s i → Answers (exec i s) fun t => OnlyMine s t ∧ t.me.store = s.me.store ∧
      (∀ m, m ≠ Cr.repstate → t.me.cr_ m = s.me.cr_ m) ∧
      (n = 0 → t.me.pc = afterBody body s.me.pc ∧ t.me.cr_ Cr.repstate = 0 ∧ t.me.repBuf = s.me.repBuf) ∧
      (n ≠ 0 → t.me.pc = s.me.pc ∧ t.me.repBuf = body ∧ t.me.repCount = n ∧ let r := t.me.cr_ Cr.repstate
        bit r 45 = true ∧ bits r 42 3 = g.toNat ∧ bits r 40 2 = w.toNat - 1 ∧ bits r 36 4 = l.toNat - 1 ∧ bits r 32 4 = 0 ∧ bits r 0 32 = 0))) ∧
  (∀ s : State, let c := s.me; c.inRep = true → c.governed = none → c.att = false → c.repPos ≤ c.repLen → Passes s .nop →
    Answers (exec .nop s) fun t => OnlyMine s t ∧ t.me.store = c.store ∧
      (c.repPos < c.repLen → t.me.repPos = c.repPos + 1 ∧ t.me.repPass = c.repPass ∧ t.me.pc = c.pc ∧ t.me.repBuf = c.repBuf) ∧
      (c.repPos = c.repLen → c.repPass + 1 < c.repCount → c.repPass + 1 < 2 ^ 32 → t.me.repPos = 0 ∧ t.me.repPass = c.repPass + 1 ∧ t.me.pc = c.pc) ∧
      (c.repPos = c.repLen → c.repCount ≤ c.repPass + 1 → t.me.cr_ Cr.repstate = 0 ∧ t.me.pc = afterBody c.repBuf c.pc ∧ t.me.repBuf = []))

/-- Waits end when their condition holds: a blocked core goes on, and a parked activation becomes ready at its priority where the queue has
room (R120, R199, R202). A pending ENGINE request is taken at a boundary outside trap mode (R191). A blocked core with 16 undelivered
instructions leaves its group with WHY 2 (R205). TVAL of ENGINE is the oldest record's slot (log entry 36). The bank controller handles
the inbox item at the head (R195 to R197): one of its class becomes ready; one for a trigger slot counts, or fires the slot that its count
completes; a full ready queue leaves the item where it is. The oldest entry of the highest level starts on a core at a boundary (R199 to
R203, R207): a new activation in the first free frame, with its item's words in `s1` to `s11` and all other registers 0, or a parked one
with what its header holds; without a free frame it waits. An entry that has waited 2^20 cycles moves up a level. That a core that has
halted in a group may start an entry (log entry 35), and that ATT is not restored at a resumption (log entry 36), are the model's
readings. A group starts once every core of a cluster has accepted a cluster entry or is sealed (R203): the cores whose entry is of the
class of the lowest one that has accepted start attached at its routine, the others detached with WHY 1. -/
def Obligations.ActivationsStart : Prop :=
  (∀ (s : State) (r : CoreRef) (frame : Nat), let c := s.core r; let i := Instr.waitSatisfied r frame
    let ready (p : Parked) : Bool := p.act.frame == frame && p.cond.holds s r
    (∀ t, Cond.holds s r (.time t) = true ↔ t ≤ s.cyc) ∧ (∀ f v, Cond.holds s r (.flag f v) = true ↔ c.flag f = v) ∧
    (Cond.holds s r (.matrix none) = true ↔ c.mq = []) ∧
    (∀ w, c.wait = some w → w ∉ [.retry, .port, .order] → (∀ x, w ≠ .converting x) → c.wp = frame → (w.holds s r = true → exec i s = .next (s.updCore r fun c => { c with wait := none })) ∧
      (w.holds s r = false → c.parked.find? ready = none → exec i s = .next s)) ∧
    (c.wait = none ∨ c.wp ≠ frame → ∀ p, c.parked.find? ready = some p → (64 ≤ c.ready.length → exec i s = .next s) ∧
      (c.ready.length < 64 → exec i s = .next (s.updCore r fun c =>
        { c with parked := c.parked.filter fun q => q.act.frame != frame, ready := c.ready ++ [⟨p.act.cls, p.act.prio, some p.act, p.act.slot, none, 0, s.cyc, s.cyc⟩] }))) ∧
    (c.engPend = true → c.tm = false → c.run = .running → c.pend = none → c.conv = none → c.stopped = false → s.selfPosted r = false →
      exec (.engineTrap r) s = .next ((s.updCore r fun c => { c with engPend := false, engSlot := none }).trapAt r tENGINE c.pc
        (if c.held = [] then c.engSlot.getD 0 else 0))) ∧
    (c.att = true → c.run = .running → c.waits = true → 16 ≤ c.buf.length → Answers (exec (.driftDetach r) s) fun t =>
      t.outer = s.outer ∧ t.core r = { c with att := false, why := 2 } ∧ ∀ q, q ≠ r → (t.core q).apart = (s.core q).apart)) ∧
  (∀ (s : State) (r : CoreRef) (j : Nat) (b : Bank), let c := s.core r; let i := Instr.inboxItemHandle r; let h := (c.inboxItem j).headD 0
    let k := bits h 34 6; let d := bits h 26 8; let t := c.trig k
    c.run ≠ .sealed → (s.cluster r.cl).evict ≠ .streaming → c.redeliver = [] → (c.bank 15).acquire = some (j, b) →
    (k = 63 → ∀ e, c.classOf (bits h 40 4) = some e → (64 ≤ c.ready.length → exec i s = .next s) ∧
      (c.ready.length < 64 → exec i s = .next (s.updCore r fun c =>
        { c.setBank 15 b with ready := c.ready ++ [⟨bits h 40 4, e.prio, none, 63, some j, 0, s.cyc, s.cyc⟩] }))) ∧
    (k ≠ 63 → d ≠ 0 → t.st ≠ .armed → exec i s = .next (s.updCore r fun c =>
      ((c.setBank 15 b).setTrig k { t with early := sat32 (t.early.toNat + d) }).releaseItem j)) ∧
    (k ≠ 63 → d ≠ 0 → t.st = .armed → d < t.remaining.toNat → exec i s = .next (s.updCore r fun c =>
      ((c.setBank 15 b).setTrig k { t with remaining := BitVec.ofNat 32 (t.remaining.toNat - d) }).releaseItem j)) ∧
    (k ≠ 63 → d ≠ 0 → t.st = .armed → t.remaining.toNat ≤ d → ∀ n e, t.binding = some n → c.classOf n = some e →
      (64 ≤ c.ready.length → exec i s = .next s) ∧
      (c.ready.length < 64 → exec i s = .next (s.updCore r fun c =>
        { (c.setBank 15 b).setTrig k { t with st := .disarmed, remaining := 0, early := BitVec.ofNat 32 (d - t.remaining.toNat), item := none } with
          ready := c.ready ++ [⟨n, e.prio, none, k, some j, t.arg, s.cyc, s.cyc⟩] })))) ∧
  (∀ (s : State) (r : CoreRef) (n : Nat) (e : Ready), let c := s.core r; let i := Instr.activationStart r; c.ready[n]? = some e →
    (e.level < 3 → 2 ^ 20 ≤ (s.cyc - e.since).toNat → exec (.readyPromotion r n) s = .next (s.updCore r fun c =>
      { c with ready := dropAt c.ready n ++ [{ e with level := e.level + 1, since := s.cyc }] })) ∧
    ((s.cluster r.cl).evict = .none → c.run = .idle ∨ c.run = .halted → c.act = none → c.stopped = false → c.stopReq = none → c.redeliver = [] → c.untraced →
      (∀ x ∈ c.ready, x.level ≤ e.level) → (∀ x ∈ c.ready.take n, x.level < e.level) →
      (∀ a, e.resume = some a → let rd (o : Nat) : Word := c.store.read8 (a.frame + o)
        Answers (exec i s) fun t => OnlyCore s t r ∧ let d := t.core r
          d.run = .running ∧ d.act = some a ∧ d.ready = dropAt c.ready n ∧ d.att = false ∧ d.why = 6 ∧ d.store = c.store ∧ d.pc = rd 0 ∧
          d.cr_ Cr.stat = rd 8 &&& 0x3FB ∧ d.cr_ Cr.fpc = rd 16 &&& 0x1FF ∧ d.cr_ Cr.wsize = BitVec.ofNat 64 (bits (rd 24) 0 5) ∧
          d.cr_ Cr.repstate = rd 32 ∧ d.cr_ Cr.wp = BitVec.ofNat 64 a.frame ∧ d.cr_ Cr.vprog = 0) ∧
      (e.resume = none → c.freeHead = BitVec.allOnes 64 → exec i s = .next s) ∧
      (∀ k, e.resume = none → c.freeHead ≠ BitVec.allOnes 64 → c.classOf e.cls = some k →
        let h := c.freeHead.toNat; let item := match e.item with | some j => c.inboxItem j | none => []
        Answers (exec i s) fun t => OnlyCore s t r ∧ let d := t.core r
          d.run = (if k.cluster then .accepted else .running) ∧ d.act = some ⟨h, e.cls, k.prio, k.cluster, e.slot, item, s.cyc, e.item.bind (afind c.inboxRecq)⟩ ∧
          d.ready = dropAt c.ready n ∧ d.att = false ∧ d.why = (if k.cluster then 0 else 6) ∧ d.pc = k.routine ∧ d.freeHead = c.store.read8 (h + 40) ∧ d.cr_ Cr.wp = c.freeHead ∧
          d.cr_ Cr.wsize = BitVec.ofNat 64 k.nv ∧ (∀ m ∈ [Cr.stat, Cr.fpc, Cr.repstate, Cr.vprog], d.cr_ m = 0) ∧
          (∀ m, m ∉ [Cr.wp, Cr.wsize, Cr.stat, Cr.fpc, Cr.repstate, Cr.vprog] → d.cr_ m = c.cr_ m) ∧
          (∀ j < 8, d.s (j + 1) = if item = [] then 0 else item.getD (4 + j) 0) ∧
          d.s 9 = (if item = [] then sourceWord s r else item.getD 1 0) ∧ d.s 10 = (if item = [] then e.stamp else item.getD 2 0) ∧
          d.s 11 = (if e.slot = 63 ∧ item ≠ [] then 0 else e.arg) ∧ (∀ j, 12 ≤ j → j < 32 → d.s j = 0) ∧ (∀ j < 32, d.m j = 0) ∧
          (∀ j < k.nv, ∀ l < 16, d.v j l = 0) ∧ ∀ x, ¬ span h (448 + 64 * k.nv) x → d.store.get x = c.store.get x))) ∧
  (∀ (s : State) (cl lead : Nat) (a : Act), let k := s.cluster cl; k.evict = .none → lead < 8 → (k.core lead).run = .accepted →
    (k.core lead).act = some a → (∀ j < lead, (k.core j).run = .sealed) →
    (∀ j < 8, (k.core j).run = .sealed ∨ ((k.core j).run = .accepted ∧ (k.core j).act.isSome = true ∧ (k.core j).stopped = false)) →
    Answers (exec (.groupStart cl) s) fun t => t.outer = s.outer ∧ (∀ q, q ≠ cl → t.cluster q = s.cluster q) ∧
      (t.cluster cl).group = ⟨true, (k.core lead).pc, .none, none, none⟩ ∧ (t.cluster cl).onces = [] ∧
      ∀ j < 8, let c := k.core j; let d := (t.cluster cl).core j
        (c.run = .sealed → d = c) ∧ (c.run = .accepted → ∀ b, c.act = some b →
          d = { c with run := .running, att := decide (b.cls = a.cls), why := if b.cls = a.cls then 0 else 1, jpt := 0, buf := [], past := false }))

/-- The launch ends on a core that has nothing left of it (R174): what the launch put on the core is gone, and of its banks those that no
record keeps read 0 from then on; the marks of records that its bank controller still holds are performed (R254), and a record held for a
kept bank stays held (R76; log entry 25). With the last core its cluster is free. A held record is pushed again, with its mark once it is
committed (R76). A launch has ended once it has ended on each core that received a task message of it (R270): 1 is added to bits [47:0] of
its counter, and nothing else of HBM changes. -/
def Obligations.LaunchesEnd : Prop :=
  ((∀ (s : State) (r : CoreRef), let c := s.core r; let k := s.cluster r.cl; let i := Instr.coreLaunchEnd r
    let s1 := c.held.foldl (fun s h => s.markHeld r.cl h) s
    (c.run ≠ .idle ∨ c.act ≠ none ∨ c.parked ≠ [] ∨ c.ready ≠ [] ∨ c.redeliver ≠ [] ∨ c.mq ≠ [] ∨ c.copies ≠ [] ∨
      (∃ j ∈ k.jobs, j.core = r.core) ∨ (s.handleItem r).isSome = true → exec i s = .next s) ∧
    (s.mayEnd r = true → (∃ j < 8, j ≠ r.core ∧ (k.core j).run ≠ .off) → exec i s = .next { s1.updCore r Core.endLaunch with
      launches := s1.launches.map fun l => if l.id = k.launch then { l with cores := l.cores.filter fun p => p != (k.vc, r.core) } else l }) ∧
    (s.mayEnd r = true → (∀ j < 8, j ≠ r.core → (k.core j).run = .off) → Answers (exec i s) fun t => t.hbm = s.hbm ∧ t.flight = s.flight ∧
      (∀ q, q ≠ r.cl → t.cluster q = s.cluster q) ∧ (t.cluster r.cl).launch = 0 ∧ (t.cluster r.cl).powered = k.powered ∧
      afind t.placement (k.slot * 8192 + k.vc) = none ∧ ∀ n, n ≠ k.slot * 8192 + k.vc → afind t.placement n = afind s.placement n) ∧
    ∀ h, c.held = [h] → k.evict ≠ .streaming →
      (c.commitRecord h = none → exec (.recordRetry r) s = .next (s.updCore r id)) ∧
      ∀ d, c.commitRecord h = some d →
        exec (.recordRetry r) s = .next (((s.setCore r d).markHeld r.cl h).updCore r fun c => { c with held := [] })) ∧
  (∀ (c : Core) (h : Held), (pushItem c h.bank 64 (h.words ++ [0, 0, 0, 0]) = none → c.commitRecord h = none) ∧
    ∀ d j, pushItem c h.bank 64 (h.words ++ [0, 0, 0, 0]) = some (d, j) → c.commitRecord h = some { d with
      engPend := d.engPend || bit (d.cr_ Cr.stat) 4, engSlot := some (d.engSlot.getD (slotAddr (c.bank h.bank) 0 j)) }) ∧
  ∀ c : Core, let d := c.endLaunch
    d.run = .off ∧ d.act = none ∧ d.parked = [] ∧ d.ready = [] ∧ d.classes = [] ∧ d.trigs = [] ∧ d.cr = c.cr ∧ d.flags = c.flags ∧
    (∀ g, g ∈ d.held ↔ ∃ h ∈ c.held, (c.keptFor h.bank).isSome = true ∧ g = { h with mark := none }) ∧
    ∀ b < 16, (c.keptFor b = none → ∀ x, span (b * 0x4000) 0x4000 x → d.store.get x = 0) ∧
      ((c.bank b).first = b → (c.bank b).gsize = 0 → c.keptFor b ≠ none → ∀ x, span (b * 0x4000) 0x4000 x → d.store.get x = c.store.get x)) ∧
  (∀ (s : State) (id : Nat) (l : Launch), let i := Instr.launchComplete id; s.launchNo id = some l →
    (l.cores ≠ [] ∨ l.ended = true ∨ l.next < l.need → exec i s = .next s) ∧
    (l.cores = [] → l.ended = false → l.need ≤ l.next → l.replay = none → ∀ h, stationTranslate s (s.copyFor l.pid l.ctx).root l.counter .both = .ok h →
      h < 2 ^ 40 → s.hbm.poisoned h 8 = false → s.flaws = [] → Answers (exec i s) fun t =>
        t.hbm.read8 h = setBits (s.hbm.read8 h) 0 48 (bits (s.hbm.read8 h) 0 48 + 1) ∧ (∀ x, ¬ span h 8 x → t.hbm.get x = s.hbm.get x) ∧
        (∀ r, { t.core r with pend := none } = { s.core r with pend := none }) ∧ t.placement = s.placement ∧
        (s.clustersOf id = [] → t.launchNo id = none) ∧
        (s.clustersOf id ≠ [] → ∃ m, t.launchNo id = some m ∧ m.ended = true)))

/-- A request that a blocked or moving destination sent back is issued again (R107, R334); after 2^16 cycles of RETRY under the limit of R230
an access raises MESH, and a posted item is dropped with a MESH record while the launch that posted it is there (R296). No record in
another launch (log entry 35), and the record's unit and detail (log entry 28), are the model's choices. A posted store or flag request is
performed at its core, behind what its source has sent there before (R72, R125, R245); a message goes into the inbox, or back while that
is full (R75, R194); with no entry for its destination a posted item is dropped with a MESH record at its source (R72, R168), while the
launch that posted it is there (R296). The record's unit and detail (log entry 28), and that there is none in another launch (log entry
35), are the model's choices. -/
def Obligations.ItemsInFlight : Prop :=
  (∀ (s : State) (r : CoreRef) (a : Access) (k : Nat) (f : Flight), (s.core r).pend = some a → s.flight[k]? = some f →
    let goes (i : Instr) (g : Stage) : Prop := exec i s = .next (s.updCore r fun c => { c with pend := some { a with stage := g } })
    let on (i : Instr) (g : Stage) : Prop := exec i s = .next { s with flight := setAt s.flight k { f with stage := g } }
    (∀ l, (a.stage = .retry l → goes (.retryReissue (.pend r)) .bank) ∧ (f.stage = .retry l → on (.retryReissue (.posted k)) .bank)) ∧
    (∀ p t, (a.stage = .backoff p t → t ≤ s.cyc → goes (.backoffReissue (.pend r)) (.home p)) ∧
      (f.stage = .backoff p t → t ≤ s.cyc → on (.backoffReissue (.posted k)) (.home p)) ∧
      (a.stage = .backoff p t → s.cyc < t → exec (.backoffReissue (.pend r)) s = .next s) ∧
      (f.stage = .backoff p t → s.cyc < t → exec (.backoffReissue (.posted k)) s = .next s)) ∧
    (a.stage = .retry true → ∀ t, a.since = some t → (2 ^ 16 ≤ (s.cyc - t).toNat → goes (.retryTimeout (.pend r)) (.answered (.trap tMESH a.addr))) ∧
      ((s.cyc - t).toNat < 2 ^ 16 → exec (.retryTimeout (.pend r)) s = .next s)) ∧
    (f.stage = .retry true → ∀ t, f.since = some t →
      (2 ^ 16 ≤ (s.cyc - t).toNat → f.fromStation = false → f.launch = (s.cluster f.src.cl).launch → (∀ it, f.body ≠ .record it) →
        exec (.retryTimeout (.posted k)) s = .next
          (({ s with flight := dropAt s.flight k } : State).record f.src f.recq f.tag (f.unit uMesh) tMESH f.recAddr f.meshDetail)) ∧
      (2 ^ 16 ≤ (s.cyc - t).toNat → f.launch ≠ (s.cluster f.src.cl).launch →
        exec (.retryTimeout (.posted k)) s = .next { s with flight := dropAt s.flight k }) ∧
      ((s.cyc - t).toNat < 2 ^ 16 → exec (.retryTimeout (.posted k)) s = .next s))) ∧
  (∀ (s : State) (k cl : Nat) (f : Flight), let t : CoreRef := ⟨cl, f.core⟩; let c := s.core t; let gone : State := { s with flight := dropAt s.flight k }
    let op := Instr.bankOperationRequest (.posted k); let msg := Instr.messageArrival k
    s.flight[k]? = some f → f.stage = .bank → (∀ g ∈ s.flight.take k, g.precedes s f = false) → f.fromStation = false →
    let lost (i : Instr) : Prop := placed s f.slot f.vc = none → f.launch = (s.cluster f.src.cl).launch →
      exec i s = .next (gone.record f.src f.recq f.tag (f.unit uMesh) tMESH f.recAddr f.meshDetail)
    let here : Prop := placed s f.slot f.vc = some ⟨false, cl⟩ ∧ (s.cluster cl).evict ≠ .streaming ∧ c.run ≠ .sealed
    (∀ n v, f.body = .flag n v → lost op ∧ (here → exec op s = .next (gone.updCore t fun c => c.setFlag n v))) ∧
    (∀ o x, f.body = .store o x → lost op ∧ (here → o < 0x40000 → (c.bank (o / 0x4000)).converting = false → c.hit o x.size = .plain →
      Answers (exec op s) fun u => u.flight = gone.flight ∧ u.core t = { c with store := (memAccess c.store x o 0).2 } ∧
        (∀ q, q ≠ t → u.core q = s.core q) ∧ u.hbm = s.hbm)) ∧
    (∀ it, f.body = .msg it → lost msg ∧ (here → c.redeliver = [] →
      (pushItem c 15 128 (setAt it 3 s.cyc) = none → s.routerFull f = false →
        exec msg s = .next { s with flight := setAt s.flight k { f with stage := .retry false } }) ∧
      ∀ d j, pushItem c 15 128 (setAt it 3 s.cyc) = some (d, j) →
        exec msg s = .next (gone.updCore t fun _ => { d with inboxRecq := aput d.inboxRecq j f.recq }))))

/-- A mesh access at its home on the own die (R72, R114): performed on plain memory as the access says, with its answer; a sealed core gives
REMOTE-ERROR, an absent one MESH; one that moves, streams or converts RETRY, a converting bank under the limit of R230. What a memory
access does (R105, R109, R110, R114): a load gives its bytes as its size and sign say; a store writes its bytes and no other; an AMO gives
the old value and writes a new one; a load or AMO that meets a poisoned word raises POISON and writes nothing. A load or AMO at its home
in HBM (R331, R114): performed as the access says, behind the posted stores it must stay behind; one that meets a blocked bank is backed
off, and counts at its core (R334). A posted store is performed the same way. Whether it opens its row or not, it changes nothing else of
any core; a hit in the edge buffer opens none (R331). What shares an activation or leaves the edge buffer is the model's choice (log entry
20). The answer returns to its instruction (R72, R105): its value goes to the destination register and BR, and the program goes on; a trap
is raised at the instruction. -/
def Obligations.AccessesAreServed : Prop :=
  (∀ (s : State) (r : CoreRef) (a : Access) (vc core o cl : Nat), let t : CoreRef := ⟨cl, core⟩; let c := s.core t; let i := Instr.bankOperationRequest (.pend r)
    (s.core r).pend = some a → a.stage = .bank → a.spread = none → a.scale = 0 → placeOf a.addr = .ok (.mesh vc core o) →
    chanKey vc core ∉ (s.core r).closed → s.postedBefore r vc core = false →
    (placed s (s.cluster r.cl).slot vc = none → MovesOn i s r { a with stage := .answered (.trap tMESH a.addr) }) ∧
    (placed s (s.cluster r.cl).slot vc = some ⟨true, cl⟩ → cl ≠ r.cl → MovesOn i s r { a with stage := .retry false }) ∧
    (placed s (s.cluster r.cl).slot vc = some ⟨false, cl⟩ → (s.cluster cl).evict = .streaming → MovesOn i s r { a with stage := .retry false }) ∧
    (placed s (s.cluster r.cl).slot vc = some ⟨false, cl⟩ → (s.cluster cl).evict ≠ .streaming →
      (c.run = .sealed → MovesOn i s r { a with stage := .answered (.trap tREMOTEERROR a.addr) }) ∧
      (c.run ≠ .sealed → c.isPort o = false → o < 0x40000 → (c.bank (o / 0x4000)).converting = true →
        MovesOn i s r { a with stage := .retry true, since := some (a.since.getD s.cyc) }) ∧
      (c.run ≠ .sealed → dieOf cl = dieOf r.cl → c.isPort o = false → o < 0x40000 → o + a.op.size ≤ 0x40000 →
        (c.bank (o / 0x4000)).converting = false → c.hit o a.op.size = .plain → t ≠ r →
        Answers (exec i s) fun u => let x := memAccess c.store a.op o a.addr
          u.core t = { c with store := x.2 } ∧ u.core r = { s.core r with pend := some { a with far := false, stage := .answered x.1 } } ∧
          (∀ q, q ≠ t → q ≠ r → u.core q = s.core q) ∧ u.hbm = s.hbm ∧ u.flight = s.flight))) ∧
  (∀ (m : Memory) (o n : Nat) (v : Word) (sg : Bool) (fn : Nat) (b d : Word), 0 < n → n ≤ 8 →
    (m.poisoned o n = false → memAccess m (.load n sg) o v = (.value (extend n sg (m.readLE o n)) none, m)) ∧
    (m.poisoned o n = true → memAccess m (.load n sg) o v = (.trap tPOISON v, m) ∧ memAccess m (.amo fn n b d) o v = (.trap tPOISON v, m)) ∧
    (let x := memAccess m (.store n d) o v;
      x.1 = .value 0 none ∧ x.2.readLE o n = d.toNat % 2 ^ (8 * n) ∧ ∀ q, ¬ span o n q → x.2.get q = m.get q) ∧
    (m.poisoned o n = false →
      let x := memAccess m (.amo fn n b d) o v;
      x.1 = .value (BitVec.ofNat 64 (m.readLE o n)) none ∧ (∀ q, ¬ span o n q → x.2.get q = m.get q) ∧
      x.2.readLE o n = amoNew fn n (m.readLE o n) (b.toNat % 2 ^ (8 * n)) (d.toNat % 2 ^ (8 * n)) % 2 ^ (8 * n)) ∧
    extend n false o = BitVec.ofNat 64 (o % 2 ^ (8 * n)) ∧ extend 8 sg o = BitVec.ofNat 64 o) ∧
  (∀ (s : State) (r : CoreRef) (a : Access) (p : Nat), p < 2 ^ 40 → s.flaws = [] →
    (let i := Instr.memoryRequest (.pend r) .clean; (s.core r).pend = some a → a.stage = .home p → s.globalBefore r p a.op = false →
      (∀ t, s.backsOff p = some t → Answers (exec i s) fun u => u.hbm = s.hbm ∧ (∀ q, q ≠ r → u.core q = s.core q) ∧
        (u.core r).pend = some { a with joined := false, stage := .backoff p t } ∧ (u.core r).store = (s.core r).store ∧
        (u.core r).cr_ Cr.backoff = (s.core r).cr_ Cr.backoff + 1) ∧
      (s.backsOff p = none → a.tag = 0 ∨ stackOf p / 2 = dieOf r.cl → Answers (exec i s) fun u => let x := memAccess s.hbm a.op p a.addr
        u.hbm = x.2 ∧ u.placement = s.placement ∧
        u.core r = { s.core r with pend := some { a with far := stackOf p / 2 != dieOf r.cl, counted := false, stage := .answered x.1 } } ∧
        (∀ q, q ≠ r → { u.core q with pend := none } = { s.core q with pend := none }) ∧
        (s.edgeHit p = true → (∀ q, q ≠ r → u.core q = s.core q) ∧ u.flight = s.flight ∧ u.rows = s.rows))) ∧
    ∀ k f op h, s.flight[k]? = some f → f.body = .gstore p op h → f.stage = .home p → (∀ g ∈ s.flight.take k, g.precedes s f = false) →
      s.backsOff p = none → Answers (exec (.memoryRequest (.posted k) .clean) s) fun u =>
        u.hbm = (memAccess s.hbm op p 0).2 ∧ (∀ q, { u.core q with pend := none } = { s.core q with pend := none }) ∧
        (s.edgeHit p = true → u.flight = dropAt s.flight k ∧ u.clusters = s.clusters)) ∧
  (∀ (s : State) (r : CoreRef) (a : Access), let s0 : State := { s with cur := r }; let u := s0.upd fun c => { c with pend := none }; let c := s.core r
    let i := Instr.accessResponse r .own; c.pend = some a → a.lane = 16 →
    (∀ w br, a.stage = .answered (.value w br) → Answers (exec i s) fun t => let t' : State := { t with cur := r }
      t.cur = s.cur ∧ OnlyMine u t' ∧ u.me.Keeps t'.me (fun x => ∃ d, destOf a.instr = some d ∧ d ≠ 0 ∧ span (sAddr c d) 8 x) onlyStat ∧
      GoesOn u t' a.instr ∧ (∀ d, destOf a.instr = some d → t'.me.s d = if d = 0 then 0 else w) ∧ (∀ b < 4, br = some b → t'.me.br = b) ∧
      (br = none → t'.me.cr_ Cr.stat = c.cr_ Cr.stat)) ∧
    (∀ e v, a.stage = .answered (.trap e v) → e ≠ tLINKLOST → a.counted = false ∨ e ≠ tPOISON → exec i s = .next { u.raise e v with cur := s.cur }))

/-- Translation (R284 to R291): a cached leaf decides; a miss waits on the walk of its page that is in progress at its station, or starts one
at the root, while the station has room for it, and sees the entries as they stand when it starts (R290); each read of the walk goes on,
or ends it with TRANSLATION, or comes again when its bank is blocked (its back-offs as in log entry 40; a poisoned entry is no mapping,
log entry 20); a leaf grants the access or raises PERMISSION, and a granted load of HBM goes to its home. What a mapping grants (R284 to
R287): reads need R, writes W, an AMO both, fetches X; a reserved space or HBM beyond 1 TiB is no mapping. An invalidation by a core, or
by the host in its turn, drops the cached entries that it names at once and is complete when the accesses granted through them are done
(R292). When an invalidation is complete, and that it then drops what later walks have cached, is the model's reading of R292 (log entry
40). The memory side (R317, R318, R332, R333, R336): a block ends at its time, or goes on with the next row; a refresh window clears its
stack's counters; a scrub finds the error that stands in its burst, counts what it corrects, and poisons the word that it cannot correct,
in HBM, in a store and in a flag page. How errors count in UNCORR and SUNCORR is log entry 37's reading. -/
def Obligations.TranslationAndMemory : Prop :=
  (∀ (s : State) (r : CoreRef) (a : Access), let slot := (s.cluster r.cl).slot; let st := stationOf r.cl; let va := bits a.addr 0 57
    let i := Instr.translationRequest (.pend r); let w := Instr.walkStepComplete (.pend r); (s.core r).pend = some a →
    let leads (moves : Access → Prop) (pte : Pte) : Prop :=
      (∀ e, leafAccess pte va a.op.need = .error e → moves { a with stage := .answered (.trap e a.addr) }) ∧
      ∀ p n sg, a.op = .load n sg → leafAccess pte va .read = .ok p → spaceOf p = 0 → moves { a with stage := .home p }
    let read (x : Access) : Prop := Answers (exec w s) fun u => u.core r = { s.core r with pend := some x } ∧ u.hbm = s.hbm ∧
      u.placement = s.placement ∧ ∀ q, q ≠ r → { u.core q with pend := none } = { s.core q with pend := none }
    (a.stage = .translate ∨ a.stage = .waiting → (∀ pte, cachedLeaf s st slot va = some pte → leads (MovesOn i s r) pte) ∧
      (cachedLeaf s st slot va = none →
        (s.pageWalks st slot va = true → MovesOn i s r { a with stage := .waiting }) ∧
        (s.pageWalks st slot va = false → ((s.pendsAt st).filter fun x => x.2.walks).length < 256 → cachedPointer s st slot va = none →
          (∀ t, rootOf s slot = some t → MovesOn i s r { a with stage := .walk 4 t 0 (walkSeen s va 4 t) }) ∧
          (rootOf s slot = none → MovesOn i s r { a with stage := .answered (.trap tTRANSLATION a.addr) })))) ∧
    (∀ l t, (walkSeen s va l t).head? = some (pteRead s t l va) ∧
      ∀ u, 0 < l → pteOf l (pteRead s t l va) = .pointer u → (walkSeen s va l t).tail = walkSeen s va (l - 1) u) ∧
    (∀ l t till seen, a.stage = .walk l t till seen → let p := entryAt t l va; let v : Word := if s.hbm.poisoned p 8 then 0 else seen.headD 0
      (s.cyc < till → exec w s = .next s) ∧
      (till ≤ s.cyc → p + 8 ≤ 2 ^ 40 → ∀ e, s.backsOff p = some e → MovesOn w s r { a with stage := .walk l t e seen }) ∧
      (till ≤ s.cyc → s.pendsAt st = [(r, a)] → 2 ^ 40 < p + 8 → MovesOn w s r { a with stage := .answered (.trap tTRANSLATION a.addr) }) ∧
      (till ≤ s.cyc → s.pendsAt st = [(r, a)] → p + 8 ≤ 2 ^ 40 → s.backsOff p = none → s.flaws = [] →
        (pteOf l v = .none → read { a with stage := .answered (.trap tTRANSLATION a.addr) }) ∧
        (∀ u, pteOf l v = .pointer u → read { a with stage := .walk (l - 1) u 0 seen.tail }) ∧
        ∀ base pb x y z, pteOf l v = .leaf base pb x y z → leads read (.leaf base pb x y z)))) ∧
  (∀ (base pb va : Nat) (x y z : Bool), let p := base + va % 2 ^ pb; let g (n : Need) := leafAccess (.leaf base pb x y z) va n
    (4 ≤ spaceOf p ∨ (spaceOf p = 0 ∧ 2 ^ 40 ≤ p) → ∀ n, g n = .error tTRANSLATION) ∧
    (spaceOf p < 4 → (spaceOf p = 0 → p < 2 ^ 40) →
      g .read = (if x then .ok p else .error tPERMISSION) ∧ g .write = (if y then .ok p else .error tPERMISSION) ∧
      g .both = (if x && y then .ok p else .error tPERMISSION) ∧ g .fetch = (if z then .ok p else .error tPERMISSION)) ∧
    (∀ n, leafAccess .none va n = .error tTRANSLATION) ∧
    ∀ l e, bit e 0 = false ∨ bits e 52 12 ≠ 0 ∨ bits e 8 4 ≠ 0 → pteOf l e = .none) ∧
  (∀ (s : State) (v : Word) (src : Origin), (∀ m, src ≠ .peer m) → (src = .host → s.hostWaits 0 = false) → let slot := bits v 0 8; let first := bits (s.ctlGet Reg.invaddr) 12 45
    let meets (e : Cached) : Prop := e.page < first + bits v 16 32 ∧ first < e.page + 2 ^ e.span
    let does (i : Instr) (keep : Cached → Prop) : Prop := s.invalidating = none → bits v 9 7 = 0 → bits v 48 16 = 0 → Answers (exec i s) fun t =>
      t.invalidating = some (v, s.ctlGet Reg.invaddr) ∧ (∀ e, e ∈ t.cached ↔ e ∈ s.cached ∧ keep e) ∧
      { t with cached := [], invalidating := none, ctl := [] } = { s with cached := [], invalidating := none, ctl := [] } ∧
      ∀ n, n ≠ Reg.invcmd → t.ctlGet n = s.ctlGet n
    (bit v 8 = true → does (.invalidateSlot src v) fun e => e.slot ≠ slot) ∧
    (bit v 8 = false → does (.invalidateRange src v) fun e => ¬ (e.slot = slot ∧ meets e)) ∧
    ∀ w x, s.invalidating = some (w, x) → (s.grantsOf (bits w 0 8) = true → exec .invalidationComplete s = .next s) ∧
      (s.grantsOf (bits w 0 8) = false → Answers (exec .invalidationComplete s) fun t => t.invalidating = none ∧
        { t with cached := [], invalidating := none } = { s with cached := [], invalidating := none } ∧
        ∀ e ∈ t.cached, e ∈ s.cached ∧ (bit w 8 = true → e.slot ≠ bits w 0 8))) ∧
  (∀ (s : State) (st ch b : Nat),
    (Answers (exec (.bankBlockEnd st ch b) s) fun t => { t with blocked := [] } = { s with blocked := [] } ∧
      let due (x : Blocked) : Prop := x.stack = st ∧ x.chan = ch ∧ x.bank = b ∧ x.till ≤ s.cyc
      ∀ x, x ∈ t.blocked ↔ (x ∈ s.blocked ∧ ¬ due x) ∨ ∃ y ∈ s.blocked, due y ∧ ∃ n rest, y.rows = n :: rest ∧ x = { y with till := y.till + 608, rows := rest }) ∧
    (Answers (exec (.refreshWindowStart st) s) fun t => { t with rows := [] } = { s with rows := [] } ∧
      ∀ x, x ∈ t.rows ↔ x ∈ s.rows ∧ (x.1 / 2 ^ 26 = st → x.2.1 = s.windowNo st)) ∧
    (∀ p w n, afind s.rows (keyOfRow p) = some (w, n) → stackOf p = st → w ≠ s.windowNo st → s.rowCount p = 0) ∧
    (∀ a w bad, a < 2 ^ 40 → s.flaws = [(w, bad)] → w / 8 = a / 64 → exec (.hbmScrub a .clean) s =
      exec (.hbmScrub (8 * w) (if bad then .uncorrectable else .corrected)) { s with flaws := [] }) ∧
    (∀ a, a < 2 ^ 40 → (∀ x ∈ s.flaws, x.1 / 8 ≠ a / 64) → exec (.hbmScrub a .clean) s = .next s ∧
      (Answers (exec (.hbmScrub a .corrected) s) fun t => { t with ctl := [] } = { s with ctl := [] } ∧
        t.ctlGet (Reg.scorr + 32 * stackOf a) = satAdd (s.ctlGet (Reg.scorr + 32 * stackOf a)) 1 ∧ t.ctlGet Reg.corr = satAdd (s.ctlGet Reg.corr) 1) ∧
      (Answers (exec (.hbmScrub a .uncorrectable) s) fun t => { t with ctl := [], hbm := s.hbm } = { s with ctl := [] } ∧
        t.ctlGet (Reg.suncorr + 32 * stackOf a) = satAdd (s.ctlGet (Reg.suncorr + 32 * stackOf a)) 1 ∧
        t.ctlGet Reg.uncorr = satAdd (s.ctlGet Reg.uncorr) 1 ∧ t.hbm.cells = s.hbm.cells ∧ ∀ w, w ∈ t.hbm.poison ↔ w = a / 8 ∨ w ∈ s.hbm.poison)) ∧
    (∀ (r : CoreRef) o, exec (.storeScrub r o .clean) s = .next s ∧ exec (.storeScrub r o .corrected) s = .next (s.bump Reg.corr 1) ∧
      (o < 0x40000 → Answers (exec (.storeScrub r o .uncorrectable) s) fun t => t.hbm = s.hbm ∧ (∀ q, q ≠ r → t.core q = s.core q) ∧
        t.ctlGet Reg.uncorr = satAdd (s.ctlGet Reg.uncorr) 1 ∧ (t.cluster r.cl).errors = (s.cluster r.cl).errors + 1 ∧
        (t.core r).store.cells = (s.core r).store.cells ∧ ∀ w, w ∈ (t.core r).store.poison ↔ w = o / 8 ∨ w ∈ (s.core r).store.poison) ∧
      (0x40000 ≤ o → Answers (exec (.storeScrub r o .uncorrectable) s) fun t => t.hbm = s.hbm ∧ (∀ q, q ≠ r → t.core q = s.core q) ∧
        t.ctlGet Reg.uncorr = satAdd (s.ctlGet Reg.uncorr) 1 ∧ (t.core r).flags = (s.core r).flags ∧ (t.core r).store = (s.core r).store ∧
        ∀ w, w ∈ (t.core r).flagPoison ↔ w = o % 32 / 8 ∨ w ∈ (s.core r).flagPoison)))

/-- A launch queue (R265, R266, R281, R313): a fetch-and-add of 1 at RESERVE takes a ticket while bring-up is done and an entry is free, and
gives all ones else; a peer's is performed once under its tag; the eight words of an entry, each written once, push it; an entry left
incomplete for 2^24 cycles is discarded; what the window does not take counts in REFUSED, and a dropped read gives 0. The station control
path (R298, R309, R335): a write within a register's layout and range is kept; any other access is dropped and counts in REFUSED of queue
0, and a dropped read gives 0; a peer's is refused and counted. That an unassigned offset is dropped and counted is the model's reading of
R309 (log entry 41). -/
def Obligations.DeviceWindow : Prop :=
  (∀ (s : State) (src : Origin) (q i k : Nat) (v : Word) (core tag : Nat) (again : Bool), q < 64 → (src = .host → s.guests = [] ∧ s.boot.inReset = false ∧ s.boot.romRead = true) →
    let x := s.queue q; let more := s.setQueue q { x with refused := x.refused + 1 }
    let res := exec (.queueReserve src q v core tag again) s; let peer : Option Nat := match src with | .peer m => some m | _ => none
    let given (t : State) (w : Word) : State := match src with
      | .peer m => (t.remember ownerModule m core tag (.value w none)).say (.atomic w)
      | _ => t.answer src (.atomic w)
    (s.peerRefused src q = true → res = .next (more.answer src (.atomic (BitVec.ofNat 64 (2 ^ 64 - 2)))) ∧ exec (.queueEntryWrite src q i k v) s = .next more) ∧
    (s.peerRefused src q = false → (∀ m, src = .peer m →
      (∀ w br, s.lookup ownerModule m core tag again = .recorded (.value w br) → res = .next (s.say (.atomic w))) ∧
      (s.lookup ownerModule m core tag again = .expired → res = .next (s.say .expired)) ∧
      (s.lookup ownerModule m core tag again = .fresh → s.dedupFull = true → res = .next (s.say .retry)))) ∧
    (s.peerRefused src q = false → (∀ m, src = .peer m → s.lookup ownerModule m core tag again = .fresh ∧ s.dedupFull = false) →
      (s.boot.state ≠ 5 ∨ v ≠ 1 ∨ x.take + 32 ≤ x.resv → res = .next (given more (BitVec.allOnes 64))) ∧
      (s.boot.state = 5 → v = 1 → x.resv < x.take + 32 →
        res = .next (given (s.setQueue q { x with resv := x.resv + 1, entries := x.entries ++ [⟨x.resv, [], s.cyc, peer, none⟩] })
          (BitVec.ofNat 64 (x.resv % 2 ^ 32))))) ∧
    (s.peerRefused src q = false →
      (x.entries.find? (fun e => e.ticket % 32 == i) = none → exec (.queueEntryWrite src q i k v) s = .next more) ∧
      ∀ e, x.entries.find? (fun e => e.ticket % 32 == i) = some e → ((afind e.words k).isSome = true ∨ 8 ≤ k → exec (.queueEntryWrite src q i k v) s = .next more) ∧
        (afind e.words k = none → k < 8 → Answers (exec (.queueEntryWrite src q i k v) s) fun t =>
          { t with queues := [], pushes := 0 } = { s with queues := [], pushes := 0 } ∧ (∀ p, p ≠ q → t.queue p = s.queue p) ∧
          t.pushes = (if e.words.length = 7 then s.pushes + 1 else s.pushes) ∧
          let e' : QEntry := { e with words := aput e.words k v, peer := peer.or e.peer, pushed := if e.words.length = 7 then some s.pushes else none }
          t.queue q = { x with entries := x.entries.map fun y => if y.ticket = e.ticket then e' else y })) ∧
    (∀ e, x.entries.find? (fun e => e.pushed.isNone && decide (2 ^ 24 ≤ (s.cyc - e.at_).toNat)) = some e → Answers (exec (.entryDiscard q) s) fun t =>
      { t with queues := [] } = { s with queues := [] } ∧ (∀ p, p ≠ q → t.queue p = s.queue p) ∧ (t.queue q).discarded = x.discarded + 1 ∧
      (t.queue q).entries = x.entries.filter fun y => y.ticket != e.ticket) ∧
    ∀ o < 0x1000, let off := 0x1000 * q + o; exec (.droppedWindowAccess src off false) s = .next more ∧
      exec (.droppedWindowAccess src off true) s =
        .next (more.answer src (.readData (bytesLE 0 8) false))) ∧
  (∀ (s : State) (src : Origin) (o : Nat) (v : Word), (src = .host → s.guests = [] ∧ s.boot.inReset = false ∧ s.boot.romRead = true) → let i := Instr.controlPathWrite src o v
    let drop : State := s.setQueue 0 { s.queue 0 with refused := (s.queue 0).refused + 1 }; let at_ := 0x100000 + o
    (∀ m, src = .peer m → let t : State := { s.bump Reg.peerref 1 with replies := s.replies ++ [.refused] }
      exec i s = .next t ∧ exec (.droppedWindowAccess src at_ true) s = .next t ∧ exec (.faccept src v) s = .next t ∧ exec (.attcmd src v) s = .next t ∧
      exec (.invalidateSlot src v) s = .next t ∧ exec (.invalidateRange src v) s = .next t) ∧
    ((∀ m, src ≠ .peer m) → exec (.droppedWindowAccess src at_ false) s = .next drop ∧
      exec (.droppedWindowAccess src at_ true) s = .next (drop.answer src (.readData (bytesLE 0 8) false)) ∧
      (ctlLayout o = none → exec i s = .next drop) ∧
      ∀ m low high, ctlLayout o = some (m, low, high) →
        (o % 8 ≠ 0 ∨ v &&& ~~~m ≠ 0 ∨ v.toNat < low ∨ high < v.toNat → exec i s = .next drop) ∧
        ((o = Reg.evbase ∨ o = Reg.evcount) → s.evicted ≠ [] → exec i s = .next drop) ∧
        (o % 8 = 0 → v &&& ~~~m = 0 → low ≤ v.toNat → v.toNat ≤ high → (o = Reg.evbase ∨ o = Reg.evcount → s.evicted = []) → Answers (exec i s) fun t =>
          { t with ctl := [] } = { s with ctl := [] } ∧ ∀ n, t.ctlGet n = if n = o then v else s.ctlGet n)) ∧
    ctlLayout Reg.ramth = some (0x3FFF, 16, 8192) ∧ ctlLayout Reg.pwrlim = some (0x1FFF, 2400, 5400) ∧ ctlLayout Reg.modid = some (0xFF, 0, 2 ^ 64))

/-- A station takes the head of a queue (R267, R268, R270, R275, R354): it waits for a dependency, refuses a packet that is malformed or
denied and marks its counter with the code, and admits the launch that the packet describes. Its reads of HBM change no word of it, and no
core but where an access waits. That the packet is judged as it stands when it is taken, in R354's order, is the model's reading (log
entry 25). A placement (R275, R276, R59, R198, R200): the station reads the code object again (R269); the placement entry names the
cluster; its cores stand idle with the launch's classes, parameter and numbers; each core of the launch is sent a task message. A launch
whose code object no longer keeps the rule is refused before its first group. A replay's next entry is admitted like a packet (R279). That
the code object is read again at placement, and refused only before the first group, is the model's reading of R269 (log entry 25). -/
def Obligations.LaunchStations : Prop :=
  (∀ (s : State) (q order : Nat) (e : QEntry), s.readyHead q = some (e, order) → s.flaws = [] →
    let w := e.packet; let i := Instr.launchTake q; let w0 := w.getD 0 0; let d := w.getD 4 0; let x := s.queue q
    let s1 := s.setQueue q (({ x with take := x.take + 1, entries := x.entries.filter fun y => y.ticket != e.ticket } : Queue).skip 32)
    let cores (t : State) : Prop := ∀ r, { t.core r with pend := none } = { s.core r with pend := none }
    let off (t : State) : Prop := (t.queue q).entries = (s.queue q).entries.filter (fun y => y.ticket != e.ticket) ∧ (∀ p, p ≠ q → t.queue p = s.queue p) ∧ cores t
    let refused (code : Nat) : Prop := Answers (exec i s) fun t => off t ∧ t.launches = s.launches ∧
      ∀ c h, s.contextOf (s.regionPid (regionOf w0)) = some c → stationTranslate s c.2.root (w.getD 3 0) .both = .ok h → h < 2 ^ 40 →
        s.hbm.poisoned h 8 = false → t.hbm.read8 h = markedCounter (s.hbm.read8 h) code ∧ ∀ x, ¬ span h 8 x → t.hbm.get x = s.hbm.get x
    (depFieldsOk w = false → refused lFORMAT) ∧
    (∀ c v, depFieldsOk w = true → d ≠ 0 → s.contextOf (s.regionPid (regionOf w0)) = some c → (stationRead s q c.2.root 0 d).1 = some v →
      (bit v 63 = true → refused lDEPENDENCY) ∧ (bit v 63 = false → bits v 0 48 < bits (w.getD 5 0) 0 48 → Answers (exec i s) fun t =>
        t.queues = s.queues ∧ t.launches = s.launches ∧ t.hbm = s.hbm ∧ cores t)) ∧
    (depFieldsOk w = true → d = 0 → bit w0 17 = false → (packetOk w = false → refused lFORMAT) ∧ (packetOk w = true →
      (peerDenied s q e = true → refused lACCESS) ∧ (peerDenied s q e = false →
        (∀ c, (admitLaunch s1 q order w (w.getD 2 0) none).1 = .error c → refused c) ∧
        ∀ l, (admitLaunch s1 q order w (w.getD 2 0) none).1 = .ok l →
          (Answers (exec i s) fun t => off t ∧ t.launches = s.launches ++ [l] ∧ t.nextLaunch = s.nextLaunch + 1 ∧ t.hbm = s.hbm) ∧
          l.id = s.nextLaunch ∧ l.cls = bits w0 0 4 ∧ l.cohort = bit w0 16 ∧ (l.cluster = true ↔ bits w0 28 4 = 1) ∧ l.count = bits w0 32 16 ∧
          l.need = (if l.cluster then l.count else (l.count + 7) / 8) ∧ l.param = w.getD 2 0 ∧ l.counter = w.getD 3 0 ∧ l.tag = w.getD 7 0 ∧
          l.nv = bits (w.getD 6 0) 0 5 ∧ l.frames = bits (w.getD 6 0) 8 8 ∧ l.vb + l.need ≤ 8192 ∧ l.next = 0 ∧ l.cores = [])))) ∧
  (∀ (s : State) (id vc cl : Nat) (l : Launch), s.launchNo id = some l → s.flaws = [] →
    let slot := (s.slotNow l).1; let n := vc - l.vb; let read := takeCode s l.queue (s.slotNow l).2.root l.code.base l.cls l.cluster.toNat l.nv l.frames
    (s.mayPlace l = false → exec (.launchPlace id) s = .next s) ∧
    (∀ c, s.mayPlace l = true → s.placement_ l ≠ [] → read.1 = .error c → l.next = 0 → Answers (exec (.launchPlace id) s) fun t =>
      t.launchNo id = none ∧ t.placement = s.placement) ∧
    (∀ code, s.mayPlace l = true → s.placement_ l = [(vc, cl)] → read.1 = .ok code → Answers (exec (.launchPlace id) s) fun t => let k := t.cluster cl
      afind t.placement (slot * 8192 + vc) = some ⟨false, cl⟩ ∧ (∀ m, m ≠ slot * 8192 + vc → afind t.placement m = afind s.placement m) ∧
      k.launch = id ∧ k.slot = slot ∧ k.pid = l.pid ∧ k.vc = vc ∧ t.hbm = s.hbm ∧
      (∀ r : CoreRef, r.cl ≠ cl → { t.core r with pend := none } = { s.core r with pend := none }) ∧
      t.flight.drop s.flight.length =
        ((List.range 8).filter fun j => l.cluster || decide (8 * n + j < l.count)).map (fun j => taskFlight read.2 l slot vc j) ∧
      (∃ m, t.launchNo id = some m ∧ m.next = l.next + 1 ∧ m.vcs = l.vcs ++ [vc] ∧ m.code = code) ∧
      ∀ j < 8, let c := k.core j
        c.run = .idle ∧ c.act = none ∧ c.ready = [] ∧ c.classes = code.classes ∧ c.flags = 0 ∧ c.cr_ Cr.launch = l.param ∧ c.cr_ Cr.tvec = 0 ∧
        c.freeHead = (if l.frames = 0 then BitVec.allOnes 64 else 0) ∧
        (l.cluster = true → c.cr_ Cr.cid = BitVec.ofNat 64 (8 * n + j) ∧ c.cr_ Cr.gid = BitVec.ofNat 64 n)) ∧
    ∀ x w rest, s.replays.find? (fun x => x.id == id && x.current.isNone) = some x → x.entries = w :: rest →
      ∀ m, (admitLaunch s x.queue x.order w (w.getD 2 0) (some id)).1 = .ok m → Answers (exec (.replayEntryStart id) s) fun t =>
        t.launches = s.launches ++ [m] ∧ t.nextLaunch = s.nextLaunch + 1 ∧ t.hbm = s.hbm ∧
        t.replays = s.replays.map fun y => if y.id = id then { y with entries := rest, current := some m.id } else y)

/-- An eviction (R3, R297 to R302): only with PREEMPT; the victim's placement entry becomes moving; once its cores stand still they go on to
be streamed out with nothing outstanding, each at its pc and with its activation's header saved (R20); the save leaves the cluster free
for another launch, and every access to it RETRY. Which cluster is chosen where the rules leave it open, what is abandoned and what the
save waits for, and the moving entry that stays, are the model's readings of R297 to R302 (log entry 26). A resumption (R303 to R305): a
set of evicted clusters takes clusters when it may, and resumes with its placement entries in force and its held requests issued again; a
core whose block stands as it was saved resumes with its store and all else, and its ready entries go on waiting. What is executed again
after the resumption, and that the time for which an item has been sent back begins anew, are the model's readings (log entry 26). -/
def Obligations.Preemption : Prop :=
  ((∀ (s : State) (id b : Nat) (l : Launch) (v : Candidate) (rest : List Nat), let i := Instr.evictionStart id; let loc := (s.slotNow l).2.loc
    s.launchNo id = some l → (bit s.feat0 5 = false → exec i s = .next s) ∧
      (bit s.feat0 5 = true → s.servedNext l = true → s.evictingFor id = false → s.freeBlocks = b :: rest →
        chooseVictims loc (s.poolFor l) (areasOf loc (s.needVcs l)) (s.candidates l) = some [v] →
        let pl := aput s.placement ((s.cluster v.cl).slot * 8192 + v.vc) ⟨true, v.cl⟩
        let x : Evicted := ⟨s.nextSet, v.launch, v.vc, v.cl, b, some id, v.prio, false, none, [], none, none⟩
        exec i s = .next { s.updCluster v.cl fun k => { k with evict := .moving } with placement := pl, nextSet := s.nextSet + 1, evicted := s.evicted ++ [x] })) ∧
  (∀ (s : State) (cl : Nat), let k := s.cluster cl; k.evict = .moving → s.enginesSettled cl = true →
    (∀ j < 8, (k.core j).run = .sealed ∨ (k.core j).settled = true) → Answers (exec (.saveStreamStart cl) s) fun t => t.outer = s.outer ∧
      (∀ p, p ≠ cl → t.cluster p = s.cluster p) ∧ (t.cluster cl).evict = .streaming ∧ (t.cluster cl).group = k.group ∧
      ∀ j < 8, let c := k.core j; let d := (t.cluster cl).core j
        d.pend = none ∧ d.wait = none ∧ d.pc = c.pc ∧ d.act = c.act ∧ d.parked = c.parked ∧ d.ready = c.ready ∧ (∀ m, d.cr_ m = c.cr_ m) ∧
        (c.act = none → d.store = c.store) ∧ (c.act.isSome = true → d.store = (c.saveHeader c.workspace c.pc).store) ∧
        ∀ x ∈ d.copies, x.started = false) ∧
  ∀ (s : State) (cl : Nat) (e : Evicted) (l : Launch), let k := s.cluster cl; k.evict = .streaming → e.phys = cl → e.saved = false → e.spareDie = none →
    s.evicted.find? (fun e => e.phys == cl && !e.saved) = some e → s.launchNo e.launch = some l → s.outOfService.contains cl = false → s.flaws = [] →
    (∀ f ∈ s.flight, f.src.cl = cl → f.fromStation = true) →
    (∀ j < 8, (k.core j).run ≠ .sealed ∧ (k.core j).store.wf = true ∧ ∀ p ∈ (k.core j).store.cells, p.1 < 0x40000) →
    Answers (exec (.saveComplete cl) s) fun t => (t.cluster cl).launch = 0 ∧ (t.cluster cl).powered = k.powered ∧ (t.cluster cl).evict = .none ∧
      (∀ j < 8, (t.core ⟨cl, j⟩).run = .off) ∧ (∀ r : CoreRef, r.cl ≠ cl → { t.core r with pend := none } = { s.core r with pend := none }) ∧
      afind t.placement (k.slot * 8192 + k.vc) = some ⟨true, 8192⟩ ∧ t.flight.length = s.flight.length ∧
      t.evicted = s.evicted.map (fun x =>
        if x.phys = cl ∧ x.saved = false then { e with saved := true, save := some (k.image l s.cyc), outbound := [] } else x) ∧
      (∀ x, ¬ span (s.blockBase e.block) 0x240000 x → t.hbm.get x = s.hbm.get x) ∧
      ∀ j < 8, ∀ x < 0x40000, t.hbm.get (s.blockBase e.block + 0x42000 * j + 0x2000 + x) = (k.core j).store.get x) ∧
  (∀ (s : State) (n cl vc : Nat) (e : Evicted) (l : Launch), s.setOf n = [e] → s.launchNo e.launch = some l → e.vc = vc →
    (s.mayResume n = false → exec (.resumption n) s = .next s) ∧
    (s.mayResume n = true → s.resumeOn n = [(vc, cl)] → Answers (exec (.resumption n) s) fun t => let k := t.cluster cl
      k.launch = l.id ∧ k.slot = (s.slotNow l).1 ∧ k.vc = vc ∧ k.pid = l.pid ∧ k.evict = .streaming ∧ k.cores = (s.cluster cl).cores ∧
      (∀ p, p ≠ cl → t.cluster p = s.cluster p) ∧ t.hbm = s.hbm ∧ t.setOf n = [{ e with target := some cl }]) ∧
    (e.target = none → exec (.restoreComplete n) s = .next s) ∧
    ∀ k, e.target = some cl → e.saved = true → e.save = some k → s.flaws = [] →
      (∀ j < 8, s.hbm.poisoned (s.blockBase e.block + 0x42000 * j) 0x42000 = false) →
      Answers (exec (.restoreComplete n) s) fun t => let p := s.cluster cl
        (t.cluster cl).launch = l.id ∧ (t.cluster cl).evict = .none ∧ (t.cluster cl).vc = vc ∧ (t.cluster cl).slot = p.slot ∧
        afind t.placement (p.slot * 8192 + vc) = some ⟨false, cl⟩ ∧ t.hbm = s.hbm ∧ t.setOf n = [] ∧
        (∀ r : CoreRef, r.cl ≠ cl → { t.core r with pend := none } = { s.core r with pend := none }) ∧
        t.flight.drop s.flight.length = e.outbound.map (fun f => { f with src := ⟨cl, f.src.core⟩, slot := p.slot, since := none, stage := match f.body with | .gstore a _ _ => .home a | _ => .bank }) ∧
        let base := s.blockBase e.block; let same (j : Nat) : Prop := (k.core j).buf.length ≤ 16 ∧ (∀ p ∈ changed s.hbm (base + 0x42000 * j) 0 (coreWords s l.code.text
          (512 + 64 * l.nv) (fun o => hiddenOf e (0x42000 * j + o)) (k.core j)), p.1 = Cr.cyc ∨ (0x40 ≤ p.1 ∧ p.1 < 80))
        changed s.hbm (base + 0x210000) 0 (clusterWords (hiddenOf e) e.outbound.length k) = [] → ∀ j < 8, same j → let d := t.core ⟨cl, j⟩
          (∀ x < 0x40000, d.store.get x = s.hbm.get (base + 0x42000 * j + 0x2000 + x)) ∧
          d.ready = ((k.core j).readyOrder.take 64).map (fun e => { e with since := t.cyc - e.since }) ∧
          d.stopped = ((k.core j).stopped || (p.core j).stopped) ∧ d.stopReq = (k.core j).stopReq.or (p.core j).stopReq ∧
          { d with store := Memory.empty, delays := [], delayPid := none, ready := [], stopped := false, stopReq := none, engSeq := 0 } =
            { k.core j with store := Memory.empty, delays := [], delayPid := none, ready := [], stopped := false, stopReq := none, engSeq := 0 })

/-- Seals, tests and stops (R178, R324, R326 to R328, R341). A sealed core holds no work and is reported and counted; a core that no launch
runs on comes back blank when its test passes, and a spare takes over when it fails; a cluster with 16 errors is retired while it is
empty; a stop takes effect at an activation boundary or ends a wait that may last for ever (R208), and is released. That a tested core of
an active group counts as halted (log entry 35), that a seal counts in UNCORR and the repair additions are made once (log entry 37), and
that a stop discards the wait that it ends (log entry 36), are the model's readings. Lost links and tags (R10, R116, R251, R311, R313): an
access on its way over a link that fails, or an answer on its way back, raises LINK-LOST and closes its channel, and the link is not used
again; a failed port leaves every ROUTE entry; an entry of the deduplication table expires after 16,384 cycles, and its tag is known as
expired. -/
def Obligations.SealsAndLinks : Prop :=
  (∀ (s : State) (r : CoreRef) (cause : Nat), let c := s.core r; let k := s.cluster r.cl; let bs := Instr.stopAtBoundary r
    (c.run = .sealed → exec (.coreSeal r cause) s = .next s) ∧
    (c.run ≠ .sealed → s.launchOf r.cl = none → c.copies = [] → (∀ j ∈ k.jobs, j.core ≠ r.core) → Answers (exec (.coreSeal r cause) s) fun t =>
      let d := t.core r
      d.run = .sealed ∧ d.act = none ∧ d.parked = [] ∧ d.ready = [] ∧ d.mq = [] ∧ d.pend = none ∧ d.att = false ∧ d.store = c.store ∧
      t.reports = s.reports ++ [(quadrant r.cl, .sealedCore r cause)] ∧ t.ctlGet Reg.sealed = satAdd (s.ctlGet Reg.sealed) 1 ∧
      t.ctlGet Reg.uncorr = satAdd (s.ctlGet Reg.uncorr) 1 ∧ (t.cluster r.cl).errors = k.errors + 1 ∧ t.hbm = s.hbm ∧
      (∀ q, q.cl ≠ r.cl → t.core q = s.core q)) ∧
    (c.run = .sealed → k.evict = .none → s.launchOf r.cl = none →
      exec (.coreTestComplete r true) s = .next (s.updCore r fun c => { Core.blank with delays := c.delays, delayPid := c.delayPid }) ∧
      (s.sparesOf (dieOf r.cl) ≠ 0 → k.failed = false → s.outOfService.contains r.cl = false → Answers (exec (.coreTestComplete r false) s) fun t =>
        t.repaired = s.repaired ++ [r.cl] ∧ t.flash.repairs = s.flash.repairs ++ [r.cl] ∧ t.cluster r.cl = { Cluster.blank with powered := true } ∧
        (∀ p, p ≠ r.cl → t.cluster p = s.cluster p) ∧ t.hbm = s.hbm) ∧
      (s.sparesOf (dieOf r.cl) = 0 → k.failed = false → Answers (exec (.coreTestComplete r false) s) fun t =>
        t.outOfService = s.outOfService ++ [r.cl] ∧ t.flash.repairs = s.flash.repairs ++ [r.cl] ∧ t.cluster r.cl = Cluster.blank)) ∧
    (∀ l, c.run = .sealed → k.evict = .none → s.launchOf r.cl = some l → k.vc ∈ l.vcs → Answers (exec (.coreTestComplete r true) s) fun t =>
      let d := t.core r
      OnlyCore s t r ∧ d.run = (if k.group.active then .halted else .idle) ∧ d.act = none ∧ d.ready = [] ∧ d.classes = l.code.classes ∧
      d.cr_ Cr.cid = c.cr_ Cr.cid ∧ d.cr_ Cr.gid = c.cr_ Cr.gid ∧ d.cr_ Cr.launch = l.param ∧ (c.redeliver = [] → (d.bank 15).count = 0)) ∧
    (k.launch = 0 → k.powered = true → k.evict = .none → k.failed = false → s.outOfService.contains r.cl = false →
      (k.errors < 16 → exec (.clusterRetire r.cl) s = .next s) ∧
      (16 ≤ k.errors → s.sparesOf (dieOf r.cl) ≠ 0 → Answers (exec (.clusterRetire r.cl) s) fun t => t.repaired = s.repaired ++ [r.cl] ∧
        t.flash.repairs = s.flash.repairs ++ [r.cl] ∧ t.cluster r.cl = { Cluster.blank with powered := true })) ∧
    (c.run ≠ .sealed → exec (.serviceStopRequest r) s = .next (s.updCore r fun c => { c with stopReq := some (c.stopReq.getD noCode) })) ∧
    (∀ n, c.stopReq = some n → (c.run = .running → c.wait = none → k.waitsOnce r.core = false → exec bs s = .next s) ∧
      ((c.act = none ∧ c.run = .idle) ∨ c.run = .accepted ∨ c.run = .joining ∨
        (c.run = .running ∧ c.pend = none ∧ c.conv = none ∧ ∃ w, c.wait = some w ∧ w ≠ .retry ∧ w ≠ .order) → c.untraced → k.evict = .none →
        let t := s.updCore r fun c => { c with stopped := true, stopReq := none, wait := none }
        exec bs s = .next (if n = noCode then t else { t with reports := t.reports ++ [(quadrant r.cl, .stop r n)] }))) ∧
    (c.stopped = true → k.group.active = false → exec (.serviceRelease r) s = .next (s.updCore r fun c => { c with stopped := false }))) ∧
  ((∀ (s : State) (r : CoreRef) (a : Access) (vc core o cl link : Nat), (s.core r).pend = some a → a.spread = none →
    placeOf a.addr = .ok (.mesh vc core o) → placed s (s.cluster r.cl).slot vc = some ⟨false, cl⟩ → s.flight = [] →
    let dead : State := { s with deadLinks := riseInsert s.deadLinks link }
    let lost (i : Instr) : Prop := Answers (exec i s) fun t => OnlyCore dead t r ∧ let d := t.core r
      d.pend = some { a with stage := .answered (.trap tLINKLOST a.addr) } ∧ chanKey vc core ∈ d.closed ∧
      { d with pend := none, closed := [] } = { s.core r with pend := none, closed := [] }
    (a.stage = .bank → (link ∈ s.linksOf r.cl cl → lost (.dieLinkFailure link [] [r] [])) ∧
      (link ∉ s.linksOf r.cl cl → exec (.dieLinkFailure link [] [r] []) s = .next dead)) ∧
    ∀ w br, a.stage = .answered (.value w br) → (a.far = true → link ∈ s.linksOf cl r.cl → lost (.dieLinkFailure link [] [] [r])) ∧
      (a.far = false ∨ link ∉ s.linksOf cl r.cl → exec (.dieLinkFailure link [] [] [r]) s = .next dead)) ∧
  (∀ (s : State) (p : Nat), p < 36 → s.flight = [] → Answers (exec (.filestenPortFailure p [] []) s) fun t => { t with ctl := [] } = { s with ctl := [] } ∧
    (∀ m < 256, let w := t.ctlGet (0x1000 + 8 * m); bit w p = false ∧ ∀ b, b ≠ p → bit w b = bit (s.ctlGet (0x1000 + 8 * m)) b) ∧
    ∀ n, (n < 0x1000 ∨ 0x1800 ≤ n) → t.ctlGet n = s.ctlGet n) ∧
  ∀ (s : State) (i : Nat) (d : Dedup), s.dedup[i]? = some d → let e := Instr.dedupEntryExpiry i; let k := markKey d.owner d.mod d.core
    ((s.cyc - d.at_).toNat < 16384 → exec e s = .next s) ∧
    (16384 ≤ (s.cyc - d.at_).toNat → exec e s = .next { s with dedup := dropAt s.dedup i, marks := aput s.marks k (max d.tag (aget 0 s.marks k)) }))

/-- The host's requests (R252, R306, R307, R334): reads, writes with byte enables, FetchAdd, Swap and CAS on HBM once bring-up has reached
state 4, behind earlier ones of their service core and sent back by a blocked bank; reads of a queue's counts and of the health registers
(R325); any other completes with Unsupported Request; an AtomicOp on a poisoned word changes nothing. In reset the module answers no
request, and before the ROM has read the flash each completes with Unsupported Request (R350; the first of the two, and that a backed-off
request is kept at the service core, are the model's: log entries 38 and 40). Peers (R253, R312, R313): with FABRIC, within a window that
allows it, a peer reads, writes, and performs an atomic once for its tag: what comes again under a recorded tag gets the same answer, and
a full table answers RETRY; anything else is refused and counted. That a request that meets a blocked bank is kept and comes again is the
model's reading (log entry 40). Bring-up (R347 to R351): the straps are sampled when PERST# goes; the ROM reads the flash, verifies an
image and goes to state 2, 8 or 9; 32 power waves of 256 clusters lead to state 3; training to state 4; the first FACCEPT sets FEAT0 to
what is offered and accepted, and leads to state 5. Configuration requests are answered once the flash is read. Which clusters the repair
map replaces is as log entry 38 says. The recovery window, attestation and power (R306, R349, R352, R353): an image is written and started
while the ROM waits for one; an attestation stores the next signature index before it signs, is busy until its report is written, and at
2^20 signs no more; a window's mean power moves the duty by one step, against the limit that stood when the window began. The window in
state 8, that an exhausted index refuses the report, and that OVER uses the duty before the change, are the model's readings (log entry
38). -/
def Obligations.HostPeersAndPlatform : Prop :=
  (∀ (s : State) (v bar a n w : Nat) (bs : List (Option Byte)) (x y : Word), bar ≠ 0 → s.flaws = [] → let b := s.boot; let early (i : Instr) : Prop :=
      (b.inReset = true → exec i s = .next s) ∧ (b.inReset = false → b.romRead = false → exec i s = .next { s with replies := s.replies ++ [.unsupported] })
    let up := s.boot.state = 4 ∨ s.boot.state = 5
    let core (r : CoreRef) (t : State) : Core := { t.core r with pend := none }
    let tells (i : Instr) (m : Memory → Prop) (p : Reply) : Prop := s.guests = [] → Answers (exec i s) fun t =>
      m t.hbm ∧ t.replies = s.replies ++ [p] ∧ t.guests = [] ∧ (∀ r, core r t = core r s) ∧ t.queues = s.queues
    let refuses (i : Instr) : Prop := exec i s = .next { s with replies := s.replies ++ [.unsupported] }
    (∀ c o, early (.hostMemoryRead v c o n) ∧ early (.hostMemoryWrite v c o bs) ∧ early (.hostFetchadd v c o w x) ∧ early (.hostSwap v c o w x) ∧
      early (.hostCas v c o w x y) ∧ early (.recoveryImageWrite o (bs.filterMap id)) ∧ early .recoveryImageComplete) ∧
    (b.inReset = false → b.romRead = true →
    (¬ up → refuses (.hostMemoryRead v bar a n) ∧ refuses (.hostMemoryWrite v bar a bs) ∧ refuses (.hostFetchadd v bar a w x) ∧
      refuses (.hostSwap v bar a w x) ∧ refuses (.hostCas v bar a w x y)) ∧
    (up → a + n ≤ 2 ^ 40 → let i := Instr.hostMemoryRead v bar a n; let g : Guest := ⟨v, none, a, .read n, false, 0⟩
      (s.lineBlocked a n = none → tells i (· = s.hbm) (.readData (s.hbm.bytes a n) (s.hbm.poisoned a n))) ∧
      (∀ h ∈ s.guests, h.peer = none → h.svc = v → exec i s = .next { s with guests := s.guests ++ [g] }) ∧
      ∀ l t, s.guests = [] → s.lineBlocked a n = some (l, t) → Answers (exec i s) fun u =>
        u.guests = [{ g with backed := true, till := t }] ∧ u.replies = s.replies ∧ u.hbm = s.hbm ∧ u.clusters = s.clusters) ∧
    (up → a + bs.length ≤ 2 ^ 40 → s.lineBlocked a bs.length = none → tells (.hostMemoryWrite v bar a bs) (fun m =>
      (∀ k, m.get k = if a ≤ k ∧ k < a + bs.length then (bs.getD (k - a) none).getD (s.hbm.get k) else s.hbm.get k) ∧
      ∀ k, k ∈ m.poison ↔ k ∈ s.hbm.poison ∧ ¬ (a ≤ 8 * k ∧ 8 * k + 8 ≤ a + bs.length ∧ ∀ j < 8, (bs.getD (8 * k - a + j) none).isSome = true)) .done) ∧
    ((w ≠ 4 ∧ w ≠ 8) ∨ a % w ≠ 0 → refuses (.hostFetchadd v bar a w x) ∧ refuses (.hostSwap v bar a w x) ∧ refuses (.hostCas v bar a w x y)) ∧
    (up → a + w ≤ 2 ^ 40 → w = 4 ∨ w = 8 → a % w = 0 → s.lineBlocked a w = none → let old := s.hbm.readLE a w
      let gives (i : Instr) (new : Nat) : Prop := (s.hbm.poisoned a w = false → tells i
          (fun m => m.readLE a w = new % 2 ^ (8 * w) ∧ ∀ k, ¬ span a w k → m.get k = s.hbm.get k) (.atomic (BitVec.ofNat 64 old))) ∧
        (s.hbm.poisoned a w = true → tells i (· = s.hbm) .abort)
      gives (.hostFetchadd v bar a w x) (old + x.toNat) ∧ gives (.hostSwap v bar a w x) x.toNat ∧
      gives (.hostCas v bar a w x y) (if old = x.toNat % 2 ^ (8 * w) then y.toNat else old)) ∧
    (s.guests = [] → (∀ o, (0x40000 ≤ o ∧ o < 0x100000) ∨ 0x104000 ≤ o → refuses (.hostMemoryRead v 0 o n)) ∧
      ∀ q < 64, let z := s.queue q; let data (d : Word) : Reply := .readData (bytesLE d.toNat 8) false
        let gets (o : Nat) (d : Word) : Prop := exec (.hostMemoryRead v 0 (0x1000 * q + o) 8) s = .next { s with replies := s.replies ++ [data d] }
        gets 0x008 (BitVec.ofNat 64 (z.take % 2 ^ 32 + z.resv % 2 ^ 32 * 2 ^ 32)) ∧ gets 0x010 (BitVec.ofNat 64 z.refused) ∧
        gets 0x018 (BitVec.ofNat 64 z.discarded) ∧
        exec (.hostMemoryRead v 0 (0x1000 * q) 8) s = .next ({ s with replies := s.replies ++ [data (BitVec.allOnes 64)] }.setQueue q { z with refused := z.refused + 1 }) ∧
        let reads (o : Nat) (d : Word) : Prop := exec (.hostMemoryRead v 0 (0x100000 + o) 8) s = .next { s with replies := s.replies ++ [data d] }
        let left (d : Nat) : Nat := if ∃ k ∈ s.outOfService, dieOf k = d then 0 else 32 - s.repaired.countP fun k => dieOf k == d
        let replace : Prop := ∃ d < 8, left d = 0; let out := s.outOfService
        (∀ o ∈ [0x58, 0x60, 0x68, 0x70], reads o (s.ctlGet o)) ∧ (∃ w, reads 0x50 w ∧ ∀ d < 8, bits w (6 * d) 6 = left d) ∧
        ∃ w, reads 0x48 w ∧ bits w 16 14 = 8192 - out.length ∧ bits w 3 13 = 0 ∧ bits w 30 34 = 0 ∧ (bit w 2 = true ↔ out ≠ []) ∧
          (bit w 1 = true ↔ replace) ∧ (bit w 0 = true ↔ out = [] ∧ ¬ replace)))) ∧
  (∀ (s : State) (m a n core tag fn : Nat) (bs : List Byte) (x y : Word) (re : Bool), s.flaws = [] → let amo := Instr.peerAtomic m core tag fn n a x y re
    let ok (n : Nat) (rd wr : Bool) : Prop := bit s.feat0 6 = true ∧ a + n ≤ 2 ^ 40 ∧ ∃ e < 64, s.pmemAllows e m a n rd wr = true
    let rest (r : CoreRef) (t : State) : Core := { t.core r with pend := none }
    let tells (i : Instr) (h : Memory → Prop) (p : Reply) : Prop := s.guests = [] → Answers (exec i s) fun t =>
      h t.hbm ∧ t.replies = s.replies ++ [p] ∧ t.guests = [] ∧ ∀ r, rest r t = rest r s
    let refuses (i : Instr) : Prop := exec i s = .next { s.bump Reg.peerref 1 with replies := s.replies ++ [.refused] }
    let known (p : Reply) : Prop := exec amo s = .next { s with replies := s.replies ++ [p] }
    (bit s.feat0 6 = false → refuses (.peerRead m a n) ∧ refuses (.peerWrite m a bs) ∧ refuses amo) ∧
    (¬ ok n true false → refuses (.peerRead m a n)) ∧ (¬ ok bs.length false true → refuses (.peerWrite m a bs)) ∧ (¬ ok n true true → refuses amo) ∧
    (ok n true false → s.lineBlocked a n = none → tells (.peerRead m a n) (· = s.hbm) (.readData (s.hbm.bytes a n) (s.hbm.poisoned a n))) ∧
    (ok bs.length false true → s.lineBlocked a bs.length = none → tells (.peerWrite m a bs)
      (fun h => ∀ k, h.get k = if a ≤ k ∧ k < a + bs.length then bs.getD (k - a) 0 else s.hbm.get k) .done) ∧
    (ok n true true → n = 4 ∨ n = 8 → a % n = 0 → fn < 12 → m ≠ ownModule →
      (∀ w br, s.lookup ownerModule m core tag re = .recorded (.value w br) → known (.atomic w)) ∧ (s.lookup ownerModule m core tag re = .expired → known .expired) ∧
      (s.lookup ownerModule m core tag re = .fresh → s.dedupFull = true → known .retry) ∧
      (s.lookup ownerModule m core tag re = .fresh → s.dedupFull = false → s.lineBlocked a n = none → s.hbm.poisoned a n = false →
        tells amo (fun h => h = (memAccess s.hbm (.amo fn n x y) a 0).2) (.atomic (BitVec.ofNat 64 (s.hbm.readLE a n))) ∧
        (s.guests = [] → Answers (exec amo s) fun t =>
          t.dedup = s.dedup ++ [⟨ownerModule, m, core, tag, .value (BitVec.ofNat 64 (s.hbm.readLE a n)) none, s.cyc⟩])))) ∧
  (∀ (s : State) (v : Word) (src : Origin), (∀ m, src ≠ .peer m) → (src = .host → s.guests = [] ∧ s.boot.inReset = false ∧ s.boot.romRead = true) → let b := s.boot; let reply (x : Reply) : State := { s with replies := s.replies ++ [x] }
    (b.inReset = true → exec .configRequest s = .next s ∧ Answers (exec (.perstDeassert v) s) fun t => t.boot = { b with inReset := false, straps := v &&& 0x1FF } ∧
      t.ctlGet Reg.modid = v &&& 0xFF ∧ { t with boot := b, ctl := [] } = { s with ctl := [] }) ∧
    (b.inReset = false → b.romRead = false → exec .configRequest s = .next (reply .retryStatus) ∧ exec .bootRomReadComplete s = .next { s with
      boot := { b with romRead := true, state := if bit b.straps 8 then 0 else 1, checking := !bit b.straps 8 } }) ∧
    (b.inReset = false → b.romRead = true → exec .configRequest s = .next (reply .config)) ∧
    (b.checking = true → (s.firmware = none → Answers (exec .bootVerifyComplete s) fun t => t.boot.state = 8 ∧ { t with boot := b } = s) ∧
      ∀ i fw, s.firmware = some (i, fw) → let cfg := chooseSlot (s.flash.config.take 2) 2 s.flash.minConfig
        (cfg = none → Answers (exec .bootVerifyComplete s) fun t => t.boot.state = 9 ∧ { t with boot := b } = s) ∧
        ∀ j c, cfg = some (j, c) → Answers (exec .bootVerifyComplete s) fun t => { t with boot := b } = s ∧ t.boot.state = 2 ∧ t.boot.slot = i ∧
          t.boot.version = imageVersion fw ∧ t.boot.minVersion = s.flash.minFirmware ∧ t.boot.image = trimImage fw ∧ t.boot.configImage = trimImage c) ∧
    (b.state = 2 → b.waves < 32 → Answers (exec .powerWave s) fun t => t.boot.waves = b.waves + 1 ∧ t.boot.state = (if b.waves = 31 then 3 else 2) ∧
      ∀ k, t.cluster k = if k / 256 = b.waves then { s.cluster k with powered := true } else s.cluster k) ∧
    (b.state ≠ 2 → exec .powerWave s = .next s) ∧
    (b.state = 3 → Answers (exec .hbmTrainingComplete s) fun t => t.boot = { b with state := 4 } ∧ t.flash = s.flash ∧ t.hbm = s.hbm) ∧
    (b.state = 4 → bits v 8 56 = 0 → Answers (exec (.faccept src v) s) fun t => t.boot.state = 5 ∧ t.feat0 = s.foffer &&& v ∧
      t.ctlGet Reg.faccept = v ∧ t.clusters = s.clusters ∧ t.hbm = s.hbm ∧ s.flash.minFirmware ≤ t.flash.minFirmware ∧ b.version ≤ t.flash.minFirmware) ∧
    (b.state ≠ 4 → exec (.faccept src v) s = .next (s.setQueue 0 { s.queue 0 with refused := (s.queue 0).refused + 1 }))) ∧
  (∀ (s : State) (off mean : Nat) (bs : List Byte) (v : Word) (src : Origin), (∀ m, src ≠ .peer m) → (src = .host → s.guests = [] ∧ s.boot.inReset = false ∧ s.boot.romRead = true) → let b := s.boot
    let takes : Prop := b.inReset = false ∧ b.romRead = true ∧ bit b.straps 8 = true ∧ b.checking = false ∧ (b.state = 0 ∨ b.state = 8)
    let reply (x : Reply) : State := { s with replies := s.replies ++ [x] }
    (takes → off + bs.length ≤ 0x7FFF8 → Answers (exec (.recoveryImageWrite off bs) s) fun t => { t with boot := b } = reply .done ∧
      { t.boot with recovery := [] } = { b with recovery := [] } ∧
      ∀ k, aget 0 t.boot.recovery k = if off ≤ k ∧ k < off + bs.length then bs.getD (k - off) 0 else aget 0 b.recovery k) ∧
    (takes → exec .recoveryImageComplete s = .next { reply .done with boot := { b with checking := true, state := 1 } }) ∧
    (b.inReset = false → ¬ takes ∨ 0x7FFF8 < off + bs.length → exec (.recoveryImageWrite off bs) s = .next (reply .unsupported)) ∧
    (b.inReset = false → ¬ takes → exec .recoveryImageComplete s = .next (reply .unsupported)) ∧
    (let drop : State := s.setQueue 0 { s.queue 0 with refused := (s.queue 0).refused + 1 };
      (b.attesting.isSome = true ∨ bits v 0 6 ≠ 0 ∨ bits v 52 12 ≠ 0 → exec (.attcmd src v) s = .next drop) ∧
      (b.attesting = none → bits v 0 6 = 0 → bits v 52 12 = 0 → Answers (exec (.attcmd src v) s) fun t => t.ctlGet Reg.attcmd = v ∧ t.hbm = s.hbm ∧
        t.clusters = s.clusters ∧ (2 ^ 20 ≤ s.flash.sigIndex → t.boot.exhausted = true ∧ t.flash = s.flash ∧ t.boot.attesting = none) ∧
        (∀ x, t.boot.attesting = some x → t.flash = { s.flash with sigIndex := s.flash.sigIndex + 1 } ∧ x.1 = v ∧
          ∃ body, x.2 = body ++ xmssSign s.flash.idSecret s.flash.idKey body s.flash.sigIndex) ∧ (t.boot.attesting = none → t.flash = s.flash))) ∧
    (∀ a r, b.attesting = some (a, r) → exec .attestationComplete s = .next { reply (.busWrite a.toNat r) with boot := { b with attesting := none } }) ∧
    (let limit := b.pwrLimit.toNat; let d := b.duty;
      Answers (exec (.powerWindow mean) s) fun t => { t with boot := b, ctl := [] } = { s with ctl := [] } ∧ { t.boot with duty := 0, pwrLimit := 0 } = { b with duty := 0, pwrLimit := 0 } ∧
        t.boot.pwrLimit = s.ctlGet Reg.pwrlim ∧
        (∀ n, n ≠ Reg.pwrstat → t.ctlGet n = s.ctlGet n) ∧ (limit < mean → 4 < d → t.boot.duty = d - 1) ∧
        (mean + 200 < limit → d < 16 → t.boot.duty = d + 1) ∧ (limit < mean → d = 4 → t.boot.duty = 4 ∧ bit (t.ctlGet Reg.pwrstat) 24 = true) ∧
        (mean ≤ limit → limit ≤ mean + 200 → t.boot.duty = d) ∧ (mean < 8192 → bits (t.ctlGet Reg.pwrstat) 0 13 = mean)))

/-- Every step keeps every memory of the module in its one canonical form: HBM, the stores of all cores, and those of saved clusters; equal
memories are equal data, whatever has been written. -/
def Obligations.MemoryStaysCanonical : Prop := ∀ s t, s.Canonical → step s = .next t → t.Canonical

/-- What the flash holds survives every step, and grows alone (R327, R349, R350, R352): the least versions and the signature index never go
down, and no repair is forgotten. `FEAT0` changes at no other point than reset and the first write of FACCEPT, and then to what is offered
(R351). -/
def Obligations.FlashAndFeaturesHold : Prop :=
  ∀ s t, step s = .next t →
    (s.flash.minFirmware ≤ t.flash.minFirmware ∧ s.flash.minConfig ≤ t.flash.minConfig ∧ s.flash.sigIndex ≤ t.flash.sigIndex ∧
      s.flash.repairs <+: t.flash.repairs ∧ t.flash.firmware = s.flash.firmware ∧ t.flash.config = s.flash.config ∧ t.flash.idKey = s.flash.idKey ∧ t.flash.idSecret = s.flash.idSecret) ∧
    (t.feat0 = s.feat0 ∨ (t.feat0 = 0 ∧ t.boot = Boot.reset) ∨
      (s.boot.state = 4 ∧ t.boot.state = 5 ∧ t.feat0 &&& s.foffer = t.feat0 ∧ t.boot.configImage = s.boot.configImage))
end

