-- ==== Sys2Proof/Laws/State.lean ====
section
/-! SUPPORT. What each update of the module, of a cluster and of a core leaves as it was, one lemma per field. -/
namespace Sys2Proof.Machine

/-! ## Updates of the module -/

@[simp] theorem State.setCluster_agenda (s : State) (k : Nat) (c : Cluster) : (s.setCluster k c).agenda = s.agenda := rfl
@[simp] theorem State.setCluster_cur (s : State) (k : Nat) (c : Cluster) : (s.setCluster k c).cur = s.cur := rfl
@[simp] theorem State.setCluster_shadowHit (s : State) (k : Nat) (c : Cluster) : (s.setCluster k c).shadowHit = s.shadowHit := rfl
@[simp] theorem State.setCluster_free (s : State) (k : Nat) (c : Cluster) : (s.setCluster k c).free = s.free := rfl
@[simp] theorem State.setCluster_cyc (s : State) (k : Nat) (c : Cluster) : (s.setCluster k c).cyc = s.cyc := rfl
@[simp] theorem State.setCluster_feat0 (s : State) (k : Nat) (c : Cluster) : (s.setCluster k c).feat0 = s.feat0 := rfl
@[simp] theorem State.setCluster_hbm (s : State) (k : Nat) (c : Cluster) : (s.setCluster k c).hbm = s.hbm := rfl
@[simp] theorem State.setCluster_edge (s : State) (k : Nat) (c : Cluster) : (s.setCluster k c).edge = s.edge := rfl
@[simp] theorem State.setCluster_rows (s : State) (k : Nat) (c : Cluster) : (s.setCluster k c).rows = s.rows := rfl
@[simp] theorem State.setCluster_blocked (s : State) (k : Nat) (c : Cluster) : (s.setCluster k c).blocked = s.blocked := rfl
@[simp] theorem State.setCluster_rfms (s : State) (k : Nat) (c : Cluster) : (s.setCluster k c).rfms = s.rfms := rfl
@[simp] theorem State.setCluster_ctl (s : State) (k : Nat) (c : Cluster) : (s.setCluster k c).ctl = s.ctl := rfl
@[simp] theorem State.setCluster_contexts (s : State) (k : Nat) (c : Cluster) : (s.setCluster k c).contexts = s.contexts := rfl
@[simp] theorem State.setCluster_placement (s : State) (k : Nat) (c : Cluster) : (s.setCluster k c).placement = s.placement := rfl
@[simp] theorem State.setCluster_cached (s : State) (k : Nat) (c : Cluster) : (s.setCluster k c).cached = s.cached := rfl
@[simp] theorem State.setCluster_invalidating (s : State) (k : Nat) (c : Cluster) : (s.setCluster k c).invalidating = s.invalidating := rfl
@[simp] theorem State.setCluster_flight (s : State) (k : Nat) (c : Cluster) : (s.setCluster k c).flight = s.flight := rfl
@[simp] theorem State.setCluster_queues (s : State) (k : Nat) (c : Cluster) : (s.setCluster k c).queues = s.queues := rfl
@[simp] theorem State.setCluster_launches (s : State) (k : Nat) (c : Cluster) : (s.setCluster k c).launches = s.launches := rfl
@[simp] theorem State.setCluster_replays (s : State) (k : Nat) (c : Cluster) : (s.setCluster k c).replays = s.replays := rfl
@[simp] theorem State.setCluster_nextLaunch (s : State) (k : Nat) (c : Cluster) : (s.setCluster k c).nextLaunch = s.nextLaunch := rfl
@[simp] theorem State.setCluster_pushes (s : State) (k : Nat) (c : Cluster) : (s.setCluster k c).pushes = s.pushes := rfl
@[simp] theorem State.setCluster_evicted (s : State) (k : Nat) (c : Cluster) : (s.setCluster k c).evicted = s.evicted := rfl
@[simp] theorem State.setCluster_nextSet (s : State) (k : Nat) (c : Cluster) : (s.setCluster k c).nextSet = s.nextSet := rfl
@[simp] theorem State.setCluster_nextTag (s : State) (k : Nat) (c : Cluster) : (s.setCluster k c).nextTag = s.nextTag := rfl
@[simp] theorem State.setCluster_dedup (s : State) (k : Nat) (c : Cluster) : (s.setCluster k c).dedup = s.dedup := rfl
@[simp] theorem State.setCluster_marks (s : State) (k : Nat) (c : Cluster) : (s.setCluster k c).marks = s.marks := rfl
@[simp] theorem State.setCluster_replies (s : State) (k : Nat) (c : Cluster) : (s.setCluster k c).replies = s.replies := rfl
@[simp] theorem State.setCluster_reports (s : State) (k : Nat) (c : Cluster) : (s.setCluster k c).reports = s.reports := rfl
@[simp] theorem State.setCluster_repaired (s : State) (k : Nat) (c : Cluster) : (s.setCluster k c).repaired = s.repaired := rfl
@[simp] theorem State.setCluster_outOfService (s : State) (k : Nat) (c : Cluster) : (s.setCluster k c).outOfService = s.outOfService := rfl
@[simp] theorem State.setCluster_flash (s : State) (k : Nat) (c : Cluster) : (s.setCluster k c).flash = s.flash := rfl
@[simp] theorem State.setCluster_boot (s : State) (k : Nat) (c : Cluster) : (s.setCluster k c).boot = s.boot := rfl
@[simp] theorem State.setCluster_guests (s : State) (k : Nat) (c : Cluster) : (s.setCluster k c).guests = s.guests := rfl
@[simp] theorem State.setCluster_deadLinks (s : State) (k : Nat) (c : Cluster) : (s.setCluster k c).deadLinks = s.deadLinks := rfl
@[simp] theorem State.setCluster_flaws (s : State) (k : Nat) (c : Cluster) : (s.setCluster k c).flaws = s.flaws := rfl

@[simp] theorem State.updCluster_agenda (s : State) (k : Nat) (f : Cluster → Cluster) : (s.updCluster k f).agenda = s.agenda := rfl
@[simp] theorem State.updCluster_cur (s : State) (k : Nat) (f : Cluster → Cluster) : (s.updCluster k f).cur = s.cur := rfl
@[simp] theorem State.updCluster_shadowHit (s : State) (k : Nat) (f : Cluster → Cluster) : (s.updCluster k f).shadowHit = s.shadowHit := rfl
@[simp] theorem State.updCluster_free (s : State) (k : Nat) (f : Cluster → Cluster) : (s.updCluster k f).free = s.free := rfl
@[simp] theorem State.updCluster_cyc (s : State) (k : Nat) (f : Cluster → Cluster) : (s.updCluster k f).cyc = s.cyc := rfl
@[simp] theorem State.updCluster_feat0 (s : State) (k : Nat) (f : Cluster → Cluster) : (s.updCluster k f).feat0 = s.feat0 := rfl
@[simp] theorem State.updCluster_hbm (s : State) (k : Nat) (f : Cluster → Cluster) : (s.updCluster k f).hbm = s.hbm := rfl
@[simp] theorem State.updCluster_edge (s : State) (k : Nat) (f : Cluster → Cluster) : (s.updCluster k f).edge = s.edge := rfl
@[simp] theorem State.updCluster_rows (s : State) (k : Nat) (f : Cluster → Cluster) : (s.updCluster k f).rows = s.rows := rfl
@[simp] theorem State.updCluster_blocked (s : State) (k : Nat) (f : Cluster → Cluster) : (s.updCluster k f).blocked = s.blocked := rfl
@[simp] theorem State.updCluster_rfms (s : State) (k : Nat) (f : Cluster → Cluster) : (s.updCluster k f).rfms = s.rfms := rfl
@[simp] theorem State.updCluster_ctl (s : State) (k : Nat) (f : Cluster → Cluster) : (s.updCluster k f).ctl = s.ctl := rfl
@[simp] theorem State.updCluster_contexts (s : State) (k : Nat) (f : Cluster → Cluster) : (s.updCluster k f).contexts = s.contexts := rfl
@[simp] theorem State.updCluster_placement (s : State) (k : Nat) (f : Cluster → Cluster) : (s.updCluster k f).placement = s.placement := rfl
@[simp] theorem State.updCluster_cached (s : State) (k : Nat) (f : Cluster → Cluster) : (s.updCluster k f).cached = s.cached := rfl
@[simp] theorem State.updCluster_invalidating (s : State) (k : Nat) (f : Cluster → Cluster) : (s.updCluster k f).invalidating = s.invalidating := rfl
@[simp] theorem State.updCluster_flight (s : State) (k : Nat) (f : Cluster → Cluster) : (s.updCluster k f).flight = s.flight := rfl
@[simp] theorem State.updCluster_queues (s : State) (k : Nat) (f : Cluster → Cluster) : (s.updCluster k f).queues = s.queues := rfl
@[simp] theorem State.updCluster_launches (s : State) (k : Nat) (f : Cluster → Cluster) : (s.updCluster k f).launches = s.launches := rfl
@[simp] theorem State.updCluster_replays (s : State) (k : Nat) (f : Cluster → Cluster) : (s.updCluster k f).replays = s.replays := rfl
@[simp] theorem State.updCluster_nextLaunch (s : State) (k : Nat) (f : Cluster → Cluster) : (s.updCluster k f).nextLaunch = s.nextLaunch := rfl
@[simp] theorem State.updCluster_pushes (s : State) (k : Nat) (f : Cluster → Cluster) : (s.updCluster k f).pushes = s.pushes := rfl
@[simp] theorem State.updCluster_evicted (s : State) (k : Nat) (f : Cluster → Cluster) : (s.updCluster k f).evicted = s.evicted := rfl
@[simp] theorem State.updCluster_nextSet (s : State) (k : Nat) (f : Cluster → Cluster) : (s.updCluster k f).nextSet = s.nextSet := rfl
@[simp] theorem State.updCluster_nextTag (s : State) (k : Nat) (f : Cluster → Cluster) : (s.updCluster k f).nextTag = s.nextTag := rfl
@[simp] theorem State.updCluster_dedup (s : State) (k : Nat) (f : Cluster → Cluster) : (s.updCluster k f).dedup = s.dedup := rfl
@[simp] theorem State.updCluster_marks (s : State) (k : Nat) (f : Cluster → Cluster) : (s.updCluster k f).marks = s.marks := rfl
@[simp] theorem State.updCluster_replies (s : State) (k : Nat) (f : Cluster → Cluster) : (s.updCluster k f).replies = s.replies := rfl
@[simp] theorem State.updCluster_reports (s : State) (k : Nat) (f : Cluster → Cluster) : (s.updCluster k f).reports = s.reports := rfl
@[simp] theorem State.updCluster_repaired (s : State) (k : Nat) (f : Cluster → Cluster) : (s.updCluster k f).repaired = s.repaired := rfl
@[simp] theorem State.updCluster_outOfService (s : State) (k : Nat) (f : Cluster → Cluster) : (s.updCluster k f).outOfService = s.outOfService := rfl
@[simp] theorem State.updCluster_flash (s : State) (k : Nat) (f : Cluster → Cluster) : (s.updCluster k f).flash = s.flash := rfl
@[simp] theorem State.updCluster_boot (s : State) (k : Nat) (f : Cluster → Cluster) : (s.updCluster k f).boot = s.boot := rfl
@[simp] theorem State.updCluster_guests (s : State) (k : Nat) (f : Cluster → Cluster) : (s.updCluster k f).guests = s.guests := rfl
@[simp] theorem State.updCluster_deadLinks (s : State) (k : Nat) (f : Cluster → Cluster) : (s.updCluster k f).deadLinks = s.deadLinks := rfl
@[simp] theorem State.updCluster_flaws (s : State) (k : Nat) (f : Cluster → Cluster) : (s.updCluster k f).flaws = s.flaws := rfl

@[simp] theorem State.setCore_agenda (s : State) (r : CoreRef) (c : Core) : (s.setCore r c).agenda = s.agenda := rfl
@[simp] theorem State.setCore_cur (s : State) (r : CoreRef) (c : Core) : (s.setCore r c).cur = s.cur := rfl
@[simp] theorem State.setCore_shadowHit (s : State) (r : CoreRef) (c : Core) : (s.setCore r c).shadowHit = s.shadowHit := rfl
@[simp] theorem State.setCore_free (s : State) (r : CoreRef) (c : Core) : (s.setCore r c).free = s.free := rfl
@[simp] theorem State.setCore_cyc (s : State) (r : CoreRef) (c : Core) : (s.setCore r c).cyc = s.cyc := rfl
@[simp] theorem State.setCore_feat0 (s : State) (r : CoreRef) (c : Core) : (s.setCore r c).feat0 = s.feat0 := rfl
@[simp] theorem State.setCore_hbm (s : State) (r : CoreRef) (c : Core) : (s.setCore r c).hbm = s.hbm := rfl
@[simp] theorem State.setCore_edge (s : State) (r : CoreRef) (c : Core) : (s.setCore r c).edge = s.edge := rfl
@[simp] theorem State.setCore_rows (s : State) (r : CoreRef) (c : Core) : (s.setCore r c).rows = s.rows := rfl
@[simp] theorem State.setCore_blocked (s : State) (r : CoreRef) (c : Core) : (s.setCore r c).blocked = s.blocked := rfl
@[simp] theorem State.setCore_rfms (s : State) (r : CoreRef) (c : Core) : (s.setCore r c).rfms = s.rfms := rfl
@[simp] theorem State.setCore_ctl (s : State) (r : CoreRef) (c : Core) : (s.setCore r c).ctl = s.ctl := rfl
@[simp] theorem State.setCore_contexts (s : State) (r : CoreRef) (c : Core) : (s.setCore r c).contexts = s.contexts := rfl
@[simp] theorem State.setCore_placement (s : State) (r : CoreRef) (c : Core) : (s.setCore r c).placement = s.placement := rfl
@[simp] theorem State.setCore_cached (s : State) (r : CoreRef) (c : Core) : (s.setCore r c).cached = s.cached := rfl
@[simp] theorem State.setCore_invalidating (s : State) (r : CoreRef) (c : Core) : (s.setCore r c).invalidating = s.invalidating := rfl
@[simp] theorem State.setCore_flight (s : State) (r : CoreRef) (c : Core) : (s.setCore r c).flight = s.flight := rfl
@[simp] theorem State.setCore_queues (s : State) (r : CoreRef) (c : Core) : (s.setCore r c).queues = s.queues := rfl
@[simp] theorem State.setCore_launches (s : State) (r : CoreRef) (c : Core) : (s.setCore r c).launches = s.launches := rfl
@[simp] theorem State.setCore_replays (s : State) (r : CoreRef) (c : Core) : (s.setCore r c).replays = s.replays := rfl
@[simp] theorem State.setCore_nextLaunch (s : State) (r : CoreRef) (c : Core) : (s.setCore r c).nextLaunch = s.nextLaunch := rfl
@[simp] theorem State.setCore_pushes (s : State) (r : CoreRef) (c : Core) : (s.setCore r c).pushes = s.pushes := rfl
@[simp] theorem State.setCore_evicted (s : State) (r : CoreRef) (c : Core) : (s.setCore r c).evicted = s.evicted := rfl
@[simp] theorem State.setCore_nextSet (s : State) (r : CoreRef) (c : Core) : (s.setCore r c).nextSet = s.nextSet := rfl
@[simp] theorem State.setCore_nextTag (s : State) (r : CoreRef) (c : Core) : (s.setCore r c).nextTag = s.nextTag := rfl
@[simp] theorem State.setCore_dedup (s : State) (r : CoreRef) (c : Core) : (s.setCore r c).dedup = s.dedup := rfl
@[simp] theorem State.setCore_marks (s : State) (r : CoreRef) (c : Core) : (s.setCore r c).marks = s.marks := rfl
@[simp] theorem State.setCore_replies (s : State) (r : CoreRef) (c : Core) : (s.setCore r c).replies = s.replies := rfl
@[simp] theorem State.setCore_reports (s : State) (r : CoreRef) (c : Core) : (s.setCore r c).reports = s.reports := rfl
@[simp] theorem State.setCore_repaired (s : State) (r : CoreRef) (c : Core) : (s.setCore r c).repaired = s.repaired := rfl
@[simp] theorem State.setCore_outOfService (s : State) (r : CoreRef) (c : Core) : (s.setCore r c).outOfService = s.outOfService := rfl
@[simp] theorem State.setCore_flash (s : State) (r : CoreRef) (c : Core) : (s.setCore r c).flash = s.flash := rfl
@[simp] theorem State.setCore_boot (s : State) (r : CoreRef) (c : Core) : (s.setCore r c).boot = s.boot := rfl
@[simp] theorem State.setCore_guests (s : State) (r : CoreRef) (c : Core) : (s.setCore r c).guests = s.guests := rfl
@[simp] theorem State.setCore_deadLinks (s : State) (r : CoreRef) (c : Core) : (s.setCore r c).deadLinks = s.deadLinks := rfl
@[simp] theorem State.setCore_flaws (s : State) (r : CoreRef) (c : Core) : (s.setCore r c).flaws = s.flaws := rfl

@[simp] theorem State.updCore_agenda (s : State) (r : CoreRef) (f : Core → Core) : (s.updCore r f).agenda = s.agenda := rfl
@[simp] theorem State.updCore_cur (s : State) (r : CoreRef) (f : Core → Core) : (s.updCore r f).cur = s.cur := rfl
@[simp] theorem State.updCore_shadowHit (s : State) (r : CoreRef) (f : Core → Core) : (s.updCore r f).shadowHit = s.shadowHit := rfl
@[simp] theorem State.updCore_free (s : State) (r : CoreRef) (f : Core → Core) : (s.updCore r f).free = s.free := rfl
@[simp] theorem State.updCore_cyc (s : State) (r : CoreRef) (f : Core → Core) : (s.updCore r f).cyc = s.cyc := rfl
@[simp] theorem State.updCore_feat0 (s : State) (r : CoreRef) (f : Core → Core) : (s.updCore r f).feat0 = s.feat0 := rfl
@[simp] theorem State.updCore_hbm (s : State) (r : CoreRef) (f : Core → Core) : (s.updCore r f).hbm = s.hbm := rfl
@[simp] theorem State.updCore_edge (s : State) (r : CoreRef) (f : Core → Core) : (s.updCore r f).edge = s.edge := rfl
@[simp] theorem State.updCore_rows (s : State) (r : CoreRef) (f : Core → Core) : (s.updCore r f).rows = s.rows := rfl
@[simp] theorem State.updCore_blocked (s : State) (r : CoreRef) (f : Core → Core) : (s.updCore r f).blocked = s.blocked := rfl
@[simp] theorem State.updCore_rfms (s : State) (r : CoreRef) (f : Core → Core) : (s.updCore r f).rfms = s.rfms := rfl
@[simp] theorem State.updCore_ctl (s : State) (r : CoreRef) (f : Core → Core) : (s.updCore r f).ctl = s.ctl := rfl
@[simp] theorem State.updCore_contexts (s : State) (r : CoreRef) (f : Core → Core) : (s.updCore r f).contexts = s.contexts := rfl
@[simp] theorem State.updCore_placement (s : State) (r : CoreRef) (f : Core → Core) : (s.updCore r f).placement = s.placement := rfl
@[simp] theorem State.updCore_cached (s : State) (r : CoreRef) (f : Core → Core) : (s.updCore r f).cached = s.cached := rfl
@[simp] theorem State.updCore_invalidating (s : State) (r : CoreRef) (f : Core → Core) : (s.updCore r f).invalidating = s.invalidating := rfl
@[simp] theorem State.updCore_flight (s : State) (r : CoreRef) (f : Core → Core) : (s.updCore r f).flight = s.flight := rfl
@[simp] theorem State.updCore_queues (s : State) (r : CoreRef) (f : Core → Core) : (s.updCore r f).queues = s.queues := rfl
@[simp] theorem State.updCore_launches (s : State) (r : CoreRef) (f : Core → Core) : (s.updCore r f).launches = s.launches := rfl
@[simp] theorem State.updCore_replays (s : State) (r : CoreRef) (f : Core → Core) : (s.updCore r f).replays = s.replays := rfl
@[simp] theorem State.updCore_nextLaunch (s : State) (r : CoreRef) (f : Core → Core) : (s.updCore r f).nextLaunch = s.nextLaunch := rfl
@[simp] theorem State.updCore_pushes (s : State) (r : CoreRef) (f : Core → Core) : (s.updCore r f).pushes = s.pushes := rfl
@[simp] theorem State.updCore_evicted (s : State) (r : CoreRef) (f : Core → Core) : (s.updCore r f).evicted = s.evicted := rfl
@[simp] theorem State.updCore_nextSet (s : State) (r : CoreRef) (f : Core → Core) : (s.updCore r f).nextSet = s.nextSet := rfl
@[simp] theorem State.updCore_nextTag (s : State) (r : CoreRef) (f : Core → Core) : (s.updCore r f).nextTag = s.nextTag := rfl
@[simp] theorem State.updCore_dedup (s : State) (r : CoreRef) (f : Core → Core) : (s.updCore r f).dedup = s.dedup := rfl
@[simp] theorem State.updCore_marks (s : State) (r : CoreRef) (f : Core → Core) : (s.updCore r f).marks = s.marks := rfl
@[simp] theorem State.updCore_replies (s : State) (r : CoreRef) (f : Core → Core) : (s.updCore r f).replies = s.replies := rfl
@[simp] theorem State.updCore_reports (s : State) (r : CoreRef) (f : Core → Core) : (s.updCore r f).reports = s.reports := rfl
@[simp] theorem State.updCore_repaired (s : State) (r : CoreRef) (f : Core → Core) : (s.updCore r f).repaired = s.repaired := rfl
@[simp] theorem State.updCore_outOfService (s : State) (r : CoreRef) (f : Core → Core) : (s.updCore r f).outOfService = s.outOfService := rfl
@[simp] theorem State.updCore_flash (s : State) (r : CoreRef) (f : Core → Core) : (s.updCore r f).flash = s.flash := rfl
@[simp] theorem State.updCore_boot (s : State) (r : CoreRef) (f : Core → Core) : (s.updCore r f).boot = s.boot := rfl
@[simp] theorem State.updCore_guests (s : State) (r : CoreRef) (f : Core → Core) : (s.updCore r f).guests = s.guests := rfl
@[simp] theorem State.updCore_deadLinks (s : State) (r : CoreRef) (f : Core → Core) : (s.updCore r f).deadLinks = s.deadLinks := rfl
@[simp] theorem State.updCore_flaws (s : State) (r : CoreRef) (f : Core → Core) : (s.updCore r f).flaws = s.flaws := rfl

@[simp] theorem State.upd_agenda (s : State) (f : Core → Core) : (s.upd f).agenda = s.agenda := rfl
@[simp] theorem State.upd_cur (s : State) (f : Core → Core) : (s.upd f).cur = s.cur := rfl
@[simp] theorem State.upd_shadowHit (s : State) (f : Core → Core) : (s.upd f).shadowHit = s.shadowHit := rfl
@[simp] theorem State.upd_free (s : State) (f : Core → Core) : (s.upd f).free = s.free := rfl
@[simp] theorem State.upd_cyc (s : State) (f : Core → Core) : (s.upd f).cyc = s.cyc := rfl
@[simp] theorem State.upd_feat0 (s : State) (f : Core → Core) : (s.upd f).feat0 = s.feat0 := rfl
@[simp] theorem State.upd_hbm (s : State) (f : Core → Core) : (s.upd f).hbm = s.hbm := rfl
@[simp] theorem State.upd_edge (s : State) (f : Core → Core) : (s.upd f).edge = s.edge := rfl
@[simp] theorem State.upd_rows (s : State) (f : Core → Core) : (s.upd f).rows = s.rows := rfl
@[simp] theorem State.upd_blocked (s : State) (f : Core → Core) : (s.upd f).blocked = s.blocked := rfl
@[simp] theorem State.upd_rfms (s : State) (f : Core → Core) : (s.upd f).rfms = s.rfms := rfl
@[simp] theorem State.upd_ctl (s : State) (f : Core → Core) : (s.upd f).ctl = s.ctl := rfl
@[simp] theorem State.upd_contexts (s : State) (f : Core → Core) : (s.upd f).contexts = s.contexts := rfl
@[simp] theorem State.upd_placement (s : State) (f : Core → Core) : (s.upd f).placement = s.placement := rfl
@[simp] theorem State.upd_cached (s : State) (f : Core → Core) : (s.upd f).cached = s.cached := rfl
@[simp] theorem State.upd_invalidating (s : State) (f : Core → Core) : (s.upd f).invalidating = s.invalidating := rfl
@[simp] theorem State.upd_flight (s : State) (f : Core → Core) : (s.upd f).flight = s.flight := rfl
@[simp] theorem State.upd_queues (s : State) (f : Core → Core) : (s.upd f).queues = s.queues := rfl
@[simp] theorem State.upd_launches (s : State) (f : Core → Core) : (s.upd f).launches = s.launches := rfl
@[simp] theorem State.upd_replays (s : State) (f : Core → Core) : (s.upd f).replays = s.replays := rfl
@[simp] theorem State.upd_nextLaunch (s : State) (f : Core → Core) : (s.upd f).nextLaunch = s.nextLaunch := rfl
@[simp] theorem State.upd_pushes (s : State) (f : Core → Core) : (s.upd f).pushes = s.pushes := rfl
@[simp] theorem State.upd_evicted (s : State) (f : Core → Core) : (s.upd f).evicted = s.evicted := rfl
@[simp] theorem State.upd_nextSet (s : State) (f : Core → Core) : (s.upd f).nextSet = s.nextSet := rfl
@[simp] theorem State.upd_nextTag (s : State) (f : Core → Core) : (s.upd f).nextTag = s.nextTag := rfl
@[simp] theorem State.upd_dedup (s : State) (f : Core → Core) : (s.upd f).dedup = s.dedup := rfl
@[simp] theorem State.upd_marks (s : State) (f : Core → Core) : (s.upd f).marks = s.marks := rfl
@[simp] theorem State.upd_replies (s : State) (f : Core → Core) : (s.upd f).replies = s.replies := rfl
@[simp] theorem State.upd_reports (s : State) (f : Core → Core) : (s.upd f).reports = s.reports := rfl
@[simp] theorem State.upd_repaired (s : State) (f : Core → Core) : (s.upd f).repaired = s.repaired := rfl
@[simp] theorem State.upd_outOfService (s : State) (f : Core → Core) : (s.upd f).outOfService = s.outOfService := rfl
@[simp] theorem State.upd_flash (s : State) (f : Core → Core) : (s.upd f).flash = s.flash := rfl
@[simp] theorem State.upd_boot (s : State) (f : Core → Core) : (s.upd f).boot = s.boot := rfl
@[simp] theorem State.upd_guests (s : State) (f : Core → Core) : (s.upd f).guests = s.guests := rfl
@[simp] theorem State.upd_deadLinks (s : State) (f : Core → Core) : (s.upd f).deadLinks = s.deadLinks := rfl
@[simp] theorem State.upd_flaws (s : State) (f : Core → Core) : (s.upd f).flaws = s.flaws := rfl

/-! ## Updates of a cluster -/

@[simp] theorem Cluster.setCore_powered (k : Cluster) (j : Nat) (c : Core) : (k.setCore j c).powered = k.powered := rfl
@[simp] theorem Cluster.setCore_launch (k : Cluster) (j : Nat) (c : Core) : (k.setCore j c).launch = k.launch := rfl
@[simp] theorem Cluster.setCore_slot (k : Cluster) (j : Nat) (c : Core) : (k.setCore j c).slot = k.slot := rfl
@[simp] theorem Cluster.setCore_pid (k : Cluster) (j : Nat) (c : Core) : (k.setCore j c).pid = k.pid := rfl
@[simp] theorem Cluster.setCore_vc (k : Cluster) (j : Nat) (c : Core) : (k.setCore j c).vc = k.vc := rfl
@[simp] theorem Cluster.setCore_group (k : Cluster) (j : Nat) (c : Core) : (k.setCore j c).group = k.group := rfl
@[simp] theorem Cluster.setCore_onces (k : Cluster) (j : Nat) (c : Core) : (k.setCore j c).onces = k.onces := rfl
@[simp] theorem Cluster.setCore_nextOnce (k : Cluster) (j : Nat) (c : Core) : (k.setCore j c).nextOnce = k.nextOnce := rfl
@[simp] theorem Cluster.setCore_tables (k : Cluster) (j : Nat) (c : Core) : (k.setCore j c).tables = k.tables := rfl
@[simp] theorem Cluster.setCore_tablePoison (k : Cluster) (j : Nat) (c : Core) : (k.setCore j c).tablePoison = k.tablePoison := rfl
@[simp] theorem Cluster.setCore_census (k : Cluster) (j : Nat) (c : Core) : (k.setCore j c).census = k.census := rfl
@[simp] theorem Cluster.setCore_jobs (k : Cluster) (j : Nat) (c : Core) : (k.setCore j c).jobs = k.jobs := rfl
@[simp] theorem Cluster.setCore_nextJob (k : Cluster) (j : Nat) (c : Core) : (k.setCore j c).nextJob = k.nextJob := rfl
@[simp] theorem Cluster.setCore_jobEnds (k : Cluster) (j : Nat) (c : Core) : (k.setCore j c).jobEnds = k.jobEnds := rfl
@[simp] theorem Cluster.setCore_scratch (k : Cluster) (j : Nat) (c : Core) : (k.setCore j c).scratch = k.scratch := rfl
@[simp] theorem Cluster.setCore_ramped (k : Cluster) (j : Nat) (c : Core) : (k.setCore j c).ramped = k.ramped := rfl
@[simp] theorem Cluster.setCore_rampAt (k : Cluster) (j : Nat) (c : Core) : (k.setCore j c).rampAt = k.rampAt := rfl
@[simp] theorem Cluster.setCore_lastGrant (k : Cluster) (j : Nat) (c : Core) : (k.setCore j c).lastGrant = k.lastGrant := rfl
@[simp] theorem Cluster.setCore_lastCopy (k : Cluster) (j : Nat) (c : Core) : (k.setCore j c).lastCopy = k.lastCopy := rfl
@[simp] theorem Cluster.setCore_port (k : Cluster) (j : Nat) (c : Core) : (k.setCore j c).port = k.port := rfl
@[simp] theorem Cluster.setCore_credits (k : Cluster) (j : Nat) (c : Core) : (k.setCore j c).credits = k.credits := rfl
@[simp] theorem Cluster.setCore_opBuf (k : Cluster) (j : Nat) (c : Core) : (k.setCore j c).opBuf = k.opBuf := rfl
@[simp] theorem Cluster.setCore_icache (k : Cluster) (j : Nat) (c : Core) : (k.setCore j c).icache = k.icache := rfl
@[simp] theorem Cluster.setCore_evict (k : Cluster) (j : Nat) (c : Core) : (k.setCore j c).evict = k.evict := rfl
@[simp] theorem Cluster.setCore_errors (k : Cluster) (j : Nat) (c : Core) : (k.setCore j c).errors = k.errors := rfl
@[simp] theorem Cluster.setCore_scratchPoison (k : Cluster) (j : Nat) (c : Core) : (k.setCore j c).scratchPoison = k.scratchPoison := rfl
@[simp] theorem Cluster.setCore_ruleBuf (k : Cluster) (j : Nat) (c : Core) : (k.setCore j c).ruleBuf = k.ruleBuf := rfl
@[simp] theorem Cluster.setCore_failed (k : Cluster) (j : Nat) (c : Core) : (k.setCore j c).failed = k.failed := rfl

/-! ## Updates of a core -/

@[simp] theorem Core.setCr_store (c : Core) (n : Nat) (v : Word) : (c.setCr n v).store = c.store := rfl
@[simp] theorem Core.setCr_flags (c : Core) (n : Nat) (v : Word) : (c.setCr n v).flags = c.flags := rfl
@[simp] theorem Core.setCr_banks (c : Core) (n : Nat) (v : Word) : (c.setCr n v).banks = c.banks := rfl
@[simp] theorem Core.setCr_att (c : Core) (n : Nat) (v : Word) : (c.setCr n v).att = c.att := rfl
@[simp] theorem Core.setCr_why (c : Core) (n : Nat) (v : Word) : (c.setCr n v).why = c.why := rfl
@[simp] theorem Core.setCr_jpt (c : Core) (n : Nat) (v : Word) : (c.setCr n v).jpt = c.jpt := rfl
@[simp] theorem Core.setCr_pc (c : Core) (n : Nat) (v : Word) : (c.setCr n v).pc = c.pc := rfl
@[simp] theorem Core.setCr_run (c : Core) (n : Nat) (v : Word) : (c.setCr n v).run = c.run := rfl
@[simp] theorem Core.setCr_act (c : Core) (n : Nat) (v : Word) : (c.setCr n v).act = c.act := rfl
@[simp] theorem Core.setCr_wait (c : Core) (n : Nat) (v : Word) : (c.setCr n v).wait = c.wait := rfl
@[simp] theorem Core.setCr_parked (c : Core) (n : Nat) (v : Word) : (c.setCr n v).parked = c.parked := rfl
@[simp] theorem Core.setCr_ready (c : Core) (n : Nat) (v : Word) : (c.setCr n v).ready = c.ready := rfl
@[simp] theorem Core.setCr_freeHead (c : Core) (n : Nat) (v : Word) : (c.setCr n v).freeHead = c.freeHead := rfl
@[simp] theorem Core.setCr_trigs (c : Core) (n : Nat) (v : Word) : (c.setCr n v).trigs = c.trigs := rfl
@[simp] theorem Core.setCr_classes (c : Core) (n : Nat) (v : Word) : (c.setCr n v).classes = c.classes := rfl
@[simp] theorem Core.setCr_keeps (c : Core) (n : Nat) (v : Word) : (c.setCr n v).keeps = c.keeps := rfl
@[simp] theorem Core.setCr_pend (c : Core) (n : Nat) (v : Word) : (c.setCr n v).pend = c.pend := rfl
@[simp] theorem Core.setCr_conv (c : Core) (n : Nat) (v : Word) : (c.setCr n v).conv = c.conv := rfl
@[simp] theorem Core.setCr_mq (c : Core) (n : Nat) (v : Word) : (c.setCr n v).mq = c.mq := rfl
@[simp] theorem Core.setCr_accs (c : Core) (n : Nat) (v : Word) : (c.setCr n v).accs = c.accs := rfl
@[simp] theorem Core.setCr_copies (c : Core) (n : Nat) (v : Word) : (c.setCr n v).copies = c.copies := rfl
@[simp] theorem Core.setCr_promise (c : Core) (n : Nat) (v : Word) : (c.setCr n v).promise = c.promise := rfl
@[simp] theorem Core.setCr_held (c : Core) (n : Nat) (v : Word) : (c.setCr n v).held = c.held := rfl
@[simp] theorem Core.setCr_engPend (c : Core) (n : Nat) (v : Word) : (c.setCr n v).engPend = c.engPend := rfl
@[simp] theorem Core.setCr_engSlot (c : Core) (n : Nat) (v : Word) : (c.setCr n v).engSlot = c.engSlot := rfl
@[simp] theorem Core.setCr_reissue (c : Core) (n : Nat) (v : Word) : (c.setCr n v).reissue = c.reissue := rfl
@[simp] theorem Core.setCr_closed (c : Core) (n : Nat) (v : Word) : (c.setCr n v).closed = c.closed := rfl
@[simp] theorem Core.setCr_delays (c : Core) (n : Nat) (v : Word) : (c.setCr n v).delays = c.delays := rfl
@[simp] theorem Core.setCr_delayPid (c : Core) (n : Nat) (v : Word) : (c.setCr n v).delayPid = c.delayPid := rfl
@[simp] theorem Core.setCr_buf (c : Core) (n : Nat) (v : Word) : (c.setCr n v).buf = c.buf := rfl
@[simp] theorem Core.setCr_taken (c : Core) (n : Nat) (v : Word) : (c.setCr n v).taken = c.taken := rfl
@[simp] theorem Core.setCr_governed (c : Core) (n : Nat) (v : Word) : (c.setCr n v).governed = c.governed := rfl
@[simp] theorem Core.setCr_obligation (c : Core) (n : Nat) (v : Word) : (c.setCr n v).obligation = c.obligation := rfl
@[simp] theorem Core.setCr_repBuf (c : Core) (n : Nat) (v : Word) : (c.setCr n v).repBuf = c.repBuf := rfl
@[simp] theorem Core.setCr_repCount (c : Core) (n : Nat) (v : Word) : (c.setCr n v).repCount = c.repCount := rfl
@[simp] theorem Core.setCr_transfer (c : Core) (n : Nat) (v : Word) : (c.setCr n v).transfer = c.transfer := rfl
@[simp] theorem Core.setCr_stopReq (c : Core) (n : Nat) (v : Word) : (c.setCr n v).stopReq = c.stopReq := rfl
@[simp] theorem Core.setCr_stopped (c : Core) (n : Nat) (v : Word) : (c.setCr n v).stopped = c.stopped := rfl
@[simp] theorem Core.setCr_shadowEpc (c : Core) (n : Nat) (v : Word) : (c.setCr n v).shadowEpc = c.shadowEpc := rfl
@[simp] theorem Core.setCr_redeliver (c : Core) (n : Nat) (v : Word) : (c.setCr n v).redeliver = c.redeliver := rfl
@[simp] theorem Core.setCr_inboxRecq (c : Core) (n : Nat) (v : Word) : (c.setCr n v).inboxRecq = c.inboxRecq := rfl
@[simp] theorem Core.setCr_after (c : Core) (n : Nat) (v : Word) : (c.setCr n v).after = c.after := rfl
@[simp] theorem Core.setCr_launch (c : Core) (n : Nat) (v : Word) : (c.setCr n v).launch = c.launch := rfl
@[simp] theorem Core.setCr_brSet (c : Core) (n : Nat) (v : Word) : (c.setCr n v).brSet = c.brSet := rfl
@[simp] theorem Core.setCr_flagsRaised (c : Core) (n : Nat) (v : Word) : (c.setCr n v).flagsRaised = c.flagsRaised := rfl
@[simp] theorem Core.setCr_flagPoison (c : Core) (n : Nat) (v : Word) : (c.setCr n v).flagPoison = c.flagPoison := rfl
@[simp] theorem Core.setCr_engSeq (c : Core) (n : Nat) (v : Word) : (c.setCr n v).engSeq = c.engSeq := rfl
@[simp] theorem Core.setCr_past (c : Core) (n : Nat) (v : Word) : (c.setCr n v).past = c.past := rfl
@[simp] theorem Core.setCr_fell (c : Core) (n : Nat) (v : Word) : (c.setCr n v).fell = c.fell := rfl
@[simp] theorem Core.setCr_lanesDone (c : Core) (n : Nat) (v : Word) : (c.setCr n v).lanesDone = c.lanesDone := rfl

@[simp] theorem Core.setBank_store (c : Core) (b : Nat) (x : Bank) : (c.setBank b x).store = c.store := rfl
@[simp] theorem Core.setBank_flags (c : Core) (b : Nat) (x : Bank) : (c.setBank b x).flags = c.flags := rfl
@[simp] theorem Core.setBank_cr (c : Core) (b : Nat) (x : Bank) : (c.setBank b x).cr = c.cr := rfl
@[simp] theorem Core.setBank_att (c : Core) (b : Nat) (x : Bank) : (c.setBank b x).att = c.att := rfl
@[simp] theorem Core.setBank_why (c : Core) (b : Nat) (x : Bank) : (c.setBank b x).why = c.why := rfl
@[simp] theorem Core.setBank_jpt (c : Core) (b : Nat) (x : Bank) : (c.setBank b x).jpt = c.jpt := rfl
@[simp] theorem Core.setBank_pc (c : Core) (b : Nat) (x : Bank) : (c.setBank b x).pc = c.pc := rfl
@[simp] theorem Core.setBank_run (c : Core) (b : Nat) (x : Bank) : (c.setBank b x).run = c.run := rfl
@[simp] theorem Core.setBank_act (c : Core) (b : Nat) (x : Bank) : (c.setBank b x).act = c.act := rfl
@[simp] theorem Core.setBank_wait (c : Core) (b : Nat) (x : Bank) : (c.setBank b x).wait = c.wait := rfl
@[simp] theorem Core.setBank_parked (c : Core) (b : Nat) (x : Bank) : (c.setBank b x).parked = c.parked := rfl
@[simp] theorem Core.setBank_ready (c : Core) (b : Nat) (x : Bank) : (c.setBank b x).ready = c.ready := rfl
@[simp] theorem Core.setBank_freeHead (c : Core) (b : Nat) (x : Bank) : (c.setBank b x).freeHead = c.freeHead := rfl
@[simp] theorem Core.setBank_trigs (c : Core) (b : Nat) (x : Bank) : (c.setBank b x).trigs = c.trigs := rfl
@[simp] theorem Core.setBank_classes (c : Core) (b : Nat) (x : Bank) : (c.setBank b x).classes = c.classes := rfl
@[simp] theorem Core.setBank_keeps (c : Core) (b : Nat) (x : Bank) : (c.setBank b x).keeps = c.keeps := rfl
@[simp] theorem Core.setBank_pend (c : Core) (b : Nat) (x : Bank) : (c.setBank b x).pend = c.pend := rfl
@[simp] theorem Core.setBank_conv (c : Core) (b : Nat) (x : Bank) : (c.setBank b x).conv = c.conv := rfl
@[simp] theorem Core.setBank_mq (c : Core) (b : Nat) (x : Bank) : (c.setBank b x).mq = c.mq := rfl
@[simp] theorem Core.setBank_accs (c : Core) (b : Nat) (x : Bank) : (c.setBank b x).accs = c.accs := rfl
@[simp] theorem Core.setBank_copies (c : Core) (b : Nat) (x : Bank) : (c.setBank b x).copies = c.copies := rfl
@[simp] theorem Core.setBank_promise (c : Core) (b : Nat) (x : Bank) : (c.setBank b x).promise = c.promise := rfl
@[simp] theorem Core.setBank_held (c : Core) (b : Nat) (x : Bank) : (c.setBank b x).held = c.held := rfl
@[simp] theorem Core.setBank_engPend (c : Core) (b : Nat) (x : Bank) : (c.setBank b x).engPend = c.engPend := rfl
@[simp] theorem Core.setBank_engSlot (c : Core) (b : Nat) (x : Bank) : (c.setBank b x).engSlot = c.engSlot := rfl
@[simp] theorem Core.setBank_reissue (c : Core) (b : Nat) (x : Bank) : (c.setBank b x).reissue = c.reissue := rfl
@[simp] theorem Core.setBank_closed (c : Core) (b : Nat) (x : Bank) : (c.setBank b x).closed = c.closed := rfl
@[simp] theorem Core.setBank_delays (c : Core) (b : Nat) (x : Bank) : (c.setBank b x).delays = c.delays := rfl
@[simp] theorem Core.setBank_delayPid (c : Core) (b : Nat) (x : Bank) : (c.setBank b x).delayPid = c.delayPid := rfl
@[simp] theorem Core.setBank_buf (c : Core) (b : Nat) (x : Bank) : (c.setBank b x).buf = c.buf := rfl
@[simp] theorem Core.setBank_taken (c : Core) (b : Nat) (x : Bank) : (c.setBank b x).taken = c.taken := rfl
@[simp] theorem Core.setBank_governed (c : Core) (b : Nat) (x : Bank) : (c.setBank b x).governed = c.governed := rfl
@[simp] theorem Core.setBank_obligation (c : Core) (b : Nat) (x : Bank) : (c.setBank b x).obligation = c.obligation := rfl
@[simp] theorem Core.setBank_repBuf (c : Core) (b : Nat) (x : Bank) : (c.setBank b x).repBuf = c.repBuf := rfl
@[simp] theorem Core.setBank_repCount (c : Core) (b : Nat) (x : Bank) : (c.setBank b x).repCount = c.repCount := rfl
@[simp] theorem Core.setBank_transfer (c : Core) (b : Nat) (x : Bank) : (c.setBank b x).transfer = c.transfer := rfl
@[simp] theorem Core.setBank_stopReq (c : Core) (b : Nat) (x : Bank) : (c.setBank b x).stopReq = c.stopReq := rfl
@[simp] theorem Core.setBank_stopped (c : Core) (b : Nat) (x : Bank) : (c.setBank b x).stopped = c.stopped := rfl
@[simp] theorem Core.setBank_shadowEpc (c : Core) (b : Nat) (x : Bank) : (c.setBank b x).shadowEpc = c.shadowEpc := rfl
@[simp] theorem Core.setBank_redeliver (c : Core) (b : Nat) (x : Bank) : (c.setBank b x).redeliver = c.redeliver := rfl
@[simp] theorem Core.setBank_inboxRecq (c : Core) (b : Nat) (x : Bank) : (c.setBank b x).inboxRecq = c.inboxRecq := rfl
@[simp] theorem Core.setBank_after (c : Core) (b : Nat) (x : Bank) : (c.setBank b x).after = c.after := rfl
@[simp] theorem Core.setBank_launch (c : Core) (b : Nat) (x : Bank) : (c.setBank b x).launch = c.launch := rfl
@[simp] theorem Core.setBank_brSet (c : Core) (b : Nat) (x : Bank) : (c.setBank b x).brSet = c.brSet := rfl
@[simp] theorem Core.setBank_flagsRaised (c : Core) (b : Nat) (x : Bank) : (c.setBank b x).flagsRaised = c.flagsRaised := rfl
@[simp] theorem Core.setBank_flagPoison (c : Core) (b : Nat) (x : Bank) : (c.setBank b x).flagPoison = c.flagPoison := rfl
@[simp] theorem Core.setBank_engSeq (c : Core) (b : Nat) (x : Bank) : (c.setBank b x).engSeq = c.engSeq := rfl
@[simp] theorem Core.setBank_past (c : Core) (b : Nat) (x : Bank) : (c.setBank b x).past = c.past := rfl
@[simp] theorem Core.setBank_fell (c : Core) (b : Nat) (x : Bank) : (c.setBank b x).fell = c.fell := rfl
@[simp] theorem Core.setBank_lanesDone (c : Core) (b : Nat) (x : Bank) : (c.setBank b x).lanesDone = c.lanesDone := rfl

@[simp] theorem Core.setFlag_store (c : Core) (n : Nat) (v : Bool) : (c.setFlag n v).store = c.store := rfl
@[simp] theorem Core.setFlag_banks (c : Core) (n : Nat) (v : Bool) : (c.setFlag n v).banks = c.banks := rfl
@[simp] theorem Core.setFlag_cr (c : Core) (n : Nat) (v : Bool) : (c.setFlag n v).cr = c.cr := rfl
@[simp] theorem Core.setFlag_att (c : Core) (n : Nat) (v : Bool) : (c.setFlag n v).att = c.att := rfl
@[simp] theorem Core.setFlag_why (c : Core) (n : Nat) (v : Bool) : (c.setFlag n v).why = c.why := rfl
@[simp] theorem Core.setFlag_jpt (c : Core) (n : Nat) (v : Bool) : (c.setFlag n v).jpt = c.jpt := rfl
@[simp] theorem Core.setFlag_pc (c : Core) (n : Nat) (v : Bool) : (c.setFlag n v).pc = c.pc := rfl
@[simp] theorem Core.setFlag_run (c : Core) (n : Nat) (v : Bool) : (c.setFlag n v).run = c.run := rfl
@[simp] theorem Core.setFlag_act (c : Core) (n : Nat) (v : Bool) : (c.setFlag n v).act = c.act := rfl
@[simp] theorem Core.setFlag_wait (c : Core) (n : Nat) (v : Bool) : (c.setFlag n v).wait = c.wait := rfl
@[simp] theorem Core.setFlag_parked (c : Core) (n : Nat) (v : Bool) : (c.setFlag n v).parked = c.parked := rfl
@[simp] theorem Core.setFlag_ready (c : Core) (n : Nat) (v : Bool) : (c.setFlag n v).ready = c.ready := rfl
@[simp] theorem Core.setFlag_freeHead (c : Core) (n : Nat) (v : Bool) : (c.setFlag n v).freeHead = c.freeHead := rfl
@[simp] theorem Core.setFlag_trigs (c : Core) (n : Nat) (v : Bool) : (c.setFlag n v).trigs = c.trigs := rfl
@[simp] theorem Core.setFlag_classes (c : Core) (n : Nat) (v : Bool) : (c.setFlag n v).classes = c.classes := rfl
@[simp] theorem Core.setFlag_keeps (c : Core) (n : Nat) (v : Bool) : (c.setFlag n v).keeps = c.keeps := rfl
@[simp] theorem Core.setFlag_pend (c : Core) (n : Nat) (v : Bool) : (c.setFlag n v).pend = c.pend := rfl
@[simp] theorem Core.setFlag_conv (c : Core) (n : Nat) (v : Bool) : (c.setFlag n v).conv = c.conv := rfl
@[simp] theorem Core.setFlag_mq (c : Core) (n : Nat) (v : Bool) : (c.setFlag n v).mq = c.mq := rfl
@[simp] theorem Core.setFlag_accs (c : Core) (n : Nat) (v : Bool) : (c.setFlag n v).accs = c.accs := rfl
@[simp] theorem Core.setFlag_copies (c : Core) (n : Nat) (v : Bool) : (c.setFlag n v).copies = c.copies := rfl
@[simp] theorem Core.setFlag_promise (c : Core) (n : Nat) (v : Bool) : (c.setFlag n v).promise = c.promise := rfl
@[simp] theorem Core.setFlag_held (c : Core) (n : Nat) (v : Bool) : (c.setFlag n v).held = c.held := rfl
@[simp] theorem Core.setFlag_engPend (c : Core) (n : Nat) (v : Bool) : (c.setFlag n v).engPend = c.engPend := rfl
@[simp] theorem Core.setFlag_engSlot (c : Core) (n : Nat) (v : Bool) : (c.setFlag n v).engSlot = c.engSlot := rfl
@[simp] theorem Core.setFlag_reissue (c : Core) (n : Nat) (v : Bool) : (c.setFlag n v).reissue = c.reissue := rfl
@[simp] theorem Core.setFlag_closed (c : Core) (n : Nat) (v : Bool) : (c.setFlag n v).closed = c.closed := rfl
@[simp] theorem Core.setFlag_delays (c : Core) (n : Nat) (v : Bool) : (c.setFlag n v).delays = c.delays := rfl
@[simp] theorem Core.setFlag_delayPid (c : Core) (n : Nat) (v : Bool) : (c.setFlag n v).delayPid = c.delayPid := rfl
@[simp] theorem Core.setFlag_buf (c : Core) (n : Nat) (v : Bool) : (c.setFlag n v).buf = c.buf := rfl
@[simp] theorem Core.setFlag_taken (c : Core) (n : Nat) (v : Bool) : (c.setFlag n v).taken = c.taken := rfl
@[simp] theorem Core.setFlag_governed (c : Core) (n : Nat) (v : Bool) : (c.setFlag n v).governed = c.governed := rfl
@[simp] theorem Core.setFlag_obligation (c : Core) (n : Nat) (v : Bool) : (c.setFlag n v).obligation = c.obligation := rfl
@[simp] theorem Core.setFlag_repBuf (c : Core) (n : Nat) (v : Bool) : (c.setFlag n v).repBuf = c.repBuf := rfl
@[simp] theorem Core.setFlag_repCount (c : Core) (n : Nat) (v : Bool) : (c.setFlag n v).repCount = c.repCount := rfl
@[simp] theorem Core.setFlag_transfer (c : Core) (n : Nat) (v : Bool) : (c.setFlag n v).transfer = c.transfer := rfl
@[simp] theorem Core.setFlag_stopReq (c : Core) (n : Nat) (v : Bool) : (c.setFlag n v).stopReq = c.stopReq := rfl
@[simp] theorem Core.setFlag_stopped (c : Core) (n : Nat) (v : Bool) : (c.setFlag n v).stopped = c.stopped := rfl
@[simp] theorem Core.setFlag_shadowEpc (c : Core) (n : Nat) (v : Bool) : (c.setFlag n v).shadowEpc = c.shadowEpc := rfl
@[simp] theorem Core.setFlag_redeliver (c : Core) (n : Nat) (v : Bool) : (c.setFlag n v).redeliver = c.redeliver := rfl
@[simp] theorem Core.setFlag_inboxRecq (c : Core) (n : Nat) (v : Bool) : (c.setFlag n v).inboxRecq = c.inboxRecq := rfl
@[simp] theorem Core.setFlag_after (c : Core) (n : Nat) (v : Bool) : (c.setFlag n v).after = c.after := rfl
@[simp] theorem Core.setFlag_launch (c : Core) (n : Nat) (v : Bool) : (c.setFlag n v).launch = c.launch := rfl
@[simp] theorem Core.setFlag_brSet (c : Core) (n : Nat) (v : Bool) : (c.setFlag n v).brSet = c.brSet := rfl
@[simp] theorem Core.setFlag_flagsRaised (c : Core) (n : Nat) (v : Bool) : (c.setFlag n v).flagsRaised = c.flagsRaised := rfl
@[simp] theorem Core.setFlag_flagPoison (c : Core) (n : Nat) (v : Bool) : (c.setFlag n v).flagPoison = c.flagPoison := rfl
@[simp] theorem Core.setFlag_engSeq (c : Core) (n : Nat) (v : Bool) : (c.setFlag n v).engSeq = c.engSeq := rfl
@[simp] theorem Core.setFlag_past (c : Core) (n : Nat) (v : Bool) : (c.setFlag n v).past = c.past := rfl
@[simp] theorem Core.setFlag_fell (c : Core) (n : Nat) (v : Bool) : (c.setFlag n v).fell = c.fell := rfl
@[simp] theorem Core.setFlag_lanesDone (c : Core) (n : Nat) (v : Bool) : (c.setFlag n v).lanesDone = c.lanesDone := rfl

@[simp] theorem Core.setS_flags (c : Core) (j : Nat) (v : Word) : (c.setS j v).flags = c.flags := by unfold Core.setS; split <;> rfl
@[simp] theorem Core.setS_banks (c : Core) (j : Nat) (v : Word) : (c.setS j v).banks = c.banks := by unfold Core.setS; split <;> rfl
@[simp] theorem Core.setS_cr (c : Core) (j : Nat) (v : Word) : (c.setS j v).cr = c.cr := by unfold Core.setS; split <;> rfl
@[simp] theorem Core.setS_att (c : Core) (j : Nat) (v : Word) : (c.setS j v).att = c.att := by unfold Core.setS; split <;> rfl
@[simp] theorem Core.setS_why (c : Core) (j : Nat) (v : Word) : (c.setS j v).why = c.why := by unfold Core.setS; split <;> rfl
@[simp] theorem Core.setS_jpt (c : Core) (j : Nat) (v : Word) : (c.setS j v).jpt = c.jpt := by unfold Core.setS; split <;> rfl
@[simp] theorem Core.setS_pc (c : Core) (j : Nat) (v : Word) : (c.setS j v).pc = c.pc := by unfold Core.setS; split <;> rfl
@[simp] theorem Core.setS_run (c : Core) (j : Nat) (v : Word) : (c.setS j v).run = c.run := by unfold Core.setS; split <;> rfl
@[simp] theorem Core.setS_act (c : Core) (j : Nat) (v : Word) : (c.setS j v).act = c.act := by unfold Core.setS; split <;> rfl
@[simp] theorem Core.setS_wait (c : Core) (j : Nat) (v : Word) : (c.setS j v).wait = c.wait := by unfold Core.setS; split <;> rfl
@[simp] theorem Core.setS_parked (c : Core) (j : Nat) (v : Word) : (c.setS j v).parked = c.parked := by unfold Core.setS; split <;> rfl
@[simp] theorem Core.setS_ready (c : Core) (j : Nat) (v : Word) : (c.setS j v).ready = c.ready := by unfold Core.setS; split <;> rfl
@[simp] theorem Core.setS_freeHead (c : Core) (j : Nat) (v : Word) : (c.setS j v).freeHead = c.freeHead := by unfold Core.setS; split <;> rfl
@[simp] theorem Core.setS_trigs (c : Core) (j : Nat) (v : Word) : (c.setS j v).trigs = c.trigs := by unfold Core.setS; split <;> rfl
@[simp] theorem Core.setS_classes (c : Core) (j : Nat) (v : Word) : (c.setS j v).classes = c.classes := by unfold Core.setS; split <;> rfl
@[simp] theorem Core.setS_keeps (c : Core) (j : Nat) (v : Word) : (c.setS j v).keeps = c.keeps := by unfold Core.setS; split <;> rfl
@[simp] theorem Core.setS_pend (c : Core) (j : Nat) (v : Word) : (c.setS j v).pend = c.pend := by unfold Core.setS; split <;> rfl
@[simp] theorem Core.setS_conv (c : Core) (j : Nat) (v : Word) : (c.setS j v).conv = c.conv := by unfold Core.setS; split <;> rfl
@[simp] theorem Core.setS_mq (c : Core) (j : Nat) (v : Word) : (c.setS j v).mq = c.mq := by unfold Core.setS; split <;> rfl
@[simp] theorem Core.setS_accs (c : Core) (j : Nat) (v : Word) : (c.setS j v).accs = c.accs := by unfold Core.setS; split <;> rfl
@[simp] theorem Core.setS_copies (c : Core) (j : Nat) (v : Word) : (c.setS j v).copies = c.copies := by unfold Core.setS; split <;> rfl
@[simp] theorem Core.setS_promise (c : Core) (j : Nat) (v : Word) : (c.setS j v).promise = c.promise := by unfold Core.setS; split <;> rfl
@[simp] theorem Core.setS_held (c : Core) (j : Nat) (v : Word) : (c.setS j v).held = c.held := by unfold Core.setS; split <;> rfl
@[simp] theorem Core.setS_engPend (c : Core) (j : Nat) (v : Word) : (c.setS j v).engPend = c.engPend := by unfold Core.setS; split <;> rfl
@[simp] theorem Core.setS_engSlot (c : Core) (j : Nat) (v : Word) : (c.setS j v).engSlot = c.engSlot := by unfold Core.setS; split <;> rfl
@[simp] theorem Core.setS_reissue (c : Core) (j : Nat) (v : Word) : (c.setS j v).reissue = c.reissue := by unfold Core.setS; split <;> rfl
@[simp] theorem Core.setS_closed (c : Core) (j : Nat) (v : Word) : (c.setS j v).closed = c.closed := by unfold Core.setS; split <;> rfl
@[simp] theorem Core.setS_delays (c : Core) (j : Nat) (v : Word) : (c.setS j v).delays = c.delays := by unfold Core.setS; split <;> rfl
@[simp] theorem Core.setS_delayPid (c : Core) (j : Nat) (v : Word) : (c.setS j v).delayPid = c.delayPid := by unfold Core.setS; split <;> rfl
@[simp] theorem Core.setS_buf (c : Core) (j : Nat) (v : Word) : (c.setS j v).buf = c.buf := by unfold Core.setS; split <;> rfl
@[simp] theorem Core.setS_taken (c : Core) (j : Nat) (v : Word) : (c.setS j v).taken = c.taken := by unfold Core.setS; split <;> rfl
@[simp] theorem Core.setS_governed (c : Core) (j : Nat) (v : Word) : (c.setS j v).governed = c.governed := by unfold Core.setS; split <;> rfl
@[simp] theorem Core.setS_obligation (c : Core) (j : Nat) (v : Word) : (c.setS j v).obligation = c.obligation := by unfold Core.setS; split <;> rfl
@[simp] theorem Core.setS_repBuf (c : Core) (j : Nat) (v : Word) : (c.setS j v).repBuf = c.repBuf := by unfold Core.setS; split <;> rfl
@[simp] theorem Core.setS_repCount (c : Core) (j : Nat) (v : Word) : (c.setS j v).repCount = c.repCount := by unfold Core.setS; split <;> rfl
@[simp] theorem Core.setS_transfer (c : Core) (j : Nat) (v : Word) : (c.setS j v).transfer = c.transfer := by unfold Core.setS; split <;> rfl
@[simp] theorem Core.setS_stopReq (c : Core) (j : Nat) (v : Word) : (c.setS j v).stopReq = c.stopReq := by unfold Core.setS; split <;> rfl
@[simp] theorem Core.setS_stopped (c : Core) (j : Nat) (v : Word) : (c.setS j v).stopped = c.stopped := by unfold Core.setS; split <;> rfl
@[simp] theorem Core.setS_shadowEpc (c : Core) (j : Nat) (v : Word) : (c.setS j v).shadowEpc = c.shadowEpc := by unfold Core.setS; split <;> rfl
@[simp] theorem Core.setS_redeliver (c : Core) (j : Nat) (v : Word) : (c.setS j v).redeliver = c.redeliver := by unfold Core.setS; split <;> rfl
@[simp] theorem Core.setS_inboxRecq (c : Core) (j : Nat) (v : Word) : (c.setS j v).inboxRecq = c.inboxRecq := by unfold Core.setS; split <;> rfl
@[simp] theorem Core.setS_after (c : Core) (j : Nat) (v : Word) : (c.setS j v).after = c.after := by unfold Core.setS; split <;> rfl
@[simp] theorem Core.setS_launch (c : Core) (j : Nat) (v : Word) : (c.setS j v).launch = c.launch := by unfold Core.setS; split <;> rfl
@[simp] theorem Core.setS_brSet (c : Core) (j : Nat) (v : Word) : (c.setS j v).brSet = c.brSet := by unfold Core.setS; split <;> rfl
@[simp] theorem Core.setS_flagsRaised (c : Core) (j : Nat) (v : Word) : (c.setS j v).flagsRaised = c.flagsRaised := by unfold Core.setS; split <;> rfl
@[simp] theorem Core.setS_flagPoison (c : Core) (j : Nat) (v : Word) : (c.setS j v).flagPoison = c.flagPoison := by unfold Core.setS; split <;> rfl
@[simp] theorem Core.setS_engSeq (c : Core) (j : Nat) (v : Word) : (c.setS j v).engSeq = c.engSeq := by unfold Core.setS; split <;> rfl
@[simp] theorem Core.setS_past (c : Core) (j : Nat) (v : Word) : (c.setS j v).past = c.past := by unfold Core.setS; split <;> rfl
@[simp] theorem Core.setS_fell (c : Core) (j : Nat) (v : Word) : (c.setS j v).fell = c.fell := by unfold Core.setS; split <;> rfl
@[simp] theorem Core.setS_lanesDone (c : Core) (j : Nat) (v : Word) : (c.setS j v).lanesDone = c.lanesDone := by unfold Core.setS; split <;> rfl

@[simp] theorem Core.setM_flags (c : Core) (j : Nat) (v : BitVec 16) : (c.setM j v).flags = c.flags := rfl
@[simp] theorem Core.setM_banks (c : Core) (j : Nat) (v : BitVec 16) : (c.setM j v).banks = c.banks := rfl
@[simp] theorem Core.setM_cr (c : Core) (j : Nat) (v : BitVec 16) : (c.setM j v).cr = c.cr := rfl
@[simp] theorem Core.setM_att (c : Core) (j : Nat) (v : BitVec 16) : (c.setM j v).att = c.att := rfl
@[simp] theorem Core.setM_why (c : Core) (j : Nat) (v : BitVec 16) : (c.setM j v).why = c.why := rfl
@[simp] theorem Core.setM_jpt (c : Core) (j : Nat) (v : BitVec 16) : (c.setM j v).jpt = c.jpt := rfl
@[simp] theorem Core.setM_pc (c : Core) (j : Nat) (v : BitVec 16) : (c.setM j v).pc = c.pc := rfl
@[simp] theorem Core.setM_run (c : Core) (j : Nat) (v : BitVec 16) : (c.setM j v).run = c.run := rfl
@[simp] theorem Core.setM_act (c : Core) (j : Nat) (v : BitVec 16) : (c.setM j v).act = c.act := rfl
@[simp] theorem Core.setM_wait (c : Core) (j : Nat) (v : BitVec 16) : (c.setM j v).wait = c.wait := rfl
@[simp] theorem Core.setM_parked (c : Core) (j : Nat) (v : BitVec 16) : (c.setM j v).parked = c.parked := rfl
@[simp] theorem Core.setM_ready (c : Core) (j : Nat) (v : BitVec 16) : (c.setM j v).ready = c.ready := rfl
@[simp] theorem Core.setM_freeHead (c : Core) (j : Nat) (v : BitVec 16) : (c.setM j v).freeHead = c.freeHead := rfl
@[simp] theorem Core.setM_trigs (c : Core) (j : Nat) (v : BitVec 16) : (c.setM j v).trigs = c.trigs := rfl
@[simp] theorem Core.setM_classes (c : Core) (j : Nat) (v : BitVec 16) : (c.setM j v).classes = c.classes := rfl
@[simp] theorem Core.setM_keeps (c : Core) (j : Nat) (v : BitVec 16) : (c.setM j v).keeps = c.keeps := rfl
@[simp] theorem Core.setM_pend (c : Core) (j : Nat) (v : BitVec 16) : (c.setM j v).pend = c.pend := rfl
@[simp] theorem Core.setM_conv (c : Core) (j : Nat) (v : BitVec 16) : (c.setM j v).conv = c.conv := rfl
@[simp] theorem Core.setM_mq (c : Core) (j : Nat) (v : BitVec 16) : (c.setM j v).mq = c.mq := rfl
@[simp] theorem Core.setM_accs (c : Core) (j : Nat) (v : BitVec 16) : (c.setM j v).accs = c.accs := rfl
@[simp] theorem Core.setM_copies (c : Core) (j : Nat) (v : BitVec 16) : (c.setM j v).copies = c.copies := rfl
@[simp] theorem Core.setM_promise (c : Core) (j : Nat) (v : BitVec 16) : (c.setM j v).promise = c.promise := rfl
@[simp] theorem Core.setM_held (c : Core) (j : Nat) (v : BitVec 16) : (c.setM j v).held = c.held := rfl
@[simp] theorem Core.setM_engPend (c : Core) (j : Nat) (v : BitVec 16) : (c.setM j v).engPend = c.engPend := rfl
@[simp] theorem Core.setM_engSlot (c : Core) (j : Nat) (v : BitVec 16) : (c.setM j v).engSlot = c.engSlot := rfl
@[simp] theorem Core.setM_reissue (c : Core) (j : Nat) (v : BitVec 16) : (c.setM j v).reissue = c.reissue := rfl
@[simp] theorem Core.setM_closed (c : Core) (j : Nat) (v : BitVec 16) : (c.setM j v).closed = c.closed := rfl
@[simp] theorem Core.setM_delays (c : Core) (j : Nat) (v : BitVec 16) : (c.setM j v).delays = c.delays := rfl
@[simp] theorem Core.setM_delayPid (c : Core) (j : Nat) (v : BitVec 16) : (c.setM j v).delayPid = c.delayPid := rfl
@[simp] theorem Core.setM_buf (c : Core) (j : Nat) (v : BitVec 16) : (c.setM j v).buf = c.buf := rfl
@[simp] theorem Core.setM_taken (c : Core) (j : Nat) (v : BitVec 16) : (c.setM j v).taken = c.taken := rfl
@[simp] theorem Core.setM_governed (c : Core) (j : Nat) (v : BitVec 16) : (c.setM j v).governed = c.governed := rfl
@[simp] theorem Core.setM_obligation (c : Core) (j : Nat) (v : BitVec 16) : (c.setM j v).obligation = c.obligation := rfl
@[simp] theorem Core.setM_repBuf (c : Core) (j : Nat) (v : BitVec 16) : (c.setM j v).repBuf = c.repBuf := rfl
@[simp] theorem Core.setM_repCount (c : Core) (j : Nat) (v : BitVec 16) : (c.setM j v).repCount = c.repCount := rfl
@[simp] theorem Core.setM_transfer (c : Core) (j : Nat) (v : BitVec 16) : (c.setM j v).transfer = c.transfer := rfl
@[simp] theorem Core.setM_stopReq (c : Core) (j : Nat) (v : BitVec 16) : (c.setM j v).stopReq = c.stopReq := rfl
@[simp] theorem Core.setM_stopped (c : Core) (j : Nat) (v : BitVec 16) : (c.setM j v).stopped = c.stopped := rfl
@[simp] theorem Core.setM_shadowEpc (c : Core) (j : Nat) (v : BitVec 16) : (c.setM j v).shadowEpc = c.shadowEpc := rfl
@[simp] theorem Core.setM_redeliver (c : Core) (j : Nat) (v : BitVec 16) : (c.setM j v).redeliver = c.redeliver := rfl
@[simp] theorem Core.setM_inboxRecq (c : Core) (j : Nat) (v : BitVec 16) : (c.setM j v).inboxRecq = c.inboxRecq := rfl
@[simp] theorem Core.setM_after (c : Core) (j : Nat) (v : BitVec 16) : (c.setM j v).after = c.after := rfl
@[simp] theorem Core.setM_launch (c : Core) (j : Nat) (v : BitVec 16) : (c.setM j v).launch = c.launch := rfl
@[simp] theorem Core.setM_brSet (c : Core) (j : Nat) (v : BitVec 16) : (c.setM j v).brSet = c.brSet := rfl
@[simp] theorem Core.setM_flagsRaised (c : Core) (j : Nat) (v : BitVec 16) : (c.setM j v).flagsRaised = c.flagsRaised := rfl
@[simp] theorem Core.setM_flagPoison (c : Core) (j : Nat) (v : BitVec 16) : (c.setM j v).flagPoison = c.flagPoison := rfl
@[simp] theorem Core.setM_engSeq (c : Core) (j : Nat) (v : BitVec 16) : (c.setM j v).engSeq = c.engSeq := rfl
@[simp] theorem Core.setM_past (c : Core) (j : Nat) (v : BitVec 16) : (c.setM j v).past = c.past := rfl
@[simp] theorem Core.setM_fell (c : Core) (j : Nat) (v : BitVec 16) : (c.setM j v).fell = c.fell := rfl
@[simp] theorem Core.setM_lanesDone (c : Core) (j : Nat) (v : BitVec 16) : (c.setM j v).lanesDone = c.lanesDone := rfl

@[simp] theorem Core.setV_flags (c : Core) (j i : Nat) (x : W32) : (c.setV j i x).flags = c.flags := rfl
@[simp] theorem Core.setV_banks (c : Core) (j i : Nat) (x : W32) : (c.setV j i x).banks = c.banks := rfl
@[simp] theorem Core.setV_cr (c : Core) (j i : Nat) (x : W32) : (c.setV j i x).cr = c.cr := rfl
@[simp] theorem Core.setV_att (c : Core) (j i : Nat) (x : W32) : (c.setV j i x).att = c.att := rfl
@[simp] theorem Core.setV_why (c : Core) (j i : Nat) (x : W32) : (c.setV j i x).why = c.why := rfl
@[simp] theorem Core.setV_jpt (c : Core) (j i : Nat) (x : W32) : (c.setV j i x).jpt = c.jpt := rfl
@[simp] theorem Core.setV_pc (c : Core) (j i : Nat) (x : W32) : (c.setV j i x).pc = c.pc := rfl
@[simp] theorem Core.setV_run (c : Core) (j i : Nat) (x : W32) : (c.setV j i x).run = c.run := rfl
@[simp] theorem Core.setV_act (c : Core) (j i : Nat) (x : W32) : (c.setV j i x).act = c.act := rfl
@[simp] theorem Core.setV_wait (c : Core) (j i : Nat) (x : W32) : (c.setV j i x).wait = c.wait := rfl
@[simp] theorem Core.setV_parked (c : Core) (j i : Nat) (x : W32) : (c.setV j i x).parked = c.parked := rfl
@[simp] theorem Core.setV_ready (c : Core) (j i : Nat) (x : W32) : (c.setV j i x).ready = c.ready := rfl
@[simp] theorem Core.setV_freeHead (c : Core) (j i : Nat) (x : W32) : (c.setV j i x).freeHead = c.freeHead := rfl
@[simp] theorem Core.setV_trigs (c : Core) (j i : Nat) (x : W32) : (c.setV j i x).trigs = c.trigs := rfl
@[simp] theorem Core.setV_classes (c : Core) (j i : Nat) (x : W32) : (c.setV j i x).classes = c.classes := rfl
@[simp] theorem Core.setV_keeps (c : Core) (j i : Nat) (x : W32) : (c.setV j i x).keeps = c.keeps := rfl
@[simp] theorem Core.setV_pend (c : Core) (j i : Nat) (x : W32) : (c.setV j i x).pend = c.pend := rfl
@[simp] theorem Core.setV_conv (c : Core) (j i : Nat) (x : W32) : (c.setV j i x).conv = c.conv := rfl
@[simp] theorem Core.setV_mq (c : Core) (j i : Nat) (x : W32) : (c.setV j i x).mq = c.mq := rfl
@[simp] theorem Core.setV_accs (c : Core) (j i : Nat) (x : W32) : (c.setV j i x).accs = c.accs := rfl
@[simp] theorem Core.setV_copies (c : Core) (j i : Nat) (x : W32) : (c.setV j i x).copies = c.copies := rfl
@[simp] theorem Core.setV_promise (c : Core) (j i : Nat) (x : W32) : (c.setV j i x).promise = c.promise := rfl
@[simp] theorem Core.setV_held (c : Core) (j i : Nat) (x : W32) : (c.setV j i x).held = c.held := rfl
@[simp] theorem Core.setV_engPend (c : Core) (j i : Nat) (x : W32) : (c.setV j i x).engPend = c.engPend := rfl
@[simp] theorem Core.setV_engSlot (c : Core) (j i : Nat) (x : W32) : (c.setV j i x).engSlot = c.engSlot := rfl
@[simp] theorem Core.setV_reissue (c : Core) (j i : Nat) (x : W32) : (c.setV j i x).reissue = c.reissue := rfl
@[simp] theorem Core.setV_closed (c : Core) (j i : Nat) (x : W32) : (c.setV j i x).closed = c.closed := rfl
@[simp] theorem Core.setV_delays (c : Core) (j i : Nat) (x : W32) : (c.setV j i x).delays = c.delays := rfl
@[simp] theorem Core.setV_delayPid (c : Core) (j i : Nat) (x : W32) : (c.setV j i x).delayPid = c.delayPid := rfl
@[simp] theorem Core.setV_buf (c : Core) (j i : Nat) (x : W32) : (c.setV j i x).buf = c.buf := rfl
@[simp] theorem Core.setV_taken (c : Core) (j i : Nat) (x : W32) : (c.setV j i x).taken = c.taken := rfl
@[simp] theorem Core.setV_governed (c : Core) (j i : Nat) (x : W32) : (c.setV j i x).governed = c.governed := rfl
@[simp] theorem Core.setV_obligation (c : Core) (j i : Nat) (x : W32) : (c.setV j i x).obligation = c.obligation := rfl
@[simp] theorem Core.setV_repBuf (c : Core) (j i : Nat) (x : W32) : (c.setV j i x).repBuf = c.repBuf := rfl
@[simp] theorem Core.setV_repCount (c : Core) (j i : Nat) (x : W32) : (c.setV j i x).repCount = c.repCount := rfl
@[simp] theorem Core.setV_transfer (c : Core) (j i : Nat) (x : W32) : (c.setV j i x).transfer = c.transfer := rfl
@[simp] theorem Core.setV_stopReq (c : Core) (j i : Nat) (x : W32) : (c.setV j i x).stopReq = c.stopReq := rfl
@[simp] theorem Core.setV_stopped (c : Core) (j i : Nat) (x : W32) : (c.setV j i x).stopped = c.stopped := rfl
@[simp] theorem Core.setV_shadowEpc (c : Core) (j i : Nat) (x : W32) : (c.setV j i x).shadowEpc = c.shadowEpc := rfl
@[simp] theorem Core.setV_redeliver (c : Core) (j i : Nat) (x : W32) : (c.setV j i x).redeliver = c.redeliver := rfl
@[simp] theorem Core.setV_inboxRecq (c : Core) (j i : Nat) (x : W32) : (c.setV j i x).inboxRecq = c.inboxRecq := rfl
@[simp] theorem Core.setV_after (c : Core) (j i : Nat) (x : W32) : (c.setV j i x).after = c.after := rfl
@[simp] theorem Core.setV_launch (c : Core) (j i : Nat) (x : W32) : (c.setV j i x).launch = c.launch := rfl
@[simp] theorem Core.setV_brSet (c : Core) (j i : Nat) (x : W32) : (c.setV j i x).brSet = c.brSet := rfl
@[simp] theorem Core.setV_flagsRaised (c : Core) (j i : Nat) (x : W32) : (c.setV j i x).flagsRaised = c.flagsRaised := rfl
@[simp] theorem Core.setV_flagPoison (c : Core) (j i : Nat) (x : W32) : (c.setV j i x).flagPoison = c.flagPoison := rfl
@[simp] theorem Core.setV_engSeq (c : Core) (j i : Nat) (x : W32) : (c.setV j i x).engSeq = c.engSeq := rfl
@[simp] theorem Core.setV_past (c : Core) (j i : Nat) (x : W32) : (c.setV j i x).past = c.past := rfl
@[simp] theorem Core.setV_fell (c : Core) (j i : Nat) (x : W32) : (c.setV j i x).fell = c.fell := rfl
@[simp] theorem Core.setV_lanesDone (c : Core) (j i : Nat) (x : W32) : (c.setV j i x).lanesDone = c.lanesDone := rfl

@[simp] theorem Core.setLanes_flags (c : Core) (j : Nat) (l : List (Nat × W32)) : (c.setLanes j l).flags = c.flags := by
  induction l generalizing c with
  | nil => rfl
  | cons x t ih => exact (ih _).trans rfl
@[simp] theorem Core.setLanes_banks (c : Core) (j : Nat) (l : List (Nat × W32)) : (c.setLanes j l).banks = c.banks := by
  induction l generalizing c with
  | nil => rfl
  | cons x t ih => exact (ih _).trans rfl
@[simp] theorem Core.setLanes_cr (c : Core) (j : Nat) (l : List (Nat × W32)) : (c.setLanes j l).cr = c.cr := by
  induction l generalizing c with
  | nil => rfl
  | cons x t ih => exact (ih _).trans rfl
@[simp] theorem Core.setLanes_att (c : Core) (j : Nat) (l : List (Nat × W32)) : (c.setLanes j l).att = c.att := by
  induction l generalizing c with
  | nil => rfl
  | cons x t ih => exact (ih _).trans rfl
@[simp] theorem Core.setLanes_why (c : Core) (j : Nat) (l : List (Nat × W32)) : (c.setLanes j l).why = c.why := by
  induction l generalizing c with
  | nil => rfl
  | cons x t ih => exact (ih _).trans rfl
@[simp] theorem Core.setLanes_jpt (c : Core) (j : Nat) (l : List (Nat × W32)) : (c.setLanes j l).jpt = c.jpt := by
  induction l generalizing c with
  | nil => rfl
  | cons x t ih => exact (ih _).trans rfl
@[simp] theorem Core.setLanes_pc (c : Core) (j : Nat) (l : List (Nat × W32)) : (c.setLanes j l).pc = c.pc := by
  induction l generalizing c with
  | nil => rfl
  | cons x t ih => exact (ih _).trans rfl
@[simp] theorem Core.setLanes_run (c : Core) (j : Nat) (l : List (Nat × W32)) : (c.setLanes j l).run = c.run := by
  induction l generalizing c with
  | nil => rfl
  | cons x t ih => exact (ih _).trans rfl
@[simp] theorem Core.setLanes_act (c : Core) (j : Nat) (l : List (Nat × W32)) : (c.setLanes j l).act = c.act := by
  induction l generalizing c with
  | nil => rfl
  | cons x t ih => exact (ih _).trans rfl
@[simp] theorem Core.setLanes_wait (c : Core) (j : Nat) (l : List (Nat × W32)) : (c.setLanes j l).wait = c.wait := by
  induction l generalizing c with
  | nil => rfl
  | cons x t ih => exact (ih _).trans rfl
@[simp] theorem Core.setLanes_parked (c : Core) (j : Nat) (l : List (Nat × W32)) : (c.setLanes j l).parked = c.parked := by
  induction l generalizing c with
  | nil => rfl
  | cons x t ih => exact (ih _).trans rfl
@[simp] theorem Core.setLanes_ready (c : Core) (j : Nat) (l : List (Nat × W32)) : (c.setLanes j l).ready = c.ready := by
  induction l generalizing c with
  | nil => rfl
  | cons x t ih => exact (ih _).trans rfl
@[simp] theorem Core.setLanes_freeHead (c : Core) (j : Nat) (l : List (Nat × W32)) : (c.setLanes j l).freeHead = c.freeHead := by
  induction l generalizing c with
  | nil => rfl
  | cons x t ih => exact (ih _).trans rfl
@[simp] theorem Core.setLanes_trigs (c : Core) (j : Nat) (l : List (Nat × W32)) : (c.setLanes j l).trigs = c.trigs := by
  induction l generalizing c with
  | nil => rfl
  | cons x t ih => exact (ih _).trans rfl
@[simp] theorem Core.setLanes_classes (c : Core) (j : Nat) (l : List (Nat × W32)) : (c.setLanes j l).classes = c.classes := by
  induction l generalizing c with
  | nil => rfl
  | cons x t ih => exact (ih _).trans rfl
@[simp] theorem Core.setLanes_keeps (c : Core) (j : Nat) (l : List (Nat × W32)) : (c.setLanes j l).keeps = c.keeps := by
  induction l generalizing c with
  | nil => rfl
  | cons x t ih => exact (ih _).trans rfl
@[simp] theorem Core.setLanes_pend (c : Core) (j : Nat) (l : List (Nat × W32)) : (c.setLanes j l).pend = c.pend := by
  induction l generalizing c with
  | nil => rfl
  | cons x t ih => exact (ih _).trans rfl
@[simp] theorem Core.setLanes_conv (c : Core) (j : Nat) (l : List (Nat × W32)) : (c.setLanes j l).conv = c.conv := by
  induction l generalizing c with
  | nil => rfl
  | cons x t ih => exact (ih _).trans rfl
@[simp] theorem Core.setLanes_mq (c : Core) (j : Nat) (l : List (Nat × W32)) : (c.setLanes j l).mq = c.mq := by
  induction l generalizing c with
  | nil => rfl
  | cons x t ih => exact (ih _).trans rfl
@[simp] theorem Core.setLanes_accs (c : Core) (j : Nat) (l : List (Nat × W32)) : (c.setLanes j l).accs = c.accs := by
  induction l generalizing c with
  | nil => rfl
  | cons x t ih => exact (ih _).trans rfl
@[simp] theorem Core.setLanes_copies (c : Core) (j : Nat) (l : List (Nat × W32)) : (c.setLanes j l).copies = c.copies := by
  induction l generalizing c with
  | nil => rfl
  | cons x t ih => exact (ih _).trans rfl
@[simp] theorem Core.setLanes_promise (c : Core) (j : Nat) (l : List (Nat × W32)) : (c.setLanes j l).promise = c.promise := by
  induction l generalizing c with
  | nil => rfl
  | cons x t ih => exact (ih _).trans rfl
@[simp] theorem Core.setLanes_held (c : Core) (j : Nat) (l : List (Nat × W32)) : (c.setLanes j l).held = c.held := by
  induction l generalizing c with
  | nil => rfl
  | cons x t ih => exact (ih _).trans rfl
@[simp] theorem Core.setLanes_engPend (c : Core) (j : Nat) (l : List (Nat × W32)) : (c.setLanes j l).engPend = c.engPend := by
  induction l generalizing c with
  | nil => rfl
  | cons x t ih => exact (ih _).trans rfl
@[simp] theorem Core.setLanes_engSlot (c : Core) (j : Nat) (l : List (Nat × W32)) : (c.setLanes j l).engSlot = c.engSlot := by
  induction l generalizing c with
  | nil => rfl
  | cons x t ih => exact (ih _).trans rfl
@[simp] theorem Core.setLanes_reissue (c : Core) (j : Nat) (l : List (Nat × W32)) : (c.setLanes j l).reissue = c.reissue := by
  induction l generalizing c with
  | nil => rfl
  | cons x t ih => exact (ih _).trans rfl
@[simp] theorem Core.setLanes_closed (c : Core) (j : Nat) (l : List (Nat × W32)) : (c.setLanes j l).closed = c.closed := by
  induction l generalizing c with
  | nil => rfl
  | cons x t ih => exact (ih _).trans rfl
@[simp] theorem Core.setLanes_delays (c : Core) (j : Nat) (l : List (Nat × W32)) : (c.setLanes j l).delays = c.delays := by
  induction l generalizing c with
  | nil => rfl
  | cons x t ih => exact (ih _).trans rfl
@[simp] theorem Core.setLanes_delayPid (c : Core) (j : Nat) (l : List (Nat × W32)) : (c.setLanes j l).delayPid = c.delayPid := by
  induction l generalizing c with
  | nil => rfl
  | cons x t ih => exact (ih _).trans rfl
@[simp] theorem Core.setLanes_buf (c : Core) (j : Nat) (l : List (Nat × W32)) : (c.setLanes j l).buf = c.buf := by
  induction l generalizing c with
  | nil => rfl
  | cons x t ih => exact (ih _).trans rfl
@[simp] theorem Core.setLanes_taken (c : Core) (j : Nat) (l : List (Nat × W32)) : (c.setLanes j l).taken = c.taken := by
  induction l generalizing c with
  | nil => rfl
  | cons x t ih => exact (ih _).trans rfl
@[simp] theorem Core.setLanes_governed (c : Core) (j : Nat) (l : List (Nat × W32)) : (c.setLanes j l).governed = c.governed := by
  induction l generalizing c with
  | nil => rfl
  | cons x t ih => exact (ih _).trans rfl
@[simp] theorem Core.setLanes_obligation (c : Core) (j : Nat) (l : List (Nat × W32)) : (c.setLanes j l).obligation = c.obligation := by
  induction l generalizing c with
  | nil => rfl
  | cons x t ih => exact (ih _).trans rfl
@[simp] theorem Core.setLanes_repBuf (c : Core) (j : Nat) (l : List (Nat × W32)) : (c.setLanes j l).repBuf = c.repBuf := by
  induction l generalizing c with
  | nil => rfl
  | cons x t ih => exact (ih _).trans rfl
@[simp] theorem Core.setLanes_repCount (c : Core) (j : Nat) (l : List (Nat × W32)) : (c.setLanes j l).repCount = c.repCount := by
  induction l generalizing c with
  | nil => rfl
  | cons x t ih => exact (ih _).trans rfl
@[simp] theorem Core.setLanes_transfer (c : Core) (j : Nat) (l : List (Nat × W32)) : (c.setLanes j l).transfer = c.transfer := by
  induction l generalizing c with
  | nil => rfl
  | cons x t ih => exact (ih _).trans rfl
@[simp] theorem Core.setLanes_stopReq (c : Core) (j : Nat) (l : List (Nat × W32)) : (c.setLanes j l).stopReq = c.stopReq := by
  induction l generalizing c with
  | nil => rfl
  | cons x t ih => exact (ih _).trans rfl
@[simp] theorem Core.setLanes_stopped (c : Core) (j : Nat) (l : List (Nat × W32)) : (c.setLanes j l).stopped = c.stopped := by
  induction l generalizing c with
  | nil => rfl
  | cons x t ih => exact (ih _).trans rfl
@[simp] theorem Core.setLanes_shadowEpc (c : Core) (j : Nat) (l : List (Nat × W32)) : (c.setLanes j l).shadowEpc = c.shadowEpc := by
  induction l generalizing c with
  | nil => rfl
  | cons x t ih => exact (ih _).trans rfl
@[simp] theorem Core.setLanes_redeliver (c : Core) (j : Nat) (l : List (Nat × W32)) : (c.setLanes j l).redeliver = c.redeliver := by
  induction l generalizing c with
  | nil => rfl
  | cons x t ih => exact (ih _).trans rfl
@[simp] theorem Core.setLanes_inboxRecq (c : Core) (j : Nat) (l : List (Nat × W32)) : (c.setLanes j l).inboxRecq = c.inboxRecq := by
  induction l generalizing c with
  | nil => rfl
  | cons x t ih => exact (ih _).trans rfl
@[simp] theorem Core.setLanes_after (c : Core) (j : Nat) (l : List (Nat × W32)) : (c.setLanes j l).after = c.after := by
  induction l generalizing c with
  | nil => rfl
  | cons x t ih => exact (ih _).trans rfl
@[simp] theorem Core.setLanes_launch (c : Core) (j : Nat) (l : List (Nat × W32)) : (c.setLanes j l).launch = c.launch := by
  induction l generalizing c with
  | nil => rfl
  | cons x t ih => exact (ih _).trans rfl
@[simp] theorem Core.setLanes_brSet (c : Core) (j : Nat) (l : List (Nat × W32)) : (c.setLanes j l).brSet = c.brSet := by
  induction l generalizing c with
  | nil => rfl
  | cons x t ih => exact (ih _).trans rfl
@[simp] theorem Core.setLanes_flagsRaised (c : Core) (j : Nat) (l : List (Nat × W32)) : (c.setLanes j l).flagsRaised = c.flagsRaised := by
  induction l generalizing c with
  | nil => rfl
  | cons x t ih => exact (ih _).trans rfl
@[simp] theorem Core.setLanes_flagPoison (c : Core) (j : Nat) (l : List (Nat × W32)) : (c.setLanes j l).flagPoison = c.flagPoison := by
  induction l generalizing c with
  | nil => rfl
  | cons x t ih => exact (ih _).trans rfl
@[simp] theorem Core.setLanes_engSeq (c : Core) (j : Nat) (l : List (Nat × W32)) : (c.setLanes j l).engSeq = c.engSeq := by
  induction l generalizing c with
  | nil => rfl
  | cons x t ih => exact (ih _).trans rfl
@[simp] theorem Core.setLanes_past (c : Core) (j : Nat) (l : List (Nat × W32)) : (c.setLanes j l).past = c.past := by
  induction l generalizing c with
  | nil => rfl
  | cons x t ih => exact (ih _).trans rfl
@[simp] theorem Core.setLanes_fell (c : Core) (j : Nat) (l : List (Nat × W32)) : (c.setLanes j l).fell = c.fell := by
  induction l generalizing c with
  | nil => rfl
  | cons x t ih => exact (ih _).trans rfl
@[simp] theorem Core.setLanes_lanesDone (c : Core) (j : Nat) (l : List (Nat × W32)) : (c.setLanes j l).lanesDone = c.lanesDone := by
  induction l generalizing c with
  | nil => rfl
  | cons x t ih => exact (ih _).trans rfl

@[simp] theorem Core.writeV_flags (c : Core) (j : Nat) (l : List (Nat × W32)) : (c.writeV j l).flags = c.flags := by simp [Core.writeV]
@[simp] theorem Core.writeV_banks (c : Core) (j : Nat) (l : List (Nat × W32)) : (c.writeV j l).banks = c.banks := by simp [Core.writeV]
@[simp] theorem Core.writeV_cr (c : Core) (j : Nat) (l : List (Nat × W32)) : (c.writeV j l).cr = c.cr := by simp [Core.writeV]
@[simp] theorem Core.writeV_att (c : Core) (j : Nat) (l : List (Nat × W32)) : (c.writeV j l).att = c.att := by simp [Core.writeV]
@[simp] theorem Core.writeV_why (c : Core) (j : Nat) (l : List (Nat × W32)) : (c.writeV j l).why = c.why := by simp [Core.writeV]
@[simp] theorem Core.writeV_jpt (c : Core) (j : Nat) (l : List (Nat × W32)) : (c.writeV j l).jpt = c.jpt := by simp [Core.writeV]
@[simp] theorem Core.writeV_pc (c : Core) (j : Nat) (l : List (Nat × W32)) : (c.writeV j l).pc = c.pc := by simp [Core.writeV]
@[simp] theorem Core.writeV_run (c : Core) (j : Nat) (l : List (Nat × W32)) : (c.writeV j l).run = c.run := by simp [Core.writeV]
@[simp] theorem Core.writeV_act (c : Core) (j : Nat) (l : List (Nat × W32)) : (c.writeV j l).act = c.act := by simp [Core.writeV]
@[simp] theorem Core.writeV_wait (c : Core) (j : Nat) (l : List (Nat × W32)) : (c.writeV j l).wait = c.wait := by simp [Core.writeV]
@[simp] theorem Core.writeV_parked (c : Core) (j : Nat) (l : List (Nat × W32)) : (c.writeV j l).parked = c.parked := by simp [Core.writeV]
@[simp] theorem Core.writeV_ready (c : Core) (j : Nat) (l : List (Nat × W32)) : (c.writeV j l).ready = c.ready := by simp [Core.writeV]
@[simp] theorem Core.writeV_freeHead (c : Core) (j : Nat) (l : List (Nat × W32)) : (c.writeV j l).freeHead = c.freeHead := by simp [Core.writeV]
@[simp] theorem Core.writeV_trigs (c : Core) (j : Nat) (l : List (Nat × W32)) : (c.writeV j l).trigs = c.trigs := by simp [Core.writeV]
@[simp] theorem Core.writeV_classes (c : Core) (j : Nat) (l : List (Nat × W32)) : (c.writeV j l).classes = c.classes := by simp [Core.writeV]
@[simp] theorem Core.writeV_keeps (c : Core) (j : Nat) (l : List (Nat × W32)) : (c.writeV j l).keeps = c.keeps := by simp [Core.writeV]
@[simp] theorem Core.writeV_pend (c : Core) (j : Nat) (l : List (Nat × W32)) : (c.writeV j l).pend = c.pend := by simp [Core.writeV]
@[simp] theorem Core.writeV_conv (c : Core) (j : Nat) (l : List (Nat × W32)) : (c.writeV j l).conv = c.conv := by simp [Core.writeV]
@[simp] theorem Core.writeV_mq (c : Core) (j : Nat) (l : List (Nat × W32)) : (c.writeV j l).mq = c.mq := by simp [Core.writeV]
@[simp] theorem Core.writeV_accs (c : Core) (j : Nat) (l : List (Nat × W32)) : (c.writeV j l).accs = c.accs := by simp [Core.writeV]
@[simp] theorem Core.writeV_copies (c : Core) (j : Nat) (l : List (Nat × W32)) : (c.writeV j l).copies = c.copies := by simp [Core.writeV]
@[simp] theorem Core.writeV_promise (c : Core) (j : Nat) (l : List (Nat × W32)) : (c.writeV j l).promise = c.promise := by simp [Core.writeV]
@[simp] theorem Core.writeV_held (c : Core) (j : Nat) (l : List (Nat × W32)) : (c.writeV j l).held = c.held := by simp [Core.writeV]
@[simp] theorem Core.writeV_engPend (c : Core) (j : Nat) (l : List (Nat × W32)) : (c.writeV j l).engPend = c.engPend := by simp [Core.writeV]
@[simp] theorem Core.writeV_engSlot (c : Core) (j : Nat) (l : List (Nat × W32)) : (c.writeV j l).engSlot = c.engSlot := by simp [Core.writeV]
@[simp] theorem Core.writeV_reissue (c : Core) (j : Nat) (l : List (Nat × W32)) : (c.writeV j l).reissue = c.reissue := by simp [Core.writeV]
@[simp] theorem Core.writeV_closed (c : Core) (j : Nat) (l : List (Nat × W32)) : (c.writeV j l).closed = c.closed := by simp [Core.writeV]
@[simp] theorem Core.writeV_delays (c : Core) (j : Nat) (l : List (Nat × W32)) : (c.writeV j l).delays = c.delays := by simp [Core.writeV]
@[simp] theorem Core.writeV_delayPid (c : Core) (j : Nat) (l : List (Nat × W32)) : (c.writeV j l).delayPid = c.delayPid := by simp [Core.writeV]
@[simp] theorem Core.writeV_buf (c : Core) (j : Nat) (l : List (Nat × W32)) : (c.writeV j l).buf = c.buf := by simp [Core.writeV]
@[simp] theorem Core.writeV_taken (c : Core) (j : Nat) (l : List (Nat × W32)) : (c.writeV j l).taken = c.taken := by simp [Core.writeV]
@[simp] theorem Core.writeV_governed (c : Core) (j : Nat) (l : List (Nat × W32)) : (c.writeV j l).governed = c.governed := by simp [Core.writeV]
@[simp] theorem Core.writeV_obligation (c : Core) (j : Nat) (l : List (Nat × W32)) : (c.writeV j l).obligation = c.obligation := by simp [Core.writeV]
@[simp] theorem Core.writeV_repBuf (c : Core) (j : Nat) (l : List (Nat × W32)) : (c.writeV j l).repBuf = c.repBuf := by simp [Core.writeV]
@[simp] theorem Core.writeV_repCount (c : Core) (j : Nat) (l : List (Nat × W32)) : (c.writeV j l).repCount = c.repCount := by simp [Core.writeV]
@[simp] theorem Core.writeV_transfer (c : Core) (j : Nat) (l : List (Nat × W32)) : (c.writeV j l).transfer = c.transfer := by simp [Core.writeV]
@[simp] theorem Core.writeV_stopReq (c : Core) (j : Nat) (l : List (Nat × W32)) : (c.writeV j l).stopReq = c.stopReq := by simp [Core.writeV]
@[simp] theorem Core.writeV_stopped (c : Core) (j : Nat) (l : List (Nat × W32)) : (c.writeV j l).stopped = c.stopped := by simp [Core.writeV]
@[simp] theorem Core.writeV_shadowEpc (c : Core) (j : Nat) (l : List (Nat × W32)) : (c.writeV j l).shadowEpc = c.shadowEpc := by simp [Core.writeV]
@[simp] theorem Core.writeV_redeliver (c : Core) (j : Nat) (l : List (Nat × W32)) : (c.writeV j l).redeliver = c.redeliver := by simp [Core.writeV]
@[simp] theorem Core.writeV_inboxRecq (c : Core) (j : Nat) (l : List (Nat × W32)) : (c.writeV j l).inboxRecq = c.inboxRecq := by simp [Core.writeV]
@[simp] theorem Core.writeV_after (c : Core) (j : Nat) (l : List (Nat × W32)) : (c.writeV j l).after = c.after := by simp [Core.writeV]
@[simp] theorem Core.writeV_launch (c : Core) (j : Nat) (l : List (Nat × W32)) : (c.writeV j l).launch = c.launch := by simp [Core.writeV]
@[simp] theorem Core.writeV_brSet (c : Core) (j : Nat) (l : List (Nat × W32)) : (c.writeV j l).brSet = c.brSet := by simp [Core.writeV]
@[simp] theorem Core.writeV_flagsRaised (c : Core) (j : Nat) (l : List (Nat × W32)) : (c.writeV j l).flagsRaised = c.flagsRaised := by simp [Core.writeV]
@[simp] theorem Core.writeV_flagPoison (c : Core) (j : Nat) (l : List (Nat × W32)) : (c.writeV j l).flagPoison = c.flagPoison := by simp [Core.writeV]
@[simp] theorem Core.writeV_engSeq (c : Core) (j : Nat) (l : List (Nat × W32)) : (c.writeV j l).engSeq = c.engSeq := by simp [Core.writeV]
@[simp] theorem Core.writeV_past (c : Core) (j : Nat) (l : List (Nat × W32)) : (c.writeV j l).past = c.past := by simp [Core.writeV]
@[simp] theorem Core.writeV_fell (c : Core) (j : Nat) (l : List (Nat × W32)) : (c.writeV j l).fell = c.fell := by simp [Core.writeV]
@[simp] theorem Core.writeV_lanesDone (c : Core) (j : Nat) (l : List (Nat × W32)) : (c.writeV j l).lanesDone = c.lanesDone := by simp [Core.writeV]

end Sys2Proof.Machine
end

