-- ==== Sys2Proof/Laws/Entries.lean ====
section
/-! SUPPORT. Entries by number: reading after writing, and so clusters, cores, banks and control registers. -/
namespace Sys2Proof.Machine

@[simp] theorem aget_aput_same {α : Type} (d v : α) (k : Nat) (l : Assoc α) : aget d (aput l k v) k = v := by
  induction l with
  | nil => simp [aput, aget]
  | cons p t ih =>
    obtain ⟨j, w⟩ := p
    by_cases h : j = k <;> simp [aput, aget, h, ih]

theorem aget_aput_other {α : Type} (d v : α) {j k : Nat} (l : Assoc α) (h : j ≠ k) : aget d (aput l k v) j = aget d l j := by
  induction l with
  | nil => simp [aput, aget, Ne.symm h]
  | cons p t ih =>
    obtain ⟨i, w⟩ := p
    by_cases hi : i = k
    · subst hi; simp [aput, aget, Ne.symm h]
    · by_cases hj : i = j
      · subst hj; simp [aput, aget, hi]
      · simp [aput, aget, hi, hj, ih]

@[simp] theorem State.cluster_setCluster (s : State) (k : Nat) (c : Cluster) : (s.setCluster k c).cluster k = c := by
  simp [State.cluster, State.setCluster]

theorem State.cluster_setCluster_other (s : State) {j k : Nat} (c : Cluster) (h : j ≠ k) :
    (s.setCluster k c).cluster j = s.cluster j := aget_aput_other _ _ _ h

@[simp] theorem Cluster.core_setCore (k : Cluster) (j : Nat) (c : Core) : (k.setCore j c).core j = c := by
  simp [Cluster.core, Cluster.setCore]

theorem Cluster.core_setCore_other (k : Cluster) {i j : Nat} (c : Core) (h : i ≠ j) : (k.setCore j c).core i = k.core i :=
  aget_aput_other _ _ _ h

@[simp] theorem State.cluster_setCore (s : State) (r : CoreRef) (c : Core) :
    (s.setCore r c).cluster r.cl = (s.cluster r.cl).setCore r.core c := by simp [State.setCore]

@[simp] theorem State.core_setCore (s : State) (r : CoreRef) (c : Core) : (s.setCore r c).core r = c := by
  simp [State.core]

theorem State.core_setCore_other (s : State) {q r : CoreRef} (c : Core) (h : q ≠ r) : (s.setCore r c).core q = s.core q := by
  by_cases hc : q.cl = r.cl
  · have hj : q.core ≠ r.core := fun e => h (by cases q; cases r; simp_all)
    simp [State.core, State.setCore, hc, Cluster.core_setCore_other _ _ hj]
  · simp [State.core, State.setCore, State.cluster_setCluster_other _ _ hc]

@[simp] theorem State.core_updCore (s : State) (r : CoreRef) (f : Core → Core) : (s.updCore r f).core r = f (s.core r) := by
  simp [State.updCore]

theorem State.core_updCore_other (s : State) {q r : CoreRef} (f : Core → Core) (h : q ≠ r) :
    (s.updCore r f).core q = s.core q := State.core_setCore_other _ _ h

@[simp] theorem State.me_upd (s : State) (f : Core → Core) : (s.upd f).me = f s.me := by
  simp [State.me, State.upd]

theorem State.core_upd_other (s : State) {q : CoreRef} (f : Core → Core) (h : q ≠ s.cur) : (s.upd f).core q = s.core q :=
  State.core_setCore_other _ _ h

@[simp] theorem State.mine_upd (s : State) (f : Core → Core) : (s.upd f).mine = s.mine.setCore s.cur.core (f s.me) := by
  simp [State.mine, State.upd]

@[simp] theorem State.cluster_updCluster (s : State) (k : Nat) (f : Cluster → Cluster) :
    (s.updCluster k f).cluster k = f (s.cluster k) := by simp [State.updCluster]

theorem State.cluster_updCluster_other (s : State) {j k : Nat} (f : Cluster → Cluster) (h : j ≠ k) :
    (s.updCluster k f).cluster j = s.cluster j := State.cluster_setCluster_other _ _ h

@[simp] theorem Core.bank_setBank (c : Core) (b : Nat) (x : Bank) : (c.setBank b x).bank b = x := by
  simp [Core.bank, Core.setBank]

theorem Core.bank_setBank_other (c : Core) {a b : Nat} (x : Bank) (h : a ≠ b) : (c.setBank b x).bank a = c.bank a := by
  simp [Core.bank, Core.setBank, aget_aput_other _ _ _ h]

@[simp] theorem Core.cr_setCr (c : Core) (n : Nat) (v : Word) : (c.setCr n v).cr_ n = v := by
  simp [Core.cr_, Core.setCr]

theorem Core.cr_setCr_other (c : Core) {m n : Nat} (v : Word) (h : m ≠ n) : (c.setCr n v).cr_ m = c.cr_ m :=
  aget_aput_other _ _ _ h

@[simp] theorem Core.cr_setS (c : Core) (j : Nat) (v : Word) (n : Nat) : (c.setS j v).cr_ n = c.cr_ n := by
  simp [Core.cr_]

@[simp] theorem Core.cr_setM (c : Core) (j : Nat) (v : BitVec 16) (n : Nat) : (c.setM j v).cr_ n = c.cr_ n := rfl

@[simp] theorem Core.cr_writeV (c : Core) (j : Nat) (l : List (Nat × W32)) (n : Nat) : (c.writeV j l).cr_ n = c.cr_ n := by
  simp [Core.cr_]

end Sys2Proof.Machine
end

