-- ==== Sys2Proof/Laws/Memory.lean ====
section
/-! SUPPORT. Bytes: reading after writing, and that every operation keeps the canonical form. -/
namespace Sys2Proof.Machine

/-! ## One byte -/

theorem cellGet_filter_same (l : List Host.Cell) (a : Nat) : cellGet (l.filter fun p => p.1 != a) a = 0 := by
  induction l with
  | nil => rfl
  | cons p t ih =>
    obtain ⟨b, v⟩ := p
    by_cases h : b = a
    · subst h; simpa [List.filter] using ih
    · simp [cellGet, h, ih]

theorem cellGet_filter_other (l : List Host.Cell) {a b : Nat} (h : b ≠ a) :
    cellGet (l.filter fun p => p.1 != a) b = cellGet l b := by
  induction l with
  | nil => rfl
  | cons p t ih =>
    obtain ⟨c, v⟩ := p
    by_cases hc : c = a
    · subst hc; simp [cellGet, Ne.symm h, ih]
    · by_cases hb : c = b
      · subst hb; simp [cellGet, hc]
      · simp [cellGet, hc, hb, ih]

theorem cellGet_cellPut_same (l : List Host.Cell) (a : Nat) (v : Byte) : cellGet (cellPut l a v) a = v := by
  induction l with
  | nil => simp [cellPut, cellGet]
  | cons p t ih =>
    obtain ⟨b, w⟩ := p
    by_cases h : b = a
    · simp [cellPut, cellGet, h]
    · by_cases h2 : a < b <;> simp [cellPut, cellGet, h, h2, ih]

theorem cellGet_cellPut_other (l : List Host.Cell) {a b : Nat} (v : Byte) (h : b ≠ a) :
    cellGet (cellPut l a v) b = cellGet l b := by
  induction l with
  | nil => simp [cellPut, cellGet, Ne.symm h]
  | cons p t ih =>
    obtain ⟨c, w⟩ := p
    by_cases h1 : c = a
    · subst h1; simp [cellPut, cellGet, Ne.symm h]
    · by_cases h2 : a < c
      · simp [cellPut, cellGet, h1, h2, Ne.symm h]
      · by_cases h3 : c = b
        · subst h3; simp [cellPut, cellGet, h1, h2]
        · simp [cellPut, cellGet, h1, h2, h3, ih]

@[simp] theorem Memory.get_set_same (m : Memory) (a : Nat) (v : Byte) : (m.set a v).get a = v := by
  unfold Memory.set Memory.get cellSet
  dsimp only
  split
  · next h => rw [h]; exact cellGet_filter_same _ _
  · exact cellGet_cellPut_same _ _ _

theorem Memory.get_set_other (m : Memory) {a b : Nat} (v : Byte) (h : b ≠ a) : (m.set a v).get b = m.get b := by
  unfold Memory.set Memory.get cellSet
  dsimp only
  split
  · exact cellGet_filter_other _ h
  · exact cellGet_cellPut_other _ _ h

@[simp] theorem Memory.poison_set (m : Memory) (a : Nat) (v : Byte) : (m.set a v).poison = m.poison := rfl

/-! ## Several bytes -/

theorem Memory.get_writeLE_other (m : Memory) {a b : Nat} (n v : Nat) (h : b < a ∨ a + n ≤ b) :
    (m.writeLE a n v).get b = m.get b := by
  induction n generalizing m a v with
  | zero => rfl
  | succ n ih =>
    rw [Memory.writeLE, ih _ _ (by omega), Memory.get_set_other _ _ (by omega)]

theorem Memory.get_writeLE_head (m : Memory) (a n v : Nat) : (m.writeLE a (n + 1) v).get a = BitVec.ofNat 8 v := by
  rw [Memory.writeLE, Memory.get_writeLE_other _ _ _ (by omega), Memory.get_set_same]

theorem Memory.readLE_congr {m k : Memory} (a n : Nat) (h : ∀ i, a ≤ i → i < a + n → m.get i = k.get i) :
    m.readLE a n = k.readLE a n := by
  induction n generalizing a with
  | zero => rfl
  | succ n ih =>
    rw [Memory.readLE, Memory.readLE, h a (by omega) (by omega), ih _ fun i h1 h2 => h i (by omega) (by omega)]

theorem Memory.readLE_writeLE (m : Memory) (a n v : Nat) : (m.writeLE a n v).readLE a n = v % 256 ^ n := by
  induction n generalizing m a v with
  | zero => simp [Memory.readLE, Nat.mod_one]
  | succ n ih =>
    rw [Memory.readLE, Memory.get_writeLE_head, Memory.writeLE, ih, BitVec.toNat_ofNat, show 256 ^ (n + 1) = 256 * 256 ^ n by ring,
      Nat.mod_mul]

theorem Memory.readLE_lt (m : Memory) (a n : Nat) : m.readLE a n < 256 ^ n := by
  induction n generalizing a with
  | zero => simp [Memory.readLE]
  | succ n ih =>
    have h1 := (m.get a).isLt
    have h2 := ih (a + 1)
    rw [Memory.readLE, Nat.pow_succ]; omega

theorem Memory.get_store_other (m : Memory) {a b : Nat} (n v : Nat) (h : b < a ∨ a + n ≤ b) :
    (m.store a n v).get b = m.get b := by
  unfold Memory.store
  split
  · next h8 => subst h8; exact Memory.get_writeLE_other _ _ _ h
  · exact Memory.get_writeLE_other _ _ _ h

theorem Memory.readLE_unmark (m : Memory) (w a n : Nat) : (m.unmark w).readLE a n = m.readLE a n :=
  Memory.readLE_congr _ _ fun _ _ _ => rfl

theorem Memory.readLE_store (m : Memory) (a n v : Nat) : (m.store a n v).readLE a n = v % 256 ^ n := by
  unfold Memory.store
  split
  · next h8 => rw [Memory.readLE_unmark, h8, Memory.readLE_writeLE]
  · exact Memory.readLE_writeLE _ _ _ _

@[simp] theorem Memory.read8_store (m : Memory) (a : Nat) (w : Word) : (m.store a 8 w.toNat).read8 a = w := by
  rw [Memory.read8, Memory.readLE_store]
  apply BitVec.eq_of_toNat_eq
  have h : (256 : Nat) ^ 8 = 2 ^ 64 := by norm_num
  rw [BitVec.toNat_ofNat, h, Nat.mod_mod, Nat.mod_eq_of_lt w.isLt]

theorem Memory.readLE_store_other (m : Memory) {a b : Nat} (n v k : Nat) (h : b + k ≤ a ∨ a + n ≤ b) :
    (m.store a n v).readLE b k = m.readLE b k :=
  Memory.readLE_congr _ _ fun _ h1 h2 => Memory.get_store_other _ _ _ (by omega)

theorem Memory.read8_store_other (m : Memory) {a b : Nat} (n v : Nat) (h : b + 8 ≤ a ∨ a + n ≤ b) :
    (m.store a n v).read8 b = m.read8 b := by rw [Memory.read8, Memory.read8, Memory.readLE_store_other _ _ _ _ h]

/-! ## The canonical form -/

/-- Every address of the cells lies above a bound. -/
def cellsAbove (b : Nat) (l : List Host.Cell) : Prop := ∀ p ∈ l, b < p.1

theorem cellsOk_cons (a : Nat) (v : Byte) (t : List Host.Cell) :
    cellsOk ((a, v) :: t) = true ↔ v ≠ 0 ∧ cellsAbove a t ∧ cellsOk t = true := by
  induction t generalizing a v with
  | nil => simp [cellsOk, cellsAbove]
  | cons p t ih =>
    obtain ⟨b, w⟩ := p
    simp only [cellsOk, Bool.and_eq_true, bne_iff_ne, decide_eq_true_eq, ih, cellsAbove, List.mem_cons, forall_eq_or_imp]
    constructor
    · rintro ⟨⟨h1, h2⟩, h3, h4, h5⟩
      exact ⟨h1, ⟨h2, fun p hp => lt_trans h2 (h4 p hp)⟩, h3, h4, h5⟩
    · rintro ⟨h1, ⟨h2, _⟩, h3, h4, h5⟩
      exact ⟨⟨h1, h2⟩, h3, h4, h5⟩

theorem cellsOk_filter (q : Host.Cell → Bool) (l : List Host.Cell) (h : cellsOk l = true) : cellsOk (l.filter q) = true := by
  induction l with
  | nil => rfl
  | cons p t ih =>
    obtain ⟨a, v⟩ := p
    obtain ⟨h1, h2, h3⟩ := (cellsOk_cons _ _ _).1 h
    rw [List.filter_cons]
    split
    · exact (cellsOk_cons _ _ _).2 ⟨h1, fun p hp => h2 p (List.mem_of_mem_filter hp), ih h3⟩
    · exact ih h3

theorem mem_cellPut {l : List Host.Cell} {a : Nat} {v : Byte} {p : Host.Cell} (h : p ∈ cellPut l a v) : p = (a, v) ∨ p ∈ l := by
  induction l with
  | nil => simpa [cellPut] using h
  | cons q t ih =>
    obtain ⟨b, w⟩ := q
    simp only [cellPut] at h
    split at h
    · rcases List.mem_cons.1 h with h | h
      · exact .inl h
      · exact .inr (List.mem_cons_of_mem _ h)
    · split at h
      · rcases List.mem_cons.1 h with h | h
        · exact .inl h
        · exact .inr h
      · rcases List.mem_cons.1 h with h | h
        · exact .inr (by simp [h])
        · exact (ih h).imp id (List.mem_cons_of_mem _)

theorem cellsOk_cellPut (l : List Host.Cell) (a : Nat) (v : Byte) (hv : v ≠ 0) (h : cellsOk l = true) :
    cellsOk (cellPut l a v) = true := by
  induction l with
  | nil => simpa [cellPut, cellsOk] using hv
  | cons p t ih =>
    obtain ⟨b, w⟩ := p
    obtain ⟨h1, h2, h3⟩ := (cellsOk_cons _ _ _).1 h
    rw [cellPut]
    split
    · next e => subst e; exact (cellsOk_cons _ _ _).2 ⟨hv, h2, h3⟩
    · split
      · next hl =>
        refine (cellsOk_cons _ _ _).2 ⟨hv, fun p hp => ?_, h⟩
        rcases List.mem_cons.1 hp with rfl | hp
        · exact hl
        · exact lt_trans hl (h2 p hp)
      · next hne hl =>
        refine (cellsOk_cons _ _ _).2 ⟨h1, fun p hp => ?_, ih h3⟩
        rcases mem_cellPut hp with rfl | hp
        · omega
        · exact h2 p hp

theorem risingOk_cons (a : Nat) (t : List Nat) : risingOk (a :: t) = true ↔ (∀ b ∈ t, a < b) ∧ risingOk t = true := by
  induction t generalizing a with
  | nil => simp [risingOk]
  | cons b t ih =>
    simp only [risingOk, Bool.and_eq_true, decide_eq_true_eq, ih, List.mem_cons, forall_eq_or_imp]
    constructor
    · rintro ⟨h1, h2, h3⟩
      exact ⟨⟨h1, fun x hx => lt_trans h1 (h2 x hx)⟩, h2, h3⟩
    · rintro ⟨⟨h1, _⟩, h2, h3⟩
      exact ⟨h1, h2, h3⟩

theorem risingOk_filter (q : Nat → Bool) (l : List Nat) (h : risingOk l = true) : risingOk (l.filter q) = true := by
  induction l with
  | nil => rfl
  | cons a t ih =>
    obtain ⟨h1, h2⟩ := (risingOk_cons _ _).1 h
    rw [List.filter_cons]
    split
    · exact (risingOk_cons _ _).2 ⟨fun b hb => h1 b (List.mem_of_mem_filter hb), ih h2⟩
    · exact ih h2

theorem mem_riseInsert {l : List Nat} {a x : Nat} (h : x ∈ riseInsert l a) : x = a ∨ x ∈ l := by
  induction l with
  | nil => simpa [riseInsert] using h
  | cons b t ih =>
    simp only [riseInsert] at h
    split at h
    · exact .inr h
    · split at h
      · exact List.mem_cons.1 h
      · rcases List.mem_cons.1 h with h | h
        · exact .inr (by simp [h])
        · exact (ih h).imp id (List.mem_cons_of_mem _)

theorem risingOk_riseInsert (l : List Nat) (a : Nat) (h : risingOk l = true) : risingOk (riseInsert l a) = true := by
  induction l with
  | nil => rfl
  | cons b t ih =>
    obtain ⟨h1, h2⟩ := (risingOk_cons _ _).1 h
    rw [riseInsert]
    split
    · exact h
    · split
      · next hl =>
        refine (risingOk_cons _ _).2 ⟨fun x hx => ?_, h⟩
        rcases List.mem_cons.1 hx with rfl | hx
        · exact hl
        · exact lt_trans hl (h1 x hx)
      · next hne hl =>
        refine (risingOk_cons _ _).2 ⟨fun x hx => ?_, ih h2⟩
        rcases mem_riseInsert hx with rfl | hx
        · omega
        · exact h1 x hx

theorem Memory.wf_iff (m : Memory) : m.wf = true ↔ cellsOk m.cells = true ∧ risingOk m.poison = true := by
  simp [Memory.wf]

theorem Memory.wf_empty : Memory.empty.wf = true := rfl

theorem Memory.wf_set (m : Memory) (a : Nat) (v : Byte) (h : m.wf = true) : (m.set a v).wf = true := by
  rw [Memory.wf_iff] at h ⊢
  refine ⟨?_, h.2⟩
  show cellsOk (cellSet m.cells a v) = true
  unfold cellSet
  split
  · exact cellsOk_filter _ _ h.1
  · next hv => exact cellsOk_cellPut _ _ _ hv h.1

theorem Memory.wf_mark (m : Memory) (w : Nat) (h : m.wf = true) : (m.mark w).wf = true := by
  rw [Memory.wf_iff] at h ⊢; exact ⟨h.1, risingOk_riseInsert _ _ h.2⟩

theorem Memory.wf_unmark (m : Memory) (w : Nat) (h : m.wf = true) : (m.unmark w).wf = true := by
  rw [Memory.wf_iff] at h ⊢; exact ⟨h.1, risingOk_filter _ _ h.2⟩

theorem Memory.wf_unmarkRange (m : Memory) (a n : Nat) (h : m.wf = true) : (m.unmarkRange a n).wf = true := by
  rw [Memory.wf_iff] at h ⊢; exact ⟨h.1, risingOk_filter _ _ h.2⟩

theorem Memory.wf_writeLE (m : Memory) (a n v : Nat) (h : m.wf = true) : (m.writeLE a n v).wf = true := by
  induction n generalizing m a v with
  | zero => exact h
  | succ n ih => exact ih _ _ _ (Memory.wf_set _ _ _ h)

theorem Memory.wf_store (m : Memory) (a n v : Nat) (h : m.wf = true) : (m.store a n v).wf = true := by
  unfold Memory.store
  split
  · exact Memory.wf_unmark _ _ (Memory.wf_writeLE _ _ _ _ h)
  · exact Memory.wf_writeLE _ _ _ _ h

theorem Memory.wf_putBytes (m : Memory) (a : Nat) (l : List Byte) (h : m.wf = true) : (m.putBytes a l).wf = true := by
  induction l generalizing m a with
  | nil => exact h
  | cons b t ih => exact ih _ _ (Memory.wf_set _ _ _ h)

theorem Memory.wf_storeBytes (m : Memory) (a : Nat) (l : List Byte) (h : m.wf = true) : (m.storeBytes a l).wf = true :=
  Memory.wf_unmarkRange _ _ _ (Memory.wf_putBytes _ _ _ h)

theorem Memory.wf_putWords (m : Memory) (a : Nat) (l : List Word) (h : m.wf = true) : (m.putWords a l).wf = true := by
  induction l generalizing m a with
  | nil => exact h
  | cons w t ih => exact ih _ _ (Memory.wf_store _ _ _ _ h)

theorem Memory.wf_zero (m : Memory) (a n : Nat) (h : m.wf = true) : (m.zero a n).wf = true := by
  rw [Memory.wf_iff] at h ⊢; exact ⟨cellsOk_filter _ _ h.1, risingOk_filter _ _ h.2⟩

end Sys2Proof.Machine
end

