-- ==== Sys2Proof/Laws/Registers.lean ====
section
/-! SUPPORT. The registers of an activation: reading after writing, and what a write leaves as it was. -/
namespace Sys2Proof.Machine

@[simp] theorem Core.s_zero (c : Core) : c.s 0 = 0 := rfl

@[simp] theorem Core.wp_setS (c : Core) (j : Nat) (v : Word) : (c.setS j v).wp = c.wp := by simp [Core.wp]

theorem Core.s_setS_same (c : Core) (j : Nat) (v : Word) : (c.setS j v).s j = if j = 0 then 0 else v := by
  by_cases h : j = 0
  · simp [h]
  · simp [Core.s, Core.setS, h, sAddr, Core.wp, Core.cr_]

theorem Core.s_setS_other (c : Core) {i j : Nat} (v : Word) (h : i ≠ j) : (c.setS j v).s i = c.s i := by
  by_cases hj : j = 0
  · simp [Core.setS, hj]
  · by_cases hi : i = 0
    · simp [hi]
    · simp only [Core.s, hi, if_false]
      have hw : sAddr (c.setS j v) i = sAddr c i := by simp [sAddr]
      rw [hw]
      simp only [Core.setS, hj, if_false]
      exact Memory.read8_store_other _ _ _ (by simp only [sAddr]; omega)

/-! ## What a memory keeps -/

theorem Memory.Keeps.refl (m : Memory) (b : Nat → Prop) : m.Keeps m b := ⟨fun _ _ => rfl, fun _ _ => Iff.rfl⟩

theorem Memory.Keeps.trans {m k l : Memory} {b : Nat → Prop} (h : m.Keeps k b) (h' : k.Keeps l b) : m.Keeps l b :=
  ⟨fun a ha => (h'.1 a ha).trans (h.1 a ha), fun w hw => (h'.2 w hw).trans (h.2 w hw)⟩

theorem Memory.Keeps.mono {m k : Memory} {b b' : Nat → Prop} (h : m.Keeps k b) (hb : ∀ a, b a → b' a) : m.Keeps k b' :=
  ⟨fun a ha => h.1 a fun x => ha (hb a x), fun w hw => h.2 w fun a h1 h2 x => hw a h1 h2 (hb a x)⟩

theorem Memory.poison_writeLE (m : Memory) (a n v : Nat) : (m.writeLE a n v).poison = m.poison := by
  induction n generalizing m a v with
  | zero => rfl
  | succ n ih => exact ih _ _ _

/-- A store changes its bytes, and the poison mark of its word. -/
theorem Memory.keeps_store (m : Memory) (a n v : Nat) :
    m.Keeps (m.store a n v) fun x => a ≤ x ∧ x < a + n := by
  refine ⟨fun x hx => Memory.get_store_other _ _ _ (by omega), fun w hw => ?_⟩
  unfold Memory.store
  split
  · next h8 =>
    subst h8
    have : w ≠ a / 8 := fun e => hw a (by omega) (by omega) ⟨by omega, by omega⟩
    simp [Memory.unmark, Memory.poison_writeLE, this]
  · rw [Memory.poison_writeLE]

/-- A store that is no doubleword changes its bytes alone. -/
theorem Memory.keeps_writeLE (m : Memory) (a n v : Nat) : m.Keeps (m.writeLE a n v) fun x => a ≤ x ∧ x < a + n :=
  ⟨fun x hx => Memory.get_writeLE_other _ _ _ (by omega), fun w _ => by rw [Memory.poison_writeLE]⟩

/-! ## What a core keeps -/

theorem Core.Keeps.refl (c : Core) (b n : Nat → Prop) : c.Keeps c b n := ⟨rfl, Memory.Keeps.refl _ _, fun _ _ _ => rfl⟩

theorem Core.Keeps.trans {c d e : Core} {b n : Nat → Prop} (h : c.Keeps d b n) (h' : d.Keeps e b n) : c.Keeps e b n :=
  ⟨h'.1.trans h.1, h.2.1.trans h'.2.1, fun m h1 h2 => (h'.2.2 m h1 h2).trans (h.2.2 m h1 h2)⟩

theorem Core.Keeps.mono {c d : Core} {b b' n n' : Nat → Prop} (h : c.Keeps d b n) (hb : ∀ a, b a → b' a) (hn : ∀ m, n m → n' m) :
    c.Keeps d b' n' :=
  ⟨h.1, h.2.1.mono hb, fun m h1 h2 => h.2.2 m (fun x => h1 (hn m x)) h2⟩

theorem Core.rest_of_apart {c d : Core} (h : d.apart = c.apart) : d.rest = c.rest := by simp only [Core.rest, h]

/-- A core that differs in its group's progress alone keeps everything. -/
theorem Core.Keeps.of_apart {c d : Core} (h : d.apart = c.apart) (b n : Nat → Prop) : c.Keeps d b n := by
  have hs : d.store = c.store := by have x := congrArg Core.store h; exact x
  have hc : d.cr = c.cr := by have x := congrArg Core.cr h; exact x
  exact ⟨Core.rest_of_apart h, hs ▸ Memory.Keeps.refl _ _, fun m _ _ => by simp only [Core.cr_, hc]⟩

theorem Core.keeps_setS (c : Core) (d : Reg) (v : Word) : c.Keeps (c.setS d.toNat v) (c.sBytes d) nothing := by
  refine ⟨by simp [Core.rest, Core.apart], ?_, fun m _ _ => by simp⟩
  by_cases h : d.toNat = 0
  · have : c.setS d.toNat v = c := by simp [Core.setS, h]
    rw [this]; exact Memory.Keeps.refl _ _
  · have hd : d ≠ 0 := fun e => h (by simp [e])
    have : (c.setS d.toNat v).store = c.store.store (sAddr c d.toNat) 8 v.toNat := by simp [Core.setS, h]
    rw [this]
    exact (Memory.keeps_store _ _ _ _).mono fun a ha => ⟨hd, ha.1, ha.2⟩

theorem Core.keeps_setM (c : Core) (d : Reg) (v : BitVec 16) : c.Keeps (c.setM d.toNat v) (c.mBytes d) nothing := by
  refine ⟨by simp [Core.rest, Core.apart], ?_, fun m _ _ => by simp⟩
  exact (Memory.keeps_store _ _ _ _).mono fun a ha => ⟨ha.1, ha.2⟩

theorem Core.keeps_setCr (c : Core) (n : Nat) (v : Word) (b : Nat → Prop) : c.Keeps (c.setCr n v) b fun m => m = n :=
  ⟨by simp [Core.rest, Core.apart], Memory.Keeps.refl _ _, fun m h _ => Core.cr_setCr_other _ _ h⟩

end Sys2Proof.Machine
end

