-- ==== Sys2Proof/Laws/Ops.lean ====
section
/-! SUPPORT. What the shared operations can do: a group's progress (R89, R90, R204 to R206), completing an instruction (R79, R100) and
control transfers (R186). -/
namespace Sys2Proof.Machine

/-! ## A group's progress touches no core's data -/

theorem Cluster.Alike.refl (k : Cluster) : k.Alike k := ⟨rfl, fun _ => rfl⟩

theorem Cluster.Alike.trans {k l m : Cluster} (h : k.Alike l) (h' : l.Alike m) : k.Alike m :=
  ⟨h'.1.trans h.1, fun j => (h'.2 j).trans (h.2 j)⟩

/-- Replacing a core by one that differs in its group's progress alone. -/
theorem Cluster.alike_setCore (k : Cluster) (j : Nat) (c : Core) (h : c.apart = (k.core j).apart) : k.Alike (k.setCore j c) := by
  refine ⟨rfl, fun i => ?_⟩
  by_cases hi : i = j
  · subst hi; rw [Cluster.core_setCore, h]
  · rw [Cluster.core_setCore_other _ _ hi]

/-- Replacing the stream and the `once` records. -/
theorem Cluster.alike_records (k : Cluster) (g : Group) (l : List OnceRec) : k.Alike { k with group := g, onces := l } :=
  ⟨rfl, fun _ => rfl⟩

theorem Cluster.alike_onces (k : Cluster) (l : List OnceRec) : k.Alike { k with onces := l } := ⟨rfl, fun _ => rfl⟩

theorem Cluster.alike_group (k : Cluster) (g : Group) : k.Alike { k with group := g } := ⟨rfl, fun _ => rfl⟩

theorem Cluster.alike_foldl {α : Type} (f : Cluster → α → Cluster) (h : ∀ (k : Cluster) x, k.Alike (f k x)) (l : List α) (k : Cluster) :
    k.Alike (l.foldl f k) := by
  induction l generalizing k with
  | nil => exact Cluster.Alike.refl _
  | cons x t ih => exact (h k x).trans (ih _)

theorem Cluster.alike_dropBuf (k : Cluster) (j : Nat) : k.Alike (k.dropBuf j) := by
  unfold Cluster.dropBuf
  exact (Cluster.alike_setCore k j { k.core j with buf := [] } rfl).trans (Cluster.alike_onces _ _)

theorem Cluster.alike_dropOnce (k : Cluster) (id j : Nat) : k.Alike (k.dropOnce id j) := Cluster.alike_onces _ _

theorem Cluster.alike_detach (k : Cluster) (j why : Nat) : k.Alike (k.detach j why) := by
  unfold Cluster.detach
  dsimp only
  split
  · exact Cluster.alike_setCore k j _ rfl
  · exact (Cluster.alike_dropBuf k j).trans (Cluster.alike_setCore _ j _ rfl)

theorem Cluster.alike_compare (k : Cluster) (j : Nat) : k.Alike (k.compare j) := by
  unfold Cluster.compare
  dsimp only
  split
  · split
    · split
      · exact Cluster.Alike.refl _
      · exact Cluster.alike_detach _ _ _
    · split
      · exact Cluster.Alike.refl _
      · exact Cluster.alike_detach _ _ _
  · exact Cluster.Alike.refl _

theorem Cluster.alike_compareAll {k l : Cluster} (h : k.Alike l) (js : List Nat) : k.Alike (js.foldl Cluster.compare l) :=
  h.trans (Cluster.alike_foldl _ Cluster.alike_compare _ _)

theorem Cluster.alike_settleOnce (k : Cluster) : k.Alike k.settleOnce := by
  unfold Cluster.settleOnce
  refine Cluster.alike_compareAll ?_ _
  split
  · exact Cluster.Alike.refl _
  · dsimp only
    split
    · split
      · exact Cluster.alike_group _ _
      · refine Cluster.Alike.trans (Cluster.alike_group k _) (Cluster.alike_foldl _ (fun k j => ?_) _ _)
        split
        · split
          · exact Cluster.alike_detach _ _ _
          · exact Cluster.Alike.refl _
        · exact Cluster.alike_setCore _ _ _ rfl
      · exact Cluster.Alike.refl _
    · exact Cluster.Alike.refl _

theorem Cluster.alike_settleFrom (n : Nat) (k : Cluster) : k.Alike (Cluster.settleFrom n k) := by
  induction n generalizing k with
  | zero => exact Cluster.Alike.refl _
  | succ n ih =>
    unfold Cluster.settleFrom
    dsimp only
    split
    · exact Cluster.alike_settleOnce k
    · exact (Cluster.alike_settleOnce k).trans (ih _)

theorem Cluster.alike_passIfence (k : Cluster) : k.Alike k.passIfence := by
  unfold Cluster.passIfence
  split
  · exact Cluster.alike_group _ _
  · exact Cluster.Alike.refl _

theorem Cluster.alike_settle (k : Cluster) : k.Alike k.settle := by
  unfold Cluster.settle
  split
  · exact (Cluster.alike_settleFrom 8 k).trans (Cluster.alike_passIfence _)
  · exact Cluster.Alike.refl _

theorem Cluster.alike_post (k : Cluster) (id j : Nat) (p : Posting) : k.Alike (k.post id j p) := by
  unfold Cluster.post
  dsimp only
  refine Cluster.Alike.trans (Cluster.Alike.trans (Cluster.alike_onces k _) (Cluster.alike_setCore _ j _ ?_))
    (Cluster.alike_dropOnce _ _ _)
  rfl

/-! ## The module around a group's progress -/

theorem State.core_updCluster (s : State) (k : Nat) (f : Cluster → Cluster) (q : CoreRef) :
    (s.updCluster k f).core q = if q.cl = k then (f (s.cluster k)).core q.core else s.core q := by
  unfold State.core
  split
  · next h => rw [h, State.cluster_updCluster]
  · next h => rw [State.cluster_updCluster_other _ _ h]

/-- A group's progress in the current core's cluster: nothing but that changes. -/
theorem State.alike_updCluster (s : State) (k : Nat) (f : Cluster → Cluster) (h : (s.cluster k).Alike (f (s.cluster k))) :
    (s.updCluster k f).outer = s.outer ∧ (∀ j, ((s.updCluster k f).cluster j).fixed = (s.cluster j).fixed) ∧
      ∀ q, ((s.updCluster k f).core q).apart = (s.core q).apart := by
  refine ⟨rfl, fun j => ?_, fun q => ?_⟩
  · by_cases hj : j = k
    · subst hj; rw [State.cluster_updCluster]; exact h.1
    · rw [State.cluster_updCluster_other _ _ hj]
  · rw [State.core_updCluster]
    split
    · next e => rw [State.core, e]; exact h.2 _
    · rfl

/-- A change of the current core's cluster that keeps its cores apart from their group's progress. -/
structure SameData (s t : State) : Prop where
  outer : t.outer = s.outer
  fixed : ∀ k, (t.cluster k).fixed = (s.cluster k).fixed
  cores : ∀ q, (t.core q).apart = (s.core q).apart

theorem SameData.refl (s : State) : SameData s s := ⟨rfl, fun _ => rfl, fun _ => rfl⟩

theorem SameData.trans {s t u : State} (h : SameData s t) (h' : SameData t u) : SameData s u :=
  ⟨h'.outer.trans h.outer, fun k => (h'.fixed k).trans (h.fixed k), fun q => (h'.cores q).trans (h.cores q)⟩

theorem SameData.cur {s t : State} (h : SameData s t) : t.cur = s.cur := by have x := congrArg State.cur h.outer; exact x

theorem SameData.me {s t : State} (h : SameData s t) : t.me.apart = s.me.apart := by
  rw [State.me, h.cur]; exact h.cores _

theorem SameData.of_updCluster (s : State) (k : Nat) (f : Cluster → Cluster) (h : (s.cluster k).Alike (f (s.cluster k))) :
    SameData s (s.updCluster k f) :=
  let x := State.alike_updCluster s k f h
  ⟨x.1, x.2.1, x.2.2⟩

/-! ## Completing an instruction -/

/-- After an instruction has completed: its core past it, and the progress of its group. -/
theorem State.finish_data (t : State) (i : Instr) : SameData (t.upd fun c => c.passed i) (t.finish i) := by
  unfold State.finish
  dsimp only
  have h2 : SameData (t.upd fun c => c.passed i) (match t.me.governed with
      | some id => (t.upd fun c => c.passed i).updCluster t.cur.cl fun k => k.post id t.cur.core (t.me.posting i)
      | none => t.upd fun c => c.passed i) := by
    split
    · exact SameData.of_updCluster _ _ _ (Cluster.alike_post _ _ _ _)
    · exact SameData.refl _
  split
  · exact h2.trans (SameData.of_updCluster _ _ _ (Cluster.alike_settle _))
  · exact h2

/-- After a control transfer. -/
theorem State.goto_data (t : State) (a : Word) : SameData (t.upd fun c => c.jumped a) (t.goto a) := by
  unfold State.goto
  dsimp only
  split
  · exact SameData.of_updCluster _ _ _ (Cluster.alike_settle _)
  · exact SameData.refl _

/-- A completed instruction's core keeps everything but its place. -/
theorem Core.keeps_retired (c : Core) (n : Nat) : c.Keeps (c.retired n) nothing nothing := by
  unfold Core.retired Core.advance
  dsimp only
  split
  · split
    · exact ⟨rfl, Memory.Keeps.refl _ _, fun m _ h => Core.cr_setCr_other _ _ h⟩
    · split
      · exact ⟨rfl, Memory.Keeps.refl _ _, fun m _ h => Core.cr_setCr_other _ _ h⟩
      · exact ⟨rfl, Memory.Keeps.refl _ _, fun m _ h => Core.cr_setCr_other _ _ h⟩
  · exact ⟨rfl, Memory.Keeps.refl _ _, fun m _ _ => rfl⟩

theorem Core.keeps_passed (c : Core) (i : Instr) : c.Keeps (c.passed i) nothing nothing := Core.keeps_retired c i.len

theorem Core.keeps_jumped (c : Core) (t : Word) : c.Keeps (c.jumped t) nothing nothing :=
  ⟨rfl, Memory.Keeps.refl _ _, fun _ _ _ => rfl⟩

/-- Outside a `rep` body the program goes on after an instruction. -/
theorem Core.pc_retired (c : Core) (n : Nat) (h : c.inRep = false) : (c.retired n).pc = c.pc + BitVec.ofNat 64 n := by
  have h' : ({ c with wait := none, taken := none, transfer := none } : Core).inRep = false := h
  simp [Core.retired, Core.advance, h']

theorem Core.pc_passed (c : Core) (i : Instr) (h : c.inRep = false) : (c.passed i).pc = c.pc + BitVec.ofNat 64 i.len :=
  Core.pc_retired c i.len h

/-- A register's value is in the store and under `WP`. -/
theorem Core.s_congr {c d : Core} (hs : d.store = c.store) (hw : d.cr_ Cr.wp = c.cr_ Cr.wp) (j : Nat) : d.s j = c.s j := by
  simp only [Core.s, sAddr, Core.wp, hs, hw]

theorem Core.store_retired (c : Core) (n : Nat) : (c.retired n).store = c.store := by
  unfold Core.retired Core.advance
  dsimp only
  split
  · split
    · rfl
    · split <;> rfl
  · rfl

theorem Core.s_retired (c : Core) (n j : Nat) : (c.retired n).s j = c.s j :=
  Core.s_congr (Core.store_retired c n) ((Core.keeps_retired c n).2.2 _ id (by decide)) j

theorem Core.s_passed (c : Core) (i : Instr) (j : Nat) : (c.passed i).s j = c.s j := Core.s_retired c i.len j

theorem Core.s_apart {c d : Core} (h : d.apart = c.apart) (j : Nat) : d.s j = c.s j := by
  have hs : d.store = c.store := by have x := congrArg Core.store h; exact x
  have hc : d.cr = c.cr := by have x := congrArg Core.cr h; exact x
  exact Core.s_congr hs (by simp only [Core.cr_, hc]) j

/-! ## An instruction as a whole -/

/-- An instruction that passes the checks is its own effect. -/
theorem State.execute_passes (s : State) (i : Instr) (body : State → Eff) (h : Passes s i) :
    s.execute i none body = (body s).apply s i := by
  obtain ⟨h1, h2, h3⟩ := h
  simp [State.execute, h1, h2, h3]

/-- An instruction that its entry refuses as a whole raises that trap and has no other effect (R39). -/
theorem State.execute_refused (s : State) (i : Instr) (x : Nat × Word) (body : State → Eff) (h : i.legal s.feat0 = true) :
    s.execute i (some x) body = s.raise x.1 x.2 := by
  simp [State.execute, h]

/-- An instruction that changes the current core alone: what `local_` answers. -/
theorem local_does (s : State) (i : Instr) (f : Core → Core) (b n : Nat → Prop) (hk : s.me.Keeps (f s.me) b n)
    (hp : (f s.me).pc = s.me.pc) (hr : (f s.me).inRep = s.me.inRep) :
    let t := (Eff.apply s i (local_ s f))
    OnlyMine s t ∧ s.me.Keeps t.me b n ∧ GoesOn s t i ∧ t.me.apart = ((f s.me).passed i).apart := by
  intro t
  have hd : SameData ((s.upd f).upd fun c => c.passed i) t := State.finish_data (s.upd f) i
  have hm : t.me.apart = ((f s.me).passed i).apart := by
    have := hd.me
    rwa [State.me_upd, State.me_upd] at this
  refine ⟨⟨hd.outer.trans rfl, fun k => ?_, fun q hq => ?_⟩, ?_, fun h => ?_, hm⟩
  · rw [hd.fixed k]
    by_cases hk' : k = s.cur.cl
    · subst hk'; simp [State.upd, Cluster.fixed]
    · simp [State.upd, State.setCore, State.cluster_setCluster_other _ _ hk']
  · rw [hd.cores q]
    have : q ≠ (s.upd f).cur := hq
    rw [State.core_upd_other _ _ this, State.core_upd_other _ _ hq]
  · exact (hk.trans ((Core.keeps_passed _ i).mono (fun _ h => h.elim) (fun _ h => h.elim))).trans (Core.Keeps.of_apart hm _ _)
  · have hpc : t.me.pc = ((f s.me).passed i).pc := by have x := congrArg Core.pc hm; exact x
    rw [hpc, Core.pc_passed _ _ (by rw [hr]; exact h), hp]

/-- S(D) := a value. -/
theorem setS_writes (i : Instr) (s : State) (d : Reg) (v : Word) (body : State → Eff) (f : Core → Core)
    (he : exec i s = retire i s body) (hb : body s = local_ s f) (hf : f s.me = s.me.setS d.toNat v) : Writes i s d v := by
  intro hp
  obtain ⟨h1, h2, h3, h4⟩ := local_does s i f (s.me.sBytes d) nothing (hf ▸ Core.keeps_setS s.me d v) (by simp [hf])
    (by simp [hf, Core.inRep, Core.tm])
  refine ⟨_, by rw [he, retire, retireUnless, State.execute_passes _ _ _ hp, hb], h1, h2, h3, ?_⟩
  dsimp only
  rw [Core.s_apart h4, Core.s_passed, hf, Core.s_setS_same]
  by_cases hd : d = 0
  · simp [hd]
  · have : d.toNat ≠ 0 := fun e => hd (BitVec.eq_of_toNat_eq (by simpa using e))
    rw [if_neg this, if_neg hd]

end Sys2Proof.Machine
end

