-- ==== Sys2Proof/Laws/PerInstr.lean ====
section
/-! SUPPORT. The decoder gives back what the encoder wrote: the fields of a word, and one lemma per constructor. -/
namespace Sys2Proof.Laws

/-! ## Fields of a word -/

/-- Bit i of a packed word. -/
theorem getLsbD_pack (fn c b a d : Reg) (m : BitVec 6) (i : Nat) : (pack fn c b a d m).getLsbD i =
    if i < 1 then true else if i < 7 then m.getLsbD (i - 1) else if i < 12 then d.getLsbD (i - 7)
    else if i < 17 then a.getLsbD (i - 12) else if i < 22 then b.getLsbD (i - 17) else if i < 27 then c.getLsbD (i - 22)
    else fn.getLsbD (i - 27) := by
  change BitVec.getLsbD (w := 5 + 5 + 5 + 5 + 5 + 6 + 1) (fn ++ c ++ b ++ a ++ d ++ m ++ 1#1) i = _
  simp only [BitVec.getLsbD_append]
  split_ifs <;> (first | omega | skip) <;> simp_all [Nat.sub_sub]

theorem fnOf_pack (fn c b a d : Reg) (m : BitVec 6) : fnOf (pack fn c b a d m) = fn := by
  apply BitVec.eq_of_getLsbD_eq; intro i hi
  interval_cases i <;> simp only [fnOf, getLsbD_pack, BitVec.getLsbD_extractLsb'] <;> rfl

theorem cOf_pack (fn c b a d : Reg) (m : BitVec 6) : cOf (pack fn c b a d m) = c := by
  apply BitVec.eq_of_getLsbD_eq; intro i hi
  interval_cases i <;> simp only [cOf, getLsbD_pack, BitVec.getLsbD_extractLsb'] <;> rfl

theorem bOf_pack (fn c b a d : Reg) (m : BitVec 6) : bOf (pack fn c b a d m) = b := by
  apply BitVec.eq_of_getLsbD_eq; intro i hi
  interval_cases i <;> simp only [bOf, getLsbD_pack, BitVec.getLsbD_extractLsb'] <;> rfl

theorem aOf_pack (fn c b a d : Reg) (m : BitVec 6) : aOf (pack fn c b a d m) = a := by
  apply BitVec.eq_of_getLsbD_eq; intro i hi
  interval_cases i <;> simp only [aOf, getLsbD_pack, BitVec.getLsbD_extractLsb'] <;> rfl

theorem dOf_pack (fn c b a d : Reg) (m : BitVec 6) : dOf (pack fn c b a d m) = d := by
  apply BitVec.eq_of_getLsbD_eq; intro i hi
  interval_cases i <;> simp only [dOf, getLsbD_pack, BitVec.getLsbD_extractLsb'] <;> rfl

theorem majOf_pack (fn c b a d : Reg) (m : BitVec 6) : majOf (pack fn c b a d m) = m := by
  apply BitVec.eq_of_getLsbD_eq; intro i hi
  interval_cases i <;> simp only [majOf, getLsbD_pack, BitVec.getLsbD_extractLsb'] <;> rfl

theorem isWide_pack (fn c b a d : Reg) (m : BitVec 6) : isWide ((pack fn c b a d m).extractLsb' 0 16) = true := by
  simp only [isWide, getLsbD_pack, BitVec.getLsbD_extractLsb']; rfl

/-- A word is its two halves. -/
theorem cat_halves (w : W32) : w.extractLsb' 16 16 ++ w.extractLsb' 0 16 = w := by
  apply BitVec.eq_of_getLsbD_eq; intro j hj
  simp only [BitVec.getLsbD_append, BitVec.getLsbD_extractLsb']
  split_ifs with h
  · simp [h]
  · rw [Nat.add_sub_cancel' (by omega)]; simp; omega

/-- The decoder on a packed word. -/
theorem decode_pack (fn c b a d : Reg) (m : BitVec 6) :
    decode ((pack fn c b a d m).extractLsb' 0 16) ((pack fn c b a d m).extractLsb' 16 16) = decodeFields m fn c b a d := by
  rw [decode, if_pos (isWide_pack ..), cat_halves, decode32, majOf_pack, fnOf_pack, cOf_pack, bOf_pack, aOf_pack, dOf_pack]

/-- The low half of a widened halfword is the halfword. -/
theorem low_half (h : Half) : (h.zeroExtend 32).extractLsb' 0 16 = h := by
  apply BitVec.eq_of_getLsbD_eq; intro j hj
  simp only [BitVec.getLsbD_extractLsb']
  simp [hj]; omega

/-- Bit i of a packed halfword. -/
theorem getLsbD_pack16 (hi : BitVec 6) (d : Reg) (op : BitVec 4) (i : Nat) : (pack16 hi d op).getLsbD i =
    if i < 1 then false else if i < 5 then op.getLsbD (i - 1) else if i < 10 then d.getLsbD (i - 5)
    else hi.getLsbD (i - 10) := by
  change BitVec.getLsbD (w := 6 + 5 + 4 + 1) (hi ++ d ++ op ++ 0#1) i = _
  simp only [BitVec.getLsbD_append]
  split_ifs <;> (first | omega | skip) <;> simp_all [Nat.sub_sub]

/-- The decoder on a packed halfword. -/
theorem decode_pack16 (hi : BitVec 6) (d : Reg) (op : BitVec 4) :
    decode (((pack16 hi d op).zeroExtend 32).extractLsb' 0 16) (((pack16 hi d op).zeroExtend 32).extractLsb' 16 16) =
      decodeFields16 op hi d := by
  have h0 : isWide (pack16 hi d op) = false := by simp only [isWide, getLsbD_pack16]; rfl
  have h1 : op4Of (pack16 hi d op) = op := by
    apply BitVec.eq_of_getLsbD_eq; intro i hi
    interval_cases i <;> simp only [op4Of, getLsbD_pack16, BitVec.getLsbD_extractLsb'] <;> rfl
  have h2 : hiOf (pack16 hi d op) = hi := by
    apply BitVec.eq_of_getLsbD_eq; intro i hi
    interval_cases i <;> simp only [hiOf, getLsbD_pack16, BitVec.getLsbD_extractLsb'] <;> rfl
  have h3 : d16Of (pack16 hi d op) = d := by
    apply BitVec.eq_of_getLsbD_eq; intro i hi
    interval_cases i <;> simp only [d16Of, getLsbD_pack16, BitVec.getLsbD_extractLsb'] <;> rfl
  rw [low_half, decode, h0, if_neg (by decide), decode16, h1, h2, h3]

/-! ## Parts of a field, and fields in parts -/

theorem ex_hi {n m : Nat} (x : BitVec n) (y : BitVec m) : (x ++ y).extractLsb' m n = x := by
  apply BitVec.eq_of_getLsbD_eq; intro j hj
  simp [BitVec.getLsbD_append, hj]

theorem ex_lo {n m : Nat} (x : BitVec n) (y : BitVec m) : (x ++ y).extractLsb' 0 m = y := by
  apply BitVec.eq_of_getLsbD_eq; intro j hj
  simp [BitVec.getLsbD_append, hj]

@[simp] theorem ex32_hi (x : BitVec 3) (y : BitVec 2) : BitVec.extractLsb' (n := 5) 2 3 (x ++ y) = x := ex_hi x y
@[simp] theorem ex32_lo (x : BitVec 3) (y : BitVec 2) : BitVec.extractLsb' (n := 5) 0 2 (x ++ y) = y := ex_lo x y
@[simp] theorem ex23_hi (x : BitVec 2) (y : BitVec 3) : BitVec.extractLsb' (n := 5) 3 2 (x ++ y) = x := ex_hi x y
@[simp] theorem ex23_lo (x : BitVec 2) (y : BitVec 3) : BitVec.extractLsb' (n := 5) 0 3 (x ++ y) = y := ex_lo x y
@[simp] theorem ex41_hi (x : BitVec 4) (y : BitVec 1) : BitVec.extractLsb' (n := 5) 1 4 (x ++ y) = x := ex_hi x y
@[simp] theorem ex41_lo (x : BitVec 4) (y : BitVec 1) : BitVec.extractLsb' (n := 5) 0 1 (x ++ y) = y := ex_lo x y
@[simp] theorem ex14_hi (x : BitVec 1) (y : BitVec 4) : BitVec.extractLsb' (n := 5) 4 1 (x ++ y) = x := ex_hi x y
@[simp] theorem ex14_lo (x : BitVec 1) (y : BitVec 4) : BitVec.extractLsb' (n := 5) 0 4 (x ++ y) = y := ex_lo x y
@[simp] theorem ex15_hi (x : BitVec 1) (y : BitVec 5) : BitVec.extractLsb' (n := 6) 5 1 (x ++ y) = x := ex_hi x y
@[simp] theorem ex15_lo (x : BitVec 1) (y : BitVec 5) : BitVec.extractLsb' (n := 6) 0 5 (x ++ y) = y := ex_lo x y
@[simp] theorem ex24_hi (x : BitVec 2) (y : BitVec 4) : BitVec.extractLsb' (n := 6) 4 2 (x ++ y) = x := ex_hi x y
@[simp] theorem ex24_lo (x : BitVec 2) (y : BitVec 4) : BitVec.extractLsb' (n := 6) 0 4 (x ++ y) = y := ex_lo x y

@[simp] theorem ex113_hi (z : BitVec 1) (t : BitVec 1) (m : BitVec 3) :
    BitVec.extractLsb' (n := 5) 4 1 (z ++ t ++ m) = z := by
  change BitVec.extractLsb' (n := 1 + 1 + 3) 4 1 (z ++ t ++ m) = z
  apply BitVec.eq_of_getLsbD_eq; intro j hj
  interval_cases j <;> simp only [BitVec.getLsbD_append, BitVec.getLsbD_extractLsb'] <;> rfl

@[simp] theorem ex113_mid (z : BitVec 1) (t : BitVec 1) (m : BitVec 3) :
    BitVec.extractLsb' (n := 5) 3 1 (z ++ t ++ m) = t := by
  change BitVec.extractLsb' (n := 1 + 1 + 3) 3 1 (z ++ t ++ m) = t
  apply BitVec.eq_of_getLsbD_eq; intro j hj
  interval_cases j <;> simp only [BitVec.getLsbD_append, BitVec.getLsbD_extractLsb'] <;> rfl

@[simp] theorem ex113_lo (z : BitVec 1) (t : BitVec 1) (m : BitVec 3) :
    BitVec.extractLsb' (n := 5) 0 3 (z ++ t ++ m) = m := by
  change BitVec.extractLsb' (n := 1 + 1 + 3) 0 3 (z ++ t ++ m) = m
  apply BitVec.eq_of_getLsbD_eq; intro j hj
  interval_cases j <;> simp only [BitVec.getLsbD_append, BitVec.getLsbD_extractLsb'] <;> rfl

@[simp] theorem ex221_hi (z : BitVec 2) (t : BitVec 2) (m : BitVec 1) :
    BitVec.extractLsb' (n := 5) 3 2 (z ++ t ++ m) = z := by
  change BitVec.extractLsb' (n := 2 + 2 + 1) 3 2 (z ++ t ++ m) = z
  apply BitVec.eq_of_getLsbD_eq; intro j hj
  interval_cases j <;> simp only [BitVec.getLsbD_append, BitVec.getLsbD_extractLsb'] <;> rfl

@[simp] theorem ex221_mid (z : BitVec 2) (t : BitVec 2) (m : BitVec 1) :
    BitVec.extractLsb' (n := 5) 1 2 (z ++ t ++ m) = t := by
  change BitVec.extractLsb' (n := 2 + 2 + 1) 1 2 (z ++ t ++ m) = t
  apply BitVec.eq_of_getLsbD_eq; intro j hj
  interval_cases j <;> simp only [BitVec.getLsbD_append, BitVec.getLsbD_extractLsb'] <;> rfl

@[simp] theorem ex221_lo (z : BitVec 2) (t : BitVec 2) (m : BitVec 1) :
    BitVec.extractLsb' (n := 5) 0 1 (z ++ t ++ m) = m := by
  change BitVec.extractLsb' (n := 2 + 2 + 1) 0 1 (z ++ t ++ m) = m
  apply BitVec.eq_of_getLsbD_eq; intro j hj
  interval_cases j <;> simp only [BitVec.getLsbD_append, BitVec.getLsbD_extractLsb'] <;> rfl

@[simp] theorem join15 (i : BitVec 15) : i.extractLsb' 10 5 ++ i.extractLsb' 5 5 ++ i.extractLsb' 0 5 = i := by
  apply BitVec.eq_of_getLsbD_eq; intro j hj
  interval_cases j <;> simp only [BitVec.getLsbD_append, BitVec.getLsbD_extractLsb'] <;> rfl

@[simp] theorem join20 (i : BitVec 20) : i.extractLsb' 15 5 ++ i.extractLsb' 10 5 ++ i.extractLsb' 5 5 ++ i.extractLsb' 0 5 = i := by
  apply BitVec.eq_of_getLsbD_eq; intro j hj
  interval_cases j <;> simp only [BitVec.getLsbD_append, BitVec.getLsbD_extractLsb'] <;> rfl

@[simp] theorem join12 (i : BitVec 12) : i.extractLsb' 10 2 ++ i.extractLsb' 5 5 ++ i.extractLsb' 0 5 = i := by
  apply BitVec.eq_of_getLsbD_eq; intro j hj
  interval_cases j <;> simp only [BitVec.getLsbD_append, BitVec.getLsbD_extractLsb'] <;> rfl

@[simp] theorem join12b (i : BitVec 12) : i.extractLsb' 7 5 ++ i.extractLsb' 2 5 ++ i.extractLsb' 0 2 = i := by
  apply BitVec.eq_of_getLsbD_eq; intro j hj
  interval_cases j <;> simp only [BitVec.getLsbD_append, BitVec.getLsbD_extractLsb'] <;> rfl

@[simp] theorem join6 (i : BitVec 6) : i.extractLsb' 5 1 ++ i.extractLsb' 0 5 = i := by
  apply BitVec.eq_of_getLsbD_eq; intro j hj
  interval_cases j <;> simp only [BitVec.getLsbD_append, BitVec.getLsbD_extractLsb'] <;> rfl

@[simp] theorem join11 (i : BitVec 11) : i.extractLsb' 5 6 ++ i.extractLsb' 0 5 = i := by
  apply BitVec.eq_of_getLsbD_eq; intro j hj
  interval_cases j <;> simp only [BitVec.getLsbD_append, BitVec.getLsbD_extractLsb'] <;> rfl

/-! ## One lemma per constructor -/

namespace Encoding

/-- The decoder gives an instruction back from the word that the encoder gives it. -/
def Statement (i : Instr) : Prop :=
  ∀ w, encode i = some w → decode (w.extractLsb' 0 16) (w.extractLsb' 16 16) = .ok i

theorem add (d a b : BitVec 5) : Statement (.add d a b) := by
  rintro w ⟨⟩
  rw [decode_pack]
  simp [decodeFields, decodeInt, need]

theorem sub (d a b : BitVec 5) : Statement (.sub d a b) := by
  rintro w ⟨⟩
  rw [decode_pack]
  simp [decodeFields, decodeInt, need]

theorem and (d a b : BitVec 5) : Statement (.and d a b) := by
  rintro w ⟨⟩
  rw [decode_pack]
  simp [decodeFields, decodeInt, need]

theorem or (d a b : BitVec 5) : Statement (.or d a b) := by
  rintro w ⟨⟩
  rw [decode_pack]
  simp [decodeFields, decodeInt, need]

theorem xor (d a b : BitVec 5) : Statement (.xor d a b) := by
  rintro w ⟨⟩
  rw [decode_pack]
  simp [decodeFields, decodeInt, need]

theorem shl (d a b : BitVec 5) : Statement (.shl d a b) := by
  rintro w ⟨⟩
  rw [decode_pack]
  simp [decodeFields, decodeInt, need]

theorem shr (d a b : BitVec 5) : Statement (.shr d a b) := by
  rintro w ⟨⟩
  rw [decode_pack]
  simp [decodeFields, decodeInt, need]

theorem sra (d a b : BitVec 5) : Statement (.sra d a b) := by
  rintro w ⟨⟩
  rw [decode_pack]
  simp [decodeFields, decodeInt, need]

theorem rot (d a b : BitVec 5) : Statement (.rot d a b) := by
  rintro w ⟨⟩
  rw [decode_pack]
  simp [decodeFields, decodeInt, need]

theorem mul (d a b : BitVec 5) : Statement (.mul d a b) := by
  rintro w ⟨⟩
  rw [decode_pack]
  simp [decodeFields, decodeInt, need]

theorem mulh (d a b : BitVec 5) : Statement (.mulh d a b) := by
  rintro w ⟨⟩
  rw [decode_pack]
  simp [decodeFields, decodeInt, need]

theorem mulhu (d a b : BitVec 5) : Statement (.mulhu d a b) := by
  rintro w ⟨⟩
  rw [decode_pack]
  simp [decodeFields, decodeInt, need]

theorem div (d a b : BitVec 5) : Statement (.div d a b) := by
  rintro w ⟨⟩
  rw [decode_pack]
  simp [decodeFields, decodeInt, need]

theorem divu (d a b : BitVec 5) : Statement (.divu d a b) := by
  rintro w ⟨⟩
  rw [decode_pack]
  simp [decodeFields, decodeInt, need]

theorem rem (d a b : BitVec 5) : Statement (.rem d a b) := by
  rintro w ⟨⟩
  rw [decode_pack]
  simp [decodeFields, decodeInt, need]

theorem remu (d a b : BitVec 5) : Statement (.remu d a b) := by
  rintro w ⟨⟩
  rw [decode_pack]
  simp [decodeFields, decodeInt, need]

theorem slt (d a b : BitVec 5) : Statement (.slt d a b) := by
  rintro w ⟨⟩
  rw [decode_pack]
  simp [decodeFields, decodeInt, need]

theorem sltu (d a b : BitVec 5) : Statement (.sltu d a b) := by
  rintro w ⟨⟩
  rw [decode_pack]
  simp [decodeFields, decodeInt, need]

theorem seq (d a b : BitVec 5) : Statement (.seq d a b) := by
  rintro w ⟨⟩
  rw [decode_pack]
  simp [decodeFields, decodeInt, need]

theorem min (d a b : BitVec 5) : Statement (.min d a b) := by
  rintro w ⟨⟩
  rw [decode_pack]
  simp [decodeFields, decodeInt, need]

theorem max (d a b : BitVec 5) : Statement (.max d a b) := by
  rintro w ⟨⟩
  rw [decode_pack]
  simp [decodeFields, decodeInt, need]

theorem minu (d a b : BitVec 5) : Statement (.minu d a b) := by
  rintro w ⟨⟩
  rw [decode_pack]
  simp [decodeFields, decodeInt, need]

theorem maxu (d a b : BitVec 5) : Statement (.maxu d a b) := by
  rintro w ⟨⟩
  rw [decode_pack]
  simp [decodeFields, decodeInt, need]

theorem clz (d a : BitVec 5) : Statement (.clz d a) := by
  rintro w ⟨⟩
  rw [decode_pack]
  simp [decodeFields, decodeInt, need]

theorem ctz (d a : BitVec 5) : Statement (.ctz d a) := by
  rintro w ⟨⟩
  rw [decode_pack]
  simp [decodeFields, decodeInt, need]

theorem popc (d a : BitVec 5) : Statement (.popc d a) := by
  rintro w ⟨⟩
  rw [decode_pack]
  simp [decodeFields, decodeInt, need]

theorem madd (d a b c : BitVec 5) : Statement (.madd d a b c) := by
  rintro w ⟨⟩
  rw [decode_pack]
  simp [decodeFields, decodeInt]

theorem csel (d a b c : BitVec 5) : Statement (.csel d a b c) := by
  rintro w ⟨⟩
  rw [decode_pack]
  simp [decodeFields, decodeInt]

theorem addi (d a : BitVec 5) (i : BitVec 15) : Statement (.addi d a i) := by
  rintro w ⟨⟩
  rw [decode_pack]
  simp [decodeFields]

theorem andi (d a : BitVec 5) (i : BitVec 15) : Statement (.andi d a i) := by
  rintro w ⟨⟩
  rw [decode_pack]
  simp [decodeFields]

theorem ori (d a : BitVec 5) (i : BitVec 15) : Statement (.ori d a i) := by
  rintro w ⟨⟩
  rw [decode_pack]
  simp [decodeFields]

theorem xori (d a : BitVec 5) (i : BitVec 15) : Statement (.xori d a i) := by
  rintro w ⟨⟩
  rw [decode_pack]
  simp [decodeFields]

theorem shi (d a : BitVec 5) (n : BitVec 6) (k : BitVec 2) : Statement (.shi d a n k) := by
  rintro w ⟨⟩
  rw [decode_pack]
  simp [decodeFields, need]

theorem slti (d a : BitVec 5) (i : BitVec 15) : Statement (.slti d a i) := by
  rintro w ⟨⟩
  rw [decode_pack]
  simp [decodeFields]

theorem sltiu (d a : BitVec 5) (i : BitVec 15) : Statement (.sltiu d a i) := by
  rintro w ⟨⟩
  rw [decode_pack]
  simp [decodeFields]

theorem lui (d : BitVec 5) (i : BitVec 20) : Statement (.lui d i) := by
  rintro w ⟨⟩
  rw [decode_pack]
  simp [decodeFields]

theorem addpc (d : BitVec 5) (i : BitVec 20) : Statement (.addpc d i) := by
  rintro w ⟨⟩
  rw [decode_pack]
  simp [decodeFields]

theorem crd (d : BitVec 5) (n : BitVec 12) : Statement (.crd d n) := by
  rintro w ⟨⟩
  rw [decode_pack]
  simp [decodeFields, decodeCtl, need]

theorem cwr (a : BitVec 5) (n : BitVec 12) : Statement (.cwr a n) := by
  rintro w ⟨⟩
  rw [decode_pack]
  simp [decodeFields, decodeCtl, need]

theorem cset (d a : BitVec 5) (n : BitVec 12) : Statement (.cset d a n) := by
  rintro w ⟨⟩
  rw [decode_pack]
  simp [decodeFields, decodeCtl]

theorem cclr (d a : BitVec 5) (n : BitVec 12) : Statement (.cclr d a n) := by
  rintro w ⟨⟩
  rw [decode_pack]
  simp [decodeFields, decodeCtl]

theorem cswp (d a : BitVec 5) (n : BitVec 12) : Statement (.cswp d a n) := by
  rintro w ⟨⟩
  rw [decode_pack]
  simp [decodeFields, decodeCtl]

theorem beq (x y : BitVec 5) (o : BitVec 12) : Statement (.beq x y o) := by
  rintro w ⟨⟩
  rw [decode_pack]
  simp [decodeFields, decodeBr]

theorem bne (x y : BitVec 5) (o : BitVec 12) : Statement (.bne x y o) := by
  rintro w ⟨⟩
  rw [decode_pack]
  simp [decodeFields, decodeBr]

theorem blt (x y : BitVec 5) (o : BitVec 12) : Statement (.blt x y o) := by
  rintro w ⟨⟩
  rw [decode_pack]
  simp [decodeFields, decodeBr]

theorem bge (x y : BitVec 5) (o : BitVec 12) : Statement (.bge x y o) := by
  rintro w ⟨⟩
  rw [decode_pack]
  simp [decodeFields, decodeBr]

theorem bltu (x y : BitVec 5) (o : BitVec 12) : Statement (.bltu x y o) := by
  rintro w ⟨⟩
  rw [decode_pack]
  simp [decodeFields, decodeBr]

theorem bgeu (x y : BitVec 5) (o : BitVec 12) : Statement (.bgeu x y o) := by
  rintro w ⟨⟩
  rw [decode_pack]
  simp [decodeFields, decodeBr]

theorem bok (o : BitVec 12) : Statement (.bok o) := by
  rintro w ⟨⟩
  rw [decode_pack]
  simp [decodeFields, decodeBx, need]

theorem bempty (o : BitVec 12) : Statement (.bempty o) := by
  rintro w ⟨⟩
  rw [decode_pack]
  simp [decodeFields, decodeBx, need]

theorem bfull (o : BitVec 12) : Statement (.bfull o) := by
  rintro w ⟨⟩
  rw [decode_pack]
  simp [decodeFields, decodeBx, need]

theorem babsent (o : BitVec 12) : Statement (.babsent o) := by
  rintro w ⟨⟩
  rw [decode_pack]
  simp [decodeFields, decodeBx, need]

theorem bany (m : BitVec 5) (o : BitVec 12) : Statement (.bany m o) := by
  rintro w ⟨⟩
  rw [decode_pack]
  simp [decodeFields, decodeBx, need]

theorem ball (m : BitVec 5) (o : BitVec 12) : Statement (.ball m o) := by
  rintro w ⟨⟩
  rw [decode_pack]
  simp [decodeFields, decodeBx, need]

theorem bnone (m : BitVec 5) (o : BitVec 12) : Statement (.bnone m o) := by
  rintro w ⟨⟩
  rw [decode_pack]
  simp [decodeFields, decodeBx, need]

theorem bflag (x : BitVec 5) (o : BitVec 12) : Statement (.bflag x o) := by
  rintro w ⟨⟩
  rw [decode_pack]
  simp [decodeFields, decodeBx, need]

theorem jal (d : BitVec 5) (o : BitVec 20) : Statement (.jal d o) := by
  rintro w ⟨⟩
  rw [decode_pack]
  simp [decodeFields]

theorem jalr (d a : BitVec 5) (i : BitVec 15) : Statement (.jalr d a i) := by
  rintro w ⟨⟩
  rw [decode_pack]
  simp [decodeFields]

theorem ldx (d a b : BitVec 5) (s : BitVec 3) (o : BitVec 2) (c : BitVec 3) (h : BitVec 2) : Statement (.ldx d a b s o c h) := by
  rintro w ⟨⟩
  rw [decode_pack]
  simp [decodeFields]

theorem stx (d a b : BitVec 5) (s : BitVec 3) (o : BitVec 2) (c : BitVec 3) (h : BitVec 2) : Statement (.stx d a b s o c h) := by
  rintro w ⟨⟩
  rw [decode_pack]
  simp [decodeFields]

theorem ldb (d a : BitVec 5) (i : BitVec 15) : Statement (.ldb d a i) := by
  rintro w ⟨⟩
  rw [decode_pack]
  simp [decodeFields]

theorem ldbz (d a : BitVec 5) (i : BitVec 15) : Statement (.ldbz d a i) := by
  rintro w ⟨⟩
  rw [decode_pack]
  simp [decodeFields]

theorem ldh (d a : BitVec 5) (i : BitVec 15) : Statement (.ldh d a i) := by
  rintro w ⟨⟩
  rw [decode_pack]
  simp [decodeFields]

theorem ldhz (d a : BitVec 5) (i : BitVec 15) : Statement (.ldhz d a i) := by
  rintro w ⟨⟩
  rw [decode_pack]
  simp [decodeFields]

theorem ldw (d a : BitVec 5) (i : BitVec 15) : Statement (.ldw d a i) := by
  rintro w ⟨⟩
  rw [decode_pack]
  simp [decodeFields]

theorem ldwz (d a : BitVec 5) (i : BitVec 15) : Statement (.ldwz d a i) := by
  rintro w ⟨⟩
  rw [decode_pack]
  simp [decodeFields]

theorem ldd (d a : BitVec 5) (i : BitVec 15) : Statement (.ldd d a i) := by
  rintro w ⟨⟩
  rw [decode_pack]
  simp [decodeFields]

theorem stb (d a : BitVec 5) (i : BitVec 15) : Statement (.stb d a i) := by
  rintro w ⟨⟩
  rw [decode_pack]
  simp [decodeFields]

theorem sth (d a : BitVec 5) (i : BitVec 15) : Statement (.sth d a i) := by
  rintro w ⟨⟩
  rw [decode_pack]
  simp [decodeFields]

theorem stw (d a : BitVec 5) (i : BitVec 15) : Statement (.stw d a i) := by
  rintro w ⟨⟩
  rw [decode_pack]
  simp [decodeFields]

theorem std (d a : BitVec 5) (i : BitVec 15) : Statement (.std d a i) := by
  rintro w ⟨⟩
  rw [decode_pack]
  simp [decodeFields]

theorem amoadd (d a b : BitVec 5) (o : BitVec 2) (s : BitVec 3) (w : BitVec 1) : Statement (.amoadd d a b o s w) := by
  rintro w ⟨⟩
  rw [decode_pack]
  simp [decodeFields, decodeAmo]

theorem amoand (d a b : BitVec 5) (o : BitVec 2) (s : BitVec 3) (w : BitVec 1) : Statement (.amoand d a b o s w) := by
  rintro w ⟨⟩
  rw [decode_pack]
  simp [decodeFields, decodeAmo]

theorem amoor (d a b : BitVec 5) (o : BitVec 2) (s : BitVec 3) (w : BitVec 1) : Statement (.amoor d a b o s w) := by
  rintro w ⟨⟩
  rw [decode_pack]
  simp [decodeFields, decodeAmo]

theorem amoxor (d a b : BitVec 5) (o : BitVec 2) (s : BitVec 3) (w : BitVec 1) : Statement (.amoxor d a b o s w) := by
  rintro w ⟨⟩
  rw [decode_pack]
  simp [decodeFields, decodeAmo]

theorem amomin (d a b : BitVec 5) (o : BitVec 2) (s : BitVec 3) (w : BitVec 1) : Statement (.amomin d a b o s w) := by
  rintro w ⟨⟩
  rw [decode_pack]
  simp [decodeFields, decodeAmo]

theorem amomax (d a b : BitVec 5) (o : BitVec 2) (s : BitVec 3) (w : BitVec 1) : Statement (.amomax d a b o s w) := by
  rintro w ⟨⟩
  rw [decode_pack]
  simp [decodeFields, decodeAmo]

theorem amominu (d a b : BitVec 5) (o : BitVec 2) (s : BitVec 3) (w : BitVec 1) : Statement (.amominu d a b o s w) := by
  rintro w ⟨⟩
  rw [decode_pack]
  simp [decodeFields, decodeAmo]

theorem amomaxu (d a b : BitVec 5) (o : BitVec 2) (s : BitVec 3) (w : BitVec 1) : Statement (.amomaxu d a b o s w) := by
  rintro w ⟨⟩
  rw [decode_pack]
  simp [decodeFields, decodeAmo]

theorem amoswap (d a b : BitVec 5) (o : BitVec 2) (s : BitVec 3) (w : BitVec 1) : Statement (.amoswap d a b o s w) := by
  rintro w ⟨⟩
  rw [decode_pack]
  simp [decodeFields, decodeAmo]

theorem amocas (d a b : BitVec 5) (o : BitVec 2) (s : BitVec 3) (w : BitVec 1) : Statement (.amocas d a b o s w) := by
  rintro w ⟨⟩
  rw [decode_pack]
  simp [decodeFields, decodeAmo]

theorem amofadd (d a b : BitVec 5) (o : BitVec 2) (s : BitVec 3) : Statement (.amofadd d a b o s) := by
  rintro w ⟨⟩
  rw [decode_pack]
  simp [decodeFields, decodeAmo, need]

theorem amoincb (d a b : BitVec 5) (o : BitVec 2) (s : BitVec 3) (w : BitVec 1) : Statement (.amoincb d a b o s w) := by
  rintro w ⟨⟩
  rw [decode_pack]
  simp [decodeFields, decodeAmo]

theorem fence (s : BitVec 3) : Statement (.fence s) := by
  rintro w ⟨⟩
  rw [decode_pack]
  simp [decodeFields, decodeFence, need]

theorem pfence (a b : BitVec 5) (s : BitVec 3) : Statement (.pfence a b s) := by
  rintro w ⟨⟩
  rw [decode_pack]
  simp [decodeFields, decodeFence, need]

theorem ifence : Statement (.ifence) := by
  rintro w ⟨⟩
  rw [decode_pack]
  simp [decodeFields, decodeFence, need]

theorem waitge (d a b : BitVec 5) : Statement (.waitge d a b) := by
  rintro w ⟨⟩
  rw [decode_pack]
  simp [decodeFields, decodeWait, need]

theorem waitp (d a b c : BitVec 5) : Statement (.waitp d a b c) := by
  rintro w ⟨⟩
  rw [decode_pack]
  simp [decodeFields, decodeWait]

theorem sleep (a : BitVec 5) : Statement (.sleep a) := by
  rintro w ⟨⟩
  rw [decode_pack]
  simp [decodeFields, decodeWait, need]

theorem fwait (a v c : BitVec 5) : Statement (.fwait a v c) := by
  rintro w ⟨⟩
  rw [decode_pack]
  simp [decodeFields, decodeWait, need]

theorem fset (a b c : BitVec 5) : Statement (.fset a b c) := by
  rintro w ⟨⟩
  rw [decode_pack]
  simp [decodeFields, decodeWait, need]

theorem fclr (a b c : BitVec 5) : Statement (.fclr a b c) := by
  rintro w ⟨⟩
  rw [decode_pack]
  simp [decodeFields, decodeWait, need]

theorem ftest (d a : BitVec 5) : Statement (.ftest d a) := by
  rintro w ⟨⟩
  rw [decode_pack]
  simp [decodeFields, decodeWait, need]

theorem yield : Statement (.yield) := by
  rintro w ⟨⟩
  rw [decode_pack]
  simp [decodeFields, decodeWait, need]

theorem bpers (d a b : BitVec 5) : Statement (.bpers d a b) := by
  rintro w ⟨⟩
  rw [decode_pack]
  simp [decodeFields, decodeBank, need]

theorem bquery (d a : BitVec 5) : Statement (.bquery d a) := by
  rintro w ⟨⟩
  rw [decode_pack]
  simp [decodeFields, decodeBank, need]

theorem bgroup (d a b c : BitVec 5) : Statement (.bgroup d a b c) := by
  rintro w ⟨⟩
  rw [decode_pack]
  simp [decodeFields, decodeBank]

theorem bspread (d a b : BitVec 5) : Statement (.bspread d a b) := by
  rintro w ⟨⟩
  rw [decode_pack]
  simp [decodeFields, decodeBank, need]

theorem bkeep (a b c : BitVec 5) : Statement (.bkeep a b c) := by
  rintro w ⟨⟩
  rw [decode_pack]
  simp [decodeFields, decodeBank, need]

theorem bclear (d a : BitVec 5) : Statement (.bclear d a) := by
  rintro w ⟨⟩
  rw [decode_pack]
  simp [decodeFields, decodeBank, need]

theorem vadd (d a b : BitVec 5) (m : BitVec 3) (t : BitVec 2) : Statement (.vadd d a b m t) := by
  rintro w ⟨⟩
  rw [decode_pack]
  simp [decodeFields, decodeValu]

theorem vsub (d a b : BitVec 5) (m : BitVec 3) (t : BitVec 2) : Statement (.vsub d a b m t) := by
  rintro w ⟨⟩
  rw [decode_pack]
  simp [decodeFields, decodeValu]

theorem vmul (d a b : BitVec 5) (m : BitVec 3) (t : BitVec 2) : Statement (.vmul d a b m t) := by
  rintro w ⟨⟩
  rw [decode_pack]
  simp [decodeFields, decodeValu]

theorem vmin (d a b : BitVec 5) (m : BitVec 3) (t : BitVec 2) : Statement (.vmin d a b m t) := by
  rintro w ⟨⟩
  rw [decode_pack]
  simp [decodeFields, decodeValu]

theorem vmax (d a b : BitVec 5) (m : BitVec 3) (t : BitVec 2) : Statement (.vmax d a b m t) := by
  rintro w ⟨⟩
  rw [decode_pack]
  simp [decodeFields, decodeValu]

theorem vand (d a b : BitVec 5) (m : BitVec 3) (t : BitVec 2) : Statement (.vand d a b m t) := by
  rintro w ⟨⟩
  rw [decode_pack]
  simp [decodeFields, decodeValu]

theorem vor (d a b : BitVec 5) (m : BitVec 3) (t : BitVec 2) : Statement (.vor d a b m t) := by
  rintro w ⟨⟩
  rw [decode_pack]
  simp [decodeFields, decodeValu]

theorem vxor (d a b : BitVec 5) (m : BitVec 3) (t : BitVec 2) : Statement (.vxor d a b m t) := by
  rintro w ⟨⟩
  rw [decode_pack]
  simp [decodeFields, decodeValu]

theorem vshl (d a b : BitVec 5) (m : BitVec 3) (t : BitVec 2) : Statement (.vshl d a b m t) := by
  rintro w ⟨⟩
  rw [decode_pack]
  simp [decodeFields, decodeValu]

theorem vshr (d a b : BitVec 5) (m : BitVec 3) (t : BitVec 2) : Statement (.vshr d a b m t) := by
  rintro w ⟨⟩
  rw [decode_pack]
  simp [decodeFields, decodeValu]

theorem vsra (d a b : BitVec 5) (m : BitVec 3) (t : BitVec 2) : Statement (.vsra d a b m t) := by
  rintro w ⟨⟩
  rw [decode_pack]
  simp [decodeFields, decodeValu]

theorem vceq (d a b : BitVec 5) (m : BitVec 3) : Statement (.vceq d a b m) := by
  rintro w ⟨⟩
  rw [decode_pack]
  simp [decodeFields, decodeValu, need]

theorem vclt (d a b : BitVec 5) (m : BitVec 3) : Statement (.vclt d a b m) := by
  rintro w ⟨⟩
  rw [decode_pack]
  simp [decodeFields, decodeValu, need]

theorem vcle (d a b : BitVec 5) (m : BitVec 3) : Statement (.vcle d a b m) := by
  rintro w ⟨⟩
  rw [decode_pack]
  simp [decodeFields, decodeValu, need]

theorem vsel (d a b : BitVec 5) (m : BitVec 3) (t : BitVec 2) : Statement (.vsel d a b m t) := by
  rintro w ⟨⟩
  rw [decode_pack]
  simp [decodeFields, decodeValu]

theorem vaddsat (d a b : BitVec 5) (m : BitVec 3) (t : BitVec 2) : Statement (.vaddsat d a b m t) := by
  rintro w ⟨⟩
  rw [decode_pack]
  simp [decodeFields, decodeValu]

theorem vmadd (d a b : BitVec 5) (m : BitVec 3) (t : BitVec 2) : Statement (.vmadd d a b m t) := by
  rintro w ⟨⟩
  rw [decode_pack]
  simp [decodeFields, decodeValu]

theorem vfadd (d a b : BitVec 5) (m : BitVec 3) (t : BitVec 1) : Statement (.vfadd d a b m t) := by
  rintro w ⟨⟩
  rw [decode_pack]
  simp [decodeFields, decodeVfp, need]

theorem vfsub (d a b : BitVec 5) (m : BitVec 3) (t : BitVec 1) : Statement (.vfsub d a b m t) := by
  rintro w ⟨⟩
  rw [decode_pack]
  simp [decodeFields, decodeVfp, need]

theorem vfmul (d a b : BitVec 5) (m : BitVec 3) (t : BitVec 1) : Statement (.vfmul d a b m t) := by
  rintro w ⟨⟩
  rw [decode_pack]
  simp [decodeFields, decodeVfp, need]

theorem vfma (d a b : BitVec 5) (m : BitVec 3) (t : BitVec 1) : Statement (.vfma d a b m t) := by
  rintro w ⟨⟩
  rw [decode_pack]
  simp [decodeFields, decodeVfp, need]

theorem vfmin (d a b : BitVec 5) (m : BitVec 3) (t : BitVec 1) : Statement (.vfmin d a b m t) := by
  rintro w ⟨⟩
  rw [decode_pack]
  simp [decodeFields, decodeVfp, need]

theorem vfmax (d a b : BitVec 5) (m : BitVec 3) (t : BitVec 1) : Statement (.vfmax d a b m t) := by
  rintro w ⟨⟩
  rw [decode_pack]
  simp [decodeFields, decodeVfp, need]

theorem vfceq (d a b : BitVec 5) (m : BitVec 3) : Statement (.vfceq d a b m) := by
  rintro w ⟨⟩
  rw [decode_pack]
  simp [decodeFields, decodeVfp, need]

theorem vfclt (d a b : BitVec 5) (m : BitVec 3) : Statement (.vfclt d a b m) := by
  rintro w ⟨⟩
  rw [decode_pack]
  simp [decodeFields, decodeVfp, need]

theorem vfcle (d a b : BitVec 5) (m : BitVec 3) : Statement (.vfcle d a b m) := by
  rintro w ⟨⟩
  rw [decode_pack]
  simp [decodeFields, decodeVfp, need]

theorem vfdiv (d a b : BitVec 5) (m : BitVec 3) (t : BitVec 1) : Statement (.vfdiv d a b m t) := by
  rintro w ⟨⟩
  rw [decode_pack]
  simp [decodeFields, decodeVfp, need]

theorem vfsqrt (d a : BitVec 5) (m : BitVec 3) (t : BitVec 1) : Statement (.vfsqrt d a m t) := by
  rintro w ⟨⟩
  rw [decode_pack]
  simp [decodeFields, decodeVfp, need]

theorem vfrcp (d a : BitVec 5) (m : BitVec 3) (t : BitVec 1) : Statement (.vfrcp d a m t) := by
  rintro w ⟨⟩
  rw [decode_pack]
  simp [decodeFields, decodeVfp, need]

theorem vfexp2 (d a : BitVec 5) (m : BitVec 3) (t : BitVec 1) : Statement (.vfexp2 d a m t) := by
  rintro w ⟨⟩
  rw [decode_pack]
  simp [decodeFields, decodeVfp, need]

theorem vflog2 (d a : BitVec 5) (m : BitVec 3) (t : BitVec 1) : Statement (.vflog2 d a m t) := by
  rintro w ⟨⟩
  rw [decode_pack]
  simp [decodeFields, decodeVfp, need]

theorem vfabs (d a : BitVec 5) (m : BitVec 3) (t : BitVec 1) : Statement (.vfabs d a m t) := by
  rintro w ⟨⟩
  rw [decode_pack]
  simp [decodeFields, decodeVfp, need]

theorem vfneg (d a : BitVec 5) (m : BitVec 3) (t : BitVec 1) : Statement (.vfneg d a m t) := by
  rintro w ⟨⟩
  rw [decode_pack]
  simp [decodeFields, decodeVfp, need]

theorem vld (d a : BitVec 5) (m : BitVec 3) : Statement (.vld d a m) := by
  rintro w ⟨⟩
  rw [decode_pack]
  simp [decodeFields, decodeVmem, need]

theorem vst (d a : BitVec 5) (m : BitVec 3) : Statement (.vst d a m) := by
  rintro w ⟨⟩
  rw [decode_pack]
  simp [decodeFields, decodeVmem, need]

theorem vldx (d a b : BitVec 5) (m : BitVec 3) : Statement (.vldx d a b m) := by
  rintro w ⟨⟩
  rw [decode_pack]
  simp [decodeFields, decodeVmem, need]

theorem vstx (d a b : BitVec 5) (m : BitVec 3) : Statement (.vstx d a b m) := by
  rintro w ⟨⟩
  rw [decode_pack]
  simp [decodeFields, decodeVmem, need]

theorem vstxadd (d a b : BitVec 5) (m : BitVec 3) (t : BitVec 1) : Statement (.vstxadd d a b m t) := by
  rintro w ⟨⟩
  rw [decode_pack]
  simp [decodeFields, decodeVmem, need]

theorem vldb (d a : BitVec 5) (m : BitVec 3) : Statement (.vldb d a m) := by
  rintro w ⟨⟩
  rw [decode_pack]
  simp [decodeFields, decodeVmem, need]

theorem vldk (d a b : BitVec 5) (m : BitVec 3) : Statement (.vldk d a b m) := by
  rintro w ⟨⟩
  rw [decode_pack]
  simp [decodeFields, decodeVmem, need]

theorem vstk (d a b : BitVec 5) (m : BitVec 3) : Statement (.vstk d a b m) := by
  rintro w ⟨⟩
  rw [decode_pack]
  simp [decodeFields, decodeVmem, need]

theorem vbcast (d a : BitVec 5) (m : BitVec 3) : Statement (.vbcast d a m) := by
  rintro w ⟨⟩
  rw [decode_pack]
  simp [decodeFields, decodeVxf, need]

theorem vext (d a n : BitVec 5) : Statement (.vext d a n) := by
  rintro w ⟨⟩
  rw [decode_pack]
  simp [decodeFields, decodeVxf, need]

theorem vins (d a n : BitVec 5) : Statement (.vins d a n) := by
  rintro w ⟨⟩
  rw [decode_pack]
  simp [decodeFields, decodeVxf, need]

theorem vredaddI32 (d a : BitVec 5) (m : BitVec 3) : Statement (.vredaddI32 d a m) := by
  rintro w ⟨⟩
  rw [decode_pack]
  simp [decodeFields, decodeVxf, need]

theorem vredaddF32 (d a : BitVec 5) (m : BitVec 3) : Statement (.vredaddF32 d a m) := by
  rintro w ⟨⟩
  rw [decode_pack]
  simp [decodeFields, decodeVxf, need]

theorem vredmin (d a : BitVec 5) (m : BitVec 3) (t : BitVec 1) : Statement (.vredmin d a m t) := by
  rintro w ⟨⟩
  rw [decode_pack]
  simp [decodeFields, decodeVxf, need]

theorem vredmax (d a : BitVec 5) (m : BitVec 3) (t : BitVec 1) : Statement (.vredmax d a m t) := by
  rintro w ⟨⟩
  rw [decode_pack]
  simp [decodeFields, decodeVxf, need]

theorem vperm (d a b : BitVec 5) (m : BitVec 3) : Statement (.vperm d a b m) := by
  rintro w ⟨⟩
  rw [decode_pack]
  simp [decodeFields, decodeVxf, need]

theorem vslide (d a b : BitVec 5) (m : BitVec 3) : Statement (.vslide d a b m) := by
  rintro w ⟨⟩
  rw [decode_pack]
  simp [decodeFields, decodeVxf, need]

theorem vmpop (d a : BitVec 5) : Statement (.vmpop d a) := by
  rintro w ⟨⟩
  rw [decode_pack]
  simp [decodeFields, decodeVxf, need]

theorem vmand (d a b : BitVec 5) : Statement (.vmand d a b) := by
  rintro w ⟨⟩
  rw [decode_pack]
  simp [decodeFields, decodeVxf, need]

theorem vmor (d a b : BitVec 5) : Statement (.vmor d a b) := by
  rintro w ⟨⟩
  rw [decode_pack]
  simp [decodeFields, decodeVxf, need]

theorem vmxor (d a b : BitVec 5) : Statement (.vmxor d a b) := by
  rintro w ⟨⟩
  rw [decode_pack]
  simp [decodeFields, decodeVxf, need]

theorem vmnot (d a : BitVec 5) : Statement (.vmnot d a) := by
  rintro w ⟨⟩
  rw [decode_pack]
  simp [decodeFields, decodeVxf, need]

theorem vmset (d a : BitVec 5) : Statement (.vmset d a) := by
  rintro w ⟨⟩
  rw [decode_pack]
  simp [decodeFields, decodeVxf, need]

theorem vmget (d a : BitVec 5) : Statement (.vmget d a) := by
  rintro w ⟨⟩
  rw [decode_pack]
  simp [decodeFields, decodeVxf, need]

theorem vlane (d : BitVec 5) (m : BitVec 3) : Statement (.vlane d m) := by
  rintro w ⟨⟩
  rw [decode_pack]
  simp [decodeFields, decodeVxf, need]

theorem cvtF32I32 (d a : BitVec 5) (m : BitVec 3) (v : BitVec 1) : Statement (.cvtF32I32 d a m v) := by
  rintro w ⟨⟩
  rw [decode_pack]
  simp [decodeFields, decodeCvt, need]

theorem cvtI32F32 (d a : BitVec 5) (m : BitVec 3) (v : BitVec 1) : Statement (.cvtI32F32 d a m v) := by
  rintro w ⟨⟩
  rw [decode_pack]
  simp [decodeFields, decodeCvt, need]

theorem cvtF64F32 (d a : BitVec 5) : Statement (.cvtF64F32 d a) := by
  rintro w ⟨⟩
  rw [decode_pack]
  simp [decodeFields, decodeCvt, need]

theorem cvtF32F64 (d a : BitVec 5) : Statement (.cvtF32F64 d a) := by
  rintro w ⟨⟩
  rw [decode_pack]
  simp [decodeFields, decodeCvt, need]

theorem vcvtBf16F32 (d a b : BitVec 5) (m : BitVec 3) : Statement (.vcvtBf16F32 d a b m) := by
  rintro w ⟨⟩
  rw [decode_pack]
  simp [decodeFields, decodeCvt, need]

theorem vcvtF32Bf16 (d a h : BitVec 5) (m : BitVec 3) : Statement (.vcvtF32Bf16 d a h m) := by
  rintro w ⟨⟩
  rw [decode_pack]
  simp [decodeFields, decodeCvt, need]

theorem vdec (d a n : BitVec 5) (m : BitVec 3) (t : BitVec 2) : Statement (.vdec d a n m t) := by
  rintro w ⟨⟩
  rw [decode_pack]
  simp [decodeFields, decodeCvt]

theorem venc (d a n : BitVec 5) (m : BitVec 3) (t : BitVec 2) : Statement (.venc d a n m t) := by
  rintro w ⟨⟩
  rw [decode_pack]
  simp [decodeFields, decodeCvt]

theorem vqmx (d a b : BitVec 5) (h : BitVec 1) : Statement (.vqmx d a b h) := by
  rintro w ⟨⟩
  rw [decode_pack]
  simp [decodeFields, decodeCvt, need]

theorem vdqmx (d a b : BitVec 5) (h : BitVec 1) : Statement (.vdqmx d a b h) := by
  rintro w ⟨⟩
  rw [decode_pack]
  simp [decodeFields, decodeCvt, need]

theorem fadd (d a b : BitVec 5) (t : BitVec 1) : Statement (.fadd d a b t) := by
  rintro w ⟨⟩
  rw [decode_pack]
  simp [decodeFields, decodeFalu, need]

theorem fsub (d a b : BitVec 5) (t : BitVec 1) : Statement (.fsub d a b t) := by
  rintro w ⟨⟩
  rw [decode_pack]
  simp [decodeFields, decodeFalu, need]

theorem fmul (d a b : BitVec 5) (t : BitVec 1) : Statement (.fmul d a b t) := by
  rintro w ⟨⟩
  rw [decode_pack]
  simp [decodeFields, decodeFalu, need]

theorem fma (d a b c : BitVec 5) (t : BitVec 1) : Statement (.fma d a b c t) := by
  rintro w ⟨⟩
  rw [decode_pack]
  simp [decodeFields, decodeFalu]

theorem fdiv (d a b : BitVec 5) (t : BitVec 1) : Statement (.fdiv d a b t) := by
  rintro w ⟨⟩
  rw [decode_pack]
  simp [decodeFields, decodeFalu, need]

theorem fsqrt (d a : BitVec 5) (t : BitVec 1) : Statement (.fsqrt d a t) := by
  rintro w ⟨⟩
  rw [decode_pack]
  simp [decodeFields, decodeFalu, need]

theorem fmin (d a b : BitVec 5) (t : BitVec 1) : Statement (.fmin d a b t) := by
  rintro w ⟨⟩
  rw [decode_pack]
  simp [decodeFields, decodeFalu, need]

theorem fmax (d a b : BitVec 5) (t : BitVec 1) : Statement (.fmax d a b t) := by
  rintro w ⟨⟩
  rw [decode_pack]
  simp [decodeFields, decodeFalu, need]

theorem feq (d a b : BitVec 5) (t : BitVec 1) : Statement (.feq d a b t) := by
  rintro w ⟨⟩
  rw [decode_pack]
  simp [decodeFields, decodeFalu, need]

theorem flt (d a b : BitVec 5) (t : BitVec 1) : Statement (.flt d a b t) := by
  rintro w ⟨⟩
  rw [decode_pack]
  simp [decodeFields, decodeFalu, need]

theorem fle (d a b : BitVec 5) (t : BitVec 1) : Statement (.fle d a b t) := by
  rintro w ⟨⟩
  rw [decode_pack]
  simp [decodeFields, decodeFalu, need]

theorem fabs (d a : BitVec 5) (t : BitVec 1) : Statement (.fabs d a t) := by
  rintro w ⟨⟩
  rw [decode_pack]
  simp [decodeFields, decodeFalu, need]

theorem fneg (d a : BitVec 5) (t : BitVec 1) : Statement (.fneg d a t) := by
  rintro w ⟨⟩
  rw [decode_pack]
  simp [decodeFields, decodeFalu, need]

theorem fclass (d a : BitVec 5) (t : BitVec 1) : Statement (.fclass d a t) := by
  rintro w ⟨⟩
  rw [decode_pack]
  simp [decodeFields, decodeFalu, need]

theorem tblld (t : BitVec 2) (a : BitVec 5) : Statement (.tblld t a) := by
  rintro w ⟨⟩
  rw [decode_pack]
  simp [decodeFields, decodeTbl, need]

theorem tblrd (d a : BitVec 5) (t : BitVec 2) : Statement (.tblrd d a t) := by
  rintro w ⟨⟩
  rw [decode_pack]
  simp [decodeFields, decodeTbl, need]

theorem tblpre (t : BitVec 2) (p : BitVec 5) : Statement (.tblpre t p) := by
  rintro w ⟨⟩
  rw [decode_pack]
  simp [decodeFields, decodeTbl, need]

theorem mma (d : BitVec 2) (a b c : BitVec 5) (p : BitVec 2) : Statement (.mma d a b c p) := by
  rintro w ⟨⟩
  rw [decode_pack]
  simp [decodeFields, decodeMat, need]

theorem mmaz (d : BitVec 2) (a b c : BitVec 5) (p : BitVec 2) : Statement (.mmaz d a b c p) := by
  rintro w ⟨⟩
  rw [decode_pack]
  simp [decodeFields, decodeMat, need]

theorem mstream (d : BitVec 2) (a b c : BitVec 5) (p : BitVec 2) : Statement (.mstream d a b c p) := by
  rintro w ⟨⟩
  rw [decode_pack]
  simp [decodeFields, decodeMat, need]

theorem mzero (d : BitVec 2) : Statement (.mzero d) := by
  rintro w ⟨⟩
  rw [decode_pack]
  simp [decodeFields, decodeMat, need]

theorem mstore (d : BitVec 2) (a b : BitVec 5) : Statement (.mstore d a b) := by
  rintro w ⟨⟩
  rw [decode_pack]
  simp [decodeFields, decodeMat, need]

theorem mread (d : BitVec 2) (a b : BitVec 5) : Statement (.mread d a b) := by
  rintro w ⟨⟩
  rw [decode_pack]
  simp [decodeFields, decodeMat, need]

theorem mpeek (d : BitVec 2) (a b : BitVec 5) : Statement (.mpeek d a b) := by
  rintro w ⟨⟩
  rw [decode_pack]
  simp [decodeFields, decodeMat, need]

theorem msync : Statement (.msync) := by
  rintro w ⟨⟩
  rw [decode_pack]
  simp [decodeFields, decodeMat, need]

theorem mload (d : BitVec 2) (a : BitVec 5) : Statement (.mload d a) := by
  rintro w ⟨⟩
  rw [decode_pack]
  simp [decodeFields, decodeMat, need]

theorem rrun (d a : BitVec 5) : Statement (.rrun d a) := by
  rintro w ⟨⟩
  rw [decode_pack]
  simp [decodeFields, decodeRule, need]

theorem rverify (d a : BitVec 5) : Statement (.rverify d a) := by
  rintro w ⟨⟩
  rw [decode_pack]
  simp [decodeFields, decodeRule, need]

theorem rstat (d a : BitVec 5) : Statement (.rstat d a) := by
  rintro w ⟨⟩
  rw [decode_pack]
  simp [decodeFields, decodeRule, need]

theorem cpy (d a : BitVec 5) : Statement (.cpy d a) := by
  rintro w ⟨⟩
  rw [decode_pack]
  simp [decodeFields, decodeCopy, need]

theorem cpyTry (d a : BitVec 5) : Statement (.cpyTry d a) := by
  rintro w ⟨⟩
  rw [decode_pack]
  simp [decodeFields, decodeCopy, need]

theorem cpyq (d : BitVec 5) : Statement (.cpyq d) := by
  rintro w ⟨⟩
  rw [decode_pack]
  simp [decodeFields, decodeCopy, need]

theorem send (a b : BitVec 5) : Statement (.send a b) := by
  rintro w ⟨⟩
  rw [decode_pack]
  simp [decodeFields, decodeMsg, need]

theorem sendm (a b c : BitVec 5) : Statement (.sendm a b c) := by
  rintro w ⟨⟩
  rw [decode_pack]
  simp [decodeFields, decodeMsg, need]

theorem arm (a b c : BitVec 5) : Statement (.arm a b c) := by
  rintro w ⟨⟩
  rw [decode_pack]
  simp [decodeFields, decodeMsg, need]

theorem bind (a b : BitVec 5) : Statement (.bind a b) := by
  rintro w ⟨⟩
  rw [decode_pack]
  simp [decodeFields, decodeMsg, need]

theorem spawn (a b : BitVec 5) : Statement (.spawn a b) := by
  rintro w ⟨⟩
  rw [decode_pack]
  simp [decodeFields, decodeMsg, need]

theorem reply (a b c : BitVec 5) : Statement (.reply a b c) := by
  rintro w ⟨⟩
  rw [decode_pack]
  simp [decodeFields, decodeMsg, need]

theorem halt (k : BitVec 5) : Statement (.halt k) := by
  rintro w ⟨⟩
  rw [decode_pack]
  simp [decodeFields, decodeTask, need]

theorem self (d : BitVec 5) : Statement (.self d) := by
  rintro w ⟨⟩
  rw [decode_pack]
  simp [decodeFields, decodeTask, need]

theorem detach : Statement (.detach) := by
  rintro w ⟨⟩
  rw [decode_pack]
  simp [decodeFields, decodeClu, need]

theorem join (k : BitVec 5) : Statement (.join k) := by
  rintro w ⟨⟩
  rw [decode_pack]
  simp [decodeFields, decodeClu, need]

theorem bar (k : BitVec 5) : Statement (.bar k) := by
  rintro w ⟨⟩
  rw [decode_pack]
  simp [decodeFields, decodeClu, need]

theorem lead (d : BitVec 5) : Statement (.lead d) := by
  rintro w ⟨⟩
  rw [decode_pack]
  simp [decodeFields, decodeClu, need]

theorem grow (n : BitVec 5) : Statement (.grow n) := by
  rintro w ⟨⟩
  rw [decode_pack]
  simp [decodeFields, decodeWs, need]

theorem shrink (n : BitVec 5) : Statement (.shrink n) := by
  rintro w ⟨⟩
  rw [decode_pack]
  simp [decodeFields, decodeWs, need]

theorem swp (d a : BitVec 5) : Statement (.swp d a) := by
  rintro w ⟨⟩
  rw [decode_pack]
  simp [decodeFields, decodeWs, need]

theorem rdws (d a b : BitVec 5) : Statement (.rdws d a b) := by
  rintro w ⟨⟩
  rw [decode_pack]
  simp [decodeFields, decodeWs, need]

theorem trap (n : BitVec 5) : Statement (.trap n) := by
  rintro w ⟨⟩
  rw [decode_pack]
  simp [decodeFields, decodeSys, need]

theorem eret : Statement (.eret) := by
  rintro w ⟨⟩
  rw [decode_pack]
  simp [decodeFields, decodeSys, need]

theorem stop (n : BitVec 5) : Statement (.stop n) := by
  rintro w ⟨⟩
  rw [decode_pack]
  simp [decodeFields, decodeSys, need]

theorem census (a c : BitVec 5) : Statement (.census a c) := by
  rintro w ⟨⟩
  rw [decode_pack]
  simp [decodeFields, decodeSys, need]

theorem nop : Statement (.nop) := by
  rintro w ⟨⟩
  rw [decode_pack]
  simp [decodeFields, decodeSys, need]

theorem rep (a l s : BitVec 5) (g : BitVec 3) : Statement (.rep a l s g) := by
  rintro w ⟨⟩
  rw [decode_pack]
  simp [decodeFields, need]

theorem cMov (d r : BitVec 5) : Statement (.cMov d r) := by
  rintro w ⟨⟩
  rw [decode_pack16]
  simp [decodeFields16, need]

theorem cAddi (d : BitVec 5) (i : BitVec 6) : Statement (.cAddi d i) := by
  rintro w ⟨⟩
  rw [decode_pack16]
  simp [decodeFields16]

theorem cLi (d : BitVec 5) (i : BitVec 6) : Statement (.cLi d i) := by
  rintro w ⟨⟩
  rw [decode_pack16]
  simp [decodeFields16]

theorem cLdd (d r : BitVec 5) : Statement (.cLdd d r) := by
  rintro w ⟨⟩
  rw [decode_pack16]
  simp [decodeFields16, need]

theorem cStd (d r : BitVec 5) : Statement (.cStd d r) := by
  rintro w ⟨⟩
  rw [decode_pack16]
  simp [decodeFields16, need]

theorem cAdd (d r : BitVec 5) : Statement (.cAdd d r) := by
  rintro w ⟨⟩
  rw [decode_pack16]
  simp [decodeFields16, need]

theorem cBeqz (d : BitVec 5) (i : BitVec 6) : Statement (.cBeqz d i) := by
  rintro w ⟨⟩
  rw [decode_pack16]
  simp [decodeFields16]

theorem cBnez (d : BitVec 5) (i : BitVec 6) : Statement (.cBnez d i) := by
  rintro w ⟨⟩
  rw [decode_pack16]
  simp [decodeFields16]

theorem cJ (o : BitVec 11) : Statement (.cJ o) := by
  rintro w ⟨⟩
  rw [decode_pack16]
  simp [decodeFields16]

theorem once : Statement (.once) := by
  rintro w ⟨⟩
  rw [decode_pack16]
  simp [decodeFields16, need]

theorem cHalt : Statement (.cHalt) := by
  rintro w ⟨⟩
  rw [decode_pack16]
  simp [decodeFields16, need]

theorem cJoin (k : BitVec 4) : Statement (.cJoin k) := by
  rintro w ⟨⟩
  rw [decode_pack16]
  simp [decodeFields16, need]

theorem cRet : Statement (.cRet) := by
  rintro w ⟨⟩
  rw [decode_pack16]
  simp [decodeFields16, need]

theorem cNop : Statement (.cNop) := by
  rintro w ⟨⟩
  rw [decode_pack16]
  simp [decodeFields16, need]

theorem waitSatisfied (r : CoreRef) (frame : Nat) : Statement (.waitSatisfied r frame) := nofun

theorem engineTrap (r : CoreRef) : Statement (.engineTrap r) := nofun

theorem driftDetach (r : CoreRef) : Statement (.driftDetach r) := nofun

theorem messageArrival (i : Nat) : Statement (.messageArrival i) := nofun

theorem bankOperationRequest (q : Req) : Statement (.bankOperationRequest q) := nofun

theorem accessResponse (r : CoreRef) (ans : Answer) : Statement (.accessResponse r ans) := nofun

theorem retryReissue (q : Req) : Statement (.retryReissue q) := nofun

theorem retryTimeout (q : Req) : Statement (.retryTimeout q) := nofun

theorem backoffReissue (q : Req) : Statement (.backoffReissue q) := nofun

theorem inboxItemHandle (r : CoreRef) : Statement (.inboxItemHandle r) := nofun

theorem activationStart (r : CoreRef) : Statement (.activationStart r) := nofun

theorem readyPromotion (r : CoreRef) (n : Nat) : Statement (.readyPromotion r n) := nofun

theorem groupStart (cl : Nat) : Statement (.groupStart cl) := nofun

theorem coreLaunchEnd (r : CoreRef) : Statement (.coreLaunchEnd r) := nofun

theorem recordRetry (r : CoreRef) : Statement (.recordRetry r) := nofun

theorem bankConversionEnd (r : CoreRef) : Statement (.bankConversionEnd r) := nofun

theorem spreadWindowClose (r : CoreRef) (d : Nat) : Statement (.spreadWindowClose r d) := nofun

theorem matrixRamp (cl : Nat) : Statement (.matrixRamp cl) := nofun

theorem matrixGrant (cl : Nat) : Statement (.matrixGrant cl) := nofun

theorem matrixRetire (cl : Nat) (residue : List (Nat × Nat × Nat)) (shadow : List (Nat × Shadow)) : Statement (.matrixRetire cl residue shadow) := nofun

theorem matrixPortCommand (r : CoreRef) : Statement (.matrixPortCommand r) := nofun

theorem tileWriteEnd (cl : Nat) : Statement (.tileWriteEnd cl) := nofun

theorem copyStart (r : CoreRef) : Statement (.copyStart r) := nofun

theorem copyEnd (r : CoreRef) (n : Nat) : Statement (.copyEnd r n) := nofun

theorem ruleJobStart (cl : Nat) : Statement (.ruleJobStart cl) := nofun

theorem ruleJobEnd (cl : Nat) : Statement (.ruleJobEnd cl) := nofun

theorem memoryRequest (q : Req) (e : Ecc) : Statement (.memoryRequest q e) := nofun

theorem bankBlockEnd (stack chan bank : Nat) : Statement (.bankBlockEnd stack chan bank) := nofun

theorem refreshWindowStart (stack : Nat) : Statement (.refreshWindowStart stack) := nofun

theorem hbmScrub (a : Nat) (e : Ecc) : Statement (.hbmScrub a e) := nofun

theorem storeScrub (r : CoreRef) (off : Nat) (e : Ecc) : Statement (.storeScrub r off e) := nofun

theorem translationRequest (q : Req) : Statement (.translationRequest q) := nofun

theorem walkStepComplete (q : Req) : Statement (.walkStepComplete q) := nofun

theorem queueReserve (src : Origin) (q : Nat) (v : Word) (core tag : Nat) (reissue : Bool) :
    Statement (.queueReserve src q v core tag reissue) := nofun

theorem queueEntryWrite (src : Origin) (q i k : Nat) (v : Word) : Statement (.queueEntryWrite src q i k v) := nofun

theorem entryDiscard (q : Nat) : Statement (.entryDiscard q) := nofun

theorem launchTake (q : Nat) : Statement (.launchTake q) := nofun

theorem launchPlace (id : Nat) : Statement (.launchPlace id) := nofun

theorem replayEntryStart (id : Nat) : Statement (.replayEntryStart id) := nofun

theorem launchComplete (id : Nat) : Statement (.launchComplete id) := nofun

theorem evictionStart (id : Nat) : Statement (.evictionStart id) := nofun

theorem saveStreamStart (cl : Nat) : Statement (.saveStreamStart cl) := nofun

theorem saveComplete (cl : Nat) : Statement (.saveComplete cl) := nofun

theorem resumption (n : Nat) : Statement (.resumption n) := nofun

theorem dieLinkFailure (link : Nat) (posted : List Nat) (before after : List CoreRef) :
    Statement (.dieLinkFailure link posted before after) := nofun

theorem filestenPortFailure (port : Nat) (posted : List Nat) (accs : List CoreRef) : Statement (.filestenPortFailure port posted accs) := nofun

theorem dedupEntryExpiry (i : Nat) : Statement (.dedupEntryExpiry i) := nofun

theorem coreSeal (r : CoreRef) (cause : Nat) : Statement (.coreSeal r cause) := nofun

theorem coreTestComplete (r : CoreRef) (pass : Bool) : Statement (.coreTestComplete r pass) := nofun

theorem clusterRetire (cl : Nat) : Statement (.clusterRetire cl) := nofun

theorem stopAtBoundary (r : CoreRef) : Statement (.stopAtBoundary r) := nofun

theorem serviceStopRequest (r : CoreRef) : Statement (.serviceStopRequest r) := nofun

theorem serviceRelease (r : CoreRef) : Statement (.serviceRelease r) := nofun

theorem dlyselCopy (r : CoreRef) : Statement (.dlyselCopy r) := nofun

theorem dlyselClear (r : CoreRef) : Statement (.dlyselClear r) := nofun

theorem hostMemoryRead (svc bar a len : Nat) : Statement (.hostMemoryRead svc bar a len) := nofun

theorem hostMemoryWrite (svc bar a : Nat) (bytes : List (Option Byte)) : Statement (.hostMemoryWrite svc bar a bytes) := nofun

theorem hostFetchadd (svc bar a width : Nat) (v : Word) : Statement (.hostFetchadd svc bar a width v) := nofun

theorem hostSwap (svc bar a width : Nat) (v : Word) : Statement (.hostSwap svc bar a width v) := nofun

theorem hostCas (svc bar a width : Nat) (cmp v : Word) : Statement (.hostCas svc bar a width cmp v) := nofun

theorem configRequest : Statement (.configRequest) := nofun

theorem recoveryImageWrite (off : Nat) (bytes : List Byte) : Statement (.recoveryImageWrite off bytes) := nofun

theorem recoveryImageComplete : Statement (.recoveryImageComplete) := nofun

theorem peerRead (m a len : Nat) : Statement (.peerRead m a len) := nofun

theorem peerWrite (m a : Nat) (bytes : List Byte) : Statement (.peerWrite m a bytes) := nofun

theorem peerAtomic (m core tag fn size a : Nat) (b d : Word) (reissue : Bool) : Statement (.peerAtomic m core tag fn size a b d reissue) := nofun

theorem controlPathWrite (src : Origin) (off : Nat) (v : Word) : Statement (.controlPathWrite src off v) := nofun

theorem invalidateSlot (src : Origin) (v : Word) : Statement (.invalidateSlot src v) := nofun

theorem invalidateRange (src : Origin) (v : Word) : Statement (.invalidateRange src v) := nofun

theorem invalidationComplete : Statement (.invalidationComplete) := nofun

theorem faccept (src : Origin) (v : Word) : Statement (.faccept src v) := nofun

theorem attcmd (src : Origin) (v : Word) : Statement (.attcmd src v) := nofun

theorem attestationComplete : Statement (.attestationComplete) := nofun

theorem powerWindow (mean : Nat) : Statement (.powerWindow mean) := nofun

theorem perstAssert : Statement (.perstAssert) := nofun

theorem perstDeassert (straps : Word) : Statement (.perstDeassert straps) := nofun

theorem bootVerifyComplete : Statement (.bootVerifyComplete) := nofun

theorem powerWave : Statement (.powerWave) := nofun

theorem hbmTrainingComplete : Statement (.hbmTrainingComplete) := nofun

theorem unassignedEncoding (w : W32) (half : Bool) : Statement (.unassignedEncoding w half) := nofun

theorem fetchFault (a : Word) : Statement (.fetchFault a) := nofun

theorem bootRomReadComplete : Statement (.bootRomReadComplete) := nofun

theorem restoreComplete (n : Nat) : Statement (.restoreComplete n) := nofun

theorem droppedWindowAccess (src : Origin) (off : Nat) (read : Bool) : Statement (.droppedWindowAccess src off read) := nofun

end Encoding

end Sys2Proof.Laws
end

