-- ==== Sys2Proof/WellFormed.lean ====
section
/-! DEFINITION. Which terms of `Instr` stand for something the spec allows: encoded instructions whose fields its entries allow
(R35, R38), and steps whose arguments name parts that the module has (R4, R12, R330). -/
namespace Sys2Proof

/-- A core of the module (R4). -/
def CoreRef.inRange (r : CoreRef) : Bool := r.cl < 8192 && r.core < 8

/-- A request's core, where it names one. -/
def Req.inRange : Req → Bool
  | .pend r => r.inRange
  | .posted _ | .guest _ => true

/-- The arguments of a step name parts of the module. -/
def Instr.argsInRange : Instr → Bool
  | .waitSatisfied r _ | .engineTrap r | .driftDetach r | .accessResponse r _ | .inboxItemHandle r | .activationStart r
  | .readyPromotion r _ | .coreLaunchEnd r | .recordRetry r | .bankConversionEnd r | .matrixPortCommand r | .copyStart r
  | .copyEnd r _ | .coreSeal r _ | .coreTestComplete r _ | .stopAtBoundary r | .serviceStopRequest r | .serviceRelease r
  | .dlyselCopy r | .dlyselClear r => r.inRange
  | .spreadWindowClose r d => r.inRange && d < 4
  | .storeScrub r off _ => r.inRange && off < 0x40020
  | .bankOperationRequest q | .retryReissue q | .retryTimeout q | .backoffReissue q | .translationRequest q
  | .walkStepComplete q | .memoryRequest q _ => q.inRange
  | .groupStart cl | .matrixRamp cl | .matrixGrant cl | .matrixRetire cl _ _ | .tileWriteEnd cl | .ruleJobStart cl
  | .ruleJobEnd cl | .saveStreamStart cl | .saveComplete cl | .clusterRetire cl => cl < 8192
  | .bankBlockEnd s c b => s < 16 && c < 32 && b < 32
  | .refreshWindowStart s => s < 16
  | .hbmScrub a _ => a < 2 ^ 40
  | .queueReserve _ q _ _ _ _ | .queueEntryWrite _ q _ _ _ | .entryDiscard q | .launchTake q => q < 64
  | .droppedWindowAccess _ off _ => off < 0x40000 || 0x100000 ≤ off && off < 0x104000
  | .hostMemoryRead svc n _ _ | .hostMemoryWrite svc n _ _ | .hostFetchadd svc n _ _ _ | .hostSwap svc n _ _ _
  | .hostCas svc n _ _ _ _ => svc < 4 && (n == 0 || n == 2)
  | .dieLinkFailure link _ _ _ => link < 320
  | .peerRead m _ _ | .peerWrite m _ _ | .peerAtomic m _ _ _ _ _ _ _ _ => m < 256
  | .filestenPortFailure p _ _ => p < 36
  | _ => true

/-- A well-formed instruction or step. -/
def Instr.wellFormed (i : Instr) : Bool := i.uses.all Use.legal && i.fieldsLegal && i.argsInRange

/-- The instructions that a program word encodes (R36, R37). -/
def Instr.isEncoded (i : Instr) : Bool := (encode i).isSome

end Sys2Proof
end

