-- ==== Sys2Proof/Tests/Slice0.lean ====
section
/-! SUPPORT. The model's own tests: ill-formed terms that WellFormed refuses, words written out from the encodings of spec/02 and spec/05
to spec/08, one step of instructions of every family, and for each statement a state and operands that meet its hypotheses. -/
namespace Sys2Proof.Machine
open Sys2Proof

/-! ## A small state -/

/-- A core that runs an activation of a core task of priority 2 in the frame at 0, with all sixteen vector registers. -/
def tAct : Act := ⟨0, 0, 2, false, 63, [], 0, none⟩

def tCore : Core :=
  { Core.blank with run := .running, act := some tAct, cr := [(Cr.wsize, 16)], pc := 0x8000000000001000#64 }

/-- Core 0 of cluster 0 with scalar registers, under every feature. -/
def tRegs (c : Core) (l : List (Nat × Word)) : Core := l.foldl (fun c p => c.setS p.1 p.2) c

def tState (c : Core) : State :=
  { State.reset with feat0 := 0xFF, clusters := [(0, { Cluster.blank with powered := true, cores := [(0, c)] })] }

def tWith (l : List (Nat × Word)) : State := tState (tRegs tCore l)

/-- The state after a step of the core. -/
def tDo (i : Instr) (s : State) : State := match exec i s with | .next t => t | _ => s

/-! ## Ill-formed terms (R35, R38) -/

theorem test_reset_agenda : State.reset.agenda = [] := by decide
theorem test_illformed_registers : Instr.wellFormed (.vadd 16 0 0 0 0) = false ∧ Instr.wellFormed (.vmand 8 0 0) = false ∧
    Instr.wellFormed (.cpy 1 29) = false := by decide
theorem test_illformed_memory : Instr.wellFormed (.ldx 1 2 3 7 0 7 0) = false ∧ Instr.wellFormed (.ldx 1 2 3 0 2 0 0) = false ∧
    Instr.wellFormed (.stx 1 2 3 4 0 7 0) = false ∧ Instr.wellFormed (.stx 1 2 3 0 1 0 0) = false ∧ Instr.wellFormed (.stx 1 2 3 0 0 7 3) = false ∧
    Instr.wellFormed (.amoadd 1 2 3 0 7 0) = false ∧ Instr.wellFormed (.amofadd 1 2 3 0 7) = false ∧ Instr.wellFormed (.fence 7) = false ∧
    Instr.wellFormed (.pfence 7 0 0) = false ∧ Instr.wellFormed (.fwait 1 2 0) = false ∧ Instr.wellFormed (.fset 1 2 8) = false := by decide
theorem test_illformed_banks : Instr.wellFormed (.bgroup 1 2 3 0) = false ∧ Instr.wellFormed (.bgroup 1 2 3 4) = false ∧
    Instr.wellFormed (.bspread 1 2 4) = false ∧ Instr.wellFormed (.bkeep 1 2 0) = false := by decide
theorem test_illformed_vectors : Instr.wellFormed (.vadd 1 2 3 0 3) = false ∧ Instr.wellFormed (.vext 1 2 16) = false ∧
    Instr.wellFormed (.cvtF32I32 1 2 3 0) = false ∧ Instr.wellFormed (.vcvtF32Bf16 1 2 2 0) = false ∧ Instr.wellFormed (.vdec 1 2 4 0 0) = false ∧
    Instr.wellFormed (.tblpre 0 3) = false := by decide
theorem test_illformed_system : Instr.wellFormed (.mstream 0 1 2 31 0) = false ∧ Instr.wellFormed (.halt 4) = false ∧
    Instr.wellFormed (.join 16) = false ∧ Instr.wellFormed (.grow 3) = false ∧ Instr.wellFormed (.rdws 1 2 3) = false ∧
    Instr.wellFormed (.census 1 2) = false ∧ Instr.wellFormed (.rep 1 0 1 0) = false ∧ Instr.wellFormed (.rep 1 1 5 0) = false := by decide
theorem test_illformed_steps : Instr.wellFormed (.coreSeal ⟨8192, 0⟩ 0) = false ∧ Instr.wellFormed (.spreadWindowClose ⟨0, 0⟩ 4) = false ∧
    Instr.wellFormed (.matrixGrant 8192) = false ∧ Instr.wellFormed (.hbmScrub (2 ^ 40) .clean) = false ∧
    Instr.wellFormed (.retryReissue (.pend ⟨0, 8⟩)) = false ∧ Instr.wellFormed (.launchTake 64) = false ∧ Instr.wellFormed (.peerRead 256 0 1) = false ∧
    Instr.wellFormed (.bankBlockEnd 16 0 0) = false ∧ Instr.wellFormed (.refreshWindowStart 16) = false ∧
    Instr.wellFormed (.hostMemoryRead 4 1 0 1) = false ∧ Instr.wellFormed (.dieLinkFailure 320 [] [] []) = false ∧ Instr.wellFormed (.filestenPortFailure 36 [] []) = false ∧
    Instr.wellFormed (.storeScrub ⟨0, 0⟩ 0x40020 .clean) = false := by decide
theorem test_wellformed : Instr.wellFormed (.vadd 15 0 0 0 2) = true ∧ Instr.wellFormed (.coreSeal ⟨8191, 7⟩ 0) = true := by decide

/-! ## Words written out from the encodings (spec/05 to spec/08 print each of them) -/

/-- Two halfwords of a word, the first at the lower address (R34). -/
def tWord (w : W32) : Except Reject Instr := decode (w.extractLsb' 0 16) (w.extractLsb' 16 16)

theorem test_decode_integer : tWord 0x48128381 = .ok (.mul 7 8 9) ∧ tWord 0xFFFE3183 = .ok (.addi 3 3 (-1)) ∧
    tWord 0x0106520B = .ok (.shi 4 5 3 2) ∧ tWord 0x12345191 = .ok (.lui 3 0x12345) ∧ tWord 0xD18A4181 = .ok (.madd 3 4 5 6) := by decide
theorem test_decode_control : tWord 0x00100295 = .ok (.crd 5 8) ∧ tWord 0xFFC20197 = .ok (.bne 3 0 (-4)) ∧ tWord 0x00601019 = .ok (.bempty 6) ∧
    tWord 0x0002009B = .ok (.jal 1 32) ∧ tWord 0x0000101D = .ok (.jalr 0 1 0) ∧ tWord 0x0842405F = .ok (.rep 4 1 1 1) := by decide
theorem test_decode_memory : tWord 0x002022AB = .ok (.ldw 5 2 16) ∧ tWord 0xFFF023B7 = .ok (.std 7 2 (-8)) ∧
    tWord 0x24CA3221 = .ok (.stx 4 3 5 3 2 4 0) ∧ tWord 0x0CC832B9 = .ok (.amoadd 5 3 4 3 4 1) ∧ tWord 0xB4C832B9 = .ok (.amoincb 5 3 4 3 4 0) := by
  decide
theorem test_decode_sync : tWord 0x0100003B = .ok (.fence 4) ∧ tWord 0x0840103B = .ok (.pfence 1 0 1) ∧ tWord 0x300082BD = .ok (.ftest 5 8) ∧
    tWord 0x2112803D = .ok (.fset 8 9 4) ∧ tWord 0x1842803D = .ok (.fwait 8 1 1) := by decide
theorem test_decode_vectors : tWord 0x00083141 = .ok (.vadd 2 3 4 0 0) ∧ tWord 0x7CC410C1 = .ok (.vaddsat 1 1 2 3 2) ∧
    tWord 0x104A41C5 = .ok (.vldx 3 4 5 1) ∧ tWord 0x380620C7 = .ok (.vperm 1 2 3 0) ∧ tWord 0x80000047 = .ok (.vlane 0 0) := by decide
theorem test_decode_floating : tWord 0x000A41CB = .ok (.fadd 3 4 5 0) ∧ tWord 0x998A41CB = .ok (.fma 3 4 5 6 1) ∧
    tWord 0x080062C9 = .ok (.cvtI32F32 5 6 0 0) ∧ tWord 0x400C8249 = .ok (.vqmx 4 8 6 0) := by decide
theorem test_decode_engines : tWord 0x098A40CF = .ok (.mma 1 4 5 6 1) ∧ tWord 0x9292804F = .ok (.mstream 0 8 9 10 2) ∧
    tWord 0xD00C30CF = .ok (.mread 1 3 6) ∧ tWord 0x00001057 = .ok (.halt 1) ∧ tWord 0x080002D7 = .ok (.self 5) := by decide
theorem test_decode_system : tWord 0x2000005D = .ok .nop ∧ tWord 0x0800005D = .ok .eret ∧ decode 28 0 = .ok .cNop := by decide


/-! ## One step of instructions of every family: results worked out by hand from the entries -/

/-- Scalar register d after an instruction. -/
def tS (i : Instr) (l : List (Nat × Word)) (d : Nat) : Word := (tDo i (tWith l)).me.s d

theorem test_add_wraps : tS (.add 1 1 2) [(1, 0xFFFFFFFFFFFFFFFF), (2, 1)] 1 = 0 ∧ tS (.sub 3 1 2) [(1, 0), (2, 1)] 3 = 0xFFFFFFFFFFFFFFFF := by decide
theorem test_logic : tS (.and 3 1 2) [(1, 12), (2, 10)] 3 = 8 ∧ tS (.or 3 1 2) [(1, 12), (2, 10)] 3 = 14 ∧ tS (.xor 3 1 2) [(1, 12), (2, 10)] 3 = 6 := by
  decide
theorem test_shifts : tS (.shl 3 1 2) [(1, 1), (2, 65)] 3 = 2 ∧ tS (.shr 3 1 2) [(1, 0x8000000000000000), (2, 63)] 3 = 1 ∧
    tS (.sra 3 1 2) [(1, 0x8000000000000000), (2, 63)] 3 = 0xFFFFFFFFFFFFFFFF ∧ tS (.rot 3 1 2) [(1, 0x8000000000000001), (2, 1)] 3 = 3 := by decide
theorem test_multiply : tS (.mul 3 1 2) [(1, 0x8000000000000001), (2, 3)] 3 = 0x8000000000000003 ∧
    tS (.mulh 3 1 2) [(1, 0xFFFFFFFFFFFFFFFF), (2, 1)] 3 = 0xFFFFFFFFFFFFFFFF ∧
    tS (.mulhu 3 1 2) [(1, 0xFFFFFFFFFFFFFFFF), (2, 2)] 3 = 1 ∧ tS (.madd 3 1 2 3) [(1, 5), (2, 7), (3, 9)] 3 = 44 := by decide
theorem test_divide : tS (.div 3 1 2) [(1, 0xFFFFFFFFFFFFFFF9), (2, 2)] 3 = 0xFFFFFFFFFFFFFFFD ∧
    tS (.rem 3 1 2) [(1, 0xFFFFFFFFFFFFFFF9), (2, 2)] 3 = 0xFFFFFFFFFFFFFFFF ∧ tS (.div 3 1 0) [(1, 7)] 3 = 0xFFFFFFFFFFFFFFFF ∧
    tS (.remu 3 1 0) [(1, 7)] 3 = 7 ∧ tS (.div 3 1 2) [(1, 0x8000000000000000), (2, 0xFFFFFFFFFFFFFFFF)] 3 = 0x8000000000000000 ∧
    tS (.divu 3 1 2) [(1, 7), (2, 2)] 3 = 3 := by decide
theorem test_compare : tS (.slt 3 1 2) [(1, 0xFFFFFFFFFFFFFFFF), (2, 0)] 3 = 1 ∧ tS (.sltu 3 1 2) [(1, 0xFFFFFFFFFFFFFFFF), (2, 0)] 3 = 0 ∧
    tS (.min 3 1 2) [(1, 0xFFFFFFFFFFFFFFFF), (2, 0)] 3 = 0xFFFFFFFFFFFFFFFF ∧ tS (.minu 3 1 2) [(1, 0xFFFFFFFFFFFFFFFF), (2, 0)] 3 = 0 ∧
    tS (.csel 3 1 2 0) [(1, 4), (2, 5)] 3 = 5 ∧ tS (.seq 3 1 1) [(1, 4)] 3 = 1 := by decide
theorem test_counts : tS (.clz 3 1) [(1, 1)] 3 = 63 ∧ tS (.clz 3 0) [] 3 = 64 ∧ tS (.ctz 3 1) [(1, 8)] 3 = 3 ∧ tS (.ctz 3 0) [] 3 = 64 ∧
    tS (.popc 3 1) [(1, 0xF0F)] 3 = 8 := by decide
theorem test_immediates : tS (.addi 3 1 0x7FFF) [(1, 5)] 3 = 4 ∧ tS (.sltiu 3 0 0x7FFF) [] 3 = 1 ∧ tS (.shi 3 1 1 2) [(1, 0xFFFFFFFFFFFFFFFE)] 3 = 0xFFFFFFFFFFFFFFFF ∧
    tS (.lui 3 0x80000) [] 3 = 0xFFFFFFFF80000000 ∧ tS (.addpc 3 1) [] 3 = 0x8000000000002000 ∧ tS (.add 0 1 1) [(1, 5)] 0 = 0 := by decide
theorem test_short_forms : tS (.cAddi 3 0x3F) [(3, 5)] 3 = 4 ∧ tS (.cLi 3 0x20) [] 3 = 0xFFFFFFFFFFFFFFE0 ∧ tS (.cAdd 3 1) [(1, 4), (3, 5)] 3 = 9 ∧
    tS (.cMov 3 1) [(1, 4)] 3 = 4 ∧ (tDo (.cMov 3 1) (tWith [])).me.pc = 0x8000000000001002 ∧ (tDo .nop (tWith [])).me.pc = 0x8000000000001004 := by
  decide
theorem test_registers_of_control : tS (.crd 3 0x007) [] 3 = 16 ∧ tS (.crd 3 0x040) [] 3 = 0xFF ∧ tS (.cset 3 1 0x010) [(1, 5)] 3 = 0 ∧
    (tDo (.cset 3 1 0x010) (tWith [(1, 5)])).me.cr_ 0x010 = 5 ∧ (tDo (.cwr 1 0x00C) (tWith [(1, 0x80)])).me.cr_ 0x00C = 0x80 := by decide
theorem test_control_flow : (tDo (.bne 1 0 0xFFC) (tWith [(1, 1)])).me.pc = 0x8000000000000FF8 ∧ (tDo (.beq 1 0 4) (tWith [(1, 1)])).me.pc = 0x8000000000001004 ∧
    (tDo (.jal 1 0xFFFFF) (tWith [])).me.pc = 0x8000000000000FFE ∧ tS (.jal 1 8) [] 1 = 0x8000000000001004 ∧
    (tDo (.jalr 1 1 2) (tWith [(1, 0x8000000000000010)])).me.pc = 0x8000000000000012 ∧ (tDo .cRet (tWith [(1, 0x8000000000000010)])).me.pc = 0x8000000000000010 := by
  decide

/-- A core that can take a trap: a vector, and a trap frame at 0x800. -/
def tTrap : Core := { tCore with cr := [(Cr.tvec, 0x8000000000000200), (Cr.wsize, 16), (Cr.twp, 0x800)] }

theorem test_trap_entry : let c := (tDo (.trap 5) (tState tTrap)).me
    c.pc = 0x8000000000000200 ∧ c.cr_ Cr.cause = 0x14 ∧ c.cr_ Cr.tval = 5 ∧ c.cr_ Cr.epc = 0x8000000000001000 ∧ c.cr_ Cr.wp = 0x800 ∧ c.tm = true ∧
    c.store.read8 0x800 = 0x8000000000001000 ∧ c.store.read8 0x818 = 16 := by decide
theorem test_trap_return : let t := tDo (.trap 5) (tState tTrap); let c := (tDo .eret { t with cur := ⟨0, 0⟩ }).me
    c.pc = 0x8000000000001000 ∧ c.tm = false ∧ c.cr_ Cr.wp = 0 ∧ c.cr_ Cr.wsize = 16 := by decide
theorem test_double_seals : (tDo (.trap 5) (tState tCore)).me.run = .sealed := by decide
theorem test_eret_outside : (tDo .eret (tState tTrap)).me.cr_ Cr.cause = 1 := by decide

/-- An address of plain store in bank 4. -/
def tA : Word := 0x10000

theorem test_loads_and_stores : tS (.ldb 3 1 0) [(1, 0x80)] 3 = 0 ∧ (tDo (.stb 2 1 0) (tWith [(1, tA), (2, 0x1FF)])).me.store.get 0x10000 = 0xFF ∧
    (tDo (.std 2 1 0x7FF8) (tWith [(1, tA + 8), (2, 0x0102030405060708)])).me.store.get 0x10007 = 0x01 ∧
    tS (.ldh 3 1 0) [(1, 0x88), (3, 5)] 3 = 0x88 ∧ tS (.ldb 3 1 8) [(1, 0x80), (2, 0x80)] 3 = 0xFFFFFFFFFFFFFF80 := by decide


theorem test_amos : (tDo (.amoadd 3 1 2 0 0 1) (tWith [(1, tA), (2, 5)])).me.store.read8 0x10000 = 5 ∧
    (tDo (.amocas 3 1 2 0 0 0) (tWith [(1, tA), (2, 5), (3, 0)])).me.store.read8 0x10000 = 5 ∧
    (tDo (.amocas 3 1 2 0 0 0) (tWith [(1, tA), (2, 5), (3, 1)])).me.store.read8 0x10000 = 0 ∧
    (tDo (.amoincb 3 1 2 0 0 0) (tWith [(1, tA), (2, 5)])).me.store.read8 0x10000 = 1 ∧
    (tDo (.amomin 3 1 2 0 0 0) (tWith [(1, tA), (2, 0xFFFFFFFF)])).me.store.read8 0x10000 = 0xFFFFFFFF ∧
    (tDo (.amofadd 3 1 2 0 0) (tWith [(1, tA), (2, 0x3F800000)])).me.store.read8 0x10000 = 0x3F800000 := by decide
theorem test_misaligned : (tDo (.ldd 3 1 1) (tState (tRegs tTrap [(1, tA)]))).me.cr_ Cr.cause = 0x03 ∧
    (tDo (.ldd 3 1 1) (tState (tRegs tTrap [(1, tA)]))).me.cr_ Cr.tval = 0x10001 := by decide
theorem test_flags : (tDo (.fset 1 0 7) (tWith [(1, 9)])).me.flags = 0x200 ∧ (tDo (.stb 2 1 0) (tWith [(1, 0x40001), (2, 2)])).me.flags = 0x200 ∧
    tS (.ftest 3 1) [(1, 9)] 3 = 0 := by decide
theorem test_sleep_parks : (tDo (.sleep 1) (tWith [(1, 5)])).me.parked.length = 1 ∧ (tDo (.sleep 1) (tWith [])).me.parked = [] := by decide
theorem test_fence : (tDo (.fence 4) (tWith [])).me.pc = 0x8000000000001004 ∧ (tDo .ifence (tWith [])).mine.icache = [] := by decide

/-- A core whose bank 5 is a QUEUE of 8-byte items. -/
def tQueue : Core := tCore.setBank 5 { Bank.blank 5 0x80001 with items := [7] }

theorem test_queue_port : (tDo (.ldd 3 1 0) (tState (tRegs tQueue [(1, 0x14000)]))).me.s 3 = 7 ∧
    ((tDo (.std 2 1 0) (tState (tRegs tQueue [(1, 0x14000), (2, 8)]))).me.bank 5).items = [7, 8] ∧
    (tDo (.ldd 3 1 8) (tState (tRegs (tCore.setBank 5 (Bank.blank 5 0x80001)) [(1, 0x14000)]))).me.wait = some .port ∧
    (tDo (.ldd 3 1 0) (tState (tRegs (tCore.setBank 5 (Bank.blank 5 0x80001)) [(1, 0x14000)]))).me.br = 1 := by decide
theorem test_bquery : tS (.bquery 3 1) [(1, 15)] 3 = 0x8F000800001 := by decide
theorem test_bpers : (tDo (.bpers 3 1 2) (tWith [(1, 5), (2, 0x80001)])).me.conv.isSome = true ∧
    ((tDo (.bpers 3 1 2) (tWith [(1, 5), (2, 0x80001)])).me.bank 5).pers = 0x80001 ∧ (tDo (.bpers 3 1 2) (tWith [(1, 15), (2, 0)])).me.br = 2 := by decide
theorem test_bkeep : (tDo (.bkeep 1 2 3) (tWith [(1, 0x30), (2, 1)])).me.keeps = [(3, 0x30, 1)] := by decide

/-- A core with lanes of vector registers. -/
def tLanes (l : List (Nat × List (Nat × W32))) : Core := l.foldl (fun c p => c.setLanes p.1 p.2) tCore

set_option maxRecDepth 20000 in
theorem test_vadd : ((tDo (.vadd 1 2 3 0 2) (tState (tLanes [(2, [(0, 0x01FF01FF)]), (3, [(0, 0x01010101)])]))).me.v 1 0) = 0x02000200 ∧
    ((tDo (.vaddsat 1 2 3 0 2) (tState (tLanes [(2, [(0, 0x7F80)]), (3, [(0, 0x01FF)])]))).me.v 1 0) = 0x7F80 ∧
    ((tDo (.vsra 1 2 3 0 1) (tState (tLanes [(2, [(0, 0x80008000)]), (3, [(0, 0x000F0001)])]))).me.v 1 0) = 0xFFFFC000 := by decide
theorem test_mask : ((tDo (.vadd 1 2 2 1 0) (tState ((tLanes [(2, [(0, 1), (1, 1)]), (1, [(0, 9)])]).setM 1 2))).me.v 1 0) = 9 ∧
    ((tDo (.vadd 1 2 2 1 0) (tState ((tLanes [(2, [(0, 1), (1, 1)]), (1, [(0, 9)])]).setM 1 2))).me.v 1 1) = 2 ∧
    ((tDo (.vceq 1 2 3 2) (tState ((tLanes [(2, [(0, 1)])]).setM 2 7))).me.m 1) = 6 := by decide
set_option maxRecDepth 20000 in
theorem test_reduce : (tDo (.vredaddI32 3 2 1) (tState ((tLanes [(2, [(0, 0xFFFFFFFF), (1, 0xFFFFFFFF)])]).setM 1 3))).me.s 3 = 0xFFFFFFFFFFFFFFFE ∧
    (tDo (.vredmax 3 2 1 0) (tState ((tLanes [(2, [(0, 0xFFFFFFFF), (1, 5)])]).setM 1 1))).me.s 3 = 0xFFFFFFFFFFFFFFFF := by decide
theorem test_lanes : ((tDo (.vlane 1 0) (tWith [])).me.v 1 15) = 15 ∧ ((tDo (.vslide 1 2 3 0) (tState (tRegs (tLanes [(2, [(1, 7)])]) [(3, 1)]))).me.v 1 0) = 7 ∧
    ((tDo (.vperm 1 2 3 0) (tState (tLanes [(2, [(5, 7)]), (3, [(0, 0x15)])]))).me.v 1 0) = 7 ∧ (tDo (.vext 3 2 5) (tState (tLanes [(2, [(5, 7)])]))).me.s 3 = 7 ∧
    (tDo (.vmnot 1 2) (tWith [])).me.m 1 = 0xFFFF := by decide
set_option maxRecDepth 20000 in
theorem test_gather : ((tDo (.vldx 1 2 3 1) (tState ((tRegs (tLanes [(3, [(0, 2)])]) [(2, 0x78), (4, 9)]).setM 1 1))).me.v 1 0) = 0 ∧
    (tDo (.vstxadd 1 2 3 1 0) (tState ((tRegs (tLanes [(1, [(0, 5), (1, 6)])]) [(2, tA)]).setM 1 3))).me.store.read4 0x10000 = 11 := by decide
set_option maxRecDepth 20000 in
theorem test_floats : tS (.fadd 3 1 2 0) [(1, 0x3F800000), (2, 0x40000000)] 3 = 0x40400000 ∧ tS (.fdiv 3 1 0 0) [(1, 0x3F800000)] 3 = 0x7F800000 ∧
    (tDo (.fdiv 3 1 0 0) (tWith [(1, 0x3F800000)])).me.cr_ Cr.fpc = 0x20 ∧ tS (.fsqrt 3 1 1) [(1, 0x4010000000000000)] 3 = 0x4000000000000000 ∧
    tS (.fmin 3 1 2 0) [(1, 0x80000000), (2, 0)] 3 = 0x80000000 ∧ tS (.fma 3 1 2 1 1) [(1, 0x3FF0000000000000), (2, 0x4000000000000000)] 3 = 0x4008000000000000 := by decide
set_option maxRecDepth 20000 in
theorem test_float_compares : tS (.feq 3 1 1 0) [(1, 0x7FC00000)] 3 = 0 ∧ tS (.flt 3 1 2 0) [(1, 0xBF800000), (2, 0)] 3 = 1 ∧
    tS (.fneg 3 1 0) [(1, 0x3F800000)] 3 = 0xBF800000 ∧ tS (.fabs 3 1 0) [(1, 0xBF800000)] 3 = 0x3F800000 := by decide
set_option maxRecDepth 20000 in
theorem test_conversions : tS (.cvtI32F32 3 1 0 0) [(1, 0x40200000)] 3 = 2 ∧ tS (.cvtI32F32 3 1 0 0) [(1, 0xBF800000)] 3 = 0xFFFFFFFFFFFFFFFF ∧
    tS (.cvtF32I32 3 1 0 0) [(1, 3)] 3 = 0x40400000 ∧ tS (.cvtF64F32 3 1) [(1, 0x3F800000)] 3 = 0x3FF0000000000000 ∧
    tS (.cvtF32F64 3 1) [(1, 0x3FF0000000000000)] 3 = 0x3F800000 := by decide
set_option maxRecDepth 20000 in
theorem test_bf16 : ((tDo (.vcvtBf16F32 1 2 3 0) (tState (tLanes [(2, [(0, 0x3F808000)]), (3, [(0, 0x40000000)])]))).me.v 1 0) = 0x40003F80 ∧
    ((tDo (.vcvtF32Bf16 1 2 1 0) (tState (tLanes [(2, [(0, 0x40003F80)])]))).me.v 1 0) = 0x40000000 := by decide


theorem test_copy_queue : tS (.cpyq 3) [] 3 = 16 ∧ (tDo (.cpy 3 4) (tWith [])).me.copies.length = 1 ∧ (tDo (.mzero 1) (tWith [])).me.mq.length = 1 ∧
    tS (.rrun 3 1) [(1, tA)] 3 = BitVec.ofNat 64 (tWith []).mine.nextJob := by decide
theorem test_msync : (tDo .msync (tWith [])).me.pc = 0x8000000000001004 ∧ (tDo .msync (tDo (.mzero 1) (tWith []))).me.parked.length = 1 := by decide
set_option exponentiation.threshold 2000 in
set_option maxRecDepth 20000 in
theorem test_mread : ((tDo (.mread 1 3 6) (tState { tRegs tCore [(6, 1)] with accs := [(1, ⟨List.replicate 32 0 ++ [5], 0⟩)] })).me.v 3 0) = 5 := by decide
theorem test_send : (tDo (.send 1 2) { tWith [(1, 0x3D400400000), (2, 9)] with placement := [(0, ⟨false, 0⟩)] }).flight.length = 1 := by decide
theorem test_spawn : (tDo (.spawn 1 2) (tState { tRegs tCore [(1, 2), (2, 7)] with classes := [(2, ⟨0x8000000000002000, 4, 1, false⟩)] })).me.ready.length = 1 ∧
    (tDo (.spawn 1 2) (tWith [(1, 2)])).me.br = 3 := by decide
set_option maxRecDepth 20000 in
theorem test_arm_and_bind : ((tDo (.arm 1 2 3) (tWith [(1, 5), (2, 3)])).me.trig 5).st = .armed ∧ ((tDo (.arm 1 2 3) (tWith [(1, 5), (2, 3)])).me.trig 5).remaining = 3 ∧
    ((tDo (.bind 1 2) (tWith [(1, 5), (2, 3)])).me.trig 5).binding = some 3 ∧ (tDo (.arm 1 2 3) (tWith [(1, 63)])).me.br = 3 := by decide
theorem test_halt : (tDo (.halt 0) (tWith [])).me.run = .idle ∧ (tDo (.halt 0) (tWith [])).me.freeHead = 0 := by decide
theorem test_self : tS (.self 3) [] 3 = 0x4000000000000000 := by decide
theorem test_workspace : (tDo (.shrink 4) (tWith [])).me.nv = 4 ∧ tS (.rdws 3 2 0) [] 3 = 144 ∧ tS (.swp 3 1) [(1, 0x4000)] 3 = 0 ∧
    (tDo (.swp 3 1) (tWith [(1, 0x4000)])).me.wp = 0x4000 ∧ (tDo (.grow 6) (tState tTrap)).me.cr_ Cr.cause = 0x02 := by decide
theorem test_group : (tDo (.join 3) (tWith [])).me.jpt = 3 ∧ (tDo .detach (tState { tCore with att := true })).me.why = 3 ∧ tS (.lead 3) [] 3 = 0 := by decide
theorem test_stop : (tDo (.stop 5) (tWith [])).me.stopReq = none ∧
    (tDo (.stop 5) (tState { tCore with cr := [(Cr.wsize, 16), (Cr.dbgctl, 1)] })).me.stopReq = some 5 := by decide
theorem test_yield : (tDo .yield (tWith [])).me.run = .running ∧
    (tDo .yield (tState { tCore with ready := [⟨1, 2, none, 63, none, 0, 0, 0⟩] })).me.run = .idle := by decide
theorem test_rep : (tDo (.rep 0 1 1 0) { tWith [] with hbm := ((Memory.empty.writeLE 0x1004 4 0x2000005D)) }).me.run = .sealed := by decide
theorem test_vector_memory : ((tDo (.vld 1 2 0) (tState (tRegs (tLanes [(3, [(2, 5)])]) [(2, 640)]))).me.v 1 2) = 5 ∧
    (tDo (.vst 3 2 0) (tState (tRegs (tLanes [(3, [(2, 5)])]) [(2, tA)]))).me.store.read4 0x10008 = 5 ∧
    ((tDo (.vldb 1 2 0) (tState (tRegs tCore [(2, 0x90), (3, 6)]))).me.v 1 15) = 0x90 := by decide
theorem test_presets : entryUnits (presetEntry 0 0x38) = 2 ^ 149 ∧ enNan (presetEntry 0 0x7F) = true ∧ enInf (presetEntry 1 0x7C) = true := by decide
theorem test_table : (tDo (.tblpre 1 2) (tWith [])).mine.entry 1 5 = presetEntry 2 5 ∧ (tDo (.tblld 1 1) (tState (tRegs tTrap [(1, 0x10004)]))).me.cr_ Cr.cause = 0x03 := by
  decide
theorem test_illegal : (tDo (.bgroup 1 2 3 0) (tState tTrap)).me.cr_ Cr.cause = 1 ∧ (tDo (.cwr 1 0x009) (tState tTrap)).me.cr_ Cr.cause = 1 := by decide

/-! ## Steps of the other agents -/

/-- The module out of reset with its flash read, in a state of BOOTSTAT. -/
def tUp (n : Nat) : State := { State.reset with boot := { Boot.reset with inReset := false, romRead := true, state := n } }

theorem test_perst : (tDo .perstAssert (tWith [])).clusters = [] ∧ (tDo (.perstDeassert 5) State.reset).boot.straps = 5 := by decide
theorem test_config : (tDo .configRequest { State.reset with boot := { Boot.reset with inReset := false } }).replies = [.retryStatus] := by decide
theorem test_training : (tDo .hbmTrainingComplete { State.reset with boot := { Boot.reset with state := 3 } }).boot.state = 4 := by decide
theorem test_host_atomics : let s : State := { tUp 5 with hbm := Memory.empty.writeLE 0x100 8 7 }
    (tDo (.hostFetchadd 0 1 0x100 8 5) s).hbm.readLE 0x100 8 = 12 ∧ (tDo (.hostCas 0 1 0x100 8 7 9) s).hbm.readLE 0x100 8 = 9 ∧
    (tDo (.hostSwap 0 1 0x100 4 1) s).replies = [.atomic 7] ∧ (tDo (.hostMemoryRead 0 1 0x100 1) (tUp 1)).replies = [.unsupported] ∧ (tDo (.hostMemoryRead 0 1 0x100 1) State.reset).replies = [] := by decide
theorem test_reserve : let s := tUp 5
    ((tDo (.queueReserve .host 3 1 0 0 false) s).queue 3).resv = 1 ∧ ((tDo (.queueReserve .host 3 2 0 0 false) s).queue 3).resv = 0 ∧
    (tDo (.queueReserve .host 3 1 0 0 false) s).replies = [.atomic 0] := by decide
theorem test_control_path : (tDo (.controlPathWrite .host Reg.ramth 16) (tUp 4)).ctlGet Reg.ramth = 16 ∧
    (tDo (.controlPathWrite .host Reg.ramth 15) (tUp 4)).ctlGet Reg.ramth = 2048 ∧ ((tDo (.controlPathWrite .host Reg.ramth 15) (tUp 4)).queue 0).refused = 1 := by
  decide
theorem test_scrub : (tDo (.hbmScrub 0x108 .uncorrectable) State.reset).hbm.poison = [33] ∧ (tDo (.hbmScrub 0x108 .clean) State.reset) = State.reset := by decide
theorem test_seal : (tDo (.coreSeal ⟨0, 0⟩ 7) (tWith [])).me.run = .sealed ∧ (tDo (.coreSeal ⟨0, 0⟩ 7) (tWith [])).reports.length = 1 := by decide


/-! ## Witnesses: states and operands that meet the hypotheses of each statement -/

/-! One encoded instruction of every kind, with operands at ends of their ranges. -/

def tAll0 : List Instr :=
  [.add 31 0 31, .sub 0 1 2, .and 1 2 3, .or 1 2 3, .xor 1 2 3, .shl 1 2 3, .shr 1 2 3, .sra 1 2 3, .rot 1 2 3, .mul 1 2 3, .mulh 1 2 3,
   .mulhu 1 2 3, .div 1 2 3, .divu 1 2 3, .rem 1 2 3, .remu 1 2 3, .slt 1 2 3, .sltu 1 2 3, .seq 1 2 3, .min 1 2 3, .max 1 2 3, .minu 1 2 3,
   .maxu 1 2 3, .clz 1 2, .ctz 1 2, .popc 1 2, .madd 1 2 3 31, .csel 1 2 3 0, .addi 1 2 0x4000, .andi 1 2 3, .ori 1 2 3, .xori 1 2 3,
   .shi 1 2 63 3, .slti 1 2 3, .sltiu 1 2 3, .lui 1 0x80000, .addpc 1 0x7FFFF, .crd 1 0, .cwr 1 4, .cset 1 2 4]
def tAll1 : List Instr :=
  [.cclr 1 2 4, .cswp 1 2 4, .beq 1 2 0x800, .bne 1 2 0, .blt 1 2 0, .bge 1 2 0, .bltu 1 2 0, .bgeu 1 2 0, .bok 0, .bempty 0, .bfull 0,
   .babsent 0, .bany 7 0, .ball 7 0, .bnone 7 0, .bflag 1 0, .jal 1 0x80000, .jalr 1 2 0x4000, .ldx 1 2 3 6 1 6 2, .stx 1 2 3 3 2 6 2,
   .ldb 1 2 0x4000, .ldbz 1 2 0, .ldh 1 2 0, .ldhz 1 2 0, .ldw 1 2 0, .ldwz 1 2 0, .ldd 1 2 0, .stb 1 2 0, .sth 1 2 0, .stw 1 2 0, .std 1 2 0,
   .amoadd 1 2 3 3 6 1, .amoand 1 2 3 0 0 0, .amoor 1 2 3 0 0 0, .amoxor 1 2 3 0 0 0, .amomin 1 2 3 0 0 0, .amomax 1 2 3 0 0 0,
   .amominu 1 2 3 0 0 0, .amomaxu 1 2 3 0 0 0, .amoswap 1 2 3 0 0 0]
def tAll2 : List Instr :=
  [.amocas 1 2 3 0 0 0, .amofadd 1 2 3 0 6, .amoincb 1 2 3 0 0 0, .fence 6, .pfence 6 6 6, .ifence, .waitge 1 2 3, .waitp 1 2 3 4, .sleep 1,
   .fwait 1 1 7, .fset 1 2 7, .fclr 1 2 0, .ftest 1 2, .yield, .bpers 1 2 3, .bquery 1 2, .bgroup 1 2 3 3, .bspread 1 2 3, .bkeep 1 2 3,
   .bclear 1 2, .vadd 15 0 15 7 2, .vsub 1 2 3 0 0, .vmul 1 2 3 0 0, .vmin 1 2 3 0 0, .vmax 1 2 3 0 0, .vand 1 2 3 0 0, .vor 1 2 3 0 0,
   .vxor 1 2 3 0 0, .vshl 1 2 3 0 0, .vshr 1 2 3 0 0, .vsra 1 2 3 0 0, .vceq 7 2 3 0, .vclt 1 2 3 0, .vcle 1 2 3 0, .vsel 1 2 3 0 0,
   .vaddsat 1 2 3 0 0, .vmadd 1 2 3 0 0, .vfadd 1 2 3 0 1, .vfsub 1 2 3 0 0, .vfmul 1 2 3 0 0]
def tAll3 : List Instr :=
  [.vfma 1 2 3 0 0, .vfmin 1 2 3 0 0, .vfmax 1 2 3 0 0, .vfceq 1 2 3 0, .vfclt 1 2 3 0, .vfcle 1 2 3 0, .vfdiv 1 2 3 0 0, .vfsqrt 1 2 0 0,
   .vfrcp 1 2 0 0, .vfexp2 1 2 0 0, .vflog2 1 2 0 0, .vfabs 1 2 0 0, .vfneg 1 2 0 0, .vld 1 2 0, .vst 1 2 0, .vldx 1 2 3 0, .vstx 1 2 3 0,
   .vstxadd 1 2 3 0 1, .vldb 1 2 0, .vldk 1 2 3 0, .vstk 1 2 3 0, .vbcast 1 2 0, .vext 1 2 15, .vins 1 2 15, .vredaddI32 1 2 0,
   .vredaddF32 1 2 0, .vredmin 1 2 0 1, .vredmax 1 2 0 0, .vperm 1 2 3 0, .vslide 1 2 3 0, .vmpop 1 7, .vmand 7 7 7, .vmor 1 2 3, .vmxor 1 2 3,
   .vmnot 1 2, .vmset 1 2, .vmget 1 2, .vlane 15 7, .cvtF32I32 1 2 0 0, .cvtF32I32 1 2 7 1]
def tAll4 : List Instr :=
  [.cvtI32F32 1 2 0 0, .cvtF64F32 1 2, .cvtF32F64 1 2, .vcvtBf16F32 1 2 3 0, .vcvtF32Bf16 1 2 1 0, .vdec 1 2 3 0 3, .venc 1 2 3 0 3,
   .vqmx 1 14 3 1, .vdqmx 14 2 3 1, .fadd 1 2 3 1, .fsub 1 2 3 0, .fmul 1 2 3 0, .fma 1 2 3 4 0, .fdiv 1 2 3 0, .fsqrt 1 2 0, .fmin 1 2 3 0,
   .fmax 1 2 3 0, .feq 1 2 3 0, .flt 1 2 3 0, .fle 1 2 3 0, .fabs 1 2 0, .fneg 1 2 0, .fclass 1 2 0, .tblld 3 1, .tblrd 1 2 3, .tblpre 3 2,
   .mma 3 1 2 3 3, .mmaz 0 1 2 3 0, .mstream 0 1 2 30 0, .mzero 3, .mstore 0 1 2, .mread 3 15 2, .mpeek 0 1 2, .msync, .mload 0 1, .rrun 1 2,
   .rverify 1 2, .rstat 1 2, .cpy 1 28, .cpyTry 1 0]
def tAll5 : List Instr :=
  [.cpyq 1, .send 1 2, .sendm 1 2 3, .arm 1 2 3, .bind 1 2, .spawn 1 2, .reply 1 2 3, .detach, .once, .join 15, .bar 0, .lead 1, .halt 3,
   .self 1, .grow 16, .shrink 0, .swp 1 2, .rdws 1 15 2, .trap 31, .eret, .stop 31, .census 1 1, .nop, .rep 1 16 4 7, .cMov 1 2, .cAddi 1 0x20,
   .cLi 1 0x1F, .cLdd 1 2, .cStd 1 2, .cAdd 1 2, .cBeqz 1 0x20, .cBnez 1 0, .cJ 0x400, .cRet, .cHalt, .cNop,
   .cJoin 15]
def tAll : List Instr := tAll0 ++ tAll1 ++ tAll2 ++ tAll3 ++ tAll4 ++ tAll5

set_option maxRecDepth 20000 in
theorem witness_legal : (tAll.all fun i => i.legal (tWith []).feat0 && (regFault i (tWith []).me).isNone && (encode i).isSome && i.wellFormed) = true := by
  decide
/-- Every encoded instruction passes the checks that come before its own in some state. -/
theorem witness_Passes : ∀ i ∈ tAll, Passes (tWith []) i := by
  intro i h
  have k := List.all_eq_true.1 witness_legal i h
  simp only [Bool.and_eq_true, Option.isNone_iff_eq_none] at k
  exact ⟨k.1.1.1, by decide, k.1.1.2⟩

theorem witness_DecodeOfEncode : encode (.mul 7 8 9) = some 0x48128381 ∧ encode .cNop = some 28 := by decide
theorem witness_WordsHaveOneMeaning : decode 0x8381 0x4812 = .ok (.mul 7 8 9) ∧ decode 28 5 = .ok .cNop ∧ (0x61 : Half).getLsbD 0 = true ∧
    0x30 ≤ ((0x61 : Half).extractLsb' 1 6).toNat ∧ (0x7F : Half).extractLsb' 1 6 = 63 ∧ (0x1E : Half).extractLsb' 1 4 = 15 ∧
    28 ≤ ((0xE000 : Half).extractLsb' 11 5).toNat ∧ (0x17 : Half).extractLsb' 1 6 = 0x0B ∧ 6 ≤ ((0xC : Half).extractLsb' 1 3).toNat ∧
    (0x0B : Half).extractLsb' 1 6 = 5 ∧ (0x0200 : Half).extractLsb' 9 7 ≠ 0 := by decide

/-- The state after reset with `mul s7, s8, s9` at the core's next address (notes/assumptions/6). -/
def tPlaced : State := State.reset.withFetchWord 32 0x48128381

theorem witness_StepRunsFetched : let r : CoreRef := ⟨0, 0⟩; let s0 : State := { tPlaced with agenda := [], cur := r }; tPlaced.agenda = .core r :: [] ∧ s0.fetches r ∧
    (fetchAt (cacheAfter s0 r.cl (some r) s0.me.pc) r.cl s0.me.pc).1 = .instr (.mul 7 8 9) ∧ s0.plain r s0.me.pc (.mul 7 8 9) := by
  unfold State.fetches State.plain; decide
set_option maxRecDepth 20000 in
theorem witness_FetchDecodes : let t : State := { tPlaced with cached := [⟨stationOf 0, 0, 0, 18, 2, 0xDF⟩] }; let a := t.me.pc; t.blocked = [] ∧ t.flaws = [] ∧
    (cachedLeaf t (stationOf 0) (t.cluster 0).slot (bits a 0 57)).isSome = true ∧ (cachedLeaf t (stationOf 0) (t.cluster 0).slot (bits (a + 2) 0 57)).isSome = true ∧ bit a 63 = true ∧ bits a 57 6 = 0 ∧ bit a 0 = false ∧ bit (a + 2) 63 = true ∧ bits (a + 2) 57 6 = 0 ∧
    (match translate t 0 (t.cluster 0).slot (bits a 0 57) .fetch, translate t 0 (t.cluster 0).slot (bits (a + 2) 0 57) .fetch with
      | .ok x, .ok y => decide (ownHbm t x = some x ∧ ownHbm t y = some y ∧ t.hbm.poisoned x 2 = false ∧ t.hbm.poisoned y 2 = false ∧ afind (t.cluster 0).icache x = none ∧
          afind (t.cluster 0).icache y = none ∧ decode (BitVec.ofNat 16 (t.hbm.readLE x 2)) (BitVec.ofNat 16 (t.hbm.readLE y 2)) = .ok (.mul 7 8 9))
      | _, _ => false) = true := by decide
theorem test_step_runs_placed : (match step tPlaced with | .next t => t.me.pc | _ => 0) = tPlaced.me.pc + 4 := by decide

/-- An attached core to which the stream has issued a `nop`. -/
def tIssued : State := { tState { tCore with att := true, buf := [⟨0x8000000000001000, .instr .nop, none, none, 1, 16, [], none⟩] } with agenda := [.core ⟨0, 0⟩] }

theorem witness_StepRunsIssued : let c := tIssued.me; tIssued.cur = ⟨0, 0⟩ ∧ tIssued.canTurn ⟨0, 0⟩ = true ∧ c.after = [] ∧ c.engineDue = false ∧ c.taken = none ∧
    c.inRep = false ∧ (∃ e t, c.buf = e :: t ∧ e.addr = c.pc ∧ e.pass = none ∧ e.what = .instr .nop) ∧ tIssued.plain ⟨0, 0⟩ c.pc .nop := by
  unfold State.plain; refine ⟨by decide, by decide, by decide, by decide, by decide, by decide, ⟨_, _, rfl, rfl, rfl, rfl⟩, by decide⟩
theorem witness_StepsGoOn : ∃ t, move State.reset = .next t := ⟨_, rfl⟩

/-- An attached core at an instruction that the leader has issued under another allotment. -/
def tClash : State := tState { tCore with att := true, cr := [(Cr.wsize, 4)], taken := some ⟨0x8000000000001000, .instr (.add 1 2 3), none, none, 3, 16, [], none⟩ }

theorem witness_ChecksComeFirst : (encode (.vadd 16 0 0 0 0)).isSome = true ∧ (Instr.vadd 16 0 0 0 0).legal 0xFF = false ∧
    (Instr.mzero 0).legal 0 = false ∧ (Instr.add 1 2 3).legal tClash.feat0 = true ∧ refusedWhole tClash (.add 1 2 3) = none ∧ nvClash tClash = some 0x11004 ∧
    refusedWhole (tWith []) .eret = some (tILLEGAL, Instr.eret.word) ∧ refusedWhole (tWith []) (.crd 1 0xFFF) = some (tILLEGAL, (Instr.crd 1 0xFFF).word) ∧
    Instr.eret.legal (tWith []).feat0 = true ∧ nvClash (tWith []) = none ∧ (let c := tState (tCore.setCr Cr.wsize 14); refusedWhole c (.vadd 15 0 0 0 0) = none ∧
    nvClash c = none ∧ regFault (.vadd 15 0 0 0 0) c.me = some 15) := by decide
theorem witness_TrapEntry : (tState tTrap).me.canTrap ∧ (tState tTrap).me.untraced ∧ tALIGN ≠ tSHADOW ∧ tALIGN ≠ tPOISON ∧
    (let c := (tState { tTrap with shadowEpc := some 0x8000000000001000, att := true }).me; c.canTrap ∧ c.untraced ∧ c.shadowEpc = some c.pc ∧ c.att = true) := by
  unfold Core.canTrap Core.untraced; decide
theorem witness_DoubleSeals : ¬ (tState tCore).me.canTrap ∧ (tState tCore).me.run ≠ .sealed ∧
    ¬ (tState { tTrap with cr := (Cr.stat, 8) :: tTrap.cr }).me.canTrap := by unfold Core.canTrap; decide
theorem witness_LuiAndAddpc : let c : Core := { tCore with cr := [(Cr.wsize, 16), (Cr.repstate, 0x200000000000)], repBuf := [(0x8000000000001004, .instr (.addpc 1 0))], repCount := 1 }
    (tWith []).me.inRep = false ∧ (tState c).me.inRep = true ∧ (tState c).me.repBuf[(tState c).me.repPos]? = some (0x8000000000001004, .instr (.addpc 1 0)) ∧
    2 ^ 31 - 1 < 2 ^ 31 := by decide
theorem witness_NopDoesNothing : decode 0x005D 0x2000 = .ok .nop ∧ decode 0x005D 0x0800 = .ok .eret ∧
    (let w : W32 := 0x2000#16 ++ 0x00DD#16; w.extractLsb' 0 7 = 0x5D#7 ∧ w.extractLsb' 27 5 = 4#5 ∧ w.extractLsb' 7 20 ≠ 0) ∧
    (let w : W32 := 0x0900#16 ++ 0x005D#16; w.extractLsb' 0 7 = 0x5D#7 ∧ w.extractLsb' 27 5 = 1#5 ∧ w.extractLsb' 7 20 ≠ 0) := by decide


theorem witness_ControlRegisters_reads : (crLayout 0x008).isSome = true ∧ (crLayout 0x040).isSome = true ∧ (crLayout 0x04F).isSome = true ∧
    (crLayout 0x000).isSome = true ∧ (crLayout 0x00E).isSome = true ∧ (0x00C : Nat) ∉ [Cr.cyc, 0x40, Cr.stat, Cr.mode] := by decide
theorem witness_ControlRegisters_writes : crLayout 0x010 = some (0x1FF, ~~~0x1FF#64) ∧ (0x1FF : Word) ≠ 0 ∧ (0x010 : Nat) ≠ Cr.dlysel ∧ ¬ (0x14 ≤ 0x010 ∧ 0x010 ≤ 0x17) ∧
    (0x010 : Nat) ≠ Cr.repstate ∧ (0x1FF : Word) &&& ~~~0x1FF#64 = 0 ∧ (0x200 : Word) &&& ~~~0x1FF#64 ≠ 0 ∧
    ((tState { tCore with cr := [(Cr.stat, 8)] }).me.tm = true ∧ (tState { tCore with cr := [(Cr.stat, 8)] }).me.repBuf = []) := by decide
theorem witness_ControlRegisters_refusals : crLayout 0x01A = none ∧ crLayout 0xFFF = none ∧ (∃ r, crLayout 0x006 = some (0, r)) ∧
    (0x00F : Nat) = Cr.repstate ∧ (tWith []).me.tm = false := ⟨by decide, by decide, ⟨_, rfl⟩, by decide, by decide⟩
theorem witness_ControlRegisters_steps : let c := tRegs tCore [(1, 127), (2, 0x8000000000000000)]
    ((c.s 1).toNat < 128 ∧ (c.cr_ Cr.dlysel).toNat < 128) ∧ bit ((c.setCr 0x17 0x8000000000000000).cr_ 0x17) 63 = true ∧ c.s 0 = 0 ∧ bit (c.s 2) 63 = true ∧
    bit (c.cr_ 0x14) 63 = false ∧ ((tState { c with after := [.dlyClear, .dlyCopy] }).core ⟨0, 0⟩).after = .dlyClear :: [.dlyCopy] ∧
    ((tState { c with after := [.spreadClose 3] }).core ⟨0, 0⟩).after = [.spreadClose 3] := by decide
theorem witness_ControlTransfers : let s := tWith [(1, 5), (2, 5), (3, 255), (4, 256), (5, 0x8000000000000001)]
    s.me.s 1 = s.me.s 2 ∧ s.me.s 1 ≠ s.me.s 0 ∧ (s.me.s 3).toNat < 256 ∧ 256 ≤ (s.me.s 4).toNat ∧ s.me.flags.getLsbD 255 = false ∧
    (tState { tCore with flags := 1 <<< 255 }).me.flags.getLsbD 255 = true ∧ (s.me.s 1 + 1).getLsbD 0 = false ∧ (s.me.s 5 + 0).getLsbD 0 = true ∧
    ((tWith [(1, 2)]).me.s 1).getLsbD 0 = false ∧ ((tWith [(1, 3)]).me.s 1).getLsbD 0 = true ∧ s.me.br = 0 ∧ s.me.m 7 = 0 := by decide

/-- A posted store of core 0 to a cluster of another quadrant. -/
def tPosted : Flight := ⟨none, ⟨0, 0⟩, false, 0, 1, 0, 0, .store 0x10000 (.store 8 5), 0x4000000001010000, 14, none, 0, 0, 0, none, false, false, .bank⟩

/-- Core 0 with that store under way. -/
def tPending (l : List (Nat × Word)) : State := { tWith l with flight := [tPosted], placement := [(0, ⟨false, 0⟩), (1, ⟨false, 8191⟩)] }

theorem witness_OwnStoreAccesses : let s := tWith [(1, 0x37FF8), (2, 0x10000)]
    OwnPlain s 0x37FF8 8 ∧ OwnPlain s 0x37FFC 4 ∧ OwnPlain s 0x37FFE 2 ∧ OwnPlain s 0x37FFF 1 ∧ OwnPlain s 0 8 ∧ s.me.store.poisoned 0x10000 8 = false ∧
    ({ Memory.empty with poison := [0x2000] } : Memory).poisoned 0x10000 8 = true ∧ ((s.me.s 2).toNat < 0x40000 ∧ s.me.isPort (s.me.s 2).toNat = false) ∧
    ((3 : BitVec 3), 8) ∈ [((0 : BitVec 3), 1), (1, 2), (2, 4), (3, 8)] ∧ s.drained s.cur 6 = true ∧ (tPending []).drained (tPending []).cur 6 = false ∧
    (2 : BitVec 2).getLsbD 1 = true := by unfold OwnPlain; decide
theorem witness_OwnStoreAccesses_bad : ((0x40020 : Word).toNat < 2 ^ 62 ∧ 0x40020 ≤ (0x40020 : Word).toNat ∧ ¬ (0x41000 ≤ (0x40020 : Word).toNat ∧ (0x40020 : Word).toNat < 0x41400)) ∧
    (0x3FFFFFFFFFFFFFFF : Word).toNat < 2 ^ 62 ∧ ((0x4000000000040020 : Word).toNat / 2 ^ 62 = 1 ∧ 0x40020 ≤ (0x4000000000040020 : Word).toNat % 2 ^ 21) ∧
    (2 ^ 63 ≤ (0x8200000000000000 : Word).toNat ∧ (0x8200000000000000 : Word).toNat / 2 ^ 57 % 2 ^ 6 ≠ 0) ∧
    ((0x4001F : Word).toNat < 0x40020 ∧ (0x4001F : Word).toNat % 2 ≠ 0) ∧ (0x41000 ≤ (0x41001 : Word).toNat ∧ (0x41001 : Word).toNat < 0x41400 ∧ (0x41001 : Word).toNat % 2 ≠ 0) := by
  decide
theorem witness_PortAccesses : let s := tState (tRegs tQueue [(1, 0x14000)]); let e := Bank.blank 5 0x80001
    0x14000 + 8 ≤ 0x40000 ∧ s.me.hit 0x14000 8 = .port 5 0 ∧ s.me.hit 0x14008 8 = .port 5 8 ∧
    (∃ v b, portLoad (s.me.bank 5) 0 8 false 0 0 = some (v, 0, b)) ∧ portLoad (s.me.bank 5) 0x20 8 false 0 0 = none ∧
    s.me.store.entryPoisoned (s.me.bank 5) 0 0 = false ∧
    (∃ b, portStore (s.me.bank 5) 0 8 5 0 (sourceWord s s.cur) false = some (0, b)) ∧ portStore (s.me.bank 5) 0x10 8 5 0 (sourceWord s s.cur) false = none ∧
    s.me.isPort (s.me.s 1).toNat = true ∧ portLoad e 8 8 false 0 0 = some (0, brEMPTY, e) ∧ PortBlocks e 8 brEMPTY 0 ∧ ¬ PortBlocks e 0 brEMPTY 0 := by
  refine ⟨by decide, by decide, by decide, ⟨_, _, rfl⟩, by decide, by decide, ⟨_, rfl⟩, by decide, by decide, by decide, by unfold PortBlocks; decide, by unfold PortBlocks; decide⟩
theorem witness_PortAccesses_release : let s := tState (tRegs tQueue [(1, 0x14000)]); let p : State := { s with flight := [tPosted], placement := (tPending []).placement }
    s.me.isPort (s.me.s 1).toNat = true ∧ s.drained s.cur 6 = true ∧ p.me.isPort (p.me.s 1).toNat = true ∧ p.drained p.cur 6 = false ∧ (p.me.s 1).toNat % 8 = 0 := by decide
theorem witness_PortAccesses_poison (b : Bank) (e : Word) (h : b.entryRead 0 0 = some e) : ({ Memory.empty with poison := [b.placeOf e] } : Memory).entryPoisoned b 0 0 = true := by
  unfold Memory.entryPoisoned; rw [h]; simp
theorem witness_PortAccesses_entry : (tQueue.bank 5).entryRead 0 0 = some 7 := by decide
theorem witness_QueueAndStackPorts : let b := Bank.blank 5 0x80001; kindOf b.pers = 1 ∧ itemOf b.pers = 8 ∧ kindOf (Bank.blank 5 0x40002).pers = 2 ∧
    itemOf (Bank.blank 5 0x40002).pers = 4 := by decide
theorem witness_MapPorts : let b := Bank.blank 5 3; kindOf b.pers = 3 ∧ (0xFFFFFFFE : Word).toNat < 0xFFFFFFFF ∧ portLoad b 0 4 false 7 0 = some (0, 3, b) ∧
    ¬ 2 ^ b.gsize * 1536 ≤ b.items.length ∧ 2 ^ 0 * 1536 ≤ (List.replicate 1536 (0 : Word)).length ∧
    (∃ x, portStore b 0 4 5 7 0 false = some (0, x) ∧ portLoad x 0 4 false 7 0 = some (5, 0, x)) ∧ 2 ^ 32 ≤ (0x100000000 : Word).toNat :=
  ⟨by decide, by decide, by decide, by decide, by rw [List.length_replicate]; decide, ⟨_, rfl, by decide⟩, by decide⟩
theorem witness_PriorityPorts : let b := { Bank.blank 5 4 with items := [entry 1 7, entry 3 8] }; kindOf b.pers = 4 ∧ (0xFFFFFFFF : Word).toNat < 2 ^ 32 ∧
    (b.items.Pairwise fun x y => keyOf x ≤ keyOf y) ∧ b.items.length < 2 ^ b.gsize * 2048 - 1 ∧ b.items = entry 1 7 :: [entry 3 8] ∧ (Bank.blank 5 4).items = [] ∧
    2 ^ 0 * 2048 - 1 ≤ (List.replicate 2047 (0 : Word)).length := ⟨by decide, by decide, by decide, by decide, rfl, rfl, by rw [List.length_replicate]; decide⟩
theorem witness_HistogramPorts : let b := Bank.blank 5 5; kindOf b.pers = 5 ∧ b.gsize ≤ 3 ∧ (4095 : Word).toNat < 2 ^ b.gsize * 4096 ∧ 2 ^ b.gsize * 4096 ≤ (4096 : Word).toNat := by decide

/-- A QUEUE of 64-byte items with a slot reserved, one committed and one acquired. -/
def tSlots : Bank := { Bank.blank 5 0x400001 with ring := [(0, .acquired), (1, .item), (2, .reserved)], nextSlot := 3 }

set_option maxRecDepth 20000 in
theorem witness_SlotPorts : let b := tSlots; isSlotBank b.pers = true ∧ b.first < 16 ∧ b.gsize ≤ 3 ∧ 8191 < 8192 ∧ 7 < 8 ∧ (∃ x, b.reserve = some (3, x)) ∧
    (∃ x, b.acquire = some (1, x)) ∧ (Bank.blank 5 0x400001).acquire = none ∧ 2 < slotCount b.pers b.gsize ∧ (2, SlotSt.reserved) ∈ b.ring ∧ (1, SlotSt.reserved) ∉ b.ring ∧
    (0, SlotSt.acquired) ∈ b.ring ∧ (1, SlotSt.acquired) ∉ b.ring ∧ BitVec.ofNat 64 (5 * 0x4000 + 0x40 + 64 * 2) = 0 + BitVec.ofNat 64 (b.first * 0x4000 + 0x40 + itemOf b.pers * 2) :=
  ⟨by decide, by decide, by decide, by decide, by decide, ⟨_, rfl⟩, ⟨_, rfl⟩, by decide, by decide, by decide, by decide, by decide, by decide, by decide⟩
set_option maxRecDepth 20000 in
theorem witness_SlotPorts_full : ({ tSlots with ring := (List.range 255).map fun j => (j, .item) } : Bank).reserve = none := by decide


theorem witness_FlagPages : OwnFlags 0x4001F 1 ∧ OwnFlags 0x4001E 2 ∧ OwnFlags 0x4001C 4 ∧ OwnFlags 0x40018 8 ∧ OwnFlags 0x40000 8 ∧ (tWith []).performed 4 ∧
    ¬ (tPending []).performed 4 ∧ (tPending []).performed 1 ∧ (2 : BitVec 2).getLsbD 1 = true ∧ (255 : Word).toNat < 256 ∧ 256 ≤ (256 : Word).toNat ∧
    tCore.flagsBad 0x4001F = false ∧ ({ tCore with flagPoison := [3] } : Core).flagsBad 0x4001F = true := by
  unfold OwnFlags State.performed; decide
theorem witness_FlagPages_other : let s := tPending [(2, 0x4000000001E40000)]; Mesh s (s.me.s 2) 8 1 7 0x40000 ∧ chanKey 1 7 ∉ s.me.closed ∧ (s.me.s 2) ≠ 0 := by
  unfold Mesh; decide
theorem witness_FlagPages_none : let s := tWith [(2, 0x10000)]; s.me.s 2 ≠ 0 ∧ ∀ vc core, ¬ Mesh s (s.me.s 2) 8 vc core 0x40000 := by
  refine ⟨by decide, fun vc core h => ?_⟩
  have e : (tWith [(2, 0x10000)]).me.s 2 = 0x10000 := by decide
  have k := congrArg BitVec.toNat (e.symm.trans h.2.2.2.1)
  have h1 := h.1; have h2 := h.2.1
  simp [meshAddr] at k
  omega
theorem witness_RemoteAccesses : Global 0x8000000000000000 8 ∧ Global 0x81FFFFFFFFFFFFFF 1 ∧ Global 0x8000000000001000 64 ∧
    Mesh (tPending []) 0x400000000101FFFF 1 1 0 0x1FFFF ∧ Mesh (tPending []) 0x4000000001E00040 8 1 7 0x40 ∧ 0x40 ≤ 0x40 % 0x4000 ∧ 0x40 + 8 ≤ 0x40020 ∧
    chanKey 1 7 ∉ (tPending []).me.closed ∧ (0x4000000001E00040 : Word) = meshAddr 1 7 0x40 := by unfold Global Mesh; decide
theorem witness_RemoteAccesses_release : (∀ sc, some 1 = some sc → (tPending []).performed sc) ∧ ¬ (tPending []).performed 6 ∧
    chanKey 1 7 ∈ ({ tCore with closed := [15] } : Core).closed := by
  refine ⟨fun sc h => ?_, by unfold State.performed; decide, by decide⟩
  cases h; unfold State.performed; decide
theorem witness_RemoteAccesses_vectors : ((tCore.setM 1 0x10).m 1 ≠ 0) ∧ ((tState (tCore.setM 1 0x10)).me.toDo 1 4 ∧ ∀ j < 4, ¬ (tState (tCore.setM 1 0x10)).me.toDo 1 j) ∧
    Global ((tRegs tCore [(2, 0x8000000000000000)]).laneAt 2 3 0) 4 := by unfold Core.toDo Core.inUse Global; decide

theorem witness_FencesComplete : let p : State := { tWith [] with flight := [{ tPosted with body := .gstore 0x1000 (.store 8 5) 0, eng := some ⟨1, 7, 0⟩ }] }
    (tWith []).performed 6 ∧ ¬ (tPending []).performed 4 ∧ (tPending []).Observes 0 4 ∧ p.Observes 1 6 ∧ ¬ (tWith []).Observes 2 6 ∧ ((2 : Reg) ≠ 0) ∧
    (∀ j < 8, ((tWith []).mine.core j).buf = []) := by
  refine ⟨by unfold State.performed; decide, by unfold State.performed; decide, by unfold State.Observes State.performed; decide,
    ⟨_, List.mem_singleton.2 rfl, _, rfl, rfl, by decide, by decide⟩, ?_, by decide, by decide⟩
  have e : (tWith []).flight = [] := by decide
  rintro ⟨f, h, _⟩; rw [e] at h; cases h
set_option maxRecDepth 20000 in
theorem witness_WaitsComplete_counters : let s := tWith [(1, tA), (2, 0x4000000000010000), (3, 1)]; s.mine.vc < 8192 ∧ s.me.s 2 = meshAddr s.mine.vc 0 0x10000 ∧
    (0 = s.cur.core ∧ (s.me.s 1).toNat = 0x10000) ∧ 0x10000 + 8 ≤ 0x40000 ∧ 0x10000 % 8 = 0 ∧ (s.mine.core 0).hit 0x10000 8 = .plain ∧ (s.mine.core 0).run ≠ .sealed ∧ ((s.mine.core 0).bank (0x10000 / 0x4000)).converting = false ∧
    s.postedTo 0 = false ∧ s.cyc < s.me.s 3 ∧ ¬ s.cyc < s.me.s 0 ∧ bits (s.me.s 0) 0 48 ≤ bits ((s.mine.core 0).store.read8 0x10000) 0 48 ∧
    ¬ (bit ((s.mine.core 0).store.read8 0x10000) 63 = true ∨ bits (s.me.s 3) 0 48 ≤ bits ((s.mine.core 0).store.read8 0x10000) 0 48) := by decide
theorem witness_WaitsComplete_converting : let s := tState { tCore.setBank 4 { Bank.blank 4 0 with converting := true } with wait := some (.converting 0) }; let u : State := { s with cyc := 2 ^ 16 }
    ((s.mine.core 0).bank (0x10000 / 0x4000)).converting = true ∧ (s.mine.core 0).run ≠ .sealed ∧ s.me.wait = some (.converting 0) ∧ (s.cyc - 0).toNat < 2 ^ 16 ∧ 2 ^ 16 ≤ (u.cyc - 0).toNat := by decide
theorem witness_WaitsComplete_posted : ({ tPending [] with flight := [{ tPosted with vc := 0 }] } : State).postedTo 0 = true := by decide
theorem witness_WaitsComplete_park : (tWith []).me.solo tAct ∧ (tState { tCore with cr := [(Cr.stat, 8)] }).me.tm = true ∧
    (∀ a, (tState { tCore with act := some { tAct with cluster := true } }).me.act = some a → a.cluster = true) := by
  refine ⟨by unfold Core.solo; decide, by decide, fun a h => ?_⟩
  have e : (tState { tCore with act := some { tAct with cluster := true } }).me.act = some { tAct with cluster := true } := by decide
  rw [e] at h; cases h; rfl
theorem witness_WaitsComplete_places : let s := tWith []; 2 ^ 63 ≤ (0x8000000000000000 : Word).toNat ∧ (1 < 8192 ∧ 0x4001F < 0x40020 ∧ 1 ≠ s.mine.vc ∧ (0x400000000104001F : Word) = meshAddr 1 0 0x4001F) ∧
    (0x41400 ≤ (0x41400 : Word).toNat ∧ (0x41400 : Word).toNat < 2 ^ 62) ∧ 0x10004 % 8 ≠ 0 ∧ (0x40000 % 8 = 0 ∧ 0x40000 ≤ 0x40000) ∧ (s.mine.core 0).hit 0x3C000 8 ≠ .plain ∧
    ((tState { tCore with run := .sealed }).mine.core 0).run = .sealed := by decide
theorem witness_WaitsComplete_times : (tWith [(1, 1)]).cyc < (tWith [(1, 1)]).me.s 1 ∧ (tWith []).me.s 0 ≤ (tWith []).cyc ∧ (255 : Word).toNat < 256 ∧
    (tWith []).me.flags.getLsbD 255 = ((0 : Reg) == 1) ∧ (tWith []).me.flags.getLsbD 255 ≠ ((1 : Reg) == 1) := by decide
theorem witness_YieldGivesWay : (∀ e ∈ (tWith []).me.ready, e.level < tAct.prio) ∧ (tWith []).me.act = some tAct ∧
    (let s := tState { tCore with ready := [⟨1, 2, none, 63, none, 0, 0, 0⟩] }; s.me.solo tAct ∧ s.me.inRep = false ∧ ⟨1, 2, none, 63, none, 0, 0, 0⟩ ∈ s.me.ready ∧ tAct.prio ≤ 2) := by
  unfold Core.solo; decide


theorem tBusy_not (n : Nat) (h1 : 1 ≤ n) : ¬ (tWith []).Busy n := by
  rintro ⟨x, hx, h⟩
  have e1 : (tWith []).me.wp = 0 := by decide
  have e2 : (tWith []).me.nv = 16 := by decide
  have e3 : (tWith []).me.cr_ Cr.twp = 0 := by decide
  have e4 : (tWith []).frameBytes (tWith []).cur.cl = 0 := by decide
  rw [e1, e2, e3, e4] at h
  unfold span at hx h
  simp at h
  omega
theorem witness_BankChanges_busy : (tWith []).Busy 0 ∧ ¬ (tWith []).Busy 1 ∧ ¬ (tWith []).Busy 15 := by
  refine ⟨⟨0, by unfold span; decide, Or.inl ?_⟩, tBusy_not 1 (by decide), tBusy_not 15 (by decide)⟩
  unfold span; decide

/-- A core whose bank 5 holds an image that no QUEUE can take. -/
def tImage : Core := { tCore with store := tCore.store.store 0x14000 8 2041 }

set_option maxRecDepth 20000 in
theorem witness_BankChanges_bpers : persOk 0x80001 = true ∧ persOk 6 = false ∧ (15 : Nat) < 16 ∧ (tWith []).Fixed 15 ∧ ¬ (tWith []).Fixed 5 ∧ ((tWith []).me.bank 5).shard = false ∧
    ((tWith []).me.bank 5).pers = (0 : Word).truncate 32 ∧ ((tWith []).me.bank 5).pers ≠ (0x80001 : Word).truncate 32 ∧ ((tWith []).me.convertAt 5 0 0x80001).isSome = true ∧
    (tImage.convertAt 5 0 0x80001) = none := by unfold State.Fixed; decide
set_option maxRecDepth 20000 in
theorem witness_BankChanges_bgroup : (8 % 2 ^ 3 = 0 ∧ 4 % 2 ^ 3 ≠ 0) ∧ ((tWith []).Busy 0 ∧ ∀ j < 0, ¬ (tWith []).Busy j) ∧
    (∀ m ∈ [2, 3], pinnedBank (tWith []) m = false ∧ m ≠ 15 ∧ ((tWith []).me.bank m).shard = false ∧ ((tWith []).me.bank m).gsize = 0) ∧
    ¬ (((tWith []).me.bank 2).first = 2 ∧ ((tWith []).me.bank 2).gsize = 1) ∧
    (((tWith []).me.views 0x80001 [2, 3]).bind fun l => (tWith []).me.build 2 1 0x80001 l).isSome = true ∧
    (let c := (tCore.setBank 2 { Bank.blank 2 0x80001 with gsize := 1 }).setBank 3 { Bank.blank 3 0x80001 with first := 2, gsize := 1 };
      (c.bank 2).first = 2 ∧ (c.bank 2).gsize = 1 ∧ (c.bank 2).pers = (0x80001 : Word).truncate 32) ∧ ¬ (∀ m ∈ [14, 15], m ≠ 15) := by
  refine ⟨by decide, ⟨witness_BankChanges_busy.1, by omega⟩, by decide, by decide, by decide, by decide, by decide⟩

/-- A definition block at 0x4000: a HIST over cores 0 and 1 of clusters 0 and 1, with bank 5 as the shard. -/
def tSpread : Core := { tCore with store := ((tCore.store.store 0x4000 8 0x500000005).store 0x4008 8 0x103).store 0x4010 8 1 }

theorem witness_BankChanges_bspread : (0x4000 : Nat) < 0x40000 ∧ 0x4000 % 32 = 0 ∧ tSpread.arrayRange 0x4000 32 = true ∧
    spreadIndex (tSpread.store.words 0x4000 4) 0 0 = some 0 ∧ spreadIndex (tSpread.store.words 0x4000 4) 2 0 = none ∧
    (tSpread.convertAt 5 0 5).isSome = true ∧ ¬ 0x4010 % 32 = 0 := by decide
theorem witness_BankChanges_end : (tState { tCore with conv := some (3, 5, 3) }).core ⟨0, 0⟩ = { tCore with conv := some (3, 5, 3) } ∧ 3 < 4 := by decide
theorem witness_BankRecords : (16 ≤ (16 : Word).toNat ∧ (15 : Word).toNat < 16) ∧ (((tWith []).me.bank 15).first < 16 ∧ ((tWith []).me.bank 15).gsize < 4) ∧
    2 ^ 16 ≤ (0x10000 : Word).toNat ∧ (0xFFFF : Word).toNat < 2 ^ 16 ∧ (bit (0x8000 : Word) 15 = true ∧ (tWith []).mine.clearHeld 0 15 = true ∧ kindOf ((tWith []).me.bank 15).pers ≠ 0) ∧
    (bit (2 : Word) 1 = true ∧ kindOf ((tWith []).me.bank 1).pers = 0 ∧ pinnedBank (tWith []) 1 = false) ∧
    (∀ k < 16, bit (2 : Word) k = true → ((tWith []).me.bank k).first = k ∧ ((tWith []).me.bank k).gsize = 0) := by decide
theorem witness_BankRecords_bclear : (∀ k < 16, bit (2 : Word) k = true → ¬ (tWith []).Busy k) ∧ (tWith []).Busy 0 ∧ bit (1 : Word) 0 = true := by
  refine ⟨fun k _ h => tBusy_not k ?_, witness_BankChanges_busy.1, by decide⟩
  rcases k with _ | k
  · exact absurd h (by decide)
  · omega
theorem witness_ConversionsKeepEntries : let c := tQueue; let b := c.bank 5; 5 < 16 ∧ b.gsize = 0 ∧ b.first = 5 ∧ b.pers = 0x80001 ∧ b.items.length ≤ 2040 ∧
    (tCore.bank 5).pers = 0 ∧ (tCore.bank 5).first = 5 ∧ 2040 < (tImage.store.read8 (5 * 0x4000)).toNat ∧ (tCore.store.read8 (5 * 0x4000)).toNat ≤ 2040 := by decide

theorem witness_VectorIntegers : (tCore.inUse 0 15) ∧ ¬ tCore.inUse 7 0 ∧ (tCore.setM 7 0x8000).inUse 7 15 ∧ (tWith []).shadowHit = none := by unfold Core.inUse; decide
theorem witness_FloatingPoint : let s := tState { tCore with cr := [(Cr.wsize, 16), (Cr.stat, 0x40)] }; let d : State := { tWith [] with shadowHit := some ⟨0, false, false, 127, 0⟩ }
    2 &&& (tWith []).me.enables = 0 ∧ (tWith []).disputed none (f32.diverges 0) = none ∧ d.disputed none (f32.diverges 0) = some 0 ∧
    d.disputed (some (d.me.lanes 0)) (fun h => laneDiverges 0 0 h) = some 0 ∧ d.disputed (some (d.me.lanes 0)) (fun h => laneDiverges 0 0x3F800000 h) = none ∧
    2 &&& s.me.enables ≠ 0 ∧ (fpOp2 f32 s.me (f32.div s.me.rm s.me.ftz) 0x3F800000 0).2 = 2 := by decide

theorem witness_Rounding : f32 ∈ [f32, f64, bf16] ∧ 3 < 4 ∧ 0 < (2 ^ 24 + 1) ∧ (f32.round 0 false false (2 ^ 24 + 1) 0 false).1 < f32.infBits ∧
    (f32.round 2 false false (2 ^ 24) 104 false).1 = f32.infBits ∧ (f32.round 1 false false (2 ^ 24) 104 false).1 + 1 = f32.infBits ∧
    0 < (f32.round 2 false false 1 (-400) false).1 ∧ (Fp.nan true).isNan = true ∧ (if 2 = 2 then 3 else 2) = 3 := by decide
theorem witness_Rounding_finite : (0 < 3 ∧ f32.mb + 4 + Nat.log2 3 ≤ 28) ∧ f32.mb + 4 ≤ 27 ∧ 2 ^ 28 * 2 ^ 28 ≤ 4 * 2 ^ (2 * 27 + ((0 : Int) % 2).toNat) ∧
    4 * 2 ^ (2 * 27 + ((0 : Int) % 2).toNat) < (2 ^ 28 + 1) * (2 ^ 28 + 1) ∧ 4095 < 4096 := by decide
theorem witness_FloatingPoint_flushed : f32 ∈ [f32, bf16] ∧ 0x7FFFFF < f32.signBit ∧ f32.isSub 0x7FFFFF = true ∧ f32.isSub 0x800000 = false := by decide
theorem witness_FormatConversions : let v (n : Bool) (m : Nat) (e : Int) : Int := let r := roundAt 0 n m e 0 false; if n then -(r.1 : Int) else r.1
    v true (2 ^ 31 + 1) 0 < -2 ^ 31 ∧ 2 ^ 31 ≤ v false (2 ^ 31) 0 ∧ (-2 ^ 31 ≤ v true (2 ^ 31) 0 ∧ v true (2 ^ 31) 0 < 2 ^ 31) ∧ v false 5 (-1) = 2 ∧ (-1 : Int) < 0 := by decide

/-- A table of zeros. -/
def tZeros : List W32 := List.replicate 256 0

set_option maxRecDepth 20000 in
theorem witness_TableAndBlockFormats_encode : tZeros.length = 256 ∧ tableBad tZeros = none ∧ f32.value (0 : W32).toNat = .fin false 0 (-149) ∧
    (∃ y ∈ tZeros, enFinite y = true ∧ entryUnits y ≤ scaled false 0 (-149) (-149)) ∧ (∃ y ∈ tZeros, enFinite y = true ∧ scaled false 0 (-149) (-149) ≤ entryUnits y) ∧
    (∀ y ∈ tZeros, enFinite y = true → entryUnits y < scaled false 1 (-149) (-149)) ∧ f32.value (1 : W32).toNat = .fin false 1 (-149) := by
  refine ⟨by decide, by decide, by decide, ⟨0, List.mem_replicate.2 ⟨by decide, rfl⟩, by decide⟩,
    ⟨0, List.mem_replicate.2 ⟨by decide, rfl⟩, by decide⟩, fun y h => by rw [List.eq_of_mem_replicate h]; decide, by decide⟩
theorem witness_TableAndBlockFormats_tables : let s := tWith []; let p : State := s.updCluster 0 fun k => { k with tablePoison := [(0, 0)] };
    (∀ l ∈ s.me.lanes 0, (3, 0) ∉ s.mine.tablePoison) ∧ 15 ∈ p.me.lanes 0 ∧ (0, 0) ∈ p.mine.tablePoison ∧ (∀ q ∈ p.mine.tablePoison, q.1 ≠ 3) ∧ s.shadowHit = none := by decide
theorem witness_DecodeTables : 0x40000 ≤ (0x40000 : Word).toNat ∧ ((0x3FC00 : Word).toNat < 0x40000 ∧ (0x3FC00 : Word).toNat % 1024 = 0 ∧ (tWith []).me.arrayRange 0x3FC00 1024 = false) ∧
    (0x10004 : Word).toNat % 1024 ≠ 0 ∧ (tWith []).me.arrayRange 0x10000 1024 = true ∧ (∀ j < 128, (tWith []).me.store.poisoned (0x10000 + 8 * j) 8 = false) ∧
    (let m : Memory := { Memory.empty with poison := [0x207F] }; m.poisoned (0x10000 + 8 * 127) 8 = true ∧ ∀ k < 127, m.poisoned (0x10000 + 8 * k) 8 = false) := by decide
/-- A core with a STACK of 4-byte items in bank 5 that holds one item, and lanes 0 and 1 in use under m1. -/
def tStack (l : List Word) : Bank := { Bank.blank 5 0x40001 with items := l }
def tKeyed : State := tState (((tRegs tCore [(1, 0x14000)]).setM 1 3).setBank 5 (tStack [7]))
def tTaken (l : Nat) : Bank := if l = 0 then tStack [7] else tStack []
def tWords (l : Nat) : Word := if l = 0 then 7 else 0
def tResults (l : Nat) : Nat := if l = 0 then 0 else 1
def tGiven (l : Nat) : Bank := tStack (7 :: List.replicate (min l 2) 0)

set_option maxRecDepth 20000 in
theorem witness_KeyedVectors : tKeyed.me.hit (tKeyed.me.s 1).toNat 4 = .port 5 0 ∧ (tKeyed.me.s 1).toNat + 4 ≤ 0x40000 ∧ (tKeyed.me.s 1).toNat % 4 = 0 ∧
    tTaken 0 = tKeyed.me.bank 5 ∧ tGiven 0 = tKeyed.me.bank 5 ∧ (∃ l < 16, tKeyed.me.inUse 1 l) := by
  refine ⟨by decide, by decide, by decide, by decide, by decide, ⟨0, by decide, Or.inr (by decide)⟩⟩
set_option maxRecDepth 20000 in
theorem witness_KeyedVectors_loads : ∀ l < 16, (tKeyed.me.inUse 1 l → (portLoad (tTaken l) 0 4 false ((tKeyed.me.v 2 l).zeroExtend 64) 0).map (·.1) =
      some (tWords l) ∧ (portLoad (tTaken l) 0 4 false ((tKeyed.me.v 2 l).zeroExtend 64) 0).map (·.2) = some (tResults l, tTaken (l + 1))) ∧ (¬ tKeyed.me.inUse 1 l → tTaken (l + 1) = tTaken l) := by unfold Core.inUse; decide
set_option maxRecDepth 20000 in
theorem witness_KeyedVectors_sound : ∀ l < 16, tKeyed.me.inUse 1 l → tKeyed.me.store.entryPoisoned (tTaken l) 0 ((tKeyed.me.v 2 l).zeroExtend 64) = false := by
  unfold Core.inUse; decide
set_option maxRecDepth 20000 in
theorem witness_KeyedVectors_stores : ∀ l < 16, (tKeyed.me.inUse 1 l → portStore (tGiven l) 0 4 ((tKeyed.me.v 3 l).zeroExtend 64) ((tKeyed.me.v 2 l).zeroExtend 64)
      (sourceWord tKeyed tKeyed.cur) false = some (0, tGiven (l + 1))) ∧ (¬ tKeyed.me.inUse 1 l → tGiven (l + 1) = tGiven l) := by unfold Core.inUse; decide
theorem witness_KeyedVectors_refusals : tQueue.hit 0x14008 4 = .port 5 8 ∧ (tQueue.bank 5).pers = 0x80001 ∧ portLoad (tQueue.bank 5) 0 4 false 0 0 = none ∧
    portStore (tQueue.bank 5) 0 4 0 0 0 false = none ∧ (∀ l < 16, ¬ (tWith []).me.inUse 7 l) := by unfold Core.inUse; decide

/-- Lanes 0 and 2 of a gather at 0x10000 by v3, and lane 1 misaligned by its base. -/
def tGather (a : Word) : State := tState ((tRegs (tLanes [(3, [(0, 0), (2, 5)])]) [(2, a)]).setM 1 5)

set_option maxRecDepth 20000 in
theorem tGather_lanes : ∀ l < 16, (tGather tA).me.toDo 1 l → OwnPlain (tGather tA) ((tGather tA).me.laneAt 2 3 l) 4 ∧
    (tGather tA).me.store.poisoned ((tGather tA).me.laneAt 2 3 l).toNat 4 = false ∧ 0x10000 ≤ ((tGather tA).me.laneAt 2 3 l).toNat := by
  unfold Core.toDo Core.inUse OwnPlain; decide
theorem witness_GathersAndScatters : (∀ l, (tGather tA).me.toDo 1 l → OwnPlain (tGather tA) ((tGather tA).me.laneAt 2 3 l) 4 ∧
    (tGather tA).me.store.poisoned ((tGather tA).me.laneAt 2 3 l).toNat 4 = false ∧ ∀ y, span ((tGather tA).me.laneAt 2 3 l).toNat 4 y → ¬ (tGather tA).me.vBytes 15 y) ∧
    (tGather tA).me.toDo 1 2 ∧ bits ((tGather tA).me.cr_ Cr.vprog) 0 4 = 0 ∧ (tGather tA).shadowHit = none := by
  refine ⟨fun l h => ⟨(tGather_lanes l h.1 h).1, (tGather_lanes l h.1 h).2.1, fun y hy k => ?_⟩, by unfold Core.toDo Core.inUse; decide, by decide, by decide⟩
  have e : (tGather tA).me.wp = 0 := by decide
  have h1 := (tGather_lanes l h.1 h).2.2; have h2 := hy.1; have h3 := k.2
  unfold vAddr at h3; rw [e] at h3; simp at h3; omega
set_option maxRecDepth 20000 in
theorem witness_GathersAndScatters_faults : (tGather 0x10001).selfPosted (tGather 0x10001).cur = false ∧ (tGather 0x10001).me.cannotTrap = true ∧ tTrap.cannotTrap = false ∧ (tGather 0x10001).me.toDo 1 0 ∧ ((tGather 0x10001).me.laneAt 2 3 0).toNat < 0x40000 ∧ ((tGather 0x10001).me.laneAt 2 3 0).toNat % 4 ≠ 0 ∧
    (∀ l < 0, (tGather 0x10001).me.toDo 1 l → False) := by
  refine ⟨by decide, by decide, by decide, by unfold Core.toDo Core.inUse; decide, by decide, by decide, by omega⟩


set_option exponentiation.threshold 2000 in
set_option maxRecDepth 20000 in
theorem witness_MatrixCommands : (tWith []).me.mq.length < 16 ∧ 16 ≤ (List.replicate 16 (0 : Nat)).length ∧ bit (tWith []).feat0 3 = true ∧ oFmt 0 ≠ 3 ∧ oFmt 0x30000000000000 = 3 ∧
    bit (0xF7 : Word) 3 = false ∧ (∀ l < 16, ((tWith []).me.acc 3).poison.getLsbD (bits (0x3F : Word) 0 5 * 32 + bits (0x3F : Word) 5 1 * 16 + l) = false) ∧
    (tWith []).me.mq = [] ∧ (tDo (.mzero 3) (tWith [])).me.mq ≠ [] ∧ (∃ q ∈ (tDo (.mzero 3) (tWith [])).me.mq, q.names 3 = true) ∧
    ({ vals := [], poison := 1 <<< 1023 } : Acc).poison.getLsbD 1023 = true := by
  refine ⟨by decide, by decide, by decide, by decide, by decide, by decide, by decide, by decide, by decide, ⟨_, List.mem_singleton.2 rfl, by decide⟩, by decide⟩
theorem witness_BlocksAreExact : let l : List Int := List.replicate 32 1; l.length = 32 ∧ [MEl.inf false].length = [MEl.int 1].length ∧ (254 : Nat) ≠ 255 ∧ (.inf false, .int 1) ∈ (([MEl.inf false]).zip [MEl.int 1]) ∧
    (∀ z ∈ ([MEl.inf false].zip [MEl.int 1]), z.1 ≠ .nan ∧ z.1 ≠ .inf true ∧ ∃ v > 0, z.2 = .int v) ∧ (.inf true, .int 0) ∈ ([MEl.inf true].zip [MEl.int 0]) ∧ (.nan, .int 0) ∈ ([MEl.nan].zip [MEl.int 0]) := by
  refine ⟨by decide, by decide, by decide, by decide, fun z h => ?_, by decide, by decide⟩
  rw [List.mem_singleton.1 h]; exact ⟨by decide, by decide, 1, by decide, rfl⟩
theorem witness_BlocksAreExact_rounding : f32.value (0x3F800000 : W32).toNat = .fin false 8388608 (-23) ∧
    (let t := scaled false 8388608 (-23) (-23) + scaled true 8388608 (-23) (-23); t = 0) ∧
    (let t := scaled false 8388608 (-23) (-23) + scaled false 1 (-23) (-23); t ≠ 0 ∧ 2 ^ 24 ≤ (f32.round 0 false false t.natAbs (-23) false).1 % 2 ^ 31 ∧
      (f32.round 0 false false t.natAbs (-23) false).1 % 2 ^ 31 < f32.infBits) ∧ (f32.round 0 false false 1 128 false).1 % 2 ^ 31 = f32.infBits ∧
    (let below (t : Nat) (lo : Int) : Prop := t * 2 ^ (lo + 151).toNat < (2 ^ 25 - 1) * 2 ^ (-151 - lo).toNat;
      below (2 ^ 25 - 2) (-151) ∧ ¬ below (2 ^ 25 - 1) (-151) ∧ (f32.round 0 false false (2 ^ 25 - 1) (-151) false).1 = 2 ^ 23 ∧ ¬ below (2 ^ 23) (-149) ∧ below 1 (-300)) := by decide

/-- A matrix command over operands at 0x10000 and 0x14000. -/
def tCmd (i : Instr) : MCmd := ⟨i, 0, 0x4200000000010000, 0x4280000000014000, 0, 0, 1, false, 14, .queued, [], [], [], [], [], [], false, none, false, none, none, [], ⟨0, 0, 0, 0⟩⟩

/-- A launched cluster whose core 0 has a command. -/
def tMat (q : MCmd) : State := { tState tCore with clusters := [(0, { Cluster.blank with powered := true, launch := 1, ramped := true, cores := [(0, { tCore with mq := [q] })] })] }

set_option maxRecDepth 20000 in
theorem witness_MatrixUnitSteps_grant : let q := tCmd (.mma 0 1 2 3 0); let s := tMat q; let k := s.cluster 0; let c := s.core ⟨0, 0⟩; k.launch ≠ 0 ∧ 0 < 8 ∧ (∀ i < 8, i ≠ 0 → (k.core i).mq = []) ∧
    k.evict = .none ∧ c.mq = q :: [] ∧ k.ramped = true ∧ q.isArith = true ∧ q.isStream = false ∧ q.stage = .queued ∧ q.began = false ∧ (∀ x ∈ ([] : List MCmd), x.stage = .queued) ∧
    k.opBuf = [] ∧ s.drained ⟨0, 0⟩ 1 = true ∧ dCore q.sa = 0 ∧ dCore q.sb = 0 ∧ c.run ≠ .sealed ∧ descOk k q.sa q.pair = true ∧ descOk k q.sb q.pair = true ∧ dKind q.sa = 1 ∧
    dKind q.sb = 1 ∧ q.busy k 0 = false ∧ dKb q.sa = dKb q.sb ∧
    ((s.updCluster 0 fun k => { k with ramped := false }).cluster 0).ramped = false ∧ k.rampAt ≤ s.cyc := by decide
theorem witness_MatrixUnitSteps_retire : let q := { tCmd (.mmaz 0 1 2 3 0) with stage := .granted }; let s := tMat q; let k := s.cluster 0; q.isArith = true ∧ q.isStream = false ∧
    q.stage = .granted ∧ q.bad = none ∧ q.sealedCore k = none ∧ dKind q.sa = 1 ∧ dKind q.sb = 1 ∧ q.poisA = [] ∧ q.poisB = [] ∧ q.tabA ++ q.tabB = [] ∧
    bit (0x7F : Word) 7 = false ∧ (s.core ⟨0, 0⟩).mq = q :: [] :=
  ⟨rfl, rfl, rfl, rfl, rfl, rfl, rfl, rfl, rfl, rfl, rfl, rfl⟩
set_option maxRecDepth 20000 in
theorem witness_MatrixUnitSteps_port : let q := { tCmd (.mload 0 1) with sa := 0x37000 }; let s := tMat q; let c := s.core ⟨0, 0⟩; q.instr = .mload 0 1 ∧ s.drained ⟨0, 0⟩ 1 = true ∧ q.busy (s.cluster 0) 0 = false ∧
    q.sa.toNat + 4096 ≤ 0x40000 ∧ q.sa.toNat % 64 = 0 ∧ c.arrayRange q.sa.toNat 4096 = true ∧ (tCmd (.mzero 3)).instr = .mzero 3 := by decide
theorem witness_MatrixUnitSteps_tile : let q := { tCmd (.mstore 0 1 2) with sa := 0x4200FFC000010000 }; let s := tMat q; let k := s.cluster 0; let c := s.core ⟨0, 0⟩
    q.instr = .mstore 0 1 2 ∧ c.mq = q :: [] ∧ c.run ≠ .sealed ∧ dCore q.sa = 0 ∧ q.stage = .queued ∧ k.evict = .none ∧ outOk k q.sa = true ∧ dKind q.sa = 1 ∧ oFmt q.sa = 0 ∧
    oRows q.sa = 32 ∧ oCols q.sa = 32 ∧ q.tile = none ∧ (∀ i < 8, i ≠ 0 → (k.core i).mq = []) ∧ c.accs = [] ∧ ((s.updCluster 0 fun k => { k with port := [0] }).cluster 0).port = [0] ∧ (∀ b < 16, (c.bank b).converting = false) := by decide
theorem witness_MatrixUnitSteps_clean (c : Core) (h : c.accs = []) : ∀ e < 1024, (c.acc 0).poison.getLsbD e = false := by
  intro e _; unfold Core.acc; rw [h]; exact BitVec.getLsbD_zero

/-- A rule job of core 0 over the two words at 0x10000, with its counter at 0x14000. -/
def tJob : Job := ⟨1, 0x18000, 0, false, 14, false, [], [], 0, 0, Med.start 0, [], none, none, 0⟩

theorem witness_RuleJobs_windows : (0x41000 ≤ (0x41000 : Word).toNat ∧ (0x41000 : Word).toNat < 0x41400 ∧ (0x41000 : Word).toNat % 32 = 0) ∧
    (0x41000 ≤ (0x413FF : Word).toNat ∧ (0x413FF : Word).toNat < 0x41400 ∧ (0x413FF : Word).toNat % 32 ≠ 0) ∧
    (0x40020 ≤ (0x40FFF : Word).toNat ∧ ¬ (0x41000 ≤ (0x40FFF : Word).toNat ∧ (0x40FFF : Word).toNat < 0x41400)) ∧
    (0x40020 ≤ (0x41400 : Word).toNat ∧ ¬ (0x41000 ≤ (0x41400 : Word).toNat ∧ (0x41400 : Word).toNat < 0x41400)) := by decide
theorem witness_RuleJobs : 0x40020 ≤ (0x40020 : Word).toNat ∧ ((0x4001F : Word).toNat < 0x40020 ∧ (0x4001F : Word).toNat % 32 ≠ 0) ∧
    ((0x3C000 : Word).toNat % 32 = 0 ∧ tCore.arrayRange 0x3C000 32 = false) ∧ tCore.arrayRange 0x37FE0 32 = true ∧ (tWith []).mine.jobs.length < 16 ∧
    16 ≤ (List.replicate 16 tJob).length ∧ (67 < 2 ^ 32 ∧ (1 : Word).toNat + 65 < 67) ∧ (66 ≤ (1 : Word).toNat + 65 ∧ [tJob].find? (fun j => j.num == 1) = some tJob ∧
    tJob.running = false) ∧ [{ tJob with running := true }].find? (fun j => j.num == 1) = some { tJob with running := true } ∧ ([] : List Job).find? (fun j => j.num == 1) = none := by decide


/-- A descriptor of 8 bytes at 0x10000 with its vector at 0x14000, its results at 0x18000 and its counter at 0x1C000 of core 0. -/
def tDesc : List Word := [0x10000, 0x4000000000014000, 0x4000000000018000, 0x0001C00000000008]

def tJobs (j : Job) : State := { tState { tCore with store := tCore.store.putWords 0x20000 tDesc } with clusters :=
  [(0, { Cluster.blank with powered := true, jobs := [j], cores := [(0, { tCore with store := tCore.store.putWords 0x20000 tDesc })] })] }

theorem witness_RuleJobs_start : let j := { tJob with desc := 0x20000 }; let s := tJobs j; let k := s.cluster 0; let c := s.core ⟨0, 0⟩; k.jobs = j :: [] ∧ j.running = false ∧ k.evict = .none ∧
    s.drained ⟨0, 0⟩ 6 = true ∧ c.store.poisoned 0x20000 32 = false ∧ c.store.words 0x20000 4 = tDesc ∧ (k.core (counterOfDesc tDesc).1).run ≠ .sealed ∧
    descBad s 0 tDesc = none ∧ descBad s 0 [0x10000, 0x4000000000014000, 0x4000000000018000, 0x0001C00000000009] = some 24 ∧
    ({ c.store with poison := [0x4000] } : Memory).poisoned 0x20000 32 = true ∧ ({ c.store with poison := [0x4000] } : Memory).poisoned 0x20018 8 = false ∧
    ((k.setCore 0 { c with run := .sealed }).core (counterOfDesc tDesc).1).run = .sealed := by decide
theorem witness_RuleJobs_end : let j := { tJob with running := true, words := tDesc, med := Med.start (nvecOf tDesc) }; let s := tJobs j; let c := { tCore with store := (tCore.store.store 0x10000 4 0xC4000000).store 0x10004 4 0x88000000 };
    j.running = true ∧ j.till ≤ s.cyc ∧ (j.words.getD 0 0).toNat = 0x10000 ∧ 0x10000 % 4 = 0 ∧ lenOf j.words = 8 ∧ j.off = 0 ∧ j.med = Med.start (nvecOf j.words) ∧ (s.cluster 0).ruleBuf = [] ∧
    (s.cluster 0).addBefore j.core j.seq (counterOfDesc j.words) = false ∧ c.run ≠ .sealed ∧ c.hit 0x10000 4 = .plain ∧
    c.hit 0x10004 4 = .plain ∧ c.store.poisoned 0x10000 8 = false ∧ c.store.read4 0x10000 = 0xC4000000 ∧ c.store.read4 0x10004 = 0x88000000 ∧ c.banks = [] := by decide
theorem witness_RuleJobs_goesOn : let j := { tJob with running := true, words := tDesc, off := 4, med := { Med.start (nvecOf tDesc) with phase := 2 } }; let s := tJobs j
    let c := { tCore with store := (tCore.store.store 0x10000 4 0xC4000000).store 0x10004 4 0x88000000 };
    j.running = true ∧ j.till ≤ s.cyc ∧ (s.cluster 0).evict ≠ .streaming ∧ (j.words.getD 0 0).toNat = 0x10000 ∧ lenOf j.words = 8 ∧ j.off = 4 ∧
    j.med = { Med.start (nvecOf j.words) with phase := 2 } ∧ (s.cluster 0).ruleBuf = [] ∧ (s.cluster 0).addBefore j.core j.seq (counterOfDesc j.words) = false ∧
    c.hit 0x10004 4 = .plain ∧ c.store.poisoned 0x10000 8 = false ∧ c.store.read4 0x10004 = 0x88000000 := by decide
theorem witness_noBanks (c : Core) (h : c.banks = []) : ∀ b, (c.bank b).converting = false := by intro b; unfold Core.bank; rw [h]; rfl
theorem witness_RuleJobs_words : let m := Med.start 1; let j := { tJob with running := true, words := tDesc, med := { m with phase := 2, acc := [5] } }
    let s := tJobs j; let q := s.cluster 0; let p : Cluster := { q with scratch := [[7]], scratchPoison := [0] }
    (4095 < 4096 ∧ 255 < 256) ∧ (j.med.phase = 1 ∨ j.med.phase = 2) ∧ j.verify = false ∧ ({ j with verify := true } : Job).verify = true ∧ ({ j with got := [3] } : Job).got.length = j.med.acc.length ∧
    (termValue (List.replicate 256 0) 5).isSome = true ∧ termValue (List.replicate 256 (0x10000000 : W32)) 5 = none ∧
    0 < p.scratch.length ∧ 0 ∈ p.scratchPoison ∧ 0 ∉ q.scratchPoison ∧ q.scratch.length ≤ 0 ∧ ({ m with phase := 1 } : Med).phase = 1 ∧ q.scratch.length < 4096 ∧
    (m.phase ≤ 1 ∧ m.isOpen = false ∧ m.levels < 16) ∧ ({ m with levels := 16 } : Med).levels = 16 ∧ m.phase = 0 ∧
    ({ m with phase := 3 } : Med).phase = 3 ∧ ({ m with isOpen := true } : Med).isOpen = true := by decide
theorem witness_RuleJobs_full : 4096 ≤ ({ Cluster.blank with scratch := List.replicate 4096 [] } : Cluster).scratch.length := by
  show 4096 ≤ (List.replicate 4096 ([] : List W32)).length; rw [List.length_replicate]
theorem witness_RuleJobs_row : let j := { tJob with running := true, words := tDesc, med := { Med.start 1 with phase := 2, acc := [5] } }
    let s := { tJobs j with placement := [(0, ⟨false, 0⟩)] }; let q := s.cluster 0; j.row = none ∧ accOf j.words = false ∧ j.med.acc = [5] ∧ placeOf (j.words.getD 2 0) = .ok (.mesh 0 0 0x18000) ∧
    placeOf (j.words.getD 2 0 + 12) = .ok (.mesh 0 0 (0x18000 + 4 * 3)) ∧ 0x18000 + 4 * 3 + 4 ≤ 0x40000 ∧ meshTarget s q.slot 0 0 = some (⟨0, 0⟩, false) ∧ q.evict ≠ .streaming ∧
    chanKey 0 0 ∉ (s.core ⟨0, 0⟩).closed ∧ storeRefuses s ⟨0, 0⟩ (0x18000 + 4 * 3) 4 (j.words.getD 2 0 + 12) = none := by decide

theorem witness_CopyRequests : let c := tRegs tCore [(4, 0x6000000000000000), (8, 0x7000000000000000), (10, 0x14000)]; bits (c.s 4) 60 4 = 6 ∧ bit (0xFB : Word) 2 = false ∧
    bits (c.s 8) 60 4 = 7 ∧ (c.s 10).toNat < 0x40000 ∧ c.copies.length < 16 ∧ bits (c.s 0) 60 4 = 0 := by decide

/-- A fill of 64 bytes at 0x14000 with its counter at 0x1C000. -/
def tFill : CReq := ⟨0x7300000000000000, 5, 0x14000, 0x0001C00000000040, 0, 14, 0, false, [], [], 0, 0, 0, none, [], none, 0⟩

def tCopies (q : CReq) : State := tState { tCore with copies := [q] }

theorem witness_CopyRequests_start : let s := tCopies tFill; let k := s.cluster 0; k.evict = .none ∧ k.copyTurn = some (0, 0) ∧ s.drained ⟨0, 0⟩ 6 = true ∧
    (s.core ⟨0, 0⟩).copies[0]? = some tFill ∧ (k.core tFill.counter.1).run ≠ .sealed ∧ s.counterFits 0 tFill.counter = true ∧ tFill.wordsBad = false ∧ tFill.mode = 7 ∧
    ({ tFill with w3 := 0x0001C00000000041 } : CReq).wordsBad = true ∧ s.counterFits 0 (0, 0x3C000) = false := by decide
theorem witness_CopyRequests_end : let q := { tFill with started := true }; let s := tCopies q; let c := s.core ⟨0, 0⟩; c.copies = q :: [] ∧ s.flight = [] ∧ (s.cluster 0).addBefore 0 q.seq q.counter = false ∧ q.started = true ∧ q.moved = 0 ∧ q.got = none ∧ q.till ≤ s.cyc ∧ (s.cluster 0).evict ≠ .streaming ∧
    c.run ≠ .sealed ∧ q.wordsBad = false ∧ (∀ b < 14, (c.bank b).converting = false ∧ kindOf (c.bank b).pers = 0) ∧ q.w2.toNat = 0x14000 ∧ 0x14000 + q.len ≤ 0x40000 ∧ q.counter.1 = 0 ∧
    q.counter.2 % 8 = 0 ∧ q.counter.2 + 8 ≤ 0x40000 ∧ 0x14000 + q.len ≤ q.counter.2 ∧ q.mode = 7 := by decide
theorem witness_CopyRequests_banks : let c : Core := { tCore with banks := [(14, Bank.blank 14 0), (15, Bank.blank 15 0)] }
    ∀ b, (c.bank b).converting = false ∧ kindOf (c.bank b).pers = 0 := by
  intro c b
  by_cases h : b = 14
  · subst h; decide
  · by_cases h2 : b = 15
    · subst h2; decide
    · have e : c.bank b = Bank.blank b (defaultPers b) := by
        show aget (Bank.blank b (defaultPers b)) [(14, Bank.blank 14 0), (15, Bank.blank 15 0)] b = _
        simp [aget, Ne.symm h, Ne.symm h2]
      rw [e]; unfold defaultPers; simp [h, h2, Bank.blank, kindOf]
theorem witness_CopyRequests_linear : let q := { tFill with w0 := 0x0300000000000000, w1 := 0x10000 }; q.mode = 0 ∧ q.w1.toNat = 0x10000 ∧ 0x10000 + q.len ≤ 0x14000 ∧
    tCore.store.poisoned 0x10000 q.len = false := by decide

theorem witness_WorkspaceMoves : let c := (tWith [(1, 0x37880)]).me; (14 : Reg).toNat < c.nv ∧ c.nv < (18 : Reg).toNat ∧ c.nv ≤ (16 : Reg).toNat ∧ c.arrayRange c.wp (448 + 64 * 16) = true ∧
    c.convertingIn c.wp (448 + 64 * 16) = false ∧ (c.s 1).toNat % 128 = 0 ∧ c.arrayRange (c.s 1).toNat (448 + 64 * c.nv) = true ∧
    0x40000 < ({ tCore with cr := [(Cr.wp, 0x3FF80)] } : Core).wp + (448 + 64 * 0) ∧ 0x40000 ≤ (0x40000 : Word).toNat ∧ (0x10040 : Word).toNat % 128 ≠ 0 := by decide
/-- A core whose bank 5 holds a queue, or is converting, where a workspace of 16 registers at 0x13F80 would end. -/
def tBeside (b : Bank) : Core := { (tCore.setBank 5 b) with cr := [(Cr.wsize, 16), (Cr.wp, 0x13F80)] }

theorem witness_WorkspaceMoves_ends : let c := tBeside (Bank.blank 5 0x80001); let d := tBeside { Bank.blank 5 0 with converting := true }
    c.nv ≤ 16 ∧ c.wp + (448 + 64 * 16) ≤ 0x40000 ∧ c.convertingIn c.wp (448 + 64 * 16) = false ∧ (5 * 0x4000 < c.wp + (448 + 64 * 16) ∧ c.wp < 5 * 0x4000 + 0x4000 ∧ kindOf (c.bank 5).pers ≠ 0) ∧
    (∀ a < 5, ¬ (a * 0x4000 < c.wp + (448 + 64 * 16) ∧ c.wp < a * 0x4000 + 0x4000 ∧ kindOf (c.bank a).pers ≠ 0)) ∧
    d.convertingIn d.wp (448 + 64 * 16) = true ∧ (0x13F80 : Word).toNat < 0x40000 ∧ (0x13F80 : Word).toNat % 128 = 0 ∧ ¬ (0x3FF80 : Word).toNat + (448 + 64 * 16) ≤ 0x40000 := by decide
theorem witness_MessagesAndTriggers_refusals : let s : State := tWith [(1, 0x02400000), (2, 0x00080000), (3, 1)]; 8 < bits (s.me.s 1) 22 4 ∧ ((1 : Reg) ≠ 0 ∧ (1 : Reg).toNat + 9 ≤ 32) ∧
    bits (s.me.s 2) 22 4 = 0 ∧ bits (s.me.s 2) 0 22 ≠ 0 ∧ placed s s.mine.slot (bits (s.me.s 2) 51 13) = none ∧ ∀ vc core, vc < 8192 → core < 8 → s.me.s 3 ≠ meshAddr vc core 0 := by
  refine ⟨by decide, by decide, by decide, by decide, by decide, fun vc core hv hc h => ?_⟩
  have e : (tWith [(1, 0x02400000), (2, 0x00080000), (3, 1)]).me.s 3 = 1 := by decide
  rw [e] at h
  have k := congrArg BitVec.toNat h
  unfold meshAddr at k
  rw [BitVec.toNat_ofNat, Nat.mod_eq_of_lt (by omega)] at k
  have e1 : (1 : Word).toNat = 1 := by decide
  omega
theorem witness_MessagesAndTriggers_messages : let s : State := { tWith [(1, 0x0000000002000000), (3, 0xFF)] with placement := [(0, ⟨false, 0⟩), (8191, ⟨false, 5⟩)] }; let h := s.me.s 1
    bits h 22 4 = 8 ∧ (24 : Reg) ≠ 0 ∧ (24 : Reg).toNat + 8 ≤ 32 ∧ 32 < (25 : Reg).toNat + 8 ∧ bits h 0 22 = 0 ∧ (placed s s.mine.slot (bits h 51 13)).isSome = true ∧ bits h 46 2 = 0 ∧
    bits (0x400000000000 : Word) 46 2 ≠ 0 ∧ (s.me.s 3).toNat < 256 ∧ 256 ≤ (0x100 : Word).toNat ∧ (∀ j < 8, chanKey (bits h 51 13) j ∉ s.me.closed) ∧
    meshAddr 8191 7 0 = 0x4000001FFFE00000 := by decide
theorem witness_MessagesAndTriggers_triggers : let t (st : TrigSt) (e : W32) (b : Option Nat) : Core := { tCore with trigs := [(62, ⟨st, 0, e, b, 0, none⟩)], classes := [(3, ⟨0, 4, 1, false⟩), (4, ⟨0, 4, 1, true⟩)] }
    62 < (63 : Nat) ∧ (62 : Nat) ≤ 62 ∧ ((t .armed 0 none).trig 62).st ≠ .disarmed ∧ ((t .disarmed 5 none).trig 62).early.toNat < 6 ∧ 5 ≤ ((t .disarmed 5 none).trig 62).early.toNat ∧
    ((t .disarmed 5 none).trig 62).binding = none ∧ ((t .disarmed 5 (some 3)).trig 62).binding = some 3 ∧ (t .pending 5 none).classOf 3 = some ⟨0, 4, 1, false⟩ ∧
    ((t .pending 5 none).trig 62).st = .pending ∧ bit (0x10 : Word) 4 = true ∧ (31 : Word).toNat < 32 ∧ (t .pending 0 none).ready.length < 64 ∧ tCore.classOf 15 = none ∧
    (t .pending 0 none).classOf 4 = some ⟨0, 4, 1, true⟩ ∧ 64 ≤ (List.replicate 64 (0 : Nat)).length := by decide


/-- Cluster 0 with two cores. -/
def tTwo (c d : Core) : State := { tState c with clusters := [(0, { Cluster.blank with powered := true, group := ⟨true, 0x8000000000001000, .none, none, none⟩, cores := [(0, c), (1, d)] })] }

def tClu : Core := { tCore with act := some { tAct with cluster := true } }

theorem witness_HaltsEndActivations : let s := tWith []; s.me.act = some tAct ∧ s.me.untraced ∧ s.cur.core < 8 ∧ tAct.cluster = false ∧ afind ({ tCore with keeps := [(1, 0x30, 2)] } : Core).keeps 1 = some (0x30, 2) ∧
    (let t := tTwo tClu tClu; t.me.act = some { tAct with cluster := true } ∧ t.me.untraced ∧ t.mine.group.active = true ∧ ¬ (∀ j < 8, j ≠ t.cur.core → (t.mine.core j).arrived = true)) ∧
    (let t : State := { tState tClu with clusters := [(0, { Cluster.blank with powered := true, group := ⟨true, 0x8000000000001000, .none, none, none⟩, cores :=
        [(0, tClu)] ++ ((List.range 7).map (fun j => (j + 1, { tClu with run := .halted, act := none, past := true })))})] }
     t.mine.group.active = true ∧ t.me.act = some { tAct with cluster := true } ∧ t.me.stopped = false ∧ t.me.stopReq = none ∧
        ∀ j < 8, j ≠ t.cur.core → (t.mine.core j).arrived = true ∧ (t.mine.core j).run ≠ .joining) := by
  unfold Core.untraced; decide

/-- A core in a handler whose header at 0x800 holds what it returns to. -/
def tHandler (nv : Word) : Core := { tCore with store := tCore.store.putWords 0x800 [0x8000000000001000, 0x20, 0, nv, 0], cr := [(Cr.wp, 0x800), (Cr.stat, 8), (Cr.twp, 0x800), (Cr.wsize, 0)] }

theorem witness_TrapReturns : let c := (tState (tHandler 16)).me; tCore.tm = false ∧ c.tm = true ∧ (c.cr_ Cr.twpsave).toNat % 128 = 0 ∧ bits (c.store.read8 (c.wp + 24)) 0 5 = 16 ∧
    c.arrayRange (c.cr_ Cr.twpsave).toNat (448 + 64 * 16) = true ∧ bits (c.store.read8 (c.wp + 32)) 46 18 = 0 ∧ bit (c.store.read8 (c.wp + 32)) 45 = false ∧ c.obligation = none ∧
    bits ((tHandler 18).store.read8 0x818) 0 5 = 18 ∧ bits ((tHandler 3).store.read8 0x818) 0 5 % 2 ≠ 0 := by decide
theorem witness_TrapReturns_obligation : let o : OnceRec := ⟨3, 0x8000000000001000, [0, 1], some 0, none, false⟩; let c := { tHandler 16 with obligation := some 3, cr := (Cr.epc, 0x8000000000001000) :: (tHandler 16).cr }
    let s : State := { tState c with clusters := [(0, { Cluster.blank with powered := true, cores := [(0, c)], onces := [o] })] }
    s.me.tm = true ∧ s.me.eretBad = false ∧ s.me.obligation = some 3 ∧ s.mine.onces = [o] ∧ o.id = 3 ∧ o.elected = some s.cur.core ∧ Passes s .eret ∧ o.addr = s.me.cr_ Cr.epc ∧
    (o.receivers.filter fun j => j != s.cur.core) = [1] := by unfold Passes; decide
theorem witness_StopsAndCensus : 0x40000 ≤ (0x40000 : Word).toNat ∧ (0x10001 : Word).toNat % 1024 ≠ 0 ∧ (0x3FC00 : Word).toNat % 1024 = 0 ∧ tCore.arrayRange 0x3FC00 1024 = false ∧
    tCore.arrayRange 0x37C00 1024 = true ∧ (tWith []).mine.census.length ≤ 64 := by decide
theorem witness_GroupMembership : let e : Issued := ⟨0, .instr (.lead 1), some 3, none, 0xC0, 16, [], none⟩; (tWith []).me.att = false ∧ tIssued.me.att = true ∧ (tWith []).me.taken = none ∧
    (tState { tCore with taken := some e }).me.taken = some e ∧ e.mask < 256 ∧ 6 < 8 ∧ e.mask.testBit 6 = true ∧ (∀ i < 6, e.mask.testBit i = false) ∧ e.once = some 3 ∧
    (tWith []).me.inRep = false ∧ onceRefused (governedWhat { tWith [] with hbm := Memory.empty }) = false ∧
    onceRefused (governedWhat (tState { tCore with buf := [⟨0x8000000000001002, .instr .eret, none, none, 1, 16, [], none⟩] })) = true := by decide
theorem witness_JoinsMeet : let s := tTwo tClu { tClu with run := .joining }; s.me.act = some { tAct with cluster := true } ∧ s.me.governed = none ∧ s.me.inRep = false ∧ s.performed 1 ∧
    s.mine.group.active = true ∧ s.cur.core < 8 ∧ s.mine.group.join = none ∧ ¬ (∀ j < 8, j ≠ s.cur.core → (s.mine.core j).arrived = true) ∧ tAct.cluster = false ∧
    (∀ j < s.cur.core, (s.mine.core j).run ≠ .joining) ∧ ((3, true) : Nat × Bool).2 = true ∧ ¬ (({ s with flight := [{ tPosted with vc := 0 }], placement := [(0, ⟨false, 0⟩)] } : State).performed 1) := by
  unfold State.performed; decide
theorem witness_JoinsMeet_last : let s := { tState tClu with clusters := [(0, { Cluster.blank with powered := true, group := ⟨true, 0x8000000000001000, .none, some (15, false), none⟩, cores :=
    [(0, tClu)] ++ ((List.range 7).map (fun j => (j + 1, { tClu with run := .joining })))})] }
    (∀ j < 8, j ≠ s.cur.core → (s.mine.core j).arrived = true) ∧ s.mine.group.join = some (15, false) ∧ s.mine.group.active = true := by decide
theorem witness_Repetitions : let s := State.reset.withFetchWord 32 0x0842405F; let p := s.me.pc; s.me.att = false ∧ nvClash s = none ∧ regFault (.rep 4 1 1 1) s.me = none ∧ s.me.taken = none ∧
    (bodyRefused s.feat0 [(p + 4, .instr .eret)]).isSome = true ∧ bodyRefused s.feat0 [(p + 4, .instr (.ldd 2 2 0))] = none ∧
    (let e : Issued := ⟨p, .instr (.rep 4 1 1 1), none, none, 1, 16, [(p + 4, .instr (.ldd 2 2 0))], none⟩; let d := tState { tCore with taken := some e }
      d.me.taken = some e ∧ repBody 1 d = e.body ∧ bodyRefused d.feat0 (repBody 1 d) = none) ∧ (s.me.s 4).toNat % 2 ^ 32 = 0 ∧
    ((tWith [(4, 0xFFFFFFFF)]).me.s 4).toNat % 2 ^ 32 ≠ 0 := by decide
theorem witness_Repetitions_body : let c (pos pass n : Nat) : Core := { tCore with cr := [(Cr.wsize, 16), (Cr.repstate, BitVec.ofNat 64 (2 ^ 45 + 2 ^ 36 + pos * 2 ^ 32 + pass))], repBuf := [(0x8000000000001004, .instr .nop), (0x8000000000001008, .instr .nop)], repCount := n }
    (c 0 0 2).inRep = true ∧ (c 0 0 2).governed = none ∧ (c 0 0 2).att = false ∧ (c 0 0 2).repPos < (c 0 0 2).repLen ∧ (c 1 0 2).repPos = (c 1 0 2).repLen ∧
    (c 1 0 2).repPass + 1 < (c 1 0 2).repCount ∧ (c 1 1 2).repCount ≤ (c 1 1 2).repPass + 1 ∧ (c 1 0 2).repPass + 1 < 2 ^ 32 := by decide

theorem witness_ActivationsStart_waits : let c : Core := { tCore with wait := some (.time 5) }; (tState c).cyc < 5 ∧ (tState c).me.wait = some (.time 5) ∧ Cond.time 5 ∉ [Cond.retry, .port, .order] ∧ Cond.time 5 ≠ .converting 3 ∧ c.wp = 0 ∧ Cond.holds (tState c) ⟨0, 0⟩ (.time 5) = false ∧
    Cond.holds (tState c) ⟨0, 0⟩ (.time 0) = true ∧ tCore.wait = none ∧ [(⟨tAct, .time 0⟩ : Parked)].find? (fun p => p.act.frame == 0 && p.cond.holds (tState c) ⟨0, 0⟩) = some ⟨tAct, .time 0⟩ ∧
    (let d : Core := { tCore with engPend := true }; d.engPend = true ∧ d.tm = false ∧ d.run = .running ∧ d.pend = none ∧ d.conv = none ∧ d.stopped = false ∧ (tState d).selfPosted ⟨0, 0⟩ = false) ∧
    (let d : Core := { c with att := true, buf := List.replicate 16 ⟨0, .instr .nop, none, none, 1, 16, [], none⟩ }; d.att = true ∧ d.run = .running ∧ d.waits = true ∧ 16 ≤ d.buf.length) := by decide

/-- A core with one item in its inbox: class 3, to trigger slot k with delta d. -/
def tInbox (h : Word) (t : Assoc Trig) : Core := (({ tCore with run := .idle, act := none, trigs := t, classes := [(3, ⟨0x8000000000002000, 4, 1, false⟩)], store := tCore.store.putWords 0x3C040 [h] }).setBank 15
  { Bank.blank 15 0x00800001 with ring := [(0, .item)], nextSlot := 1 })

set_option maxRecDepth 20000 in
theorem witness_ActivationsStart_inbox : let c := tInbox 0x3FC00000000 []; let d (t : Trig) : Core := tInbox 0x1408000000 [(5, t)]; let h := (d ⟨.armed, 2, 0, some 3, 0, none⟩).inboxItem 0
    c.run ≠ .sealed ∧ ((tState c).cluster 0).evict ≠ .streaming ∧ c.redeliver = [] ∧ (c.bank 15).acquire.isSome = true ∧ bits ((c.inboxItem 0).headD 0) 34 6 = 63 ∧
    c.classOf (bits ((c.inboxItem 0).headD 0) 40 4) = some ⟨0x8000000000002000, 4, 1, false⟩ ∧ c.ready.length < 64 ∧ bits (h.headD 0) 34 6 = 5 ∧ bits (h.headD 0) 26 8 = 2 ∧
    ((d ⟨.disarmed, 0, 0, none, 0, none⟩).trig 5).st ≠ .armed ∧ (2 < ((d ⟨.armed, 3, 0, none, 0, none⟩).trig 5).remaining.toNat) ∧
    (((d ⟨.armed, 2, 0, some 3, 0, none⟩).trig 5).remaining.toNat ≤ 2 ∧ ((d ⟨.armed, 2, 0, some 3, 0, none⟩).trig 5).binding = some 3) := by decide
theorem witness_ActivationsStart_start : let e : Ready := ⟨3, 1, none, 63, some 0, 0, 0, 0⟩; let c := { tInbox 0x3FC00000000 [] with ready := [e], freeHead := 0 }; let s := { tState c with cyc := 2 ^ 20 }
    (s.core ⟨0, 0⟩).ready[0]? = some e ∧ e.level < 3 ∧ 2 ^ 20 ≤ (s.cyc - e.since).toNat ∧ (s.cluster 0).evict = .none ∧ c.run = .idle ∧ c.act = none ∧ c.stopped = false ∧ c.stopReq = none ∧
    c.redeliver = [] ∧ c.untraced ∧ (∀ x ∈ c.ready, x.level ≤ e.level) ∧ (∀ x ∈ c.ready.take 0, x.level < e.level) ∧ e.resume = none ∧ c.freeHead ≠ BitVec.allOnes 64 ∧
    (tInbox 0 []).freeHead = BitVec.allOnes 64 ∧ c.classOf e.cls = some ⟨0x8000000000002000, 4, 1, false⟩ ∧ ({ e with resume := some tAct } : Ready).resume = some tAct := by
  unfold Core.untraced; decide
theorem witness_ActivationsStart_group : let a : Core := { tClu with run := .accepted }; let s := { tState a with clusters := [(0, { Cluster.blank with cores :=
      ((List.range 7).map fun j => (j, { tCore with run := .sealed })) ++ [(7, a)] })] }; let k := s.cluster 0
    k.evict = .none ∧ 7 < 8 ∧ (k.core 7).run = .accepted ∧ (k.core 7).act = some { tAct with cluster := true } ∧ (∀ j < 7, (k.core j).run = .sealed) ∧
    (∀ j < 8, (k.core j).run = .sealed ∨ ((k.core j).run = .accepted ∧ (k.core j).act.isSome = true ∧ (k.core j).stopped = false)) := by decide


/-! A module in state 5 whose one powered cluster waits for the launch that a packet at the head of queue 0 describes: its context's tables
map the first GiB to itself (R284), slot 0 and region 1 describe it (R272, R283), and its code object stands at 0x8000 (R269). -/

def tHbm : Memory := ((((Memory.empty.putWords 0x1000 [0x2001]).putWords 0x2000 [0x3001]).putWords 0x3000 [0xDF]).putWords 0x4000 [0x10005, 0x1000]).putWords 0x5040
  [0xFFFF000500001F01, 0x20004]

def tCode : Memory := ((tHbm.putWords 0x8000 [1, 0x100]).putWords 0x8078 [0x0080000100000000]).putWords 0x8080 [0x0104000000000000]

def tPacket : List Word := [0x0001000100000000, 0x8000000000008000, 0x8000000000009000, 0x800000000000A000, 0, 0, 0x104, 7]

def tEntry : QEntry := ⟨0, (List.range 8).map fun i => (i, tPacket.getD i 0), 0, none, some 0⟩

def tStation : State := { State.reset with
  feat0 := 0xFF, hbm := tCode, boot := { Boot.reset with state := 5, inReset := false, romRead := true, waves := 32 },
  ctl := [(Reg.regbase, 0x5000), (Reg.slotbase, 0x4000)], clusters := [(0, { Cluster.blank with powered := true })],
  queues := [(0, ⟨0, 1, 0, 0, [tEntry]⟩)], pushes := 1 }

/-- The launch that the station admits. -/
def tAdmitted : Except Nat Launch := (admitLaunch (tStation.setQueue 0 (({ tStation.queue 0 with take := 1, entries := [] } : Queue).skip 32)) 0 0 tPacket (tPacket.getD 2 0) none).1

set_option maxRecDepth 20000 in
theorem witness_LaunchStations_take : tStation.readyHead 0 = some (tEntry, 0) ∧ tStation.flaws = [] ∧ tEntry.packet = tPacket ∧ depFieldsOk tPacket = true ∧
    tPacket.getD 4 0 = 0 ∧ bit (tPacket.getD 0 0) 17 = false ∧ packetOk tPacket = true ∧ peerDenied tStation 0 tEntry = false ∧ (match tAdmitted with | .ok l => l.id == 1 && l.need == 1 | _ => false) = true ∧
    depFieldsOk (setAt tPacket 4 1) = false ∧ packetOk (setAt tPacket 1 0x8000000000008001) = false ∧
    (match (admitLaunch tStation 0 0 (setAt tPacket 0 0x0002000100000000) 0 none).1 with | .error c => c == lREGION | _ => false) = true := by decide
/-- A launch of one core task that waits for its one cluster. -/
def tLaunch : Launch :=
  { id := 1, queue := 0, order := 0, path := [(1, 4)], pid := 5, slot := 0, prio := 2, policy := 0, vb := 0, need := 1, count := 1, cluster := false,
    cohort := false, cls := 0, nv := 4, frames := 1, param := 0, counter := 0x800000000000A000, tag := 7,
    code := ⟨0x8000000000008000, 0x8000000000008100, [], [(0, ⟨0x8000000000008100, 4, 0, false⟩)], []⟩, next := 0, firstPlaced := none, vcs := [], cores := [], replay := none,
    ctx := ⟨5, 0x1000, 0⟩, held := [], ended := false }

def tWaiting : State := { tStation with queues := [], launches := [tLaunch] }

theorem witness_LaunchStations_place : tWaiting.launchNo 1 = some tLaunch ∧ tWaiting.mayPlace tLaunch = true ∧ tWaiting.placement_ tLaunch = [(0, 0)] ∧
    tWaiting.mayPlace { tLaunch with next := 1 } = false := by decide


/-- The launch placed on cluster 0, its one core task done. -/
def tRunning (c : Core) (l : Launch) : State := { tWaiting with clusters := [(0, { Cluster.blank with powered := true, launch := 1, pid := 5, cores := [(0, c)] })], launches := [l], contexts := [(0, ⟨5, 0x1000, 0⟩)], placement := [(0, ⟨false, 0⟩)] }

def tIdle : Core := { tCore with run := .idle, act := none }
def tGone : Launch := { tLaunch with next := 1, vcs := [0], cores := [(0, 0)] }

theorem witness_LaunchesEnd : let s := tRunning tIdle tGone; s.mayEnd ⟨0, 0⟩ = true ∧ (∀ j < 8, j ≠ 0 → ((s.cluster 0).core j).run = .off) ∧ tCore.run ≠ .idle ∧
    (let t : State := s.updCore ⟨0, 5⟩ fun _ => tIdle; t.mayEnd ⟨0, 0⟩ = true ∧ ∃ j < 8, j ≠ 0 ∧ ((t.cluster 0).core j).run ≠ .off) := by
  refine ⟨by decide, by decide, by decide, by decide, ⟨5, by decide, by decide, by decide⟩⟩
set_option maxRecDepth 20000 in
theorem witness_LaunchesEnd_records : let rec_ : List Word := List.replicate 4 7; let h : Held := ⟨14, rec_, some (0, 0x1C000, 3)⟩; let c := { tIdle with held := [h] }; c.held = [h] ∧ (c.commitRecord h).isSome = true ∧ ((tState c).cluster 0).evict ≠ .streaming ∧ (pushItem c 14 64 (rec_ ++ [0, 0, 0, 0])).isSome = true ∧
    (let d : Core := { c with banks := [(14, Bank.blank 14 0)] }; pushItem d 14 64 (rec_ ++ [0, 0, 0, 0]) = none ∧ d.commitRecord h = none) := by decide
theorem witness_LaunchesEnd_banks : tCore.keptFor 3 = none ∧ ((tCore.setBank 3 { Bank.blank 3 0 with keepClass := some 1 }).keptFor 3 ≠ none) ∧ (tCore.bank 3).first = 3 ∧ (tCore.bank 3).gsize = 0 := by decide
set_option maxRecDepth 20000 in
theorem witness_LaunchesEnd_complete : let l := { tGone with cores := [] }; let s := tRunning tIdle l; s.launchNo 1 = some l ∧ l.cores = [] ∧ l.ended = false ∧ l.need ≤ l.next ∧ l.replay = none ∧
    stationTranslate s (s.copyFor l.pid l.ctx).root l.counter .both = .ok 0xA000 ∧ 0xA000 < 2 ^ 40 ∧ s.hbm.poisoned 0xA000 8 = false ∧ s.flaws = [] ∧ s.clustersOf 1 ≠ [] ∧
    ({ s with clusters := [] } : State).clustersOf 1 = [] ∧ tLaunch.next < tLaunch.need ∧ tGone.cores ≠ [] := by decide

/-- A load of core 0 that is out at stage g. -/
def tAccess (g : Stage) (a : Word) : Access := ⟨.load 8 false, .ldd 3 1 0, a, 0, (a, 0), 0, 0, 16, none, none, 0, 0, false, some 0, none, false, false, false, g⟩

theorem witness_ItemsInFlight : let s (g : Stage) : State := { tState { tCore with pend := some (tAccess g 0x8000000000000000) } with flight := [{ tPosted with stage := g, since := some 0 }], cyc := 2 ^ 16 }
    ((s (.retry true)).core ⟨0, 0⟩).pend = some (tAccess (.retry true) 0x8000000000000000) ∧ (s (.retry true)).flight[0]? = some { tPosted with stage := .retry true, since := some 0 } ∧
    (s (.backoff 5 0x10001)).cyc < 0x10001 ∧ (0x10000 : Word) ≤ (s (.backoff 5 0x10000)).cyc ∧ 2 ^ 16 ≤ ((s (.retry true)).cyc - 0).toNat ∧ ((s (.retry true)).cyc - 1).toNat < 2 ^ 16 ∧
    tPosted.fromStation = false ∧ tPosted.launch = ((s .bank).cluster 0).launch ∧ ({ tPosted with launch := 1 } : Flight).launch ≠ ((s .bank).cluster 0).launch ∧ (∀ it, tPosted.body ≠ .record it) := by
  refine ⟨by decide, by decide, by decide, by decide, by decide, by decide, by decide, by decide, by decide, fun it h => by cases h⟩

/-- A store and a message for core 0 of cluster 3, placed there as virtual cluster 1 of slot 0. -/
def tArriving (b : FBody) (c : Core) : State := { tState tCore with clusters := [(0, { Cluster.blank with powered := true, cores := [(0, tCore)] }), (3, { Cluster.blank with powered := true, vc := 1, cores := [(0, c)] })], flight := [{ tPosted with body := b }], placement := [(0, ⟨false, 0⟩), (1, ⟨false, 3⟩)] }

set_option maxRecDepth 20000 in
theorem witness_ItemsInFlight_posted : let f := tPosted; let s := tArriving (.store 0x10000 (.store 8 5)) tIdle; let it : List Word := List.replicate 16 9
    s.flight[0]? = some f ∧ f.stage = .bank ∧ (s.flight.take 0 = []) ∧ f.fromStation = false ∧ f.launch = (s.cluster f.src.cl).launch ∧ s.routerFull f = false ∧ placed s 0 1 = some ⟨false, 3⟩ ∧ placed (tWith []) 0 1 = none ∧ (s.cluster 3).evict ≠ .streaming ∧ (s.core ⟨3, 0⟩).run ≠ .sealed ∧
    ((s.core ⟨3, 0⟩).bank 4).converting = false ∧ (s.core ⟨3, 0⟩).hit 0x10000 8 = .plain ∧ (s.core ⟨3, 0⟩).redeliver = [] ∧ (pushItem (s.core ⟨3, 0⟩) 15 128 (setAt it 3 s.cyc)).isSome = true ∧
    pushItem (tIdle.setBank 15 { Bank.blank 15 0x00800001 with ring := (List.range 127).map fun j => (j, .item) }) 15 128 it = none := by decide
theorem witness_AccessesAreServed : let a := tAccess .bank (meshAddr 1 0 0x10000); let s := { tArriving (.flag 0 true) tIdle with flight := [] }.updCore ⟨0, 0⟩ fun c => { c with pend := some a }
    (s.core ⟨0, 0⟩).pend = some a ∧ a.stage = .bank ∧ a.spread = none ∧ a.scale = 0 ∧ placeOf a.addr = .ok (.mesh 1 0 0x10000) ∧ chanKey 1 0 ∉ (s.core ⟨0, 0⟩).closed ∧ s.postedBefore ⟨0, 0⟩ 1 0 = false ∧
    placed s 0 1 = some ⟨false, 3⟩ ∧ placed s 0 2 = none ∧ (s.cluster 3).evict ≠ .streaming ∧ (s.core ⟨3, 0⟩).run ≠ .sealed ∧ (s.core ⟨3, 0⟩).isPort 0x10000 = false ∧ (⟨3, 0⟩ : CoreRef) ≠ ⟨0, 0⟩ ∧ dieOf 3 = dieOf 0 ∧ 0x10000 + a.op.size ≤ 0x40000 ∧
    ((s.core ⟨3, 0⟩).bank 4).converting = false ∧ (s.core ⟨3, 0⟩).hit 0x10000 8 = .plain ∧ placed { s with placement := [(1, ⟨true, 3⟩)] } 0 1 = some ⟨true, 3⟩ := by decide
theorem witness_AccessesAreServed_memory : (0 < 8 ∧ 8 ≤ 8) ∧ Memory.empty.poisoned 0x10000 8 = false ∧ ({ Memory.empty with poison := [0x2000] } : Memory).poisoned 0x10004 4 = true := by decide
theorem witness_AccessesAreServed_home : let a := tAccess (.home 0x1000) 0x8000000000001000; let s := tState { tCore with pend := some a }; let f := { tPosted with body := .gstore 0x1000 (.store 8 5) 0, stage := .home 0x1000 }
    0xFFFFFFFFFF < 2 ^ 40 ∧ (s.core ⟨0, 0⟩).pend = some a ∧ a.stage = .home 0x1000 ∧ s.flaws = [] ∧ s.globalBefore ⟨0, 0⟩ 0x1000 a.op = false ∧ s.edgeHit 0x1000 = false ∧ ({ s with edge := [0x1000 / 64] } : State).edgeHit 0x1000 = true ∧ s.backsOff 0x1000 = none ∧ (a.tag = 0 ∨ stackOf 0x1000 / 2 = dieOf 0) ∧
    ({ s with blocked := [⟨1, 0, 0, 5, []⟩] } : State).backsOff 0x1000 = some 5 ∧ ({ s with flight := [f] } : State).flight[0]? = some f ∧ f.body = .gstore 0x1000 (.store 8 5) 0 := by decide
theorem witness_AccessesAreServed_answer : let a := tAccess (.answered (.value 7 (some 3))) 0x8000000000001000; let b := tAccess (.answered (.trap tMESH 5)) 0x8000000000001000
    (tState { tCore with pend := some a }).me.pend = some a ∧ a.lane = 16 ∧ a.stage = .answered (.value 7 (some 3)) ∧ destOf a.instr = some 3 ∧ b.stage = .answered (.trap tMESH 5) ∧ b.counted = false ∧ tMESH ≠ tLINKLOST := by decide
set_option maxRecDepth 20000 in
theorem witness_TranslationAndMemory : let s := tRunning { tIdle with pend := some (tAccess .translate 0x8000000000001000) } tGone; let st := stationOf 0; (s.core ⟨0, 0⟩).pend = some (tAccess .translate 0x8000000000001000) ∧ s.flaws = [] ∧ s.pendsAt st = [(⟨0, 0⟩, tAccess .translate 0x8000000000001000)] ∧
    s.pageWalks st 0 0x1000 = false ∧ ((s.pendsAt st).filter fun x => x.2.walks).length < 256 ∧
    (let w := tRunning { tIdle with pend := some (tAccess (.walk 4 0x1000 0 (walkSeen s 0x1000 4 0x1000)) 0x8000000000001000) } tGone; w.pageWalks st 0 0x1000 = true ∧ w.pendsAt st = [(⟨0, 0⟩, tAccess (.walk 4 0x1000 0 (walkSeen s 0x1000 4 0x1000)) 0x8000000000001000)]) ∧
    entryAt 0x1000 4 0x1000 + 8 ≤ 2 ^ 40 ∧ 2 ^ 40 < entryAt (2 ^ 41) 4 0 + 8 ∧ cachedLeaf s st 0 0x1000 = none ∧
    cachedPointer s st 0 0x1000 = none ∧ rootOf s 0 = some 0x1000 ∧ rootOf tWaiting 0 = none ∧ cachedLeaf { s with cached := [⟨st, 0, 0, 18, 2, 0xDF⟩] } st 0 0x1000 = some (pteOf 2 0xDF) ∧
    pteOf 2 0xDF = .leaf 0 30 true true true ∧ leafAccess (pteOf 2 0xDF) 0x1000 .read = .ok 0x1000 ∧ leafAccess (pteOf 2 0xD7) 0x1000 .write = .error tPERMISSION ∧
    s.backsOff (entryAt 0x1000 4 0x1000) = none ∧ pteOf 4 (pteRead s 0x1000 4 0x1000) = .pointer 0x2000 ∧ pteOf 2 (pteRead s 0x3000 2 0x1000) = .leaf 0 30 true true true ∧
    pteOf 4 (pteRead s 0x1000 4 (2 ^ 48)) = .none := by decide
theorem witness_TranslationAndMemory_grants : 4 ≤ spaceOf (2 ^ 50) ∧ (spaceOf (2 ^ 40) = 0 ∧ 2 ^ 40 ≤ 2 ^ 40) ∧ (spaceOf (3 * 2 ^ 48) < 4 ∧ spaceOf (3 * 2 ^ 48) ≠ 0) ∧ bit (0xDE : Word) 0 = false ∧ bits (0x10000000000000DF : Word) 52 12 ≠ 0 ∧
    bits (0x1DF : Word) 8 4 ≠ 0 := by decide
theorem witness_TranslationAndMemory_invalidate : (tWith []).invalidating = none ∧ bits (0x10005 : Word) 9 7 = 0 ∧ bits (0x10005 : Word) 48 16 = 0 ∧ bit (0x10005 : Word) 8 = false ∧ bit (0x105 : Word) 8 = true ∧ (tWith []).grantsOf 0 = false ∧
    (tRunning { tCore with pend := some (tAccess (.home 0x1000) 0x8000000000001000) } tGone).grantsOf 0 = true ∧ (tWith []).hostWaits 0 = false ∧ (∀ m, Origin.host ≠ .peer m) := by
  refine ⟨by decide, by decide, by decide, by decide, by decide, by decide, by decide, by decide, fun m h => by cases h⟩


theorem witness_TranslationAndMemory_side : let y : Blocked := ⟨15, 31, 31, 5, [9]⟩; let s : State := { State.reset with blocked := [y], cyc := 5 }; y ∈ s.blocked ∧ y.stack = 15 ∧ y.chan = 31 ∧ y.bank = 31 ∧ y.till ≤ s.cyc ∧
    y.rows = 9 :: [] ∧ 0xFFFFFFFFFF < 2 ^ 40 ∧ 0x3FFFF < 0x40000 ∧
    (let t : State := { State.reset with rows := [(keyOfRow 0x1000, (7, 3))] }; afind t.rows (keyOfRow 0x1000) = some (7, 3)) ∧
    (let u : State := { State.reset with flaws := [(33, true)] }; u.flaws = [(33, true)] ∧ 33 / 8 = 0x108 / 64 ∧ (∀ x ∈ u.flaws, x.1 / 8 ≠ 0 / 64)) := by decide
theorem witness_DeviceWindow_queues : let s : State := tUp 5; let e : QEntry := ⟨33, (List.range 7).map fun i => (i, 5), 0, none, none⟩
    let t : State := { s with queues := [(63, ⟨2, 34, 0, 0, [e]⟩)], cyc := 2 ^ 24 }; 63 < 64 ∧ s.guests = [] ∧ (s.boot.inReset = false ∧ s.boot.romRead = true) ∧ s.dedupFull = false ∧ s.lookup ownerModule 5 0 1 false = .fresh ∧ s.peerRefused .host 63 = false ∧ s.peerRefused (.peer 5) 63 = true ∧ s.boot.state = 5 ∧ State.reset.boot.state ≠ 5 ∧
    (2 : Word) ≠ 1 ∧ (t.queue 63).take + 32 ≤ (t.queue 63).resv ∧ (s.queue 63).resv < (s.queue 63).take + 32 ∧ (t.queue 63).entries.find? (fun e => e.ticket % 32 == 1) = some e ∧
    (t.queue 63).entries.find? (fun e => e.ticket % 32 == 2) = none ∧ (afind e.words 6).isSome = true ∧ afind e.words 7 = none ∧ e.words.length = 7 ∧ 7 < 8 ∧
    (t.queue 63).entries.find? (fun e => e.pushed.isNone && decide (2 ^ 24 ≤ (t.cyc - e.at_).toNat)) = some e := by decide
theorem witness_DeviceWindow_peers : let s : State := { tUp 5 with feat0 := 0x40, ctl := [(0x2000, 0x100000005), (0x2008, 8)] }
    s.peerRefused (.peer 5) 3 = false ∧ s.lookup ownerModule 5 0 1 false = .fresh ∧ s.dedupFull = false ∧ ({ s with dedup := [⟨0, 5, 0, 1, .value 7 none, 0⟩] } : State).lookup ownerModule 5 0 1 false = .recorded (.value 7 none) ∧
    ({ s with marks := [(markKey 0 5 0, 1)] } : State).lookup ownerModule 5 0 1 true = .expired := by decide
theorem witness_DeviceWindow_path : (∀ m, Origin.host ≠ .peer m) ∧ ctlLayout 0x9000 = none ∧ ctlLayout Reg.ramth = some (0x3FFF, 16, 8192) ∧ (0x2000 : Word) &&& ~~~0x3FFF#64 = 0 ∧ 16 ≤ (0x2000 : Word).toNat ∧
    (0x2000 : Word).toNat ≤ 8192 ∧ (0x2001 : Word).toNat > 8192 ∧ (15 : Word).toNat < 16 ∧ (0x4000 : Word) &&& ~~~0x3FFF#64 ≠ 0 ∧ Reg.ramth % 8 = 0 ∧ Reg.ramth ≠ Reg.evbase ∧ State.reset.evicted = [] := by
  refine ⟨fun m h => (by cases h), by decide, by decide, by decide, by decide, by decide, by decide, by decide, by decide, by decide, by decide, by decide⟩

/-- A launch of priority 3 that waits while one of priority 2 holds the only cluster. -/
def tWants : Launch := { tLaunch with id := 2, order := 1, prio := 3, vb := 1 }
def tEvict : State := { tRunning tIdle { tGone with firstPlaced := some 0 } with launches := [{ tGone with firstPlaced := some 0 }, tWants], ctl := [(Reg.evcount, 1), (Reg.evbase, 0x100000)] }

theorem witness_Preemption_start : let s := tEvict; let loc := (s.slotNow tWants).2.loc; s.launchNo 2 = some tWants ∧ bit s.feat0 5 = true ∧ s.servedNext tWants = true ∧ s.evictingFor 2 = false ∧ s.freeBlocks = 0 :: [] ∧
    chooseVictims loc (s.poolFor tWants) (areasOf loc (s.needVcs tWants)) (s.candidates tWants) = some [⟨0, 1, 2, 0, 0⟩] ∧ bit (0xDF : Word) 5 = false := by decide
theorem witness_Preemption_stream : let s := tEvict.updCluster 0 fun k => { k with evict := .moving }; let k := s.cluster 0; k.evict = .moving ∧ s.enginesSettled 0 = true ∧
    (∀ j < 8, (k.core j).run ≠ .sealed ∧ (k.core j).settled = true) := by decide

/-- The cluster on its way out to save block 0. -/
def tOut : Evicted := ⟨0, 1, 0, 0, 0, some 2, 2, false, none, [], none, none⟩
def tSaving : State := { tEvict.updCluster 0 fun k => { k with evict := .streaming } with evicted := [tOut] }

theorem witness_Preemption_save : let s := tSaving; let k := s.cluster 0; k.evict = .streaming ∧ tOut.phys = 0 ∧ tOut.saved = false ∧ tOut.spareDie = none ∧ s.flaws = [] ∧
    s.evicted.find? (fun e => e.phys == 0 && !e.saved) = some tOut ∧ (s.launchNo tOut.launch).isSome = true ∧ s.outOfService.contains 0 = false ∧ s.flight = [] ∧
    (∀ j < 8, (k.core j).run ≠ .sealed ∧ (k.core j).store.wf = true ∧ ∀ p ∈ (k.core j).store.cells, p.1 < 0x40000) := by decide

/-- The cluster saved, and another launch gone. -/
def tSaved : State := { tEvict with evicted := [{ tOut with saved := true, save := some Cluster.blank }], launches := [tGone], clusters := [(0, { Cluster.blank with powered := true })] }

theorem witness_Preemption_resume : let s := tSaved; let e := { tOut with saved := true, save := some Cluster.blank }; s.setOf 0 = [e] ∧ s.launchNo e.launch = some tGone ∧ s.mayResume 0 = true ∧ s.resumeOn 0 = [(0, 0)] ∧
    e.target = none ∧ e.vc = 0 ∧ s.flaws = [] ∧ e.saved = true ∧ e.save = some Cluster.blank ∧ ({ e with target := some 0 } : Evicted).target = some 0 ∧
    (∀ j < 8, s.hbm.poisoned (s.blockBase 0 + 0x42000 * j) 0x42000 = false) ∧ ({ s with evicted := [] } : State).mayResume 0 = false := by decide
theorem witness_SealsAndLinks : let s := tWith []; s.me.run ≠ .sealed ∧ s.launchOf 0 = none ∧ s.me.copies = [] ∧ (∀ j ∈ s.mine.jobs, j.core ≠ 0) ∧ (tState { tCore with run := .sealed }).me.run = .sealed ∧
    s.mine.evict = .none ∧ s.sparesOf (dieOf 0) ≠ 0 ∧ s.outOfService.contains 0 = false ∧ ({ s with outOfService := [1] } : State).sparesOf (dieOf 0) = 0 ∧
    (let t := tRunning { tCore with run := .sealed } { tGone with vcs := [0] }; t.launchOf 0 = some { tGone with vcs := [0] } ∧ 0 ∈ ({ tGone with vcs := [0] } : Launch).vcs ∧ (t.cluster 0).vc = 0) ∧
    (s.mine.launch = 0 ∧ s.mine.powered = true ∧ s.mine.errors < 16 ∧ 16 ≤ ({ s.mine with errors := 16 } : Cluster).errors) ∧
    ((tState { tIdle with stopReq := some 31 }).me.stopReq = some 31 ∧ tIdle.act = none ∧ tIdle.run = .idle ∧ tIdle.untraced ∧ ({ tCore with stopped := true } : Core).stopped = true ∧ s.mine.group.active = false) ∧ s.mine.failed = false ∧ s.mine.waitsOnce 0 = false ∧ s.me.wait = none ∧
    (let c : Core := { tCore with stopReq := some 31, wait := some (.flag 3 true) }; c.run = .running ∧ c.pend = none ∧ c.conv = none ∧ c.wait = some (.flag 3 true) ∧ Cond.flag 3 true ≠ .retry ∧ Cond.flag 3 true ≠ .order) := by
  unfold Core.untraced; decide
theorem witness_SealsAndLinks_links : let a := tAccess .bank (meshAddr 1 0 0x10000); let s := { (tArriving (.flag 0 true) tIdle) with flight := [], placement := [(1, ⟨false, 8191⟩), (2, ⟨false, 3⟩)] }.updCore ⟨0, 0⟩ fun c => { c with pend := some a }
    (s.core ⟨0, 0⟩).pend = some a ∧ a.stage = .bank ∧ a.spread = none ∧ placeOf a.addr = .ok (.mesh 1 0 0x10000) ∧ placed s 0 1 = some ⟨false, 8191⟩ ∧ s.flight = [] ∧ dieOf 8191 ≠ dieOf 0 ∧
    placed s 0 2 = some ⟨false, 3⟩ ∧ dieOf 3 = dieOf 0 ∧ (s.linksOf 0 8191).isEmpty = false ∧ (∀ l ∈ s.linksOf 0 8191, l < 320) ∧ s.linksOf 0 3 = [] ∧
    (let b : Access := { a with far := true, stage := .answered (.value 5 none) }; b.far = true ∧ (s.linksOf 8191 0).isEmpty = false) ∧ 35 < 36 ∧ ((0 : Word) - 0).toNat < 16384 ∧ 16384 ≤ ((0x4000 : Word) - 0).toNat ∧
    ({ s with dedup := [⟨0, 256, 0, 5, .value 0 none, 0⟩] } : State).dedup[0]? = some ⟨0, 256, 0, 5, .value 0 none, 0⟩ := by decide
theorem witness_HostPeersAndPlatform_requests : let s : State := { tUp 4 with feat0 := 0xFF, ctl := [(0x37E0, 0x705), (0x37E8, 0), (0x37F0, 0x1000)] }
    (s.boot.inReset = false ∧ s.boot.romRead = true) ∧ (Boot.reset.inReset = true ∧ ({ Boot.reset with inReset := false } : Boot).romRead = false) ∧ (s.boot.state = 4 ∨ s.boot.state = 5) ∧ ¬ (State.reset.boot.state = 4 ∨ State.reset.boot.state = 5) ∧ (2 ^ 40 - 8) + 8 ≤ 2 ^ 40 ∧ s.flaws = [] ∧ s.guests = [] ∧ s.lineBlocked 0x100 8 = none ∧ (({ s with blocked := [⟨0, 0, 0, 5, []⟩] } : State).lineBlocked 0 8).isSome = true ∧ ((3 ≠ 4 ∧ 3 ≠ 8) ∧ 4 % 8 ≠ 0) ∧ 0x100 % 8 = 0 ∧
    s.hbm.poisoned 0x100 8 = false ∧ ({ Memory.empty with poison := [0x20] } : Memory).poisoned 0x100 8 = true ∧ bit s.feat0 6 = true ∧ bit State.reset.feat0 6 = false ∧ s.pmemAllows 63 5 0xFF8 8 true true = true ∧
    (∀ e < 64, s.pmemAllows e 6 0 8 true false = false) ∧ 11 < 12 ∧ (5 : Nat) ≠ ownModule ∧ s.dedupFull = false ∧ s.lookup ownerModule 5 0 1 false = .fresh ∧
    ({ s with marks := [(markKey 0 5 0, 1)] } : State).lookup ownerModule 5 0 1 true = .expired ∧ ({ s with dedup := [⟨0, 5, 0, 1, .value 7 none, 0⟩] } : State).lookup ownerModule 5 0 1 false = .recorded (.value 7 none) := by decide
theorem witness_HostPeersAndPlatform_boot : let b := Boot.reset; b.inReset = true ∧ ({ b with inReset := false } : Boot).romRead = false ∧ ({ State.reset with boot := { b with inReset := false, romRead := true, checking := true } } : State).firmware = none ∧
    ({ b with state := 2, waves := 31 } : Boot).waves < 32 ∧ b.state ≠ 2 ∧ ({ b with state := 3 } : Boot).state = 3 ∧ ({ b with state := 4 } : Boot).state = 4 ∧ bits (0xFF : Word) 8 56 = 0 ∧ b.state ≠ 4 := by decide
theorem witness_HostPeersAndPlatform_images (l c : List Byte) (h : imageOk l 1 = true) (k : imageOk c 2 = true) :
    let s : State := { State.reset with boot := { Boot.reset with inReset := false, romRead := true, checking := true }, flash := { Flash.blank with firmware := [l], config := [c] } }
    s.firmware = some (0, l) ∧ chooseSlot (s.flash.config.take 2) 2 s.flash.minConfig = some (0, c) := by
  constructor
  · have hm : Boot.recoveryMode { Boot.reset with inReset := false, romRead := true, checking := true } = false := by decide
    simp [State.firmware, hm, Flash.blank, chooseSlot, insertSlot, h]
  · show chooseSlot [c] 2 0 = _
    simp [chooseSlot, insertSlot, k]
theorem witness_HostPeersAndPlatform_window : let b := { Boot.reset with inReset := false, romRead := true, straps := 0x100 }; (b.inReset = false ∧ b.romRead = true ∧ bit b.straps 8 = true ∧ b.checking = false ∧ b.state = 0) ∧ 0x7FFF0 + 8 ≤ 0x7FFF8 ∧ 0x7FFF8 < 0x7FFF1 + 8 ∧
    ¬ (bit Boot.reset.straps 8 = true) ∧ bits (0x1000 : Word) 0 6 = 0 ∧ bits (0x1000 : Word) 52 12 = 0 ∧ b.attesting = none ∧ bits (1 : Word) 0 6 ≠ 0 ∧ 2 ^ 20 ≤ ({ Flash.blank with sigIndex := 2 ^ 20 } : Flash).sigIndex ∧
    ({ b with attesting := some (0x1000, []) } : Boot).attesting = some (0x1000, []) ∧ b.pwrLimit.toNat < 5401 ∧ b.duty = 16 ∧ 4 < b.duty ∧ 8191 < 8192 ∧
    5199 + 200 < b.pwrLimit.toNat ∧ (5200 ≤ b.pwrLimit.toNat ∧ b.pwrLimit.toNat ≤ 5200 + 200) := by decide
theorem witness_MemoryStaysCanonical : State.reset.Canonical := by
  refine ⟨by decide, fun r => ?_, fun e h => by cases h⟩
  show ((Core.blank).store).wf = true
  decide
theorem witness_FlashAndFeaturesHold : ∃ t, step { State.reset with agenda := [.event .perstAssert] } = .next t := ⟨_, rfl⟩

end Sys2Proof.Machine
end

section
/-! SUPPORT. Every step answers a next state, and how far the clock moves behind it (R6, R25, R350). -/
namespace Sys2Proof.Machine
open Sys2Proof

/-! ## Outcomes that are a next state -/

/-- An outcome is a next state: the module goes on. -/
def Continues (o : Host.Outcome State Fault Refusal) : Prop := ∃ t, o = .next t

theorem Continues.next (t : State) : Continues (.next t) := ⟨t, rfl⟩

theorem Continues.ite {c : Prop} {d : Decidable c} {a b : Host.Outcome State Fault Refusal} (ha : Continues a) (hb : Continues b) :
    Continues (if c then a else b) := by
  split
  · exact ha
  · exact hb

/-! ## The steps of other agents whose meaning has more than one guard

Each proof follows the branches of its meaning: every one ends in a next state. -/

theorem execWaitSatisfied_continues (r : CoreRef) (frame : Nat) (s : State) : Continues (execWaitSatisfied r frame s) := by
  refine .ite (.next _) ?_
  split
  · exact .ite (.next _) (.next _)
  · exact .next _

theorem execBankConversionEnd_continues (r : CoreRef) (s : State) : Continues (execBankConversionEnd r s) := by
  unfold execBankConversionEnd
  split <;> exact .next _

theorem execMatrixGrant_continues (cl : Nat) (s : State) : Continues (execMatrixGrant cl s) := by
  unfold execMatrixGrant
  dsimp only
  refine .ite (.next _) ?_
  split <;> exact .next _

theorem execMatrixRetire_continues (cl : Nat) (residue : List (Nat × Nat × Nat)) (shadow : List (Nat × Shadow)) (s : State) :
    Continues (execMatrixRetire cl residue shadow s) := by
  unfold execMatrixRetire
  split
  · exact .next _
  · dsimp only
    split
    · exact .next _
    · exact .ite (.next _) (.next _)
    · exact .ite (.next _) (.next _)

theorem execMatrixPortCommand_continues (r : CoreRef) (s : State) : Continues (execMatrixPortCommand r s) := by
  unfold execMatrixPortCommand
  dsimp only
  split
  · exact .next _
  · split
    · exact .next _
    · refine .ite (.next _) (.ite (.next _) ?_)
      split <;> exact .next _
    · refine .ite (.next _) ?_
      split
      · exact .next _
      · exact .ite (.next _) (.next _)
    · exact .next _

theorem execTileWriteEnd_continues (cl : Nat) (s : State) : Continues (execTileWriteEnd cl s) := by
  unfold execTileWriteEnd
  dsimp only
  split <;> exact .next _

theorem execQueueReserve_continues (src : Origin) (q : Nat) (v : Word) (core tag : Nat) (reissue : Bool) (s : State) :
    Continues (execQueueReserve src q v core tag reissue s) := by
  refine .ite ?_ (.next _)
  split <;> exact .next _

theorem execInvalidationComplete_continues (s : State) : Continues (execInvalidationComplete s) := by
  unfold execInvalidationComplete
  split
  · exact .next _
  · exact .ite (.next _) (.next _)

theorem execAttestationComplete_continues (s : State) : Continues (execAttestationComplete s) := by
  unfold execAttestationComplete
  split <;> exact .next _

theorem execRuleJobStart_continues (cl : Nat) (s : State) : Continues (execRuleJobStart cl s) := by
  unfold execRuleJobStart
  dsimp only
  split
  · exact .next _
  · refine .ite (.next _) (.ite (.next _) (.ite (.next _) ?_))
    split
    · exact .next _
    · split <;> exact .next _

theorem execRuleJobEnd_continues (cl : Nat) (s : State) : Continues (execRuleJobEnd cl s) := by
  unfold execRuleJobEnd
  split
  · exact .next _
  · refine .ite (.next _) ?_
    split <;> exact .next _

theorem execCopyStart_continues (r : CoreRef) (s : State) : Continues (execCopyStart r s) := by
  unfold execCopyStart
  dsimp only
  split
  · exact .next _
  · refine .ite (.next _) ?_
    split
    · exact .next _
    · refine .ite (.next _) (.ite (.next _) ?_)
      split
      · exact .next _
      · refine .ite (.next _) (.ite (.next _) (.ite (.next _) (.ite (.next _) (.ite (.next _) ?_))))
        split <;> exact .next _

theorem execCopyEnd_continues (r : CoreRef) (n : Nat) (s : State) : Continues (execCopyEnd r n s) := by
  unfold execCopyEnd
  split
  · exact .next _
  · refine .ite (.next _) ?_
    split <;> exact .next _

theorem execBankOperationRequest_continues (q : Req) (s : State) : Continues (execBankOperationRequest q s) := by
  cases q with
  | guest i => exact .next _
  | posted i =>
    dsimp only [execBankOperationRequest]
    split
    · exact .next _
    · refine .ite (.next _) ?_
      split
      · exact .next _
      · exact .next _
      · split <;> exact .next _
  | pend r =>
    dsimp only [execBankOperationRequest]
    split
    · exact .next _
    · refine .ite (.next _) ?_
      split
      · exact .next _
      · split <;> exact .next _

theorem execMessageArrival_continues (i : Nat) (s : State) : Continues (execMessageArrival i s) := by
  unfold execMessageArrival
  split
  · exact .next _
  · split
    · refine .ite (.next _) ?_
      split
      · exact .next _
      · exact .next _
      · refine .ite (.ite (.next _) (.next _)) ?_
        split <;> exact .next _
    · exact .next _

theorem execRetryReissue_continues (q : Req) (s : State) : Continues (execRetryReissue q s) := by
  cases q with
  | guest i => exact .next _
  | posted i =>
    dsimp only [execRetryReissue]
    split
    · split <;> exact .next _
    · exact .next _
  | pend r =>
    dsimp only [execRetryReissue]
    split
    · split <;> exact .next _
    · exact .next _

theorem execRetryTimeout_continues (q : Req) (s : State) : Continues (execRetryTimeout q s) := by
  cases q with
  | guest i => exact .next _
  | posted i =>
    dsimp only [execRetryTimeout]
    split
    · exact .ite (.next _) (.next _)
    · exact .next _
  | pend r =>
    dsimp only [execRetryTimeout]
    split
    · exact .ite (.next _) (.next _)
    · exact .next _

theorem execBackoffReissue_continues (q : Req) (s : State) : Continues (execBackoffReissue q s) := by
  cases q with
  | guest i => exact .next _
  | posted i =>
    dsimp only [execBackoffReissue]
    split
    · split
      · exact .ite (.next _) (.next _)
      · exact .next _
    · exact .next _
  | pend r =>
    dsimp only [execBackoffReissue]
    split
    · split
      · exact .ite (.next _) (.next _)
      · exact .next _
    · exact .next _

theorem execTranslationRequest_continues (q : Req) (s : State) : Continues (execTranslationRequest q s) := by
  cases q with
  | guest i => exact .next _
  | posted i => exact .next _
  | pend r =>
    dsimp only [execTranslationRequest]
    split
    · exact .next _
    · refine .ite (.next _) ?_
      split
      · exact .next _
      · refine .ite (.next _) (.ite (.next _) ?_)
        split <;> exact .next _

theorem execWalkStepComplete_continues (q : Req) (s : State) : Continues (execWalkStepComplete q s) := by
  cases q with
  | guest i => exact .next _
  | posted i => exact .next _
  | pend r =>
    dsimp only [execWalkStepComplete]
    split
    · exact .next _
    · split
      · refine .ite (.next _) (.ite (.next _) ?_)
        split <;> exact .next _
      · exact .next _

theorem execMemoryRequest_continues (q : Req) (e : Ecc) (s : State) : Continues (execMemoryRequest q e s) := by
  cases q with
  | guest i => exact .next _
  | posted i =>
    dsimp only [execMemoryRequest]
    split
    · exact .next _
    · split
      · exact .ite (.next _) (.next _)
      · exact .ite (.next _) (.ite (.next _) (.next _))
      · exact .next _
  | pend r =>
    dsimp only [execMemoryRequest]
    split
    · exact .next _
    · split <;> exact .next _

theorem execAccessResponse_continues (r : CoreRef) (ans : Answer) (s : State) : Continues (execAccessResponse r ans s) := by
  unfold execAccessResponse
  split
  · exact .next _
  · dsimp only
    split <;> exact .next _

theorem execDedupEntryExpiry_continues (i : Nat) (s : State) : Continues (execDedupEntryExpiry i s) := by
  unfold execDedupEntryExpiry
  split
  · exact .next _
  · exact .ite (.next _) (.next _)

theorem execInboxItemHandle_continues (r : CoreRef) (s : State) : Continues (execInboxItemHandle r s) := by
  refine .ite (.next _) ?_
  dsimp only
  split <;> exact .next _

theorem execActivationStart_continues (r : CoreRef) (s : State) : Continues (execActivationStart r s) := by
  refine .ite (.next _) ?_
  split <;> exact .next _

theorem execReadyPromotion_continues (r : CoreRef) (n : Nat) (s : State) : Continues (execReadyPromotion r n s) := by
  unfold execReadyPromotion
  split
  · exact .ite (.next _) (.next _)
  · exact .next _

theorem execStopAtBoundary_continues (r : CoreRef) (s : State) : Continues (execStopAtBoundary r s) := by
  unfold execStopAtBoundary
  dsimp only
  split
  · exact .next _
  · exact .ite (.ite (.next _) (.next _)) (.next _)

theorem execLaunchTake_continues (q : Nat) (s : State) : Continues (execLaunchTake q s) := by
  unfold execLaunchTake
  split
  · exact .next _
  · dsimp only
    split
    · exact .next _
    · exact .next _
    · refine .ite (.next _) (.ite (.next _) (.ite ?_ ?_))
      · split <;> exact .next _
      · split <;> exact .next _

theorem execEntryDiscard_continues (q : Nat) (s : State) : Continues (execEntryDiscard q s) := by
  unfold execEntryDiscard
  dsimp only
  split <;> exact .next _

theorem execReplayEntryStart_continues (id : Nat) (s : State) : Continues (execReplayEntryStart id s) := by
  unfold execReplayEntryStart
  split
  · exact .next _
  · split
    · exact .next _
    · split <;> exact .next _

theorem execLaunchPlace_continues (id : Nat) (s : State) : Continues (execLaunchPlace id s) := by
  unfold execLaunchPlace
  split
  · exact .next _
  · refine .ite (.next _) ?_
    split <;> exact .next _

theorem execLaunchComplete_continues (id : Nat) (s : State) : Continues (execLaunchComplete id s) := by
  unfold execLaunchComplete
  split
  · exact .next _
  · exact .ite (.next _) (.next _)

theorem execEvictionStart_continues (id : Nat) (s : State) : Continues (execEvictionStart id s) := by
  unfold execEvictionStart
  split
  · exact .next _
  · refine .ite (.next _) ?_
    dsimp only
    split
    · exact .next _
    · exact .ite (.next _) (.next _)

theorem execSaveComplete_continues (cl : Nat) (s : State) : Continues (execSaveComplete cl s) := by
  unfold execSaveComplete
  dsimp only
  split
  · exact .next _
  · split
    · exact .next _
    · exact .ite (.next _) (.next _)

theorem execResumption_continues (n : Nat) (s : State) : Continues (execResumption n s) := by
  unfold execResumption
  split
  · exact .next _
  · split
    · exact .next _
    · exact .ite (.next _) (.next _)

theorem execCoreTestComplete_continues (r : CoreRef) (pass : Bool) (s : State) : Continues (execCoreTestComplete r pass s) := by
  refine .ite (.next _) ?_
  split <;> exact .next _

theorem execBootVerifyComplete_continues (s : State) : Continues (execBootVerifyComplete s) := by
  refine .ite ?_ (.next _)
  dsimp only
  split
  · exact .next _
  · split <;> exact .next _

/-! ## Every instruction and step -/

/-- Every instruction and every step of another agent answers a next state. An encoded instruction does by the form of its meaning
(`retireUnless`), as does a step whose meaning is one next state: the last case. The other steps do on each of their branches. -/
theorem exec_continues (i : Instr) (s : State) : Continues (exec i s) := by
  cases i with
  | dlyselCopy _ | dlyselClear _ | spreadWindowClose _ _ | driftDetach _ | engineTrap _ | matrixRamp _ | queueEntryWrite _ _ _ _ _
  | hbmScrub _ _ | groupStart _ | recordRetry _ | serviceRelease _ | saveStreamStart _ | restoreComplete _ | coreSeal _ _
  | clusterRetire _ | perstDeassert _ | bootRomReadComplete | powerWave | hbmTrainingComplete | configRequest =>
    exact .ite (.next _) (.next _)
  | coreLaunchEnd _ => exact .ite (.ite (.next _) (.next _)) (.next _)
  | waitSatisfied r frame => exact execWaitSatisfied_continues r frame s
  | bankConversionEnd r => exact execBankConversionEnd_continues r s
  | matrixGrant cl => exact execMatrixGrant_continues cl s
  | matrixRetire cl residue shadow => exact execMatrixRetire_continues cl residue shadow s
  | matrixPortCommand r => exact execMatrixPortCommand_continues r s
  | tileWriteEnd cl => exact execTileWriteEnd_continues cl s
  | queueReserve src q v core tag reissue => exact execQueueReserve_continues src q v core tag reissue s
  | invalidationComplete => exact execInvalidationComplete_continues s
  | attestationComplete => exact execAttestationComplete_continues s
  | ruleJobStart cl => exact execRuleJobStart_continues cl s
  | ruleJobEnd cl => exact execRuleJobEnd_continues cl s
  | copyStart r => exact execCopyStart_continues r s
  | copyEnd r n => exact execCopyEnd_continues r n s
  | bankOperationRequest q => exact execBankOperationRequest_continues q s
  | messageArrival i => exact execMessageArrival_continues i s
  | retryReissue q => exact execRetryReissue_continues q s
  | retryTimeout q => exact execRetryTimeout_continues q s
  | backoffReissue q => exact execBackoffReissue_continues q s
  | translationRequest q => exact execTranslationRequest_continues q s
  | walkStepComplete q => exact execWalkStepComplete_continues q s
  | memoryRequest q e => exact execMemoryRequest_continues q e s
  | accessResponse r ans => exact execAccessResponse_continues r ans s
  | dedupEntryExpiry i => exact execDedupEntryExpiry_continues i s
  | inboxItemHandle r => exact execInboxItemHandle_continues r s
  | activationStart r => exact execActivationStart_continues r s
  | readyPromotion r n => exact execReadyPromotion_continues r n s
  | stopAtBoundary r => exact execStopAtBoundary_continues r s
  | launchTake q => exact execLaunchTake_continues q s
  | entryDiscard q => exact execEntryDiscard_continues q s
  | replayEntryStart id => exact execReplayEntryStart_continues id s
  | launchPlace id => exact execLaunchPlace_continues id s
  | launchComplete id => exact execLaunchComplete_continues id s
  | evictionStart id => exact execEvictionStart_continues id s
  | saveComplete cl => exact execSaveComplete_continues cl s
  | resumption n => exact execResumption_continues n s
  | coreTestComplete r pass => exact execCoreTestComplete_continues r pass s
  | bootVerifyComplete => exact execBootVerifyComplete_continues s
  | _ => exact .next _

/-! ## Who moves -/

theorem runTurn_continues (x : Turned) : Continues (runTurn x) := by
  cases x with
  | done t => exact .next _
  | run f t =>
    cases f with
    | instr i => exact exec_continues i t
    | bad w half => exact exec_continues (.unassignedEncoding w half) t
    | fault a => exact exec_continues (.fetchFault a) t

theorem coreTurn_continues (r : CoreRef) (s : State) : Continues (coreTurn r s) := runTurn_continues _

theorem shadowTurn_continues (r : CoreRef) (x : Shadow) (s : State) : Continues (shadowTurn r x s) := by
  obtain ⟨t, h⟩ := coreTurn_continues r { s with shadowHit := some x }
  rw [shadowTurn, h]
  exact .next _

theorem takeTurn_continues (t : Turn) (s : State) : Continues (takeTurn t s) := by
  cases t with
  | core r => exact coreTurn_continues r s
  | front cl => exact .next _
  | shadow r x => exact shadowTurn_continues r x s
  | upset u => exact .next _
  | event i => exact exec_continues i s

/-! ## The steps that may be due -/

/-- A step that may be due answers a next state, whatever the state in which it is taken. -/
def AlwaysContinues (f : Own) : Prop := ∀ s, Continues (f s)

/-- Every step of a list answers a next state, whatever the state in which it is taken. -/
def AllContinue (l : List Own) : Prop := ∀ f ∈ l, AlwaysContinues f

theorem AllContinue.nil : AllContinue [] := fun _ h => absurd h List.not_mem_nil

theorem AllContinue.cons {f : Own} {l : List Own} (hf : AlwaysContinues f) (hl : AllContinue l) : AllContinue (f :: l) :=
  List.forall_mem_cons.mpr ⟨hf, hl⟩

theorem AllContinue.single {f : Own} (hf : AlwaysContinues f) : AllContinue [f] := .cons hf .nil

theorem allContinue_append {l m : List Own} : AllContinue (l ++ m) ↔ AllContinue l ∧ AllContinue m := List.forall_mem_append

theorem AllContinue.map {α : Type} {f : α → Own} {l : List α} (hf : ∀ x, AlwaysContinues (f x)) : AllContinue (l.map f) :=
  List.forall_mem_map.mpr fun x _ => hf x

theorem AllContinue.flatMap {α : Type} {f : α → List Own} {l : List α} (hf : ∀ x, AllContinue (f x)) : AllContinue (l.flatMap f) :=
  List.forall_mem_flatMap.mpr fun x _ => hf x

/-- The steps of the items at the places of a list. -/
theorem AllContinue.places {α : Type} {f : Nat → α → Own} {l : List α} {n : Nat} (hf : ∀ i x, AlwaysContinues (f i x)) :
    AllContinue ((List.range n).filterMap fun i => l[i]?.map fun x => f i x) := by
  intro g hg
  obtain ⟨i, -, hi⟩ := List.mem_filterMap.mp hg
  obtain ⟨x, -, rfl⟩ := Option.map_eq_some_iff.mp hi
  exact hf i x

theorem AllContinue.ite {c : Prop} {d : Decidable c} {l m : List Own} (hl : AllContinue l) (hm : AllContinue m) :
    AllContinue (if c then l else m) := by
  split
  · exact hl
  · exact hm

/-- A step that may be due, under its guard. -/
theorem AllContinue.guarded {c : Prop} {d : Decidable c} {f : Own} (hf : AlwaysContinues f) :
    AllContinue (if c then [f] else []) := .ite (.single hf) .nil

/-! Each list of steps, by the parts that its definition joins. -/

theorem pendStep_continues (s : State) (r : CoreRef) (a : Access) : AlwaysContinues (pendStep s r a) := by
  unfold pendStep
  split
  · exact exec_continues (.translationRequest (.pend r))
  · exact exec_continues (.translationRequest (.pend r))
  · exact exec_continues (.walkStepComplete (.pend r))
  · exact exec_continues (.memoryRequest (.pend r) .clean)
  · exact exec_continues (.accessResponse r _)
  · exact exec_continues (.bankOperationRequest (.pend r))
  · split
    · exact exec_continues (.retryTimeout (.pend r))
    · exact exec_continues (.retryReissue (.pend r))
  · exact exec_continues (.backoffReissue (.pend r))
  · exact exec_continues (.accessResponse r .own)

theorem flightStep_continues (s : State) (i : Nat) (f : Flight) : AlwaysContinues (flightStep s i f) := by
  unfold flightStep
  split
  · split
    · exact exec_continues (.retryTimeout (.posted i))
    · exact exec_continues (.retryReissue (.posted i))
  · exact exec_continues (.backoffReissue (.posted i))
  · exact exec_continues (.memoryRequest (.posted i) .clean)
  · exact exec_continues (.memoryRequest (.posted i) .clean)
  · split
    · exact exec_continues (.messageArrival i)
    · exact exec_continues (.bankOperationRequest (.posted i))

theorem guestStep_continues (i : Nat) (g : Guest) : AlwaysContinues (guestStep i g) := by
  unfold guestStep
  split
  · exact exec_continues (.memoryRequest (.guest i) .clean)
  · exact exec_continues (.backoffReissue (.guest i))

theorem coreSteps_continue (s : State) (r : CoreRef) (c : Core) : AllContinue (coreSteps s r c) := by
  simp only [coreSteps, allContinue_append, and_assoc]
  refine ⟨.guarded (coreTurn_continues r), ?pending, .guarded (exec_continues (.bankConversionEnd r)),
    .ite (.cons (exec_continues (.copyStart r)) (.map fun n => exec_continues (.copyEnd r n))) .nil,
    .guarded (exec_continues (.matrixPortCommand r)), .guarded (exec_continues (.inboxItemHandle r)),
    .ite (.cons (exec_continues (.activationStart r)) (.map fun n => exec_continues (.readyPromotion r n))) .nil,
    .guarded (exec_continues (.recordRetry r)), .guarded (exec_continues (.stopAtBoundary r)),
    .guarded (exec_continues (.waitSatisfied r c.wp)), .map fun p => exec_continues (.waitSatisfied r p.act.frame),
    .guarded (exec_continues (.coreLaunchEnd r))⟩
  case pending =>
    split
    · exact .single (pendStep_continues s r _)
    · exact .nil

theorem clusterSteps_continue (s : State) (cl : Nat) (k : Cluster) : AllContinue (clusterSteps s cl k) := by
  simp only [clusterSteps, allContinue_append, and_assoc]
  refine ⟨.flatMap fun p => coreSteps_continue s ⟨cl, p.1⟩ p.2, .guarded fun t => .next _, .guarded (exec_continues (.matrixRamp cl)),
    .ite (.cons (exec_continues (.matrixGrant cl)) (.single (exec_continues (.matrixRetire cl [] [])))) .nil,
    .guarded (exec_continues (.tileWriteEnd cl)),
    .ite (.cons (exec_continues (.ruleJobStart cl)) (.single (exec_continues (.ruleJobEnd cl)))) .nil,
    .guarded (exec_continues (.groupStart cl)), .guarded (exec_continues (.clusterRetire cl)), ?eviction⟩
  case eviction =>
    split
    · exact .ite (.map fun j => exec_continues (.coreTestComplete ⟨cl, j⟩ false)) .nil
    · exact .single (exec_continues (.saveStreamStart cl))
    · exact .single (exec_continues (.saveComplete cl))

theorem stationSteps_continue (s : State) : AllContinue (stationSteps s) := by
  simp only [stationSteps, allContinue_append, and_assoc]
  exact ⟨.flatMap fun p => .cons (exec_continues (.launchTake p.1)) (.single (exec_continues (.entryDiscard p.1))),
    .flatMap fun l => .ite (.cons (exec_continues (.launchPlace l.id)) (.single (exec_continues (.evictionStart l.id))))
      (.single (exec_continues (.launchComplete l.id))),
    .map fun x => exec_continues (.replayEntryStart x.id),
    .flatMap fun n => .cons (exec_continues (.resumption n)) (.single (exec_continues (.restoreComplete n)))⟩

theorem bootSteps_continue (s : State) : AllContinue (bootSteps s) := by
  simp only [bootSteps, allContinue_append, and_assoc]
  exact ⟨.guarded (exec_continues .bootRomReadComplete), .guarded (exec_continues .bootVerifyComplete),
    .guarded (exec_continues .powerWave), .guarded (exec_continues .hbmTrainingComplete)⟩

theorem own_continue (s : State) : AllContinue s.own := by
  simp only [State.own, allContinue_append, and_assoc]
  exact ⟨bootSteps_continue s, stationSteps_continue s, .flatMap fun p => clusterSteps_continue s p.1 p.2,
    .places (flightStep_continues s), .places guestStep_continues,
    .guarded (exec_continues .invalidationComplete), .guarded (exec_continues .attestationComplete),
    .map fun b => exec_continues (.bankBlockEnd b.stack b.chan b.bank), .guarded (exec_continues (.dedupEntryExpiry 0))⟩

theorem ownStep_continues (s : State) : Continues (ownStep s) := by
  unfold ownStep
  split
  · next f h => exact own_continue s f (List.mem_of_getElem? h) s
  · exact .next _

theorem move_continues (s : State) : Continues (move s) := by
  unfold move
  split
  · exact ownStep_continues s
  · exact takeTurn_continues _ _

/-! ## The clock -/

theorem step_eq_tick {s t : State} (h : move s = .next t) : step s = .next t.tick := by rw [step, h]

theorem step_continues (s : State) : Continues (step s) := by
  obtain ⟨t, h⟩ := move_continues s
  exact ⟨t.tick, step_eq_tick h⟩

theorem State.clocked_iff (s : State) : s.clocked = true ↔ 2 ≤ s.boot.state ∧ s.boot.state ≤ 5 := decide_eq_true_iff

theorem State.tick_free (s : State) : s.tick.free = s.free + 1 := rfl

/-- While the module is up, `CYC` moves on by one and a free number of cycles (R25, R350). -/
theorem State.tick_cyc_up (s : State) (h : 2 ≤ s.boot.state ∧ s.boot.state ≤ 5) :
    s.tick.cyc = s.cyc + 1 + (Config.delay s.free).zeroExtend 64 := if_pos (s.clocked_iff.mpr h)

/-- While the module is not up, `CYC` stands still. -/
theorem State.tick_cyc_down (s : State) (h : ¬ (2 ≤ s.boot.state ∧ s.boot.state ≤ 5)) : s.tick.cyc = s.cyc :=
  if_neg (mt s.clocked_iff.mp h)

/-- One and a number below 2^32 more, modulo 2^64: the difference lies in 1 to 2^32, and the number grows unless the 64 bits are used up. -/
theorem clock_advance (c : Word) (d : BitVec 32) :
    1 ≤ (c + 1 + d.zeroExtend 64 - c).toNat ∧ (c + 1 + d.zeroExtend 64 - c).toNat ≤ 2 ^ 32 ∧
      (c.toNat + 2 ^ 32 < 2 ^ 64 → c.toNat < (c + 1 + d.zeroExtend 64).toNat) := by
  have hd : (d.zeroExtend 64).toNat < 2 ^ 32 := by bv_omega
  generalize d.zeroExtend 64 = e at hd
  bv_omega

/-- Settles O6: every turn and every step that may be due answers a next state, by `exec_continues` at the bottom of each; and the clock
moves in `State.tick` alone. -/
theorem stepsGoOnAndTheClockMoves : Obligations.StepsGoOnAndTheClockMoves := by
  refine ⟨step_continues, fun s t h => ⟨t.tick, step_eq_tick h, t.tick_free, fun up => ?_, t.tick_cyc_down⟩⟩
  rw [t.tick_cyc_up up]
  exact clock_advance t.cyc (Config.delay t.free)

end Sys2Proof.Machine
end

section
/-! SUPPORT. Every word has one meaning: the round trip of all encodings, and the decoder back to the word it has read (R34 to R38). -/
namespace Sys2Proof.Laws.Encoding
open Sys2Proof

/-! ## From an instruction to its word and back -/

/-- The round trip of every constructor: an encoded instruction has its own lemma, and a step of another agent has no word. -/
theorem statement_all (i : Instr) : Statement i := by
  cases i with
  | add => apply add | sub => apply sub | and => apply and | or => apply or | xor => apply xor | shl => apply shl
  | shr => apply shr | sra => apply sra | rot => apply rot | mul => apply mul | mulh => apply mulh
  | mulhu => apply mulhu | div => apply div | divu => apply divu | rem => apply rem | remu => apply remu
  | slt => apply slt | sltu => apply sltu | seq => apply seq | min => apply min | max => apply max
  | minu => apply minu | maxu => apply maxu | clz => apply clz | ctz => apply ctz | popc => apply popc
  | madd => apply madd | csel => apply csel | addi => apply addi | andi => apply andi | ori => apply ori
  | xori => apply xori | shi => apply shi | slti => apply slti | sltiu => apply sltiu | lui => apply lui
  | addpc => apply addpc | crd => apply crd | cwr => apply cwr | cset => apply cset | cclr => apply cclr
  | cswp => apply cswp | beq => apply beq | bne => apply bne | blt => apply blt | bge => apply bge
  | bltu => apply bltu | bgeu => apply bgeu | bok => apply bok | bempty => apply bempty | bfull => apply bfull
  | babsent => apply babsent | bany => apply bany | ball => apply ball | bnone => apply bnone | bflag => apply bflag
  | jal => apply jal | jalr => apply jalr | ldx => apply ldx | stx => apply stx | ldb => apply ldb
  | ldbz => apply ldbz | ldh => apply ldh | ldhz => apply ldhz | ldw => apply ldw | ldwz => apply ldwz
  | ldd => apply ldd | stb => apply stb | sth => apply sth | stw => apply stw | std => apply std
  | amoadd => apply amoadd | amoand => apply amoand | amoor => apply amoor | amoxor => apply amoxor
  | amomin => apply amomin | amomax => apply amomax | amominu => apply amominu | amomaxu => apply amomaxu
  | amoswap => apply amoswap | amocas => apply amocas | amofadd => apply amofadd | amoincb => apply amoincb
  | fence => apply fence | pfence => apply pfence | ifence => apply ifence | waitge => apply waitge
  | waitp => apply waitp | sleep => apply sleep | fwait => apply fwait | fset => apply fset | fclr => apply fclr
  | ftest => apply ftest | yield => apply yield | bpers => apply bpers | bquery => apply bquery
  | bgroup => apply bgroup | bspread => apply bspread | bkeep => apply bkeep | bclear => apply bclear
  | vadd => apply vadd | vsub => apply vsub | vmul => apply vmul | vmin => apply vmin | vmax => apply vmax
  | vand => apply vand | vor => apply vor | vxor => apply vxor | vshl => apply vshl | vshr => apply vshr
  | vsra => apply vsra | vceq => apply vceq | vclt => apply vclt | vcle => apply vcle | vsel => apply vsel
  | vaddsat => apply vaddsat | vmadd => apply vmadd | vfadd => apply vfadd | vfsub => apply vfsub
  | vfmul => apply vfmul | vfma => apply vfma | vfmin => apply vfmin | vfmax => apply vfmax | vfceq => apply vfceq
  | vfclt => apply vfclt | vfcle => apply vfcle | vfdiv => apply vfdiv | vfsqrt => apply vfsqrt | vfrcp => apply vfrcp
  | vfexp2 => apply vfexp2 | vflog2 => apply vflog2 | vfabs => apply vfabs | vfneg => apply vfneg | vld => apply vld
  | vst => apply vst | vldx => apply vldx | vstx => apply vstx | vstxadd => apply vstxadd | vldb => apply vldb
  | vldk => apply vldk | vstk => apply vstk | vbcast => apply vbcast | vext => apply vext | vins => apply vins
  | vredaddI32 => apply vredaddI32 | vredaddF32 => apply vredaddF32 | vredmin => apply vredmin | vredmax => apply vredmax
  | vperm => apply vperm | vslide => apply vslide | vmpop => apply vmpop | vmand => apply vmand | vmor => apply vmor
  | vmxor => apply vmxor | vmnot => apply vmnot | vmset => apply vmset | vmget => apply vmget | vlane => apply vlane
  | cvtF32I32 => apply cvtF32I32 | cvtI32F32 => apply cvtI32F32 | cvtF64F32 => apply cvtF64F32
  | cvtF32F64 => apply cvtF32F64 | vcvtBf16F32 => apply vcvtBf16F32 | vcvtF32Bf16 => apply vcvtF32Bf16
  | vdec => apply vdec | venc => apply venc | vqmx => apply vqmx | vdqmx => apply vdqmx | fadd => apply fadd
  | fsub => apply fsub | fmul => apply fmul | fma => apply fma | fdiv => apply fdiv | fsqrt => apply fsqrt
  | fmin => apply fmin | fmax => apply fmax | feq => apply feq | flt => apply flt | fle => apply fle
  | fabs => apply fabs | fneg => apply fneg | fclass => apply fclass | tblld => apply tblld | tblrd => apply tblrd
  | tblpre => apply tblpre | mma => apply mma | mmaz => apply mmaz | mstream => apply mstream | mzero => apply mzero
  | mstore => apply mstore | mread => apply mread | mpeek => apply mpeek | msync => apply msync | mload => apply mload
  | rrun => apply rrun | rverify => apply rverify | rstat => apply rstat | cpy => apply cpy | cpyTry => apply cpyTry
  | cpyq => apply cpyq | send => apply send | sendm => apply sendm | arm => apply arm | bind => apply bind
  | spawn => apply spawn | reply => apply reply | halt => apply halt | self => apply self | detach => apply detach
  | join => apply join | bar => apply bar | lead => apply lead | grow => apply grow | shrink => apply shrink
  | swp => apply swp | rdws => apply rdws | trap => apply trap | eret => apply eret | stop => apply stop
  | census => apply census | nop => apply nop | rep => apply rep | cMov => apply cMov | cAddi => apply cAddi
  | cLi => apply cLi | cLdd => apply cLdd | cStd => apply cStd | cAdd => apply cAdd | cBeqz => apply cBeqz
  | cBnez => apply cBnez | cJ => apply cJ | once => apply once | cHalt => apply cHalt | cJoin => apply cJoin
  | cRet => apply cRet | cNop => apply cNop
  | _ => exact nofun

/-- Settles O2: the lemmas of the constructors cover every instruction. -/
theorem decodeOfEncode : Obligations.DecodeOfEncode := statement_all

/-! ## A field from its parts -/

theorem eq_ofNat_of_toNat {n k : Nat} {v : BitVec n} (h : v.toNat = k) : v = BitVec.ofNat n k := by
  rw [← h, BitVec.ofNat_toNat, BitVec.setWidth_eq]

/-- A field is its high part before its low part. -/
theorem append_parts {n m : Nat} (v : BitVec (n + m)) : v.extractLsb' m n ++ v.extractLsb' 0 m = v := by
  apply BitVec.eq_of_getLsbD_eq; intro j hj
  simp

/-! Each width that the tables cut a field into: with the high part known, and with the low part known. -/

theorem high3 {v : Reg} {x : BitVec 3} (h : v.extractLsb' 2 3 = x) : x ++ v.extractLsb' 0 2 = v := h ▸ append_parts (n := 3) (m := 2) v
theorem high2 {v : Reg} {x : BitVec 2} (h : v.extractLsb' 3 2 = x) : x ++ v.extractLsb' 0 3 = v := h ▸ append_parts (n := 2) (m := 3) v
theorem high4 {v : Reg} {x : BitVec 4} (h : v.extractLsb' 1 4 = x) : x ++ v.extractLsb' 0 1 = v := h ▸ append_parts (n := 4) (m := 1) v
theorem low3 {v : Reg} {x : BitVec 3} (h : v.extractLsb' 0 3 = x) : v.extractLsb' 3 2 ++ x = v := h ▸ append_parts (n := 2) (m := 3) v
theorem low4 {v : Reg} {x : BitVec 4} (h : v.extractLsb' 0 4 = x) : v.extractLsb' 4 1 ++ x = v := h ▸ append_parts (n := 1) (m := 4) v
theorem both32 {v : Reg} {x : BitVec 3} {y : BitVec 2} (h : v.extractLsb' 2 3 = x) (h' : v.extractLsb' 0 2 = y) : v = x ++ y :=
  h' ▸ (high3 h).symm
theorem both41 {v : Reg} {x : BitVec 4} {y : BitVec 1} (h : v.extractLsb' 1 4 = x) (h' : v.extractLsb' 0 1 = y) : v = x ++ y :=
  h' ▸ (high4 h).symm
theorem high1of6 {v : BitVec 6} {x : BitVec 1} (h : v.extractLsb' 5 1 = x) : x ++ v.extractLsb' 0 5 = v :=
  h ▸ append_parts (n := 1) (m := 5) v
theorem high2of6 {v : BitVec 6} {x : BitVec 2} (h : v.extractLsb' 4 2 = x) : x ++ v.extractLsb' 0 4 = v :=
  h ▸ append_parts (n := 2) (m := 4) v

theorem high11 {v : Reg} {x : BitVec 1} (h : v.extractLsb' 4 1 = x) : x ++ v.extractLsb' 3 1 ++ v.extractLsb' 0 3 = v := by
  subst h
  apply BitVec.eq_of_getLsbD_eq; intro j hj
  interval_cases j <;> simp only [BitVec.getLsbD_append, BitVec.getLsbD_extractLsb'] <;> rfl

theorem high22 {v : Reg} {x : BitVec 2} (h : v.extractLsb' 3 2 = x) : x ++ v.extractLsb' 1 2 ++ v.extractLsb' 0 1 = v := by
  subst h
  apply BitVec.eq_of_getLsbD_eq; intro j hj
  interval_cases j <;> simp only [BitVec.getLsbD_append, BitVec.getLsbD_extractLsb'] <;> rfl

/-! ## A part of joined fields -/

theorem extract_mid {n m k : Nat} (x : BitVec n) (y : BitVec m) (z : BitVec k) : (x ++ y ++ z).extractLsb' k m = y := by
  apply BitVec.eq_of_getLsbD_eq; intro j hj
  simp [BitVec.getLsbD_append, hj]

theorem extract_top {n m k : Nat} (x : BitVec n) (y : BitVec m) (z : BitVec k) : (x ++ y ++ z).extractLsb' (k + m) n = x := by
  apply BitVec.eq_of_getLsbD_eq; intro j hj
  simp [BitVec.getLsbD_append, hj, Nat.add_assoc]

theorem extract_top4 {n m k l : Nat} (w : BitVec n) (x : BitVec m) (y : BitVec k) (z : BitVec l) :
    (w ++ x ++ y ++ z).extractLsb' (l + k + m) n = w := by
  apply BitVec.eq_of_getLsbD_eq; intro j hj
  simp [BitVec.getLsbD_append, hj, Nat.add_assoc]

theorem extract_high4 {n m k l : Nat} (w : BitVec n) (x : BitVec m) (y : BitVec k) (z : BitVec l) :
    (w ++ x ++ y ++ z).extractLsb' (l + k) m = x := by
  apply BitVec.eq_of_getLsbD_eq; intro j hj
  simp [BitVec.getLsbD_append, hj, Nat.add_assoc]

section joined
variable (e f g h : Reg) (p : BitVec 2) (q : BitVec 6)
@[simp] theorem imm15_top : BitVec.extractLsb' (n := 15) 10 5 (e ++ f ++ g) = e := extract_top e f g
@[simp] theorem imm15_mid : BitVec.extractLsb' (n := 15) 5 5 (e ++ f ++ g) = f := extract_mid e f g
@[simp] theorem imm15_low : BitVec.extractLsb' (n := 15) 0 5 (e ++ f ++ g) = g := ex_lo (e ++ f) g
@[simp] theorem imm20_top : BitVec.extractLsb' (n := 20) 15 5 (e ++ f ++ g ++ h) = e := extract_top4 e f g h
@[simp] theorem imm20_high : BitVec.extractLsb' (n := 20) 10 5 (e ++ f ++ g ++ h) = f := extract_high4 e f g h
@[simp] theorem imm20_mid : BitVec.extractLsb' (n := 20) 5 5 (e ++ f ++ g ++ h) = g := extract_mid (e ++ f) g h
@[simp] theorem imm20_low : BitVec.extractLsb' (n := 20) 0 5 (e ++ f ++ g ++ h) = h := ex_lo (e ++ f ++ g) h
@[simp] theorem cr12_top : BitVec.extractLsb' (n := 12) 10 2 (p ++ f ++ g) = p := extract_top p f g
@[simp] theorem cr12_mid : BitVec.extractLsb' (n := 12) 5 5 (p ++ f ++ g) = f := extract_mid p f g
@[simp] theorem cr12_low : BitVec.extractLsb' (n := 12) 0 5 (p ++ f ++ g) = g := ex_lo (p ++ f) g
@[simp] theorem off12_top : BitVec.extractLsb' (n := 12) 7 5 (e ++ f ++ p) = e := extract_top e f p
@[simp] theorem off12_mid : BitVec.extractLsb' (n := 12) 2 5 (e ++ f ++ p) = f := extract_mid e f p
@[simp] theorem off12_low : BitVec.extractLsb' (n := 12) 0 2 (e ++ f ++ p) = p := ex_lo (e ++ f) p
@[simp] theorem off11_high : BitVec.extractLsb' (n := 11) 5 6 (q ++ e) = q := ex_hi q e
@[simp] theorem off11_low : BitVec.extractLsb' (n := 11) 0 5 (q ++ e) = e := ex_lo q e
end joined

/-! ## What the decoder answers -/

/-- The decoder refuses, or answers an instruction of the width asked for (a 16-bit one where `short`) that w encodes. -/
def Encodes (short : Bool) (w : W32) (r : Except Reject Instr) : Prop := ∀ i, r = .ok i → isShort i = short ∧ encode i = some w

theorem encodes_error {short : Bool} {w : W32} {e : Reject} : Encodes short w (.error e) := nofun

theorem encodes_ok {short : Bool} {v w : W32} {i : Instr} (hs : isShort i = short) (he : encode i = some v) (hw : v = w) :
    Encodes short w (.ok i) := by
  rintro _ ⟨⟩
  exact ⟨hs, hw ▸ he⟩

theorem encodes_need {short : Bool} {v w : W32} {z : Bool} {i : Instr} (hs : isShort i = short) (he : encode i = some v)
    (hw : z = true → v = w) : Encodes short w (need z i) := by
  cases z with
  | false => nofun
  | true => exact encodes_ok hs he (hw rfl)

theorem decodeInt_encodes (fn c b a d : Reg) : Encodes false (pack fn c b a d 0#6) (decodeInt fn c b a d) := by
  unfold decodeInt
  split
  iterate 26 next h => exact encodes_need rfl rfl (by simp +contextual [eq_ofNat_of_toNat h])
  iterate 2 next h => exact encodes_ok rfl rfl (by simp [eq_ofNat_of_toNat h])
  exact encodes_error

theorem decodeCtl_encodes (fn c b a d : Reg) : Encodes false (pack fn c b a d 10#6) (decodeCtl fn c b a d) := by
  unfold decodeCtl
  split
  iterate 2 next h => exact encodes_need rfl rfl (by simp +contextual [eq_ofNat_of_toNat h, high3])
  iterate 3 next h => exact encodes_ok rfl rfl (by simp [eq_ofNat_of_toNat h, high3])
  exact encodes_error

theorem decodeBr_encodes (fn c b a d : Reg) : Encodes false (pack fn c b a d 11#6) (decodeBr fn c b a d) := by
  unfold decodeBr
  split
  iterate 6 next h => exact encodes_ok rfl rfl (by simp [eq_ofNat_of_toNat h, low3])
  exact encodes_error

theorem decodeBx_encodes (fn c b a d : Reg) : Encodes false (pack fn c b a d 12#6) (decodeBx fn c b a d) := by
  unfold decodeBx
  split
  next h =>
    split
    iterate 4 next h' => exact encodes_need rfl rfl (by simp +contextual [eq_ofNat_of_toNat h, eq_ofNat_of_toNat h', low3])
    exact encodes_error
  iterate 4 next h => exact encodes_need rfl rfl (by simp +contextual [eq_ofNat_of_toNat h, low3])
  exact encodes_error

theorem decodeAmo_encodes (fn c b a d : Reg) : Encodes false (pack fn c b a d 28#6) (decodeAmo fn c b a d) := by
  unfold decodeAmo
  split
  iterate 10 next h => exact encodes_ok rfl rfl (by simp [eq_ofNat_of_toNat h, high4, high3])
  next h => exact encodes_need rfl rfl fun h0 => by rw [both41 (eq_ofNat_of_toNat h) (beq_iff_eq.mp h0), high3 rfl]; rfl
  next h => exact encodes_ok rfl rfl (by simp [eq_ofNat_of_toNat h, high4, high3])
  exact encodes_error

theorem decodeFence_encodes (fn c b a d : Reg) : Encodes false (pack fn c b a d 29#6) (decodeFence fn c b a d) := by
  unfold decodeFence
  split
  iterate 3 next h => exact encodes_need rfl rfl (by simp +contextual [eq_ofNat_of_toNat h, high2])
  exact encodes_error

theorem decodeWait_encodes (fn c b a d : Reg) : Encodes false (pack fn c b a d 30#6) (decodeWait fn c b a d) := by
  unfold decodeWait
  split
  next h => exact encodes_need rfl rfl (by simp +contextual [eq_ofNat_of_toNat h])
  next h => exact encodes_ok rfl rfl (by simp [eq_ofNat_of_toNat h])
  iterate 6 next h => exact encodes_need rfl rfl (by simp +contextual [eq_ofNat_of_toNat h])
  exact encodes_error

theorem decodeBank_encodes (fn c b a d : Reg) : Encodes false (pack fn c b a d 31#6) (decodeBank fn c b a d) := by
  unfold decodeBank
  split
  iterate 2 next h => exact encodes_need rfl rfl (by simp +contextual [eq_ofNat_of_toNat h])
  next h => exact encodes_ok rfl rfl (by simp [eq_ofNat_of_toNat h])
  iterate 3 next h => exact encodes_need rfl rfl (by simp +contextual [eq_ofNat_of_toNat h])
  exact encodes_error

theorem decodeValu_encodes (fn c b a d : Reg) : Encodes false (pack fn c b a d 32#6) (decodeValu fn c b a d) := by
  unfold decodeValu
  split
  iterate 11 next h => exact encodes_ok rfl rfl (by simp [eq_ofNat_of_toNat h, high2])
  iterate 3 next h => exact encodes_need rfl rfl (by simp +contextual [eq_ofNat_of_toNat h, high2])
  iterate 3 next h => exact encodes_ok rfl rfl (by simp [eq_ofNat_of_toNat h, high2])
  exact encodes_error

theorem decodeVfp_encodes (fn c b a d : Reg) : Encodes false (pack fn c b a d 33#6) (decodeVfp fn c b a d) := by
  unfold decodeVfp
  split
  iterate 16 next h => exact encodes_need rfl rfl (by simp +contextual [eq_ofNat_of_toNat h, high11, high2])
  exact encodes_error

theorem decodeVmem_encodes (fn c b a d : Reg) : Encodes false (pack fn c b a d 34#6) (decodeVmem fn c b a d) := by
  unfold decodeVmem
  split
  iterate 8 next h => exact encodes_need rfl rfl (by simp +contextual [eq_ofNat_of_toNat h, high11, high2])
  exact encodes_error

theorem decodeVxf_encodes (fn c b a d : Reg) : Encodes false (pack fn c b a d 35#6) (decodeVxf fn c b a d) := by
  unfold decodeVxf
  split
  iterate 17 next h => exact encodes_need rfl rfl (by simp +contextual [eq_ofNat_of_toNat h, high11, high2])
  exact encodes_error

theorem decodeCvt_encodes (fn c b a d : Reg) : Encodes false (pack fn c b a d 36#6) (decodeCvt fn c b a d) := by
  unfold decodeCvt
  split
  iterate 2 next h => exact encodes_need rfl rfl (by simp +contextual [eq_ofNat_of_toNat h, high11])
  iterate 2 next h => exact encodes_need rfl rfl (by simp +contextual [eq_ofNat_of_toNat h])
  iterate 2 next h => exact encodes_need rfl rfl (by simp +contextual [eq_ofNat_of_toNat h, high2])
  iterate 2 next h => exact encodes_ok rfl rfl (by simp [eq_ofNat_of_toNat h, high2])
  iterate 2 next h => exact encodes_need rfl rfl (by simp +contextual [eq_ofNat_of_toNat h, high4])
  exact encodes_error

theorem decodeFalu_encodes (fn c b a d : Reg) : Encodes false (pack fn c b a d 37#6) (decodeFalu fn c b a d) := by
  unfold decodeFalu
  split
  iterate 3 next h => exact encodes_need rfl rfl (by simp +contextual [eq_ofNat_of_toNat h, low4])
  next h => exact encodes_ok rfl rfl (by simp [eq_ofNat_of_toNat h, low4])
  iterate 10 next h => exact encodes_need rfl rfl (by simp +contextual [eq_ofNat_of_toNat h, low4])
  exact encodes_error

theorem decodeTbl_encodes (fn c b a d : Reg) : Encodes false (pack fn c b a d 38#6) (decodeTbl fn c b a d) := by
  unfold decodeTbl
  split
  iterate 3 next h => exact encodes_need rfl rfl (by simp +contextual [eq_ofNat_of_toNat h, high3])
  exact encodes_error

theorem decodeMat_encodes (fn c b a d : Reg) : Encodes false (pack fn c b a d 39#6) (decodeMat fn c b a d) := by
  unfold decodeMat
  split
  iterate 3 next h => exact encodes_need rfl rfl (by simp +contextual [eq_ofNat_of_toNat h, high3])
  next h =>
    split
    iterate 4 next h' =>
      exact encodes_need rfl rfl (by simp +contextual [both32 (eq_ofNat_of_toNat h) (eq_ofNat_of_toNat h'), high3])
    exact encodes_error
  next h =>
    split
    iterate 2 next h' =>
      exact encodes_need rfl rfl (by simp +contextual [both32 (eq_ofNat_of_toNat h) (eq_ofNat_of_toNat h'), high3])
    exact encodes_error
  exact encodes_error

theorem decodeRule_encodes (fn c b a d : Reg) : Encodes false (pack fn c b a d 40#6) (decodeRule fn c b a d) := by
  unfold decodeRule
  split
  iterate 3 next h => exact encodes_need rfl rfl (by simp +contextual [eq_ofNat_of_toNat h])
  exact encodes_error

theorem decodeCopy_encodes (fn c b a d : Reg) : Encodes false (pack fn c b a d 41#6) (decodeCopy fn c b a d) := by
  unfold decodeCopy
  split
  iterate 3 next h => exact encodes_need rfl rfl (by simp +contextual [eq_ofNat_of_toNat h])
  exact encodes_error

theorem decodeMsg_encodes (fn c b a d : Reg) : Encodes false (pack fn c b a d 42#6) (decodeMsg fn c b a d) := by
  unfold decodeMsg
  split
  iterate 6 next h => exact encodes_need rfl rfl (by simp +contextual [eq_ofNat_of_toNat h])
  exact encodes_error

theorem decodeTask_encodes (fn c b a d : Reg) : Encodes false (pack fn c b a d 43#6) (decodeTask fn c b a d) := by
  unfold decodeTask
  split
  iterate 2 next h => exact encodes_need rfl rfl (by simp +contextual [eq_ofNat_of_toNat h])
  exact encodes_error

theorem decodeClu_encodes (fn c b a d : Reg) : Encodes false (pack fn c b a d 44#6) (decodeClu fn c b a d) := by
  unfold decodeClu
  split
  iterate 4 next h => exact encodes_need rfl rfl (by simp +contextual [eq_ofNat_of_toNat h])
  exact encodes_error

theorem decodeWs_encodes (fn c b a d : Reg) : Encodes false (pack fn c b a d 45#6) (decodeWs fn c b a d) := by
  unfold decodeWs
  split
  iterate 4 next h => exact encodes_need rfl rfl (by simp +contextual [eq_ofNat_of_toNat h])
  exact encodes_error

theorem decodeSys_encodes (fn c b a d : Reg) : Encodes false (pack fn c b a d 46#6) (decodeSys fn c b a d) := by
  unfold decodeSys
  split
  iterate 5 next h => exact encodes_need rfl rfl (by simp +contextual [eq_ofNat_of_toNat h])
  exact encodes_error

theorem decodeFields_encodes (m : BitVec 6) (fn c b a d : Reg) : Encodes false (pack fn c b a d m) (decodeFields m fn c b a d) := by
  unfold decodeFields
  split
  next h => exact eq_ofNat_of_toNat h ▸ decodeInt_encodes fn c b a d
  iterate 4 next h => exact encodes_ok rfl rfl (by simp [eq_ofNat_of_toNat h])
  next h => exact encodes_need rfl rfl (by simp +contextual [eq_ofNat_of_toNat h, high22])
  iterate 4 next h => exact encodes_ok rfl rfl (by simp [eq_ofNat_of_toNat h])
  next h => exact eq_ofNat_of_toNat h ▸ decodeCtl_encodes fn c b a d
  next h => exact eq_ofNat_of_toNat h ▸ decodeBr_encodes fn c b a d
  next h => exact eq_ofNat_of_toNat h ▸ decodeBx_encodes fn c b a d
  iterate 2 next h => exact encodes_ok rfl rfl (by simp [eq_ofNat_of_toNat h])
  iterate 2 next h => exact encodes_ok rfl rfl (by simp [eq_ofNat_of_toNat h, high2])
  iterate 11 next h => exact encodes_ok rfl rfl (by simp [eq_ofNat_of_toNat h])
  next h => exact eq_ofNat_of_toNat h ▸ decodeAmo_encodes fn c b a d
  next h => exact eq_ofNat_of_toNat h ▸ decodeFence_encodes fn c b a d
  next h => exact eq_ofNat_of_toNat h ▸ decodeWait_encodes fn c b a d
  next h => exact eq_ofNat_of_toNat h ▸ decodeBank_encodes fn c b a d
  next h => exact eq_ofNat_of_toNat h ▸ decodeValu_encodes fn c b a d
  next h => exact eq_ofNat_of_toNat h ▸ decodeVfp_encodes fn c b a d
  next h => exact eq_ofNat_of_toNat h ▸ decodeVmem_encodes fn c b a d
  next h => exact eq_ofNat_of_toNat h ▸ decodeVxf_encodes fn c b a d
  next h => exact eq_ofNat_of_toNat h ▸ decodeCvt_encodes fn c b a d
  next h => exact eq_ofNat_of_toNat h ▸ decodeFalu_encodes fn c b a d
  next h => exact eq_ofNat_of_toNat h ▸ decodeTbl_encodes fn c b a d
  next h => exact eq_ofNat_of_toNat h ▸ decodeMat_encodes fn c b a d
  next h => exact eq_ofNat_of_toNat h ▸ decodeRule_encodes fn c b a d
  next h => exact eq_ofNat_of_toNat h ▸ decodeCopy_encodes fn c b a d
  next h => exact eq_ofNat_of_toNat h ▸ decodeMsg_encodes fn c b a d
  next h => exact eq_ofNat_of_toNat h ▸ decodeTask_encodes fn c b a d
  next h => exact eq_ofNat_of_toNat h ▸ decodeClu_encodes fn c b a d
  next h => exact eq_ofNat_of_toNat h ▸ decodeWs_encodes fn c b a d
  next h => exact eq_ofNat_of_toNat h ▸ decodeSys_encodes fn c b a d
  next h => exact encodes_need rfl rfl (by simp +contextual [eq_ofNat_of_toNat h, high2])
  exact encodes_error

theorem decodeFields16_encodes (op : BitVec 4) (hi : BitVec 6) (d : Reg) :
    Encodes true ((pack16 hi d op).zeroExtend 32) (decodeFields16 op hi d) := by
  unfold decodeFields16
  split
  next h => exact encodes_need rfl rfl (by simp +contextual [eq_ofNat_of_toNat h, high1of6])
  iterate 2 next h => exact encodes_ok rfl rfl (by simp [eq_ofNat_of_toNat h])
  iterate 3 next h => exact encodes_need rfl rfl (by simp +contextual [eq_ofNat_of_toNat h, high1of6])
  iterate 3 next h => exact encodes_ok rfl rfl (by simp [eq_ofNat_of_toNat h])
  iterate 5 next h => exact encodes_need rfl rfl (by simp +contextual [eq_ofNat_of_toNat h, high2of6])
  exact encodes_error

/-! ## The fields of two halfwords -/

/-- A word that is marked as wide is packed from its fields. -/
theorem pack_fields (w : W32) (h : w.getLsbD 0 = true) : pack (fnOf w) (cOf w) (bOf w) (aOf w) (dOf w) (majOf w) = w := by
  apply BitVec.eq_of_getLsbD_eq; intro i hi
  rw [getLsbD_pack]
  simp only [fnOf, cOf, bOf, aOf, dOf, majOf, BitVec.getLsbD_extractLsb']
  interval_cases i
  · exact h.symm
  all_goals rfl

theorem pack16_fields (x : Half) (h : x.getLsbD 0 = false) : pack16 (hiOf x) (d16Of x) (op4Of x) = x := by
  apply BitVec.eq_of_getLsbD_eq; intro i hi
  rw [getLsbD_pack16]
  simp only [hiOf, d16Of, op4Of, BitVec.getLsbD_extractLsb']
  interval_cases i
  · exact h.symm
  all_goals rfl

/-! A field of a word that lies in one of its halfwords. -/

theorem extract_append_high {n m : Nat} (x : BitVec n) (y : BitVec m) (k j : Nat) :
    (x ++ y).extractLsb' (m + k) j = x.extractLsb' k j := by
  apply BitVec.eq_of_getLsbD_eq; intro i hi
  simp [BitVec.getLsbD_append, Nat.add_assoc]

theorem extract_append_low {n m : Nat} (x : BitVec n) (y : BitVec m) {k j : Nat} (h : k + j ≤ m) :
    (x ++ y).extractLsb' k j = y.extractLsb' k j := by
  apply BitVec.eq_of_getLsbD_eq; intro i hi
  simp only [BitVec.getLsbD_extractLsb', BitVec.getLsbD_append, if_pos (show k + i < m by omega)]

theorem extract_extract {n : Nat} (x : BitVec n) {i l k j : Nat} (h : k + j ≤ l) :
    (x.extractLsb' i l).extractLsb' k j = x.extractLsb' (i + k) j := by
  apply BitVec.eq_of_getLsbD_eq; intro b hb
  simp [Nat.add_assoc, show k + b < l by omega]

theorem majOf_append (lo hi : Half) : majOf (hi ++ lo) = lo.extractLsb' 1 6 := extract_append_low hi lo (by decide)
theorem fnOf_append (lo hi : Half) : fnOf (hi ++ lo) = hi.extractLsb' 11 5 := extract_append_high hi lo 11 5
theorem cOf_append (lo hi : Half) : cOf (hi ++ lo) = hi.extractLsb' 6 5 := extract_append_high hi lo 6 5
theorem bOf_append (lo hi : Half) : bOf (hi ++ lo) = hi.extractLsb' 1 5 := extract_append_high hi lo 1 5

theorem append_isWide (lo hi : Half) : BitVec.getLsbD (w := 32) (hi ++ lo) 0 = lo.getLsbD 0 :=
  BitVec.getLsbD_append.trans (if_pos (by decide))

/-! ## The decoder as a whole -/

theorem decode_wide {lo : Half} (hi : Half) (h : lo.getLsbD 0 = true) :
    decode lo hi = decodeFields (lo.extractLsb' 1 6) (hi.extractLsb' 11 5) (hi.extractLsb' 6 5) (hi.extractLsb' 1 5)
      (aOf (hi ++ lo)) (dOf (hi ++ lo)) := by
  rw [decode, isWide, if_pos h, decode32, majOf_append, fnOf_append, cOf_append, bOf_append]

theorem decode_short {lo : Half} (hi : Half) (h : lo.getLsbD 0 = false) :
    decode lo hi = decodeFields16 (lo.extractLsb' 1 4) (hiOf lo) (d16Of lo) := by
  rw [decode, isWide, h, if_neg Bool.false_ne_true, decode16, op4Of]

theorem decode_wide_encodes {lo : Half} (hi : Half) (h : lo.getLsbD 0 = true) : Encodes false (hi ++ lo) (decode lo hi) := by
  have hw := decodeFields_encodes (majOf (hi ++ lo)) (fnOf (hi ++ lo)) (cOf (hi ++ lo)) (bOf (hi ++ lo)) (aOf (hi ++ lo)) (dOf (hi ++ lo))
  rw [pack_fields _ ((append_isWide lo hi).trans h)] at hw
  rwa [decode, isWide, if_pos h, decode32]

theorem decode_short_encodes {lo : Half} (hi : Half) (h : lo.getLsbD 0 = false) :
    Encodes true (lo.zeroExtend 32) (decode lo hi) := by
  have hw := decodeFields16_encodes (op4Of lo) (hiOf lo) (d16Of lo)
  rw [pack16_fields lo h] at hw
  rwa [decode_short hi h]

/-! ## The encodings of Table 19 -/

theorem decodeFields_major {m : BitVec 6} (h : 0x30 ≤ m.toNat) (fn c b a d : Reg) : decodeFields m fn c b a d = .error .major := by
  unfold decodeFields
  split
  iterate 48 omega
  rfl

theorem decodeFields16_major {op : BitVec 4} (h : op = 0 ∨ op = 15) (hi : BitVec 6) (d : Reg) :
    decodeFields16 op hi d = .error .major := by
  obtain rfl | rfl := h <;> rfl

theorem decodeInt_selector {fn : Reg} (h : 28 ≤ fn.toNat) (c b a d : Reg) : decodeInt fn c b a d = .error .selector := by
  unfold decodeInt
  split
  iterate 28 omega
  rfl

theorem decodeBr_selector {b : Reg} (h : 6 ≤ (b.extractLsb' 0 3).toNat) (fn c a d : Reg) : decodeBr fn c b a d = .error .selector := by
  unfold decodeBr
  split
  iterate 6 omega
  rfl

/-- `shi` with a bit set above its shift kind. -/
theorem decodeFields_shi {fn c : Reg} (h : fn ≠ 0 ∨ c.extractLsb' 3 2 ≠ 0) (b a d : Reg) :
    decodeFields 5 fn c b a d = .error .unusedField := by
  show need (fn == 0#5 && c.extractLsb' 3 2 == 0#2) _ = _
  rw [show (fn == 0#5 && c.extractLsb' 3 2 == 0#2) = false by simpa [or_iff_not_imp_left] using h]
  rfl

/-- Settles O3: every line of Table 17 and Table 18 answers the instruction whose word is the one read (`decodeFields_encodes`), and the
words of Table 19 reach the last case of their table. -/
theorem wordsHaveOneMeaning : Obligations.WordsHaveOneMeaning := by
  refine ⟨fun lo hi i h => ?_, fun lo hi h h' => ?_, fun lo hi h h' => ?_, fun lo hi h h' h1 => ?_, fun lo hi h h' h1 => ?_,
    fun lo hi h h' h1 => ?_⟩
  · split
    · next hw => exact decode_wide_encodes hi hw i h
    · next hw => exact decode_short_encodes hi (by simpa using hw) i h
  · exact ⟨_, (decode_wide hi h).trans (decodeFields_major h' ..)⟩
  · exact ⟨_, (decode_short hi h).trans (decodeFields16_major h' ..)⟩
  · exact ⟨_, (decode_wide hi h).trans (congrArg (decodeFields · ..) h' |>.trans (decodeInt_selector h1 ..))⟩
  · refine ⟨_, (decode_wide hi h).trans ((congrArg (decodeFields · ..) h').trans (decodeBr_selector ?_ ..))⟩
    rwa [extract_extract _ (by decide)]
  · refine ⟨_, (decode_wide hi h).trans ((congrArg (decodeFields · ..) h').trans (decodeFields_shi ?_ ..))⟩
    have hx := append_parts (n := 5) (m := 2) (hi.extractLsb' 9 7)
    rw [extract_extract _ (by decide), extract_extract _ (by decide)] at hx
    rw [extract_extract _ (by decide)]
    contrapose! h1
    rw [← hx, h1.1, h1.2]; rfl

end Sys2Proof.Laws.Encoding
end

section
/-! SUPPORT. The checks that come before an instruction has an effect, in the order of R39. -/
namespace Sys2Proof.Machine
open Sys2Proof

/-- An encoded instruction is executed in the order of R39, with what its entry refuses as a whole. -/
theorem exec_encoded {i : Instr} (h : (encode i).isSome = true) (s : State) :
    ∃ body, exec i s = retireUnless i (refusedWhole s i) s body := by
  cases i with
  | add | sub | and | or | xor | shl | shr | sra | rot | mul | mulh | mulhu | div | divu | rem | remu | slt | sltu | seq | min
  | max | minu | maxu | clz | ctz | popc | madd | csel | addi | andi | ori | xori | shi | slti | sltiu | lui | addpc | crd | cwr
  | cset | cclr | cswp | beq | bne | blt | bge | bltu | bgeu | bok | bempty | bfull | babsent | bany | ball | bnone | bflag | jal
  | jalr | ldx | stx | ldb | ldbz | ldh | ldhz | ldw | ldwz | ldd | stb | sth | stw | std | amoadd | amoand | amoor | amoxor
  | amomin | amomax | amominu | amomaxu | amoswap | amocas | amofadd | amoincb | fence | pfence | ifence | waitge | waitp | sleep
  | fwait | fset | fclr | ftest | yield | bpers | bquery | bgroup | bspread | bkeep | bclear | vadd | vsub | vmul | vmin | vmax
  | vand | vor | vxor | vshl | vshr | vsra | vceq | vclt | vcle | vsel | vaddsat | vmadd | vfadd | vfsub | vfmul | vfma | vfmin
  | vfmax | vfceq | vfclt | vfcle | vfdiv | vfsqrt | vfrcp | vfexp2 | vflog2 | vfabs | vfneg | vld | vst | vldx | vstx | vstxadd
  | vldb | vldk | vstk | vbcast | vext | vins | vredaddI32 | vredaddF32 | vredmin | vredmax | vperm | vslide | vmpop | vmand
  | vmor | vmxor | vmnot | vmset | vmget | vlane | cvtF32I32 | cvtI32F32 | cvtF64F32 | cvtF32F64 | vcvtBf16F32 | vcvtF32Bf16
  | vdec | venc | vqmx | vdqmx | fadd | fsub | fmul | fma | fdiv | fsqrt | fmin | fmax | feq | flt | fle | fabs | fneg | fclass
  | tblld | tblrd | tblpre | mma | mmaz | mstream | mzero | mstore | mread | mpeek | msync | mload | rrun | rverify | rstat | cpy
  | cpyTry | cpyq | send | sendm | arm | bind | spawn | reply | halt | self | detach | join | bar | lead | grow | shrink | swp
  | rdws | trap | eret | stop | census | nop | rep | cMov | cAddi | cLi | cLdd | cStd | cAdd | cBeqz | cBnez | cJ | once | cHalt
  | cJoin | cRet | cNop => exact ⟨_, rfl⟩
  | _ => exact absurd h Bool.false_ne_true

/-- Settles O7: an encoded instruction is `State.execute` with its entry's refusal, whose branches are the order of R39. -/
theorem checksComeFirst : Obligations.ChecksComeFirst := by
  refine ⟨fun i s hi => ?_, fun w h s => rfl, fun a s => rfl⟩
  obtain ⟨body, he⟩ := exec_encoded hi s
  rw [he, retireUnless]
  refine ⟨fun hl => ?_, fun hl x hx => ?_, fun hl hx v hv => ?_, fun hl hx hv n hn => ?_⟩
  · simp [State.execute, hl]
  · rw [hx, State.execute_refused s i x body hl]
  · simp [State.execute, hl, hx, hv]
  · simp [State.execute, hl, hx, hv, hn]

end Sys2Proof.Machine
end

section
/-! SUPPORT. A DOUBLE seals its core and reports it, and nothing that follows the sealing undoes either (R30, R193, R274, R324). -/
namespace Sys2Proof.Machine
open Sys2Proof

/-! ## Sealed cores stay sealed -/

/-- A sealed core stays sealed, with its cause. -/
def Core.SealStays (c d : Core) : Prop := c.run = .sealed → d.run = .sealed ∧ d.cr_ Cr.cause = c.cr_ Cr.cause

/-- The sealed cores of a cluster stay so. -/
def Cluster.SealsStay (k l : Cluster) : Prop := ∀ j, (k.core j).SealStays (l.core j)

/-- The sealed cores of the module stay so, no service core is told anything, and the turn stays with its core. -/
structure State.SealsStay (s t : State) : Prop where
  told : (t.cur, t.reports) = (s.cur, s.reports)
  cores : ∀ q, (s.core q).SealStays (t.core q)

theorem Core.SealStays.refl (c : Core) : c.SealStays c := fun h => ⟨h, rfl⟩

theorem Core.SealStays.trans {c d e : Core} (h : c.SealStays d) (h' : d.SealStays e) : c.SealStays e := fun x =>
  have ⟨x', hc⟩ := h x
  have ⟨x'', hc'⟩ := h' x'
  ⟨x'', hc'.trans hc⟩

theorem Core.SealStays.of_unsealed {c d : Core} (h : c.run ≠ .sealed) : c.SealStays d := fun x => absurd x h

theorem Core.SealStays.of_eq {c d : Core} (hr : d.run = c.run) (hc : d.cr = c.cr) : c.SealStays d := fun x =>
  ⟨hr.trans x, by simp only [Core.cr_, hc]⟩

theorem Cluster.SealsStay.refl (k : Cluster) : k.SealsStay k := fun _ => .refl _

theorem Cluster.SealsStay.trans {k l m : Cluster} (h : k.SealsStay l) (h' : l.SealsStay m) : k.SealsStay m := fun j => (h j).trans (h' j)

theorem Cluster.SealsStay.of_cores {k l : Cluster} (h : l.cores = k.cores) : k.SealsStay l := fun j => by
  rw [show l.core j = k.core j by simp only [Cluster.core, h]]
  exact .refl _

theorem Cluster.SealsStay.of_alike {k l : Cluster} (h : k.Alike l) : k.SealsStay l := fun j => by
  have hr := congrArg Core.run (h.2 j)
  have hc := congrArg Core.cr (h.2 j)
  exact .of_eq hr hc

theorem Cluster.sealsStay_setCore {k : Cluster} {j : Nat} {c : Core} (h : (k.core j).SealStays c) :
    k.SealsStay (k.setCore j c) := fun i => by
  by_cases hi : i = j
  · rwa [hi, Cluster.core_setCore]
  · rw [Cluster.core_setCore_other _ _ hi]
    exact .refl _

theorem Cluster.sealsStay_foldl {α : Type} {f : Cluster → α → Cluster} (h : ∀ (k : Cluster) x, k.SealsStay (f k x)) (l : List α)
    {k m : Cluster} (h0 : k.SealsStay m) : k.SealsStay (l.foldl f m) := by
  induction l generalizing m with
  | nil => exact h0
  | cons x l ih => exact ih (h0.trans (h m x))

theorem Cluster.sealsStay_completeJoin (k : Cluster) : k.SealsStay k.completeJoin := by
  unfold Cluster.completeJoin
  split
  · split
    · refine Cluster.sealsStay_foldl (fun k j => ?_) _ (.of_cores rfl)
      dsimp only
      split
      · next hj => exact Cluster.sealsStay_setCore (.of_unsealed (hj ▸ nofun))
      · exact .refl _
    · refine Cluster.sealsStay_foldl (fun k j => ?_) _ (.of_cores rfl)
      exact Cluster.sealsStay_setCore fun h => ⟨(if_neg (h ▸ nofun)).trans h, rfl⟩
  · exact .refl _

namespace State

theorem SealsStay.refl (s : State) : s.SealsStay s := ⟨rfl, fun _ => .refl _⟩

theorem SealsStay.trans {s t u : State} (h : s.SealsStay t) (h' : t.SealsStay u) : s.SealsStay u :=
  ⟨h'.told.trans h.told, fun q => (h.cores q).trans (h'.cores q)⟩

theorem SealsStay.after {s t u : State} (h' : t.SealsStay u) (h : s.SealsStay t) : s.SealsStay u := h.trans h'

/-- A change of neither clusters nor reports. -/
theorem SealsStay.of_clusters {s t : State} (hc : t.clusters = s.clusters) (ht : (t.cur, t.reports) = (s.cur, s.reports)) : s.SealsStay t :=
  ⟨ht, fun q => by
    rw [show t.core q = s.core q by simp only [State.core, State.cluster, hc]]
    exact .refl _⟩

/-- What follows changes neither clusters nor reports. -/
theorem SealsStay.same {s t u : State} (h : s.SealsStay t) (hc : u.clusters = t.clusters) (ht : (u.cur, u.reports) = (t.cur, t.reports)) :
    s.SealsStay u := h.trans (.of_clusters hc ht)

theorem sealsStay_foldl {α : Type} {f : State → α → State} (h : ∀ (s : State) x, s.SealsStay (f s x)) (l : List α)
    {s t : State} (h0 : s.SealsStay t) : s.SealsStay (l.foldl f t) := by
  induction l generalizing t with
  | nil => exact h0
  | cons x l ih => exact ih (h0.trans (h t x))

theorem sealsStay_updCluster {s : State} {k : Nat} {f : Cluster → Cluster} (h : (s.cluster k).SealsStay (f (s.cluster k))) :
    s.SealsStay (s.updCluster k f) := ⟨rfl, fun q => by
  rw [State.core_updCluster]
  split
  · next e => rw [State.core, e]; exact h _
  · exact .refl _⟩

theorem sealsStay_setCluster {s : State} {k : Nat} {c : Cluster} (h : (s.cluster k).SealsStay c) : s.SealsStay (s.setCluster k c) :=
  sealsStay_updCluster (f := fun _ => c) h

theorem sealsStay_updCore {s : State} {r : CoreRef} {f : Core → Core} (h : (s.core r).SealStays (f (s.core r))) :
    s.SealsStay (s.updCore r f) := sealsStay_setCluster (Cluster.sealsStay_setCore h)

/-! ## Counts, marks and what HBM does -/

theorem sealsStay_bump (s : State) (off n : Nat) : s.SealsStay (s.bump off n) := .of_clusters rfl rfl

theorem sealsStay_clusterError (s : State) (cl n : Nat) : s.SealsStay (s.clusterError cl n) := sealsStay_updCluster (.of_cores rfl)

theorem sealsStay_countTrap (s : State) (cl cause : Nat) : s.SealsStay (s.countTrap cl cause) := by
  unfold State.countTrap
  split
  · exact (sealsStay_bump _ _ _).trans (sealsStay_clusterError _ _ _)
  · split
    · exact (sealsStay_bump _ _ _).trans (sealsStay_clusterError _ _ _)
    · exact .refl _

theorem sealsStay_markCounter (s : State) (cl : Nat) (p : Nat × Nat) (cls : Nat) : s.SealsStay (s.markCounter cl p cls) := by
  refine sealsStay_updCore ?_
  split
  · exact .of_eq rfl rfl
  · exact .refl _

theorem sealsStay_markHeld (s : State) (cl : Nat) (h : Held) : s.SealsStay (s.markHeld cl h) := by
  unfold State.markHeld
  split
  · exact sealsStay_markCounter _ _ _ _
  · exact .refl _

/-- Changing every entry of a list by number changes the entry read, where the default stays. -/
theorem aget_map {α : Type} (d : α) (f : Nat → α → α) (l : Assoc α) (k : Nat) (hd : f k d = d) :
    aget d (l.map fun p => (p.1, f p.1 p.2)) k = f k (aget d l k) := by
  induction l with
  | nil => exact hd.symm
  | cons p l ih =>
    obtain ⟨j, v⟩ := p
    by_cases h : j = k
    · subst h; simp [aget]
    · simpa [aget, h] using ih

/-- A core whose access waits for a burst may join the row that is opened (R331): what `State.openRow` does to core n of the module. -/
def joinedCore (s : State) (p n : Nat) (c : Core) : Core :=
  match c.pend with
  | some a => match (match a.stage with | .home q => ownHbm s q | _ => none) with
    | some q => { c with pend := some { a with joined := joinedAt p q a.joined (Config.joins s.free n) } }
    | none => c
  | none => c

def joinedCluster (s : State) (p n : Nat) (k : Cluster) : Cluster :=
  { k with cores := k.cores.map fun c => (c.1, joinedCore s p (8 * n + c.1) c.2) }

theorem joinedCore_eq (s : State) (p n : Nat) (c : Core) : ∃ x, joinedCore s p n c = { c with pend := x } := by
  unfold joinedCore
  split
  · split
    · exact ⟨_, rfl⟩
    · exact ⟨c.pend, rfl⟩
  · exact ⟨c.pend, rfl⟩

theorem openRow_clusters (s : State) (p : Nat) :
    (s.openRow p).clusters = s.clusters.map fun k => (k.1, joinedCluster s p k.1 k.2) := rfl

theorem openRow_cluster (s : State) (p k : Nat) : (s.openRow p).cluster k = joinedCluster s p k (s.cluster k) := by
  rw [State.cluster, openRow_clusters]
  exact aget_map _ (joinedCluster s p) _ _ rfl

theorem openRow_core (s : State) (p : Nat) (q : CoreRef) : (s.openRow p).core q = joinedCore s p (8 * q.cl + q.core) (s.core q) := by
  rw [State.core, openRow_cluster]
  exact aget_map _ (fun i => joinedCore s p (8 * q.cl + i)) _ _ rfl

theorem sealsStay_openRow (s : State) (p : Nat) : s.SealsStay (s.openRow p) := ⟨rfl, fun q => by
  obtain ⟨x, hx⟩ := joinedCore_eq s p (8 * q.cl + q.core) (s.core q)
  rw [openRow_core, hx]
  exact .of_eq rfl rfl⟩

theorem sealsStay_block (s : State) (p : Nat) : s.SealsStay (s.block p) := by
  unfold State.block
  split <;> exact .of_clusters rfl rfl

theorem sealsStay_activate (s : State) (p : Nat) : s.SealsStay (s.activate p) := by
  unfold State.activate
  refine (sealsStay_openRow s p).trans ?_
  dsimp only
  split
  · exact (sealsStay_block _ p).after (.of_clusters rfl rfl)
  · exact .of_clusters rfl rfl

theorem sealsStay_touchEdge (s : State) (p hint : Nat) : s.SealsStay (s.touchEdge p hint) := by
  unfold State.touchEdge
  dsimp only
  split
  · exact .refl _
  · exact .of_clusters rfl rfl

theorem sealsStay_eccAt (s : State) (p : Nat) (e : Ecc) : s.SealsStay (s.eccAt p e) := by
  cases e with
  | clean => exact .refl _
  | corrected | uncorrectable => exact .of_clusters rfl rfl

theorem sealsStay_findFlaws (s : State) (p : Nat) : s.SealsStay (s.findFlaws p) := by
  unfold State.findFlaws
  split
  · exact .refl _
  · exact sealsStay_foldl (fun s x => sealsStay_eccAt _ _ _) _ (.of_clusters rfl rfl)

theorem sealsStay_burst (s : State) (p hint : Nat) : s.SealsStay (s.burst p hint) := by
  refine SealsStay.trans ?_ ((sealsStay_touchEdge _ p hint).trans (sealsStay_findFlaws _ p))
  split
  · exact .refl _
  · exact sealsStay_activate s p

theorem sealsStay_meetsPoison (s before : State) (a n : Nat) : s.SealsStay (s.meetsPoison before a n) := by
  unfold State.meetsPoison
  split
  · exact sealsStay_bump _ _ _
  · exact .refl _

theorem sealsStay_waitOut (n : Nat) (s : State) (p : Nat) : s.SealsStay (s.waitOut p none n) := by
  induction n generalizing s with
  | zero => exact .refl _
  | succ n ih =>
    unfold State.waitOut
    split
    · exact .refl _
    · exact (ih _).after (.of_clusters rfl rfl)

theorem sealsStay_waitRead (s : State) (p n : Nat) :
    s.SealsStay (((s.waitOut p none s.blockFuel).burst p 0).meetsPoison (s.waitOut p none s.blockFuel) p n) :=
  (sealsStay_waitOut _ s p).trans ((sealsStay_burst _ p 0).trans (sealsStay_meetsPoison _ _ p n))

theorem sealsStay_readEntry (s : State) (table level va : Nat) : s.SealsStay (s.readEntry table level va) := by
  unfold State.readEntry
  dsimp only
  split
  · exact sealsStay_waitRead s _ 8
  · exact .refl _

theorem sealsStay_walkReads (va : Nat) (l table : Nat) (s : State) : s.SealsStay (s.walkReads none va l table) := by
  induction l generalizing s table with
  | zero => exact sealsStay_readEntry _ _ _ _
  | succ l ih =>
    refine (sealsStay_readEntry s table (l + 1) va).trans ?_
    unfold State.walkReads
    dsimp only
    split
    · exact ih _ _
    · exact .refl _

/-! ## Reports to a launch's counter, and kills -/

theorem sealsStay_refusedAt (s : State) (q : Nat) : s.SealsStay (s.refusedAt q) := .of_clusters rfl rfl

theorem sealsStay_counterOutside (s : State) (q p : Nat) (code : Option Nat) : s.SealsStay (s.counterOutside q p code) := by
  unfold State.counterOutside
  split
  · split
    · exact .of_clusters rfl rfl
    · dsimp only
      split <;> exact .of_clusters rfl rfl
  · exact sealsStay_refusedAt _ _

theorem sealsStay_stationCounter (s : State) (q : Nat) (root : Option Nat) (a : Word) (code : Option Nat) :
    s.SealsStay (s.stationCounter q root a code) := by
  unfold State.stationCounter
  split
  · exact sealsStay_refusedAt _ _
  · next root =>
    refine (sealsStay_walkReads (bits a 0 57) 4 root s).trans ?_
    dsimp only
    split
    · exact sealsStay_refusedAt _ _
    · split
      · next h _ =>
        refine SealsStay.after ?_ (sealsStay_waitRead _ h 8)
        split
        · exact sealsStay_refusedAt _ _
        · exact .of_clusters rfl rfl
      · exact sealsStay_refusedAt _ _
      · exact sealsStay_counterOutside _ _ _ _

theorem sealsStay_reportPacket (s : State) (q pid : Nat) (counter : Word) (code : Nat) :
    s.SealsStay (s.reportPacket q pid counter code) := by
  unfold State.reportPacket State.reportLaunch
  exact sealsStay_stationCounter _ _ _ _ _

theorem sealsStay_failReplay (s : State) (id : Option Nat) (code : Nat) : s.SealsStay (s.failReplay id code) := by
  unfold State.failReplay
  split
  · exact .refl _
  · split
    · exact .refl _
    · exact (sealsStay_stationCounter _ _ _ _ _).after (.of_clusters rfl rfl)

theorem sealsStay_contextCheck (s : State) (slot : Nat) : s.SealsStay (s.contextCheck slot) := by
  unfold State.contextCheck
  split
  · exact .refl _
  · exact .of_clusters rfl rfl

theorem sealsStay_dropLaunch (s : State) (id : Nat) : s.SealsStay (s.dropLaunch id) := by
  unfold State.dropLaunch
  split
  · exact .refl _
  · split
    · exact .of_clusters rfl rfl
    · exact .refl _

theorem sealsStay_holdFor (s : State) (cl : Nat) (x : Launch) : s.SealsStay (s.holdFor cl x) := by
  unfold State.holdFor
  split
  · exact .refl _
  · exact .of_clusters rfl rfl

theorem holdFor_cluster (s : State) (cl : Nat) (x : Launch) (k : Nat) : (s.holdFor cl x).cluster k = s.cluster k := by
  unfold State.holdFor
  split <;> rfl

theorem sealsStay_freeCluster (s : State) (cl : Nat) : s.SealsStay (s.freeCluster cl) := by
  have hv {t : State} (ht : t.cluster cl = s.cluster cl) : t.SealsStay (t.setCluster cl (s.cluster cl).vacated) :=
    sealsStay_setCluster (ht ▸ .of_cores rfl)
  unfold State.freeCluster
  refine ((sealsStay_dropLaunch _ _).after (sealsStay_contextCheck _ _)).after ?_
  split
  · exact ((sealsStay_holdFor _ _ _).trans (hv (holdFor_cluster ..))).same rfl rfl
  · exact (hv rfl).same rfl rfl

theorem sealsStay_endCores (k : Cluster) (l : List Nat) : k.SealsStay (l.foldl (fun (k : Cluster) j =>
    if (k.core j).run = .sealed then k else k.setCore j (k.core j).endLaunch) k) := by
  refine Cluster.sealsStay_foldl (fun k j => ?_) l (.refl _)
  split
  · exact .refl _
  · next h => exact Cluster.sealsStay_setCore (.of_unsealed h)

theorem sealsStay_killLaunch (s : State) (id : Nat) : s.SealsStay (s.killLaunch id) := by
  unfold State.killLaunch
  split
  · exact .refl _
  · next l _ =>
    lift_lets
    extract_lets root s1 gone s2 s3 s4
    have h1 : s.SealsStay s1 :=
      sealsStay_foldl (fun s cl => (sealsStay_updCluster (sealsStay_endCores _ _)).trans (sealsStay_freeCluster _ _)) _ (.refl _)
    have h2 : s1.SealsStay s2 := .of_clusters rfl rfl
    have h3 : s2.SealsStay s3 := by
      unfold s3
      split
      · exact .refl _
      · exact sealsStay_stationCounter _ _ _ _ _
    have h4 : s3.SealsStay s4 := sealsStay_failReplay _ _ _
    exact (sealsStay_contextCheck _ _).after ((((h1.trans h2).trans h3).trans h4).same rfl rfl)

theorem sealsStay_killContext (s : State) (pid : Nat) : s.SealsStay (s.killContext pid) := by
  unfold State.killContext
  extract_lets s1 s2
  have h1 : s.SealsStay s1 := sealsStay_foldl (fun s (l : Launch) => sealsStay_killLaunch s l.id) _ (.refl _)
  have h2 : s1.SealsStay s2 := sealsStay_foldl (fun s (x : Replay) => sealsStay_failReplay s (some x.id) lKILLED) _ (.refl _)
  refine sealsStay_foldl (fun s q => ?_) _ (h1.trans h2)
  extract_lets x gone s3
  split
  · exact .refl _
  · exact sealsStay_foldl (fun s e => sealsStay_reportPacket s q pid _ lKILLED) _ (.of_clusters rfl rfl)

/-! ## Sealing -/

end State

theorem Core.sealStays_unconverted (c : Core) : c.SealStays c.unconverted := by
  refine List.foldlRecOn _ _ (motive := c.SealStays) (.refl c) fun d hd b _ => hd.trans ?_
  split
  · exact .of_eq rfl rfl
  · exact .refl _

/-- What sealing does at once: the count, the report, and the core's state (R324). -/
def State.sealNow (s : State) (r : CoreRef) (cause : Nat) : State :=
  ((s.bump Reg.sealed 1).report r.cl (.sealedCore r cause)).updCore r fun c => { c with run := .sealed, redeliver := c.restartItems }

theorem State.sealsStay_seal (s : State) (r : CoreRef) (cause : Nat) (h : (s.core r).run ≠ .sealed) :
    (s.sealNow r cause).SealsStay (s.seal r cause) := by
  unfold State.seal
  extract_lets c k jobs s1 s2 s3 s4 s5 s6
  rw [if_neg h]
  have h3 : s2.SealsStay s3 := sealsStay_foldl (fun s (q : CReq) => sealsStay_markCounter s r.cl q.counter tREMOTEERROR) _ (.refl _)
  have h4 : s3.SealsStay s4 := sealsStay_foldl (fun s (j : Job) => sealsStay_markCounter s r.cl _ tREMOTEERROR) _ (.refl _)
  have h5 : s4.SealsStay s5 := sealsStay_foldl (fun s (x : Held) => sealsStay_markHeld s r.cl x) _ (.refl _)
  have h6 : s5.SealsStay s6 := by
    refine sealsStay_updCluster ?_
    extract_lets k1 k2 c1 k3
    have d1 : (s5.cluster r.cl).SealsStay k1 := .of_alike (Cluster.alike_dropBuf _ _)
    have d2 : k1.SealsStay k2 := .of_cores rfl
    have dc : (k2.core r.core).SealStays c1 := Core.sealStays_unconverted _
    have d3 : k2.SealsStay k3 := by
      clear_value c1
      exact Cluster.sealsStay_setCore (dc.trans (.of_eq rfl rfl))
    exact (((d1.trans d2).trans d3).trans (.of_alike (Cluster.alike_settle _))).trans (Cluster.sealsStay_completeJoin _)
  refine (((h3.trans h4).trans h5).trans h6).trans ?_
  split
  · exact .refl _
  · split
    · exact sealsStay_killContext _ _
    · split
      · exact sealsStay_killLaunch _ _
      · exact .refl _

/-- A core that was not sealed is sealed with its cause, and its quadrant's service core is told that, and nothing else. -/
theorem State.seal_tells (s : State) (r : CoreRef) (cause : Nat) (h : (s.core r).run ≠ .sealed) :
    ((s.seal r cause).core r).run = .sealed ∧ ((s.seal r cause).core r).cr_ Cr.cause = (s.core r).cr_ Cr.cause ∧
      (s.seal r cause).cur = s.cur ∧ (s.seal r cause).reports = s.reports ++ [(quadrant r.cl, .sealedCore r cause)] := by
  have hs := s.sealsStay_seal r cause h
  have hr : (s.sealNow r cause).core r = { s.core r with run := .sealed, redeliver := (s.core r).restartItems } :=
    State.core_updCore _ _ _
  obtain ⟨h1, h2⟩ := hs.cores r (by rw [hr])
  exact ⟨h1, h2.trans (by rw [hr]; rfl), congrArg Prod.fst hs.told, congrArg Prod.snd hs.told⟩

/-! ## DOUBLE -/

theorem Core.cannotTrap_of_not_canTrap {c : Core} (h : ¬ c.canTrap) : c.cannotTrap = true := by
  simp only [Core.canTrap, not_and_or] at h
  simp only [Core.cannotTrap, Bool.or_eq_true, beq_iff_eq, Bool.not_eq_true']
  grind

theorem State.core_clusterError (s : State) (cl n : Nat) (q : CoreRef) : (s.clusterError cl n).core q = s.core q := by
  rw [State.clusterError, State.core_updCluster]
  split
  · next h => rw [State.core, h]; rfl
  · rfl

/-- Counting a trap touches no core. -/
theorem State.core_countTrap (s : State) (cl cause : Nat) (q : CoreRef) : (s.countTrap cl cause).core q = s.core q := by
  unfold State.countTrap
  split
  · exact State.core_clusterError _ _ _ _
  · split
    · exact State.core_clusterError _ _ _ _
    · rfl

/-- A core that cannot take a trap and is not sealed. -/
theorem State.double_tells (s : State) (r : CoreRef) (cause : Nat) (e v : Word) (h : (s.core r).run ≠ .sealed) :
    ((s.double r cause e v).core r).run = .sealed ∧ ((s.double r cause e v).core r).cr_ Cr.cause = BitVec.ofNat 64 tDOUBLE ∧
      (s.double r cause e v).cur = s.cur ∧
      (s.double r cause e v).reports = s.reports ++ [(quadrant r.cl, .double r cause e v), (quadrant r.cl, .sealedCore r tDOUBLE)] := by
  have hr : ((s.updCore r fun k => k.setCr Cr.cause (BitVec.ofNat 64 tDOUBLE)).report r.cl (.double r cause e v)).core r =
      (s.core r).setCr Cr.cause (BitVec.ofNat 64 tDOUBLE) :=
    State.core_updCore s r fun k => k.setCr Cr.cause (BitVec.ofNat 64 tDOUBLE)
  obtain ⟨h1, h2, h3, h4⟩ := State.seal_tells
    ((s.updCore r fun k => k.setCr Cr.cause (BitVec.ofNat 64 tDOUBLE)).report r.cl (.double r cause e v)) r tDOUBLE (by rwa [hr])
  rw [hr, Core.cr_setCr] at h2
  exact ⟨h1, h2, h3, h4.trans (List.append_assoc ..)⟩

/-- Settles O9: the trap is counted, which touches no core, and is a DOUBLE, which writes `CAUSE`, reports and seals; what the sealing sets
off keeps all three (`State.sealsStay_seal`). -/
theorem doubleSeals : Obligations.DoubleSeals := by
  intro s cause v hc hr t
  have hm := s.core_countTrap s.cur.cl cause s.cur
  have ht : t = (s.countTrap s.cur.cl cause).double s.cur cause s.me.pc v :=
    if_pos (hm ▸ Core.cannotTrap_of_not_canTrap hc)
  obtain ⟨h1, h2, h3, h4⟩ := State.double_tells (s.countTrap s.cur.cl cause) s.cur cause s.me.pc v (hm ▸ hr)
  obtain ⟨hcur, hrep⟩ := Prod.mk.inj (State.sealsStay_countTrap s s.cur.cl cause).told
  rw [ht, State.me, h3, hcur, h4, hrep]
  exact ⟨h1, h2, rfl⟩

end Sys2Proof.Machine
end

section
/-! SUPPORT. Control registers: what `crd` reads, what a write form leaves, and the steps that a write leaves to do (R24, R84,
R85, R234, R339). -/
namespace Sys2Proof.Machine
open Sys2Proof

/-! ## An instruction that completes -/

/-- The completion of an instruction touches its core's place alone, and the group's progress (R79). -/
theorem State.finish_leaves (u : State) (i : Instr) : OnlyMine u (u.finish i) ∧ u.me.Keeps (u.finish i).me nothing nothing ∧
    (u.me.inRep = false → (u.finish i).me.pc = u.me.pc + BitVec.ofNat 64 i.len) ∧ (u.finish i).me.apart = (u.me.passed i).apart := by
  have hd := State.finish_data u i
  have hm : (u.finish i).me.apart = (u.me.passed i).apart := by rw [hd.me, State.me_upd]
  have hpc : (u.finish i).me.pc = (u.me.passed i).pc := by have x := congrArg Core.pc hm; exact x
  refine ⟨⟨hd.outer, fun k => ?_, fun q hq => ?_⟩, (Core.keeps_passed _ i).trans (.of_apart hm _ _), fun h => ?_, hm⟩
  · rw [hd.fixed k]
    by_cases hk : k = u.cur.cl
    · subst hk; simp [State.upd, Cluster.fixed]
    · simp [State.upd, State.setCore, State.cluster_setCluster_other _ _ hk]
  · rw [hd.cores q, State.core_upd_other _ _ hq]
  · rw [hpc, Core.pc_passed _ _ h]

/-- Outside a `rep` body no control register changes when an instruction completes, and within one `REPSTATE` alone. -/
theorem State.finish_cr (u : State) (i : Instr) (n : Nat) (h : n = Cr.repstate → u.me.inRep = false) :
    (u.finish i).me.cr_ n = u.me.cr_ n := by
  obtain ⟨-, hk, -, hm⟩ := u.finish_leaves i
  by_cases hn : n = Cr.repstate
  · have hc : (u.finish i).me.cr = (u.me.passed i).cr := by have x := congrArg Core.cr hm; exact x
    have hr : ({ u.me with wait := none, taken := none, transfer := none } : Core).inRep = false := h hn
    simp [Core.cr_, hc, Core.passed, Core.retired, Core.advance, hr]
  · exact hk.2.2 n id hn

theorem State.finish_s (u : State) (i : Instr) (j : Nat) : (u.finish i).me.s j = u.me.s j := by
  obtain ⟨-, -, -, hm⟩ := u.finish_leaves i
  rw [Core.s_apart hm, Core.s_passed]

/-! ## What the layouts say -/

theorem crWritable_of_layout {c : Core} {n : Nat} {w r v : Word} (h : crLayout n = some (w, r)) : crWritable c n v =
    (w != 0 && v &&& r == 0 && (n != Cr.repstate || c.tm) && !(decide (0x14 ≤ n ∧ n ≤ 0x17) && bit v 63 && !bit (c.cr_ n) 63)) := by
  rw [crWritable, h]

/-- A register may be written outside the `SPREAD` registers: it has a writable bit, no reserved bit is set, and `REPSTATE` in trap mode
alone. -/
theorem crWritable_iff {c : Core} {n : Nat} {w r v : Word} (h : crLayout n = some (w, r)) (hn : ¬ (0x14 ≤ n ∧ n ≤ 0x17)) :
    crWritable c n v = true ↔ w ≠ 0 ∧ v &&& r = 0 ∧ (n = Cr.repstate → c.tm = true) := by
  simp [crWritable_of_layout h, hn, and_assoc, imp_iff_not_or]

theorem not_crWritable {c : Core} {n : Nat} (v : Word)
    (h : crLayout n = none ∨ (∃ r, crLayout n = some (0, r)) ∨ (n = Cr.repstate ∧ c.tm = false)) : crWritable c n v = false := by
  obtain h | ⟨r, h⟩ | ⟨h, h'⟩ := h
  · rw [crWritable, h]
  · simp [crWritable_of_layout h]
  · have hl : crLayout Cr.repstate = some (BitVec.ofNat 64 (2 ^ 46 - 1), ~~~BitVec.ofNat 64 (2 ^ 46 - 1)) := rfl
    simp [h, crWritable_of_layout hl, h']

theorem crMerge_bit {n : Nat} {w r : Word} (h : crLayout n = some (w, r)) (old v : Word) (k : Nat) (hk : k < 64) :
    (crMerge n old v).getLsbD k = if w.getLsbD k then v.getLsbD k else old.getLsbD k := by
  rw [crMerge, h]
  simp only [BitVec.getLsbD_or, BitVec.getLsbD_and, BitVec.getLsbD_not, decide_eq_true hk]
  cases w.getLsbD k <;> simp

/-! ## Reads -/

theorem exec_crd {d : Reg} {n : BitVec 12} (s : State) (h : (crLayout n.toNat).isSome = true) :
    exec (.crd d n) s = retire (.crd d n) s (put d (crRead s s.me n.toNat)) := by
  show retireUnless (.crd d n) (if (crLayout n.toNat).isSome then none else some (tILLEGAL, (Instr.crd d n).word)) s
    (fun s => put d (crRead s s.me n.toNat) s) = _
  rw [if_pos h]
  rfl

/-! ## The write forms -/

/-- A core after a write form: the control register, and S(D) where the form returns the old value. -/
def Core.crForm (c : Core) (n : Nat) (d : Option Reg) (old v : Word) : Core :=
  match d with
  | some d => (c.crWrite n v).setS d.toNat old
  | none => c.crWrite n v

/-- The store bytes that a write form may change. -/
def Core.dBytes (c : Core) (d : Option Reg) : Nat → Prop :=
  match d with
  | some d => c.sBytes d
  | none => nothing

theorem crForm_eq (i : Instr) (n : Nat) (d : Option Reg) (new : Word → Word) (s : State) :
    crForm i n d new s = retireUnless i (if crWritable s.me n (new (crRead s s.me n)) then none else some (tILLEGAL, i.word)) s
      fun u => local_ u fun c => c.crForm n d (crRead s s.me n) (new (crRead s s.me n)) := by
  cases d <;> rfl

section forms
variable (s : State) (d a : Reg) (n : BitVec 12)

theorem exec_cwr : exec (.cwr a n) s = crForm (.cwr a n) n.toNat none (fun _ => s.me.s a.toNat) s := rfl
theorem exec_cset : exec (.cset d a n) s = crForm (.cset d a n) n.toNat (some d) (fun old => old ||| s.me.s a.toNat) s := rfl
theorem exec_cclr : exec (.cclr d a n) s = crForm (.cclr d a n) n.toNat (some d) (fun old => old &&& ~~~s.me.s a.toNat) s := rfl
theorem exec_cswp : exec (.cswp d a n) s = crForm (.cswp d a n) n.toNat (some d) (fun _ => s.me.s a.toNat) s := rfl

end forms

/-- A value that the register does not take is refused as a whole (R24, R85). -/
theorem crForm_refuses {i : Instr} {n : Nat} {d : Option Reg} {new : Word → Word} {s : State} (he : exec i s = crForm i n d new s)
    (hw : crWritable s.me n (new (crRead s s.me n)) = false) : Refuses i s tILLEGAL i.word := by
  intro hl
  rw [he, crForm_eq, hw, if_neg Bool.false_ne_true, retireUnless, State.execute_refused _ _ _ _ hl]

/-- A control register that a plain write reaches: it has a writable bit, and is neither `DLYSEL` nor a `SPREAD` register. -/
structure PlainCr (n : Nat) (w r : Word) : Prop where
  layout : crLayout n = some (w, r)
  writable : w ≠ 0
  noDelay : n ≠ Cr.dlysel
  noSpread : ¬ (0x14 ≤ n ∧ n ≤ 0x17)

section plain
variable {n : Nat} {w r : Word} (h : PlainCr n w r)
include h

theorem PlainCr.ne_wp : Cr.wp ≠ n := by
  rintro rfl
  have hl := h.layout
  rw [show crLayout Cr.wp = some (0, BitVec.allOnes 64) from rfl] at hl
  exact h.writable (Prod.mk.inj (Option.some.inj hl)).1.symm

theorem PlainCr.crWrite (c : Core) (v : Word) : c.crWrite n v = c.setCr n (crMerge n (c.cr_ n) v) := by
  simp only [Core.crWrite, if_neg h.noDelay, if_neg h.noSpread]

theorem PlainCr.keeps (c : Core) (d : Option Reg) (old v : Word) : c.Keeps (c.crForm n d old v) (c.dBytes d) fun m => m = n := by
  have hk (b : Nat → Prop) : c.Keeps (c.crWrite n v) b fun m => m = n := by
    rw [h.crWrite]
    exact Core.keeps_setCr ..
  cases d with
  | none => exact hk _
  | some d =>
    have hb : (c.crWrite n v).sBytes d = c.sBytes d := by
      funext a
      simp only [Core.sBytes, sAddr, Core.wp, h.crWrite, Core.cr_setCr_other _ _ h.ne_wp]
    exact (hk _).trans ((Core.keeps_setS _ d old).mono (fun _ => (congrFun hb _).mp) fun _ => False.elim)

theorem PlainCr.cr_same (c : Core) (d : Option Reg) (old v : Word) : (c.crForm n d old v).cr_ n = crMerge n (c.cr_ n) v := by
  cases d <;> simp [Core.crForm, h.crWrite]

theorem PlainCr.cr_other (c : Core) (d : Option Reg) (old v : Word) {m : Nat} (hm : m ≠ n) : (c.crForm n d old v).cr_ m = c.cr_ m := by
  cases d <;> simp [Core.crForm, h.crWrite, Core.cr_setCr_other _ _ hm]

theorem PlainCr.place (c : Core) (d : Option Reg) (old v : Word) :
    (c.crForm n d old v).pc = c.pc ∧ (c.crForm n d old v).repBuf = c.repBuf := by
  cases d <;> simp [Core.crForm, h.crWrite, Core.setCr]

/-- `STAT`.TM is no writable bit. -/
theorem PlainCr.tm (c : Core) (d : Option Reg) (old v : Word) : (c.crForm n d old v).tm = c.tm := by
  by_cases hs : Cr.stat = n
  · subst hs
    have hl : crLayout Cr.stat = some (0x3F3#64, ~~~BitVec.ofNat 64 (2 ^ 10 - 1)) := rfl
    simp only [Core.tm, bit, h.cr_same, crMerge_bit hl _ _ 3 (by decide)]
    rfl
  · simp only [Core.tm, h.cr_other c d old v hs]

/-- A write form neither begins nor ends a `rep`; `REPSTATE` is written in trap mode with no body held. -/
theorem PlainCr.inRep (c : Core) (d : Option Reg) (old v : Word) (hr : n = Cr.repstate → c.tm = true ∧ c.repBuf = []) :
    (c.crForm n d old v).inRep = c.inRep := by
  obtain ⟨-, hb⟩ := h.place c d old v
  simp only [Core.inRep, hb, h.tm]
  by_cases hn : Cr.repstate = n
  · obtain ⟨ht, hb⟩ := hr hn.symm
    simp [ht, hb]
  · rw [h.cr_other c d old v hn]

/-- A write form that is not refused (R24, R84). -/
theorem PlainCr.does {i : Instr} {d : Option Reg} {new : Word → Word} {s : State} (he : exec i s = crForm i n d new s)
    (hr : n = Cr.repstate → s.me.tm = true ∧ s.me.repBuf = []) (hv : new (crRead s s.me n) &&& r = 0) :
    Does i s (s.me.dBytes d) (fun m => m = n) fun t =>
      (∀ k < 64, (t.me.cr_ n).getLsbD k = if w.getLsbD k then (new (crRead s s.me n)).getLsbD k else (s.me.cr_ n).getLsbD k) ∧
      ∀ e, d = some e → t.me.s e.toNat = if e = 0 then 0 else crRead s s.me n := by
  intro hp
  generalize hold : crRead s s.me n = old at hv ⊢
  have hw : crWritable s.me n (new old) = true := (crWritable_iff h.layout h.noSpread).mpr ⟨h.writable, hv, fun e => (hr e).1⟩
  obtain ⟨h1, h2, h3, -⟩ := local_does s i (fun c => c.crForm n d old (new old)) _ _ (h.keeps s.me d old (new old))
    (h.place s.me d old (new old)).1 (h.inRep s.me d old (new old) hr)
  have hme : (s.upd fun c => c.crForm n d old (new old)).me = s.me.crForm n d old (new old) := State.me_upd ..
  refine ⟨_, by rw [he, crForm_eq, hold, if_pos hw, retireUnless, State.execute_passes _ _ _ hp], h1, h2, h3, fun k hk => ?_, ?_⟩
  · have hcr := State.finish_cr (s.upd fun c => c.crForm n d old (new old)) i n fun e => by
      rw [hme, h.inRep _ _ _ _ hr, Core.inRep, (hr e).1, (hr e).2]
      simp
    rw [hme, h.cr_same] at hcr
    exact hcr ▸ crMerge_bit h.layout _ _ k hk
  · rintro e rfl
    have hs := State.finish_s (s.upd fun c => c.crForm n (some e) old (new old)) i e.toNat
    rw [hme, Core.crForm, Core.s_setS_same] at hs
    exact hs.trans (by simp [BitVec.toNat_eq])

end plain

theorem Does.mono {i : Instr} {s : State} {b n : Nat → Prop} {p q : State → Prop} (h : Does i s b n p) (hpq : ∀ t, p t → q t) :
    Does i s b n q := fun hp =>
  have ⟨t, ht, h1, h2, h3, h4⟩ := h hp
  ⟨t, ht, h1, h2, h3, hpq t h4⟩

/-- A write form gives its value to the register or, where a reserved bit is set, is refused. -/
theorem PlainCr.gives {n : Nat} {w r : Word} (h : PlainCr n w r) {i : Instr} {d : Option Reg} {new : Word → Word} {s : State}
    (he : exec i s = crForm i n d new s) (hr : n = Cr.repstate → s.me.tm = true ∧ s.me.repBuf = []) {p : State → Prop}
    (hp : ∀ t, (∀ e, d = some e → t.me.s e.toNat = if e = 0 then 0 else crRead s s.me n) → p t) :
    (new (crRead s s.me n) &&& r = 0 → Does i s (s.me.dBytes d) (fun m => m = n) fun t =>
      (∀ k < 64, (t.me.cr_ n).getLsbD k = if w.getLsbD k then (new (crRead s s.me n)).getLsbD k else (s.me.cr_ n).getLsbD k) ∧ p t) ∧
    (new (crRead s s.me n) &&& r ≠ 0 → Refuses i s tILLEGAL i.word) := by
  refine ⟨fun hv => (h.does he hr hv).mono fun t ⟨hb, hs⟩ => ⟨hb, hp t hs⟩, fun hv => crForm_refuses he ?_⟩
  rw [Bool.eq_false_iff, Ne, crWritable_iff h.layout h.noSpread]
  exact fun hw => hv hw.2.1

/-! ## Writes that leave a step to do -/

/-- A write form without a destination whose core's next state is known. -/
theorem cwr_leaves {a : Reg} {n : BitVec 12} {s : State} {f : Core → Core} (hw : crWritable s.me n.toNat (s.me.s a.toNat) = true)
    (hf : s.me.crWrite n.toNat (s.me.s a.toNat) = f s.me) (hpc : (f s.me).pc = s.me.pc) (hr : (f s.me).inRep = s.me.inRep) :
    Leaves (.cwr a n) s (s.upd f) nothing nothing fun _ => True := by
  intro hp
  obtain ⟨h1, h2, h3, -⟩ := (s.upd f).finish_leaves (.cwr a n)
  refine ⟨(s.upd f).finish (.cwr a n), ?_, h1, h2, fun h => ?_, trivial⟩
  · rw [exec_cwr, crForm_eq, if_pos hw, retireUnless, State.execute_passes _ _ _ hp]
    simp only [local_, Eff.apply, State.upd, Core.crForm, hf]
  · rw [State.me_upd, hr, hpc] at h3
    exact h3 h

theorem getLsbD_of_lt_128 {x : Word} (hx : x.toNat < 128) {k : Nat} (hk : 7 ≤ k) : x.getLsbD k = false :=
  Nat.testBit_lt_two_pow (hx.trans_le (Nat.pow_le_pow_right (by decide : 0 < 2) hk))

theorem and_not_127 {x : Word} (hx : x.toNat < 128) : x &&& ~~~127#64 = 0 := by
  apply BitVec.eq_of_getLsbD_eq; intro k hk
  by_cases h : k < 7
  · interval_cases k <;> simp
  · simp [getLsbD_of_lt_128 hx (not_lt.mp h)]

theorem crMerge_dlysel {old v : Word} (ho : old.toNat < 128) (hv : v.toNat < 128) : crMerge Cr.dlysel old v = v := by
  have hl : crLayout Cr.dlysel = some (127#64, ~~~127#64) := rfl
  apply BitVec.eq_of_getLsbD_eq; intro k hk
  rw [crMerge_bit hl _ _ k hk]
  split
  · rfl
  · next h =>
    have hk7 : 7 ≤ k := by
      by_contra hn
      interval_cases k <;> exact h rfl
    rw [getLsbD_of_lt_128 ho hk7, getLsbD_of_lt_128 hv hk7]

theorem crLayout_spread {k : Nat} (hk : k < 4) : ∃ r, crLayout (0x14 + k) = some (1#64 <<< 63, r) := by
  interval_cases k <;> exact ⟨_, rfl⟩

/-- A core is past the first step that it has left to do. -/
theorem Core.doneAfter_head {c : Core} {i : After} {l : List After} (h : c.after = i :: l) : c.doneAfter i = { c with after := l } := by
  simp [Core.doneAfter, h]

theorem State.updCore_congr {s : State} {r : CoreRef} {f g : Core → Core} (h : f (s.core r) = g (s.core r)) :
    s.updCore r f = s.updCore r g := by rw [State.updCore, State.updCore, h]

/-- A core with the entry of the delay table that `DLYSEL` names in its registers (R339). -/
def Core.showDelay (c : Core) (e : Delay) : Core :=
  ((((c.setCr 0x23 e.src).setCr 0x24 e.n).setCr 0x25 e.trn).setCr 0x26 e.qw).setCr 0x27 e.run

theorem Core.showDelay_shows (c : Core) (e : Delay) :
    (c.showDelay e).cr_ 0x23 = e.src ∧ (c.showDelay e).cr_ 0x24 = e.n ∧ (c.showDelay e).cr_ 0x25 = e.trn ∧
      (c.showDelay e).cr_ 0x26 = e.qw ∧ (c.showDelay e).cr_ 0x27 = e.run ∧ (∀ m, ¬ (0x23 ≤ m ∧ m ≤ 0x27) → (c.showDelay e).cr_ m = c.cr_ m) ∧
      (c.showDelay e).store = c.store := by
  refine ⟨?_, ?_, ?_, ?_, Core.cr_setCr .., fun m hm => ?_, rfl⟩
  · simp [showDelay, Core.cr_setCr_other]
  · simp [showDelay, Core.cr_setCr_other]
  · simp [showDelay, Core.cr_setCr_other]
  · simp [showDelay, Core.cr_setCr_other]
  · have h3 : m ≠ 0x23 := by omega
    have h4 : m ≠ 0x24 := by omega
    have h5 : m ≠ 0x25 := by omega
    have h6 : m ≠ 0x26 := by omega
    have h7 : m ≠ 0x27 := by omega
    simp [showDelay, Core.cr_setCr_other, *]

theorem exec_dlyselClear {s : State} {r : CoreRef} {l : List After} (h : (s.core r).after = .dlyClear :: l) :
    exec (.dlyselClear r) s = .next (s.updCore r fun c => { c with delays := [], after := l }) := by
  show (if (s.core r).after.head? = some .dlyClear then _ else _) = _
  rw [if_pos (by rw [h]; rfl)]
  exact congrArg _ (State.updCore_congr (by rw [Core.doneAfter_head h]))

theorem exec_dlyselCopy {s : State} {r : CoreRef} {l : List After} (h : (s.core r).after = .dlyCopy :: l) :
    exec (.dlyselCopy r) s = .next (s.updCore r fun c =>
      { c.showDelay (c.delays.getD (bits (c.cr_ Cr.dlysel) 0 6) ⟨0, 0, 0, 0, 0⟩) with after := l }) := by
  show (if (s.core r).after.head? = some .dlyCopy then _ else _) = _
  rw [if_pos (by rw [h]; rfl)]
  refine congrArg _ (State.updCore_congr ?_)
  exact Core.doneAfter_head h

theorem exec_spreadWindowClose {s : State} {r : CoreRef} {k : Nat} {l : List After} (h : (s.core r).after = .spreadClose k :: l) :
    exec (.spreadWindowClose r k) s = .next (s.updCore r fun c =>
      { c.setCr (0x14 + k) (setBits (c.cr_ (0x14 + k)) 63 1 0) with after := l }) := by
  show (if (s.core r).after.head? = some (.spreadClose k) then _ else _) = _
  rw [if_pos (by rw [h]; rfl)]
  refine congrArg _ (State.updCore_congr ?_)
  exact Core.doneAfter_head h

theorem crd_refuses {d : Reg} {n : BitVec 12} {s : State} (h : crLayout n.toNat = none) :
    Refuses (.crd d n) s tILLEGAL (Instr.crd d n).word := by
  intro hl
  show retireUnless (.crd d n) (if (crLayout n.toNat).isSome then none else some (tILLEGAL, (Instr.crd d n).word)) s
    (fun s => put d (crRead s s.me n.toNat) s) = _
  rw [h, if_neg (by decide), retireUnless, State.execute_refused _ _ _ _ hl]

theorem cwr_dlysel {s : State} {a : Reg} {n : BitVec 12} (hn : n.toNat = Cr.dlysel) (hx : (s.me.s a.toNat).toNat < 128)
    (ho : (s.me.cr_ Cr.dlysel).toNat < 128) :
    Leaves (.cwr a n) s (s.upd fun c => (c.setCr Cr.dlysel (setBits (s.me.s a.toNat) 6 1 0)).due
      (if bit (s.me.s a.toNat) 6 then [.dlyClear, .dlyCopy] else [.dlyCopy])) nothing nothing fun _ => True := by
  have hl : crLayout Cr.dlysel = some (127#64, ~~~127#64) := rfl
  refine cwr_leaves ?_ ?_ rfl ?_
  · rw [hn, crWritable_iff hl (by decide)]
    exact ⟨by decide, and_not_127 hx, fun h => absurd h (by decide)⟩
  · simp only [Core.crWrite, hn, if_pos, crMerge_dlysel ho hx]
    rfl
  · have hne (c : Core) (v : Word) (l : List After) {m : Nat} (hm : m ≠ Cr.dlysel) :
        ((c.setCr Cr.dlysel v).due l).cr_ m = c.cr_ m := Core.cr_setCr_other c v hm
    simp only [Core.inRep, Core.tm, hne _ _ _ (by decide : Cr.repstate ≠ Cr.dlysel), hne _ _ _ (by decide : Cr.stat ≠ Cr.dlysel)]
    rfl

/-- The window of a `SPREAD` register that is open closes when V is written 0 (R234). -/
theorem cwr_spread_closes {s : State} {a : Reg} {n : BitVec 12} {k : Nat} (hk : k < 4) (hn : n.toNat = 0x14 + k) (hx : s.me.s a.toNat = 0)
    (hb : bit (s.me.cr_ n.toNat) 63 = true) :
    Leaves (.cwr a n) s (s.upd fun c => c.due [.spreadClose k]) nothing nothing fun _ => True := by
  obtain ⟨r, hl⟩ := crLayout_spread hk
  rw [← hn] at hl
  refine cwr_leaves ?_ ?_ rfl rfl
  · rw [crWritable_of_layout hl, hx, hb]
    have hne : n.toNat ≠ Cr.repstate := by simp only [Cr.repstate]; omega
    simp [hne]
  · simp only [Core.crWrite, hx, hb]
    rw [if_neg (by simp only [Cr.dlysel]; omega), if_pos (by omega), if_pos (by decide), hn, Nat.add_sub_cancel_left]
    rfl

/-- A `SPREAD` register opens no window by a write of its own (R234). -/
theorem not_crWritable_spread {c : Core} {n k : Nat} {v : Word} (hk : k < 4) (hn : n = 0x14 + k) (hx : bit v 63 = true)
    (hb : bit (c.cr_ n) 63 = false) : crWritable c n v = false := by
  obtain ⟨r, hl⟩ := crLayout_spread hk
  rw [← hn] at hl
  have hr : 0x14 ≤ n ∧ n ≤ 0x17 := by omega
  simp [crWritable_of_layout hl, hr, hx, hb]

/-- Settles O13: reads by `exec_crd`, the write forms by `PlainCr.gives`, refusals by `crForm_refuses`, writes that leave a step by
`cwr_leaves`, and those steps. -/
theorem controlRegisters : Obligations.ControlRegisters := by
  refine ⟨fun s d n h => ?reads, fun s d a n w r hl hw hd hs hr => ?writes, fun s d a n => ⟨fun h => ?refused, fun h hl => ?unlisted⟩,
    fun s a n => ⟨fun hn hx ho => ?delay, fun k hk hn hx hb => ?close, fun k hk hn hx hb => ?opens⟩,
    fun s r l => ⟨exec_dlyselClear, fun h => ?copy, fun k _ => exec_spreadWindowClose⟩⟩
  case reads =>
    refine ⟨crRead s s.me n.toNat, setS_writes _ _ _ _ _ _ (exec_crd s h) rfl rfl, fun e => ?_, fun e => ?_, fun e => ?_, fun e => ?_,
      fun e => ?_⟩
    · rw [e]; rfl
    · rw [e]; rfl
    · rw [e]; rfl
    · rw [e]
      show BitVec.ofNat 64 _ = _
      congr 1; ring
    · simp only [List.mem_cons, List.not_mem_nil, or_false, not_or] at e
      obtain ⟨h1, h2, h3, h4⟩ := e
      simp only [crRead, if_neg h3, if_neg h4, if_neg h1, if_neg h2]
  case writes =>
    have h : PlainCr n.toNat w r := ⟨hl, hw, hd, hs⟩
    intro old x gives took
    exact ⟨h.gives (exec_cwr s a n) hr fun _ _ => trivial, h.gives (exec_cset s d a n) hr fun _ ht => ht d rfl,
      h.gives (exec_cclr s d a n) hr fun _ ht => ht d rfl, h.gives (exec_cswp s d a n) hr fun _ ht => ht d rfl⟩
  case refused =>
    exact ⟨crForm_refuses (exec_cwr s a n) (not_crWritable _ h), crForm_refuses (exec_cset s d a n) (not_crWritable _ h),
      crForm_refuses (exec_cclr s d a n) (not_crWritable _ h), crForm_refuses (exec_cswp s d a n) (not_crWritable _ h)⟩
  case unlisted => exact crd_refuses h hl
  case delay => exact cwr_dlysel hn hx ho
  case close => exact cwr_spread_closes hk hn hx hb
  case opens => exact crForm_refuses (exec_cwr s a n) (not_crWritable_spread hk hn hx hb)
  case copy =>
    intro e
    refine ⟨_, exec_dlyselCopy h, ?_⟩
    obtain ⟨h1, h2, h3, h4, h5, hm, hs⟩ := (s.core r).showDelay_shows e
    rw [State.core_updCore]
    exact ⟨rfl, h1, h2, h3, h4, h5, hm, hs, rfl⟩

end Sys2Proof.Machine
end

section
/-! SUPPORT. A step and the instruction that it runs: what a fetch leaves of the cores and of the code, and what a turn selects (R33, R34, R89,
R119, R204, R286). -/
namespace Sys2Proof.Machine
open Sys2Proof

/-! ## Entries by number -/

/-- Writing an entry that is listed as it stands changes nothing. -/
theorem aput_aget {α : Type} (d : α) (l : Assoc α) (k : Nat) (h : (afind l k).isSome = true) : aput l k (aget d l k) = l := by
  induction l with
  | nil => simp [afind] at h
  | cons p t ih =>
    obtain ⟨j, v⟩ := p
    by_cases hj : j = k
    · subst hj; simp [aput, aget]
    · simp only [afind, if_neg hj] at h
      simp [aput, aget, hj, ih h]

theorem afind_aput {α : Type} (l : Assoc α) (k : Nat) (v : α) (j : Nat) : afind (aput l k v) j = if k = j then some v else afind l j := by
  induction l with
  | nil => rfl
  | cons p t ih =>
    obtain ⟨i, w⟩ := p
    by_cases hi : i = k
    · subst hi; by_cases h : i = j <;> simp [aput, afind, h]
    · by_cases h : i = j
      · subst h; simp [aput, afind, hi, Ne.symm hi]
      · simp [aput, afind, hi, h, ih]

/-- A number that is listed stays so. -/
theorem afind_aput_isSome {α : Type} {l : Assoc α} {j : Nat} (k : Nat) (v : α) (h : (afind l j).isSome = true) :
    (afind (aput l k v) j).isSome = true := by
  rw [afind_aput]
  split
  · rfl
  · exact h

theorem afind_map_isSome {α : Type} (l : Assoc α) (f : Nat → α → α) (k : Nat) :
    (afind (l.map fun p => (p.1, f p.1 p.2)) k).isSome = (afind l k).isSome := by
  induction l with
  | nil => rfl
  | cons p t ih => by_cases h : p.1 = k <;> simp [afind, h, ih]

theorem mem_of_afind {α : Type} {l : Assoc α} {k : Nat} {v : α} (h : afind l k = some v) : (k, v) ∈ l := by
  induction l with
  | nil => simp [afind] at h
  | cons p t ih =>
    obtain ⟨j, w⟩ := p
    by_cases hj : j = k
    · simp_all [afind]
    · exact List.mem_cons_of_mem _ (ih (by simpa [afind, hj] using h))

theorem ne_of_afind_none {α : Type} {l : Assoc α} {k : Nat} (h : afind l k = none) : ∀ x ∈ l, x.1 ≠ k := by
  induction l with
  | nil => simp
  | cons p t ih =>
    obtain ⟨j, w⟩ := p
    by_cases hj : j = k
    · simp [afind, hj] at h
    · simpa [hj] using ih (by simpa [afind, hj] using h)

theorem mem_aput {α : Type} {l : Assoc α} {k : Nat} {v : α} {x : Nat × α} (h : x ∈ aput l k v) : x = (k, v) ∨ x ∈ l := by
  induction l with
  | nil => simpa [aput] using h
  | cons p t ih =>
    obtain ⟨j, w⟩ := p
    by_cases hj : j = k
    · simp only [aput, if_pos hj, List.mem_cons] at h
      exact h.imp_right (List.mem_cons_of_mem _)
    · simp only [aput, if_neg hj, List.mem_cons] at h
      rcases h with h | h
      · exact .inr (by simp [h])
      · exact (ih h).imp_right (List.mem_cons_of_mem _)

theorem mem_of_mem_dropAt {α : Type} {l : List α} {n : Nat} {x : α} (h : x ∈ dropAt l n) : x ∈ l := by
  induction l generalizing n with
  | nil => simp [dropAt] at h
  | cons y t ih => cases n with
    | zero => exact List.mem_cons_of_mem _ h
    | succ n =>
      simp only [dropAt, List.mem_cons] at h ⊢
      exact h.imp_right ih

/-! ## What a fetch leaves of the cores -/

/-- A core but for its outstanding access, which may join a row that is opened, and its count of back-off replies (R107, R331). -/
def Core.still (c : Core) : Core × (Nat → Word) := ({ c with pend := none, cr := [] }, fun n => if n = Cr.backoff then 0 else c.cr_ n)

/-- Memory was read: no core changes but for what `Core.still` leaves out, and every cluster stays listed. -/
structure State.OnlyReads (s t : State) : Prop where
  fixed : (t.cur, t.feat0) = (s.cur, s.feat0)
  listed : ∀ k, (afind s.clusters k).isSome = true → (afind t.clusters k).isSome = true
  cores : ∀ q, (t.core q).still = (s.core q).still

namespace State

theorem OnlyReads.refl (s : State) : s.OnlyReads s := ⟨rfl, fun _ => id, fun _ => rfl⟩

theorem OnlyReads.trans {s t u : State} (h : s.OnlyReads t) (h' : t.OnlyReads u) : s.OnlyReads u :=
  ⟨h'.fixed.trans h.fixed, fun k hk => h'.listed k (h.listed k hk), fun q => (h'.cores q).trans (h.cores q)⟩

theorem OnlyReads.of_clusters {s t : State} (hc : t.clusters = s.clusters) (hf : (t.cur, t.feat0) = (s.cur, s.feat0)) : s.OnlyReads t :=
  ⟨hf, fun k hk => hc ▸ hk, fun q => by rw [show t.core q = s.core q by simp only [State.core, State.cluster, hc]]⟩

theorem OnlyReads.after {s t u : State} (h' : t.OnlyReads u) (h : s.OnlyReads t) : s.OnlyReads u := h.trans h'

theorem onlyReads_updCore {s : State} {r : CoreRef} {f : Core → Core} (h : (f (s.core r)).still = (s.core r).still) :
    s.OnlyReads (s.updCore r f) := by
  refine ⟨rfl, fun k hk => afind_aput_isSome _ _ hk, fun q => ?_⟩
  by_cases hq : q = r
  · rw [hq, State.core_updCore, h]
  · rw [State.core_updCore_other _ _ hq]

theorem onlyReads_updCluster {s : State} {k : Nat} {f : Cluster → Cluster} (h : (f (s.cluster k)).cores = (s.cluster k).cores) :
    s.OnlyReads (s.updCluster k f) := by
  refine ⟨rfl, fun j hj => afind_aput_isSome _ _ hj, fun q => ?_⟩
  rw [State.core_updCluster]
  split
  · next hq => simp only [State.core, Cluster.core, hq, h]
  · rfl

theorem onlyReads_openRow (s : State) (p : Nat) : s.OnlyReads (s.openRow p) := by
  refine ⟨rfl, fun k hk => ?_, fun q => ?_⟩
  · rw [openRow_clusters, afind_map_isSome _ (joinedCluster s p), hk]
  · obtain ⟨x, hx⟩ := joinedCore_eq s p (8 * q.cl + q.core) (s.core q)
    rw [openRow_core, hx]
    rfl

theorem onlyReads_block (s : State) (p : Nat) : s.OnlyReads (s.block p) := by
  unfold State.block
  split <;> exact .of_clusters rfl rfl

theorem onlyReads_activate (s : State) (p : Nat) : s.OnlyReads (s.activate p) := by
  refine (onlyReads_openRow s p).trans ?_
  unfold State.activate
  dsimp only
  split
  · exact (onlyReads_block _ p).after (.of_clusters rfl rfl)
  · exact .of_clusters rfl rfl

theorem onlyReads_touchEdge (s : State) (p hint : Nat) : s.OnlyReads (s.touchEdge p hint) := by
  unfold State.touchEdge
  dsimp only
  split
  · exact .refl s
  · exact .of_clusters rfl rfl

theorem onlyReads_eccAt (s : State) (p : Nat) (e : Ecc) : s.OnlyReads (s.eccAt p e) := by
  cases e with
  | clean => exact .refl _
  | corrected | uncorrectable => exact .of_clusters rfl rfl

theorem onlyReads_findFlaws (s : State) (p : Nat) : s.OnlyReads (s.findFlaws p) := by
  unfold State.findFlaws
  split
  · exact .refl _
  · have each (l : List (Nat × Bool)) (t : State) (h : s.OnlyReads t) :
        s.OnlyReads (l.foldl (fun (s : State) x => s.eccAt (8 * x.1) (if x.2 then .uncorrectable else .corrected)) t) := by
      induction l generalizing t with
      | nil => exact h
      | cons x l ih => exact ih _ (h.trans (onlyReads_eccAt ..))
    exact each _ _ (.of_clusters rfl rfl)

theorem onlyReads_burst (s : State) (p hint : Nat) : s.OnlyReads (s.burst p hint) := by
  refine OnlyReads.trans ?_ ((onlyReads_touchEdge _ p hint).trans (onlyReads_findFlaws _ p))
  split
  · exact .refl _
  · exact onlyReads_activate s p

theorem onlyReads_meetsPoison (s before : State) (a n : Nat) : s.OnlyReads (s.meetsPoison before a n) := by
  unfold State.meetsPoison
  split
  · exact .of_clusters rfl rfl
  · exact .refl _

theorem onlyReads_backoffReply (s : State) (p : Nat) (r : Option CoreRef) : s.OnlyReads (s.backoffReply p r) := by
  have hb : s.OnlyReads (s.bump (stackReg Reg.backoffs (stackOf p)) 1) := .of_clusters rfl rfl
  cases r with
  | none => exact hb
  | some r =>
    refine hb.trans (onlyReads_updCore (f := fun c => c.setCr Cr.backoff (c.cr_ Cr.backoff + 1)) ?_)
    refine Prod.ext rfl (funext fun n => ?_)
    by_cases hn : n = Cr.backoff
    · simp [Core.still, hn]
    · simp [Core.still, hn, Core.cr_setCr_other]

theorem onlyReads_waitOut (n : Nat) (s : State) (p : Nat) (r : Option CoreRef) : s.OnlyReads (s.waitOut p r n) := by
  induction n generalizing s with
  | zero => exact .refl _
  | succ n ih =>
    unfold State.waitOut
    split
    · exact .refl _
    · exact (onlyReads_backoffReply s p r).trans ((ih _).after (.of_clusters rfl rfl))

theorem onlyReads_readEntry (s : State) (table level va : Nat) : s.OnlyReads (s.readEntry table level va) := by
  unfold State.readEntry
  dsimp only
  split
  · exact (onlyReads_waitOut ..).trans ((onlyReads_burst ..).trans (onlyReads_meetsPoison ..))
  · exact .refl _

theorem onlyReads_keepEntry (s : State) (st slot va level : Nat) (e : Word) : s.OnlyReads (s.keepEntry st slot va level e) := by
  unfold State.keepEntry
  dsimp only
  split
  · split
    · exact .of_clusters rfl rfl
    · exact .of_clusters rfl rfl
    · exact .refl _
  · exact .refl _

theorem onlyReads_walkReads (st slot va : Nat) (l table : Nat) (s : State) : s.OnlyReads (s.walkReads (some (st, slot)) va l table) := by
  induction l generalizing s table with
  | zero => exact (onlyReads_readEntry s table 0 va).trans (onlyReads_keepEntry ..)
  | succ l ih =>
    refine (onlyReads_readEntry s table (l + 1) va).trans ?_
    unfold State.walkReads
    dsimp only
    split
    · exact (onlyReads_keepEntry ..).trans (ih _ _)
    · exact onlyReads_keepEntry ..

theorem onlyReads_walkFor (s : State) (cl slot va : Nat) : s.OnlyReads (s.walkFor cl slot va) := by
  unfold State.walkFor
  dsimp only
  split
  · exact .refl _
  · split
    · exact .refl _
    · split
      · exact onlyReads_walkReads ..
      · exact .refl _

/-- The burst of a fetch for a halfword that the cluster's instruction cache does not hold, behind any block of its bank. -/
def loads (s : State) (r : Option CoreRef) (h : Nat) (cached : Bool) : State :=
  if cached then s else (s.waitOut h r s.blockFuel).burst h 0

theorem onlyReads_loads (s : State) (r : Option CoreRef) (h : Nat) (cached : Bool) : s.OnlyReads (s.loads r h cached) := by
  unfold loads
  split
  · exact .refl _
  · exact (onlyReads_waitOut ..).trans (onlyReads_burst ..)

section
variable {s s1 : State} {cl h : Nat} {r : Option CoreRef} {a : Word}

theorem fetchEffect_nowhere (h1 : s.walkFor cl (s.cluster cl).slot (bits a 0 57) = s1) (hp : fetchPlace s1 cl a = none) :
    fetchEffect s cl r a = s1 := by
  simp only [fetchEffect, h1, hp]

theorem fetchEffect_unsound (h1 : s.walkFor cl (s.cluster cl).slot (bits a 0 57) = s1) (hp : fetchPlace s1 cl a = some h) {s2 : State}
    (h2 : s1.loads r h (afind (s.cluster cl).icache h).isSome = s2) (hf : fetchHalf s2 cl a = none) :
    fetchEffect s cl r a = s2.meetsPoison s1 h 2 := by
  unfold loads at h2
  simp only [fetchEffect, h1, hp, h2, hf]

theorem fetchEffect_reads (h1 : s.walkFor cl (s.cluster cl).slot (bits a 0 57) = s1) (hp : fetchPlace s1 cl a = some h) {s2 : State}
    (h2 : s1.loads r h (afind (s.cluster cl).icache h).isSome = s2) {x : Nat × Half} (hf : fetchHalf s2 cl a = some x) :
    fetchEffect s cl r a = s2.updCluster cl fun k => k.cacheHalf s.free x.1 x.2 := by
  unfold loads at h2
  simp only [fetchEffect, h1, hp, h2, hf]
end

theorem onlyReads_fetchEffect (s : State) (cl : Nat) (r : Option CoreRef) (a : Word) : s.OnlyReads (fetchEffect s cl r a) := by
  generalize h1 : s.walkFor cl (s.cluster cl).slot (bits a 0 57) = s1
  have hw : s.OnlyReads s1 := h1 ▸ onlyReads_walkFor ..
  cases hp : fetchPlace s1 cl a with
  | none => rwa [fetchEffect_nowhere h1 hp]
  | some h =>
    generalize h2 : s1.loads r h (afind (s.cluster cl).icache h).isSome = s2
    have hl : s.OnlyReads s2 := hw.trans (h2 ▸ onlyReads_loads ..)
    cases hf : fetchHalf s2 cl a with
    | none => exact fetchEffect_unsound h1 hp h2 hf ▸ hl.trans (onlyReads_meetsPoison ..)
    | some x => exact fetchEffect_reads h1 hp h2 hf ▸ hl.trans (onlyReads_updCluster rfl)

theorem onlyReads_cacheAfter (s : State) (cl : Nat) (r : Option CoreRef) (a : Word) : s.OnlyReads (cacheAfter s cl r a) := by
  refine (onlyReads_fetchEffect s cl r a).trans ?_
  unfold cacheAfter
  dsimp only
  split
  · split
    · exact .refl _
    · exact onlyReads_fetchEffect ..
  · exact .refl _

theorem onlyReads_bodyAfter (n : Nat) (s : State) (cl : Nat) (r : Option CoreRef) (a : Word) : s.OnlyReads (bodyAfter s cl r a n) := by
  induction n generalizing s a with
  | zero => exact .refl _
  | succ n ih => exact (onlyReads_cacheAfter s cl r a).trans (ih _ _)

theorem onlyReads_fetchBody (s : State) (f : Fetched) : s.OnlyReads (s.fetchBody f) := by
  unfold State.fetchBody
  split
  · split
    · exact onlyReads_bodyAfter ..
    · exact .refl _
  · exact .refl _

end State

/-! ## What a turn selects -/

theorem Core.governed_still {c d : Core} (h : d.still = c.still) : d.governed = c.governed := by
  have x := congrArg (fun p => p.1.governed) h; exact x

theorem Core.cr_still {c d : Core} (h : d.still = c.still) {n : Nat} (hn : n ≠ Cr.backoff) : d.cr_ n = c.cr_ n := by
  have x := congrFun (congrArg Prod.snd h) n
  simpa only [Core.still, if_neg hn] using x

theorem Core.matchAt_still {c d : Core} (h : d.still = c.still) (a : Word) (act : Bool) (i : Nat) : d.matchAt a act i = c.matchAt a act i := by
  have hn : Cr.dbgm0 + i ≠ Cr.backoff := by simp only [Cr.dbgm0, Cr.backoff]; omega
  simp only [Core.matchAt, Core.cr_still h hn]

theorem Core.trapMatch_still {c d : Core} (h : d.still = c.still) (a : Word) : d.trapMatch a = c.trapMatch a := by
  rw [Core.trapMatch, Core.trapMatch, funext (Core.matchAt_still h a true)]

theorem Core.stopMatch_still {c d : Core} (h : d.still = c.still) (a : Word) : d.stopMatch a = c.stopMatch a := by
  rw [Core.stopMatch, Core.stopMatch, funext (Core.matchAt_still h a false), Core.cr_still h (by decide)]

theorem badRegister_still {c d : Core} (h : d.still = c.still) (i : Instr) : badRegister d i = badRegister c i := by
  have hs : d.store = c.store := by have x := congrArg (fun p => p.1.store) h; exact x
  have hw : d.wp = c.wp := by simp only [Core.wp, Core.cr_still h (by decide : Cr.wp ≠ Cr.backoff)]
  have hr : regRange d = regRange c := by
    funext k n
    cases k <;> simp only [regRange, sAddr, vAddr, mAddr, hw]
  have hx : extraReads d = extraReads c := by
    funext j
    cases j <;> simp only [extraReads, sAddr, Core.s, hs, hw]
  simp only [badRegister, hs, hr, hx]

theorem State.fetchBody_of_illegal {s : State} {i : Instr} (h : i.legal s.feat0 = false) : s.fetchBody (.instr i) = s := by
  unfold State.fetchBody
  split
  · next e => cases e; rw [if_neg (by simp [h])]
  · rfl

theorem State.setCluster_self {s : State} {k : Nat} (h : (afind s.clusters k).isSome = true) : s.setCluster k (s.cluster k) = s := by
  rw [State.setCluster, State.cluster, aput_aget _ _ _ h]

/-- A core that no `once` governs is not elected. -/
theorem State.elect_of_ungoverned {s : State} (h : s.me.governed = none) (hl : (afind s.clusters s.cur.cl).isSome = true) :
    (s.updCluster s.cur.cl fun k => k.elect s.cur.core) = s := by
  have he : (s.cluster s.cur.cl).elect s.cur.core = s.cluster s.cur.cl := by
    have hg : ((s.cluster s.cur.cl).core s.cur.core).governed = none := h
    rw [Cluster.elect, hg]
  rw [State.updCluster, he, State.setCluster_self hl]

theorem launchInstr_runs {s : State} {i : Instr} (hg : s.me.governed = none) (hb : badRegister s.me i = false)
    (hl : (afind s.clusters s.cur.cl).isSome = true) : launchInstr (.instr i) s = .run (.instr i) (s.fetchBody (.instr i)) := by
  have ho := s.onlyReads_fetchBody (.instr i)
  generalize ht : s.fetchBody (.instr i) = t at ho
  have hcur : t.cur = s.cur := by have x := congrArg Prod.fst ho.fixed; exact x
  have hme : t.me.still = s.me.still := by rw [State.me, hcur]; exact ho.cores s.cur
  have hst : s.mine.standing s.cur.core = .executes := by
    have hg' : (s.mine.core s.cur.core).governed = none := hg
    rw [Cluster.standing, hg']
  unfold launchInstr
  split
  · next hx =>
    simp only [Fetched.refused, Bool.and_eq_true, Bool.not_eq_true'] at hx
    rw [← ht, State.fetchBody_of_illegal hx.2, State.leaveOnce, hg]
  · rw [hst]
    dsimp only
    rw [ht, meetsBadRegister, badRegister_still hme, hb, Bool.and_false, if_neg Bool.false_ne_true,
      State.elect_of_ungoverned ((Core.governed_still hme).trans hg) (hcur ▸ ho.listed _ hl)]

/-- A core that has reached an instruction, with nothing before its execution. -/
theorem beginInstr_runs {s : State} {a : Word} {i : Instr} (hp : s.plain s.cur a i) (hl : (afind s.clusters s.cur.cl).isSome = true) :
    beginInstr a (.instr i) s = .run (.instr i) (s.fetchBody (.instr i)) := by
  obtain ⟨hg, hm, hs, hb⟩ := hp
  have hm' : s.me.trapMatch a = none := hm
  have hs' : s.me.stopMatch a = false := hs
  rw [beginInstr, hm', hs']
  exact launchInstr_runs hg hb hl

theorem step_eq_ticked (s : State) : step s = ticked (move s) := by
  rw [step]
  cases move s <;> rfl

/-- A core's turn that comes to an instruction runs it. -/
theorem step_core {s : State} {r : CoreRef} {rest : List Turn} {i : Instr} {t : State} (hag : s.agenda = .core r :: rest)
    (h : turn { s with agenda := rest, cur := r } = .run (.instr i) t) : step s = ticked (exec i t) := by
  rw [step_eq_ticked, move, hag]
  exact congrArg ticked ((congrArg runTurn h).trans rfl)

theorem turn_selects {s : State} (hc : s.canTurn s.cur = true) (ha : s.me.after = []) (he : s.me.engineDue = false) :
    turn s = selectInstr s := by
  rw [turn, hc, ha, he]
  rfl

/-- What a core has taken up does not stand before its execution. -/
theorem State.plain_take {s : State} {r : CoreRef} {a : Word} {i : Instr} {t : State} {f : Core → Core} (hr : s.cur = r) (h : s.plain r a i)
    (ho : s.OnlyReads t) (hf : ∀ c, ∃ x b, f c = { c with taken := x, buf := b }) : (t.upd f).plain r a i := by
  have hcur : t.cur = s.cur := by have x := congrArg Prod.fst ho.fixed; exact x
  obtain ⟨hg, hm, hs, hb⟩ := h
  have hst := ho.cores r
  obtain ⟨x, b, hx⟩ := hf (t.core r)
  have hc : (t.upd f).core r = { t.core r with taken := x, buf := b } := by
    rw [← hx, ← hr, ← hcur]
    exact State.me_upd t f
  rw [State.plain, hc]
  exact ⟨(Core.governed_still hst).trans hg, (Core.trapMatch_still hst a).trans hm, (Core.stopMatch_still hst a).trans hs,
    (badRegister_still hst i).trans hb⟩

theorem State.upd_listed (s : State) (f : Core → Core) : (afind (s.upd f).clusters s.cur.cl).isSome = true := by
  show (afind (aput _ _ _) _).isSome = true
  rw [afind_aput, if_pos rfl]
  rfl

/-- A fetch of a core for itself runs what it reads (R33, R89). -/
theorem step_fetched {s : State} {r : CoreRef} {rest : List Turn} {i : Instr} (hag : s.agenda = .core r :: rest) {s0 s1 : State}
    (h0 : s0 = { s with agenda := rest, cur := r }) (h1 : s1 = cacheAfter s0 r.cl (some r) s0.me.pc) (hf : s0.fetches r)
    (hi : (fetchAt s1 r.cl s0.me.pc).1 = .instr i) (hp : s0.plain r s0.me.pc i) :
    step s = ticked (exec i ((s1.upd fun c => { c with taken := some (Issued.own s0.me.pc (.instr i)) }).fetchBody (.instr i))) := by
  obtain ⟨hc, hafter, he, ht, hrep, hbuf, hatt, hheld⟩ := hf
  have hcur : s0.cur = r := by rw [h0]
  have ho : s0.OnlyReads s1 := h1 ▸ State.onlyReads_cacheAfter ..
  have hcur1 : s1.cur = r := by have x := congrArg Prod.fst ho.fixed; exact x.trans hcur
  have hme : s0.me = s0.core r := by rw [State.me, hcur]
  refine step_core hag ?_
  rw [← h0, turn_selects (hcur ▸ hc) (hme ▸ hafter) (hme ▸ he)]
  have hsel : selectInstr s0 = fetchTurn s0 := by
    rw [← hme] at ht hbuf hatt hrep
    rw [selectInstr, ht, hbuf, hatt, hrep]
    rfl
  have hfetch : fetchTurn s0 = beginInstr s0.me.pc (.instr i) (s1.upd fun c => { c with taken := some (Issued.own s0.me.pc (.instr i)) }) := by
    rw [← hme] at hheld
    rw [fetchTurn, hcur, hheld, ← h1]
    dsimp only
    rw [hi]
    rfl
  rw [hsel, hfetch]
  refine beginInstr_runs ?_ (State.upd_listed ..)
  rw [State.upd_cur, hcur1]
  exact s0.plain_take hcur hp ho fun c => ⟨_, c.buf, rfl⟩

/-- The instruction issued to a core at its next address is what it runs (R204). -/
theorem step_delivered {s : State} {r : CoreRef} {rest : List Turn} {e : Issued} {l : List Issued} {i : Instr}
    (hag : s.agenda = .core r :: rest) {s0 : State} (h0 : s0 = { s with agenda := rest, cur := r }) (hc : s0.canTurn r = true)
    (hafter : s0.me.after = []) (he : s0.me.engineDue = false) (ht : s0.me.taken = none) (hrep : s0.me.inRep = false) (hbuf : s0.me.buf = e :: l)
    (haddr : e.addr = s0.me.pc) (hpass : e.pass = none) (hwhat : e.what = .instr i) (hp : s0.plain r s0.me.pc i) :
    step s = ticked (exec i ((s0.upd fun c => { c with buf := l, taken := some e }).fetchBody (.instr i))) := by
  have hcur : s0.cur = r := by rw [h0]
  refine step_core hag ?_
  rw [← h0, turn_selects (hcur ▸ hc) hafter he]
  have hsel : selectInstr s0 = beginInstr s0.me.pc (.instr i) (s0.upd fun c => { c with buf := l, taken := some e }) := by
    have hx : s0.me.expects e = true := by simp [Core.expects, hrep, hpass, haddr]
    rw [selectInstr, ht, hbuf]
    dsimp only
    rw [deliver, hx, hrep, haddr, hwhat]
    rfl
  rw [hsel]
  refine beginInstr_runs ?_ (State.upd_listed ..)
  rw [State.upd_cur, hcur]
  exact s0.plain_take hcur hp (.refl s0) fun c => ⟨_, _, rfl⟩

/-! ## What a fetch leaves of the code -/

/-- The halfword that stands at a place of HBM. -/
def State.halfAt (s : State) (h : Nat) : Half := BitVec.ofNat 16 (s.hbm.readLE h 2)

/-- A cluster's code is as it was: the memory, its tables and their caches, the module's number; and its instruction cache holds nothing more
than it did but what stands in memory. -/
structure State.SameCode (cl : Nat) (s t : State) : Prop where
  memory : (t.hbm, t.flaws) = (s.hbm, s.flaws)
  tables : (t.cached, t.contexts) = (s.cached, s.contexts)
  slot : (t.cluster cl).slot = (s.cluster cl).slot
  modid : t.modid = s.modid
  held : ∀ x ∈ (t.cluster cl).icache, x ∈ (s.cluster cl).icache ∨ x.2 = s.halfAt x.1

theorem modid_ctlPut (s : State) {off : Nat} (v : Word) (h : off ≠ Reg.modid) : (s.ctlPut off v).modid = s.modid := by
  simp only [State.modid, State.ctlGet, State.ctlPut, aget_aput_other _ _ _ h.symm]

theorem walk_congr {s t : State} (h : t.hbm = s.hbm) (va level table : Nat) : walk t va level table = walk s va level table := by
  induction level generalizing table with
  | zero => simp only [walk, pteRead, h]
  | succ l ih =>
    simp only [walk, pteRead, h]
    split
    · exact ih _
    · rfl

namespace State
variable {cl : Nat}

theorem SameCode.refl (s : State) : SameCode cl s s := ⟨rfl, rfl, rfl, rfl, fun _ => .inl⟩

theorem SameCode.hbm {s t : State} (h : SameCode cl s t) : t.hbm = s.hbm := by have x := congrArg Prod.fst h.memory; exact x

theorem SameCode.halfAt {s t : State} (h : SameCode cl s t) (p : Nat) : t.halfAt p = s.halfAt p := by
  rw [State.halfAt, State.halfAt, h.hbm]

theorem SameCode.trans {s t u : State} (h : SameCode cl s t) (h' : SameCode cl t u) : SameCode cl s u := by
  refine ⟨h'.memory.trans h.memory, h'.tables.trans h.tables, h'.slot.trans h.slot, h'.modid.trans h.modid, fun x hx => ?_⟩
  obtain hx | hx := h'.held x hx
  · exact h.held x hx
  · exact .inr (hx.trans (h.halfAt _))

theorem SameCode.after {s t u : State} (h' : SameCode cl t u) (h : SameCode cl s t) : SameCode cl s u := h.trans h'

/-- A change of neither the memory, nor the tables, nor a cluster's slot and instruction cache. -/
theorem SameCode.of_cluster {s t : State} (hm : (t.hbm, t.flaws) = (s.hbm, s.flaws)) (ht : (t.cached, t.contexts) = (s.cached, s.contexts))
    (hn : t.modid = s.modid) (hk : ((t.cluster cl).slot, (t.cluster cl).icache) = ((s.cluster cl).slot, (s.cluster cl).icache)) :
    SameCode cl s t :=
  ⟨hm, ht, congrArg Prod.fst hk, hn, fun x hx => .inl (by
    have hi : (t.cluster cl).icache = (s.cluster cl).icache := congrArg Prod.snd hk
    rwa [hi] at hx)⟩

theorem sameCode_bump (s : State) {off : Nat} (n : Nat) (h : off ≠ Reg.modid) : SameCode cl s (s.bump off n) :=
  .of_cluster rfl rfl (modid_ctlPut s _ h) rfl

theorem sameCode_stackBump (s : State) {base : Nat} (st n : Nat) (h : Reg.modid < base) : SameCode cl s (s.bump (stackReg base st) n) :=
  sameCode_bump s n (by simp only [stackReg]; omega)

theorem sameCode_updCore (s : State) (r : CoreRef) (f : Core → Core) : SameCode cl s (s.updCore r f) := by
  refine .of_cluster rfl rfl rfl ?_
  by_cases hk : cl = r.cl
  · subst hk
    simp [State.updCore, Cluster.setCore]
  · simp only [State.updCore, State.setCore, State.cluster_setCluster_other _ _ hk]

theorem sameCode_openRow (s : State) (p : Nat) : SameCode cl s (s.openRow p) := by
  refine .of_cluster rfl rfl rfl ?_
  rw [openRow_cluster]
  rfl

theorem sameCode_block (s : State) (p : Nat) : SameCode cl s (s.block p) := by
  unfold State.block
  split <;> exact .of_cluster rfl rfl rfl rfl

theorem sameCode_activate (s : State) (p : Nat) : SameCode cl s (s.activate p) := by
  refine (sameCode_openRow s p).trans ?_
  unfold State.activate
  dsimp only
  split
  · have hn := modid_ctlPut (s.openRow p) (off := stackReg Reg.alerts (stackOf p))
      (satAdd ((s.openRow p).ctlGet (stackReg Reg.alerts (stackOf p))) 1)
      (by simp only [stackReg, Reg.alerts, Reg.modid]; omega)
    exact (sameCode_block _ p).after (.of_cluster rfl rfl hn rfl)
  · exact .of_cluster rfl rfl rfl rfl

theorem sameCode_touchEdge (s : State) (p hint : Nat) : SameCode cl s (s.touchEdge p hint) := by
  unfold State.touchEdge
  dsimp only
  split
  · exact .refl s
  · exact .of_cluster rfl rfl rfl rfl

theorem touchEdge_flaws (s : State) (p hint : Nat) : (s.touchEdge p hint).flaws = s.flaws := by
  unfold State.touchEdge
  dsimp only
  split <;> rfl

/-- A burst that meets no hidden error. -/
theorem sameCode_burst {s : State} (hf : s.flaws = []) (p hint : Nat) : SameCode cl s (s.burst p hint) := by
  have ha : SameCode cl s (if s.edgeHit p || false then s else s.activate p) := by
    split
    · exact .refl s
    · exact sameCode_activate s p
  have ht := ha.trans (sameCode_touchEdge _ p hint)
  have hn : (State.findFlaws ((if s.edgeHit p || false then s else s.activate p).touchEdge p hint) p) =
      (if s.edgeHit p || false then s else s.activate p).touchEdge p hint := by
    have x := congrArg Prod.snd ht.memory
    rw [State.findFlaws, if_pos (x.trans hf)]
  show SameCode cl s (State.findFlaws _ p)
  rwa [hn]

theorem sameCode_backoffReply (s : State) (p : Nat) (r : Option CoreRef) : SameCode cl s (s.backoffReply p r) := by
  have hb : SameCode cl s (s.bump (stackReg Reg.backoffs (stackOf p)) 1) := sameCode_stackBump s _ 1 (by decide)
  cases r with
  | none => exact hb
  | some r => exact hb.trans (sameCode_updCore _ r fun c => c.setCr Cr.backoff (c.cr_ Cr.backoff + 1))

theorem sameCode_waitOut (n : Nat) (s : State) (p : Nat) (r : Option CoreRef) : SameCode cl s (s.waitOut p r n) := by
  induction n generalizing s with
  | zero => exact .refl _
  | succ n ih =>
    unfold State.waitOut
    split
    · exact .refl _
    · exact (sameCode_backoffReply s p r).trans ((ih _).after (.of_cluster rfl rfl rfl rfl))

theorem sameCode_loads {s : State} (hf : s.flaws = []) (r : Option CoreRef) (h : Nat) (cached : Bool) :
    SameCode cl s (s.loads r h cached) := by
  unfold loads
  split
  · exact .refl _
  · have hw := sameCode_waitOut (cl := cl) s.blockFuel s h r
    have x := congrArg Prod.snd hw.memory
    exact hw.trans (sameCode_burst (x.trans hf) h 0)

/-- The instruction cache takes what stands in memory. -/
theorem sameCode_cacheHalf (s : State) (seed h : Nat) : SameCode cl s (s.updCluster cl fun k => k.cacheHalf seed h (s.halfAt h)) := by
  refine ⟨rfl, rfl, ?_, rfl, fun x hx => ?_⟩
  · simp [Cluster.cacheHalf]
  · rw [State.cluster_updCluster] at hx
    obtain rfl | hx := mem_aput hx
    · exact .inr rfl
    · left
      split at hx
      · exact mem_of_mem_dropAt hx
      · exact hx

theorem SameCode.place {s t : State} (h : SameCode cl s t) (a : Word) : fetchPlace t cl a = fetchPlace s cl a := by
  have hc : t.cached = s.cached := by have x := congrArg Prod.fst h.tables; exact x
  have hx : t.contexts = s.contexts := by have x := congrArg Prod.snd h.tables; exact x
  have hw : walk t = walk s := by funext va l b; exact walk_congr h.hbm va l b
  simp only [fetchPlace, translate, cachedLeaf, walkStart, cachedPointer, rootOf, ownHbm, State.homeOf, h.slot, h.modid, hc, hx, hw]

end State

/-! ## What is fetched -/

/-- A halfword of code: where a cluster finds that of an address, that it is sound, and that its instruction cache does not hold another. -/
structure State.CodeAt (s : State) (cl : Nat) (a : Word) (h : Nat) : Prop where
  place : fetchPlace s cl a = some h
  sound : s.hbm.poisoned h 2 = false
  fresh : ∀ x ∈ (s.cluster cl).icache, x.1 = h → x.2 = s.halfAt h

theorem State.CodeAt.of_same {s t : State} {cl : Nat} {a : Word} {h : Nat} (hc : s.CodeAt cl a h) (hs : State.SameCode cl s t) :
    t.CodeAt cl a h := by
  refine ⟨(hs.place a).trans hc.place, hs.hbm ▸ hc.sound, fun x hx e => ?_⟩
  rw [hs.halfAt]
  obtain hx | hx := hs.held x hx
  · exact hc.fresh x hx e
  · rw [hx, e]

section
variable {s : State} {cl : Nat} {a : Word} {p q : Nat} {r : Option CoreRef}

theorem State.CodeAt.fetchHalf (h : s.CodeAt cl a p) : fetchHalf s cl a = some (p, s.halfAt p) := by
  rw [Machine.fetchHalf, h.place]
  dsimp only
  rw [h.sound, if_neg Bool.false_ne_true]
  split
  · next old ho =>
    have hx := h.fresh _ (mem_of_afind ho) rfl
    dsimp only at hx
    subst hx
    exact if_pos rfl
  · rfl

/-- Two halfwords that decode to an instruction are fetched as it; the second is not read for a 16-bit form (R34). -/
theorem fetchAt_decodes {i : Instr} (h : s.CodeAt cl a p) (h' : s.CodeAt cl (a + 2) q) (hd : decode (s.halfAt p) (s.halfAt q) = .ok i) :
    (fetchAt s cl a).1 = .instr i := by
  rw [fetchAt, h.fetchHalf]
  dsimp only
  cases hx : (s.halfAt p).getLsbD 0 with
  | false =>
    have hd0 : decode (s.halfAt p) 0 = .ok i := by rw [← hd, Laws.Encoding.decode_short _ hx, Laws.Encoding.decode_short _ hx]
    rw [isHalf, hx, hd0]
    rfl
  | true =>
    rw [isHalf, hx, h'.fetchHalf]
    dsimp only
    rw [hd]
    rfl

/-- The fetch of a halfword whose page the station holds, where no hidden error is met. -/
theorem State.CodeAt.sameCode_fetchEffect (h : s.CodeAt cl a p)
    (hl : (cachedLeaf s (stationOf cl) (s.cluster cl).slot (bits a 0 57)).isSome = true) (hf : s.flaws = []) :
    State.SameCode cl s (fetchEffect s cl r a) := by
  have h1 : s.walkFor cl (s.cluster cl).slot (bits a 0 57) = s := by
    obtain ⟨e, he⟩ := Option.isSome_iff_exists.mp hl
    rw [State.walkFor, he]
  generalize h2 : s.loads r p (afind (s.cluster cl).icache p).isSome = s2
  have hs : State.SameCode cl s s2 := h2 ▸ State.sameCode_loads hf ..
  rw [fetchEffect_reads h1 h.place h2 (h.of_same hs).fetchHalf]
  exact hs.trans (State.sameCode_cacheHalf ..)

theorem sameCode_cacheAfter (h : s.CodeAt cl a p) (h' : s.CodeAt cl (a + 2) q)
    (hl : (cachedLeaf s (stationOf cl) (s.cluster cl).slot (bits a 0 57)).isSome = true)
    (hl' : (cachedLeaf s (stationOf cl) (s.cluster cl).slot (bits (a + 2) 0 57)).isSome = true) (hf : s.flaws = []) :
    State.SameCode cl s (cacheAfter s cl r a) := by
  have h1 := h.sameCode_fetchEffect (r := r) hl hf
  have hc : (fetchEffect s cl r a).cached = s.cached := by have x := congrArg Prod.fst h1.tables; exact x
  have hf1 : (fetchEffect s cl r a).flaws = s.flaws := by have x := congrArg Prod.snd h1.memory; exact x
  rw [cacheAfter, (h.of_same h1).fetchHalf]
  dsimp only
  split
  · exact h1
  · refine h1.trans ((h'.of_same h1).sameCode_fetchEffect ?_ (hf1.trans hf))
    rw [cachedLeaf, hc, h1.slot]
    exact hl'

/-- A halfword that a cluster finds by its translation. -/
theorem codeAt_of_translate {x : Nat} (h63 : bit a 63 = true) (hb : bits a 57 6 = 0) (h0 : bit a 0 = false)
    (ht : translate s cl (s.cluster cl).slot (bits a 0 57) .fetch = .ok x) (ho : ownHbm s x = some p) (hp : s.hbm.poisoned p 2 = false)
    (hi : afind (s.cluster cl).icache p = none) : s.CodeAt cl a p := by
  refine ⟨?_, hp, fun y hy e => absurd e (ne_of_afind_none hi y hy)⟩
  simp only [fetchPlace, h63, hb, h0, ht, ho]
  rfl

end

theorem bit_zero_add_two (a : Word) : bit (a + 2) 0 = bit a 0 := by
  have h : (a + 2).toNat % 2 = a.toNat % 2 := by bv_omega
  simp only [bit, BitVec.getLsbD, Nat.testBit_zero, h]

/-- Settles O5: a fetch of a core for itself by `step_fetched`, what is fetched by `fetchAt_decodes` and `sameCode_cacheAfter`, the group's stream by
`step_delivered`. -/
theorem stepRunsTheInstruction : Obligations.StepRunsTheInstruction := by
  refine ⟨fun s r rest i hag => step_fetched hag rfl rfl, fun s cl r a x y p q i h63 hb h0 h63' hb' ht ho ht' ho' hp hq hi hi' hd => ?_,
    fun s r rest e t i hag => step_delivered hag rfl, fun s i rest hag => ?_⟩
  · have h := codeAt_of_translate h63 hb h0 ht ho hp hi
    have h' := codeAt_of_translate h63' hb' ((bit_zero_add_two a).trans h0) ht' ho' hq hi'
    refine ⟨fetchAt_decodes h h' hd, fun hl hl' _ hf => ?_⟩
    have hs := sameCode_cacheAfter (r := r) h h' hl hl' hf
    refine fetchAt_decodes (h.of_same hs) (h'.of_same hs) ?_
    rw [hs.halfAt, hs.halfAt]
    exact hd
  · rw [step_eq_ticked, move, hag]
    rfl

end Sys2Proof.Machine
end

section
/-! SUPPORT. One rounding (R27, R41): a quotient of integers that a mode takes to one of its neighbours, and what leaves the result as it is. -/
namespace Sys2Proof.Machine

/-! ## Rounding a quotient -/

/-- Whether the quotient a/b, and a little more when `sticky`, is rounded to the integer above ⌊a/b⌋. -/
def roundsUp (rm : Nat) (neg : Bool) (a b : Nat) (sticky : Bool) : Bool :=
  if rm = 0 then decide (b < 2 * (a % b)) || 2 * (a % b) == b && (sticky || a / b % 2 == 1)
  else if rm = 1 then false
  else if rm = 2 then (a % b != 0 || sticky) && !neg
  else (a % b != 0 || sticky) && neg

/-- m·2^e in units of 2^q is a quotient of two integers. -/
def numer (m : Nat) (e q : Int) : Nat := m * 2 ^ (e - q).toNat
def denom (e q : Int) : Nat := 2 ^ (q - e).toNat

theorem denom_pos (e q : Int) : 0 < denom e q := Nat.two_pow_pos _

theorem ite_add_one (up : Bool) (r : Nat) : (if up = true then r + 1 else r) = r + up.toNat := by cases up <;> rfl

/-- A rounding to a multiple of 2^q is a rounding of that quotient. (Where m·2^e is a multiple already, no mode looks at more of it.) -/
theorem roundAt_eq {rm : Nat} {neg : Bool} {m : Nat} {e q : Int} {s : Bool} (h : e < q ∨ s = false) :
    roundAt rm neg m e q s =
      (numer m e q / denom e q + (roundsUp rm neg (numer m e q) (denom e q) s).toNat, numer m e q % denom e q != 0 || s) := by
  by_cases hq : q ≤ e
  · obtain rfl : s = false := h.resolve_left (by omega)
    have hd : denom e q = 1 := by simp [denom, Int.toNat_of_nonpos (show q - e ≤ 0 by omega)]
    simp [roundAt, hq, hd, numer, roundsUp, Nat.mod_one]
  · have hn : numer m e q = m := by simp [numer, Int.toNat_of_nonpos (show e - q ≤ 0 by omega)]
    obtain ⟨k, hk⟩ : ∃ k, (q - e).toNat = k + 1 := ⟨(q - e).toNat - 1, by omega⟩
    have hd : denom e q = 2 ^ (k + 1) := by rw [denom, hk]
    have hgt : (2 ^ (k + 1) < 2 * (m % 2 ^ (k + 1))) ↔ m % 2 ^ (k + 1) > 2 ^ k := by rw [Nat.pow_succ]; omega
    have heq : (2 * (m % 2 ^ (k + 1)) == 2 ^ (k + 1)) = (m % 2 ^ (k + 1) == 2 ^ k) := by
      rw [Bool.eq_iff_iff, beq_iff_eq, beq_iff_eq, Nat.pow_succ]; omega
    simp only [roundAt, hq, if_false, hn, hd, hk, roundsUp, hgt, heq, Nat.add_sub_cancel, ite_add_one]

/-- A common factor of numerator and denominator plays no part. -/
theorem roundsUp_mul_right {rm : Nat} {neg s : Bool} {a b c : Nat} (hc : 0 < c) :
    roundsUp rm neg (a * c) (b * c) s = roundsUp rm neg a b s := by
  have hlt : b * c < 2 * (a % b * c) ↔ b < 2 * (a % b) := by rw [← Nat.mul_assoc]; exact Nat.mul_lt_mul_right hc
  have heq : (2 * (a % b * c) == b * c) = (2 * (a % b) == b) := by
    rw [Bool.eq_iff_iff, beq_iff_eq, beq_iff_eq, ← Nat.mul_assoc]; exact Nat.mul_right_cancel_iff hc
  have hz : (a % b * c != 0) = (a % b != 0) := by
    rw [Bool.eq_iff_iff, bne_iff_ne, bne_iff_ne, Nat.mul_ne_zero_iff]; omega
  simp only [roundsUp, Nat.mul_mod_mul_right, Nat.mul_div_mul_right _ _ hc, hlt, heq, hz]

/-- The low digits of a number are worth no more to a rounding than whether one of them is not zero, where the denominator is even
without them. -/
theorem roundsUp_sticky {rm : Nat} {neg : Bool} {a b c : Nat} (hb : b % 2 = 0) (hc : 0 < c) :
    roundsUp rm neg a (b * c) false = roundsUp rm neg (a / c) b (a % c != 0) := by
  have hq : a / (b * c) = a / c / b := by rw [Nat.mul_comm, Nat.div_div_eq_div_mul]
  have hr : a % (b * c) = a % c + c * (a / c % b) := by rw [Nat.mul_comm, Nat.mod_mul]
  have hl := Nat.mod_lt a hc
  generalize hh : a / c % b = h at hr
  generalize a % c = l at hr hl ⊢
  have hz : (l + c * h != 0) = (h != 0 || l != 0) := by
    rw [Bool.eq_iff_iff, Bool.or_eq_true, bne_iff_ne, bne_iff_ne, bne_iff_ne, ne_eq, Nat.add_eq_zero_iff, Nat.mul_eq_zero]
    omega
  obtain ⟨k, rfl⟩ : ∃ k, b = 2 * k := ⟨b / 2, by omega⟩
  have hlt : 2 * k * c < 2 * (l + c * h) ↔ k < h ∨ k = h ∧ l ≠ 0 := by
    rcases Nat.lt_trichotomy k h with hk | rfl | hk
    · exact iff_of_true (by nlinarith) (.inl hk)
    · rw [Nat.mul_assoc, Nat.mul_comm c]; omega
    · exact iff_of_false (by nlinarith) (by omega)
  have heq : (2 * (l + c * h) == 2 * k * c) = (2 * h == 2 * k && l == 0) := by
    rw [Bool.eq_iff_iff, beq_iff_eq, Bool.and_eq_true, beq_iff_eq, beq_iff_eq]
    rcases Nat.lt_trichotomy k h with hk | rfl | hk
    · exact iff_of_false (by nlinarith) (by omega)
    · rw [Nat.mul_assoc, Nat.mul_comm c]; omega
    · exact iff_of_false (by nlinarith) (by omega)
  simp only [roundsUp, hq, hr, hh, hz, hlt, heq, Bool.or_false]
  split
  · generalize a / c / (2 * k) % 2 = o
    rw [Bool.eq_iff_iff]
    simp only [Bool.false_or, Bool.or_eq_true, Bool.and_eq_true, decide_eq_true_eq, beq_iff_eq, bne_iff_ne]
    omega
  · rfl

theorem numer_of_lt {m : Nat} {e q : Int} (h : e < q) : numer m e q = m := by
  rw [numer, Int.toNat_of_nonpos (by omega), Nat.pow_zero, Nat.mul_one]

/-- Zeros below a number's last bit play no part. -/
theorem roundAt_mul_two_pow {rm : Nat} {neg : Bool} {m k : Nat} {e q : Int} :
    roundAt rm neg (m * 2 ^ k) e q false = roundAt rm neg m (e + k) q false := by
  obtain ⟨d, hd⟩ : ∃ d, (q - e).toNat = (q - (e + k)).toNat + d := ⟨(q - e).toNat - (q - (e + k)).toNat, by omega⟩
  have hn : numer (m * 2 ^ k) e q = numer m (e + k) q * 2 ^ d := by
    rw [numer, numer, Nat.mul_assoc, Nat.mul_assoc, ← Nat.pow_add, ← Nat.pow_add]
    congr 2
    omega
  have hb : denom e q = denom (e + k) q * 2 ^ d := by rw [denom, denom, hd, Nat.pow_add]
  have hp : 0 < 2 ^ d := Nat.two_pow_pos d
  rw [roundAt_eq (.inr rfl), roundAt_eq (.inr rfl), hn, hb, roundsUp_mul_right hp, Nat.mul_div_mul_right _ _ hp, Nat.mul_mod_mul_right]
  congr 2
  rw [Bool.eq_iff_iff, bne_iff_ne, bne_iff_ne, Nat.mul_ne_zero_iff]
  omega

/-- Bits more than one below the place of rounding count together as one. -/
theorem roundAt_sticky {rm : Nat} {neg : Bool} {a j : Nat} {e q : Int} (h : e + j < q) :
    roundAt rm neg a e q false = roundAt rm neg (a / 2 ^ j) (e + j) q (a % 2 ^ j != 0) := by
  have hb : denom e q = denom (e + j) q * 2 ^ j := by
    rw [denom, denom, ← Nat.pow_add]
    congr 1
    omega
  have he : denom (e + j) q % 2 = 0 := by
    rw [denom, show (q - (e + j)).toNat = (q - (e + j)).toNat - 1 + 1 by omega, Nat.pow_succ, Nat.mul_mod_left]
  rw [roundAt_eq (.inr rfl), roundAt_eq (.inl h), numer_of_lt (by omega), numer_of_lt h, hb, roundsUp_sticky he (Nat.two_pow_pos j),
    Nat.mul_comm, ← Nat.div_div_eq_div_mul, Nat.mod_mul, Bool.or_false]
  congr 2
  rw [Bool.eq_iff_iff, Bool.or_eq_true, bne_iff_ne, bne_iff_ne, bne_iff_ne, ne_eq, Nat.add_eq_zero_iff, Nat.mul_eq_zero]
  have hp := Nat.two_pow_pos j
  omega

/-! ## Rounding to a format -/

theorem log2_mul_two_pow {m : Nat} (hm : m ≠ 0) (k : Nat) : Nat.log2 (m * 2 ^ k) = Nat.log2 m + k := by
  induction k with
  | zero => simp
  | succ k ih => rw [Nat.pow_succ, ← Nat.mul_assoc, Nat.mul_comm, Nat.log2_two_mul (by positivity), ih, Nat.add_assoc]

/-- A rounding sees of its number the place of the highest bit and what each step of the format makes of it. -/
theorem Fmt.round_congr {f : Fmt} {rm : Nat} {ftz neg s t : Bool} {m n : Nat} {e g : Int} (hm : 0 < m) (hn : 0 < n)
    (hlog : e + Nat.log2 m = g + Nat.log2 n)
    (h : ∀ q, e + Nat.log2 m - f.mb ≤ q → roundAt rm neg m e q s = roundAt rm neg n g q t) :
    f.round rm ftz neg m e s = f.round rm ftz neg n g t := by
  simp only [Fmt.round, Nat.pos_iff_ne_zero.mp hm, Nat.pos_iff_ne_zero.mp hn, if_false]
  rw [h _ (Int.le_refl _), h _ (Int.le_max_left _ _), hlog]

theorem Fmt.round_mul_two_pow {f : Fmt} {rm : Nat} {ftz neg : Bool} {m k : Nat} {e : Int} :
    f.round rm ftz neg (m * 2 ^ k) e false = f.round rm ftz neg m (e + k) false := by
  rcases Nat.eq_zero_or_pos m with rfl | hm
  · simp [Fmt.round]
  · refine Fmt.round_congr (Nat.mul_pos hm (Nat.two_pow_pos k)) hm ?_ fun q _ => roundAt_mul_two_pow
    rw [log2_mul_two_pow (by omega)]
    omega

/-- Of a number with more than one bit below the format's last place, the lowest bits count as one. -/
theorem Fmt.round_sticky {f : Fmt} {rm : Nat} {ftz neg : Bool} {a j : Nat} {e : Int} (h : 2 ^ (f.mb + 1) ≤ a / 2 ^ j) :
    f.round rm ftz neg a e false = f.round rm ftz neg (a / 2 ^ j) (e + j) (a % 2 ^ j != 0) := by
  have hq : 0 < a / 2 ^ j := (Nat.two_pow_pos _).trans_le h
  have hl := (Nat.le_log2 (by omega)).mpr h
  have hlog : Nat.log2 (a / 2 ^ j) + j = Nat.log2 a := by
    rw [Nat.log2_eq_log_two, Nat.log_div_base_pow, ← Nat.log2_eq_log_two]
    refine Nat.sub_add_cancel ?_
    by_contra hj
    rw [Nat.div_eq_of_lt ((Nat.log2_lt (by rintro rfl; simp at hq)).mp (by omega))] at hq
    omega
  refine Fmt.round_congr ?_ hq (by omega) fun q hle => roundAt_sticky (by omega)
  exact Nat.pos_of_ne_zero fun h0 => by simp [h0] at hq

end Sys2Proof.Machine
end

section
/-! SUPPORT. A format's patterns around a number, and which of them a rounding takes (R27, R41). -/
namespace Sys2Proof.Machine

/-! ## Patterns and their magnitudes -/

/-- A pattern as a significand r in the place 2^D: the magnitude is r·2^D, also where r is a whole power that carries. -/
theorem Fmt.mag_add {f : Fmt} {r D : Nat} (hr : r ≤ 2 ^ (f.mb + 1)) (hD : D = 0 ∨ 2 ^ f.mb ≤ r) : f.mag (r + D * 2 ^ f.mb) = r * 2 ^ D := by
  have hp : 0 < 2 ^ f.mb := Nat.two_pow_pos _
  rw [Nat.pow_succ] at hr
  rcases Nat.lt_or_ge r (2 ^ f.mb) with h | h
  · obtain rfl : D = 0 := hD.resolve_right (by omega)
    simp [Fmt.mag, h]
  · have hge : ¬ r + D * 2 ^ f.mb < 2 ^ f.mb := by omega
    rw [Fmt.mag, if_neg hge, Nat.add_mul_mod_self_right, Nat.add_mul_div_right _ _ hp]
    rcases Nat.lt_or_ge r (2 * 2 ^ f.mb) with h2 | h2
    · obtain ⟨x, rfl⟩ := Nat.exists_eq_add_of_le h
      have hx : x < 2 ^ f.mb := by omega
      rw [Nat.add_mod_left, Nat.mod_eq_of_lt hx, Nat.add_div_left _ hp, Nat.div_eq_of_lt hx]
      congr 2
      omega
    · obtain rfl : r = 2 * 2 ^ f.mb := by omega
      rw [Nat.mul_mod_left, Nat.mul_div_left _ hp, show 2 + D - 1 = D + 1 by omega, Nat.pow_succ]
      ring

/-- Every pattern is a significand in a place. -/
theorem Fmt.exists_digits (f : Fmt) (p : Nat) : ∃ r D, r < 2 ^ (f.mb + 1) ∧ (D = 0 ∨ 2 ^ f.mb ≤ r) ∧ p = r + D * 2 ^ f.mb := by
  have hp : 0 < 2 ^ f.mb := Nat.two_pow_pos _
  have hd := Nat.div_add_mod p (2 ^ f.mb)
  have hm := Nat.mod_lt p hp
  rw [Nat.pow_succ]
  rcases Nat.lt_or_ge p (2 ^ f.mb) with h | h
  · exact ⟨p, 0, by omega, .inl rfl, by omega⟩
  · obtain ⟨D, hD⟩ : ∃ D, p / 2 ^ f.mb = D + 1 := ⟨p / 2 ^ f.mb - 1, by have := Nat.div_pos h hp; omega⟩
    refine ⟨p % 2 ^ f.mb + 2 ^ f.mb, D, by omega, .inr (by omega), ?_⟩
    rw [hD] at hd
    linarith

theorem Fmt.mag_strictMono (f : Fmt) : StrictMono f.mag := by
  refine strictMono_nat_of_lt_succ fun p => ?_
  obtain ⟨r, D, hr, hD, rfl⟩ := f.exists_digits p
  rw [Nat.add_right_comm, Fmt.mag_add (by omega) hD, Fmt.mag_add hr (hD.imp_right fun h => by omega)]
  exact Nat.mul_lt_mul_of_pos_right (by omega) (Nat.two_pow_pos D)

/-! ## The last place, and the greatest pattern not above a number -/

/-- The exponent of the least subnormal. -/
def Fmt.least (f : Fmt) : Int := f.emin - f.mb

/-- The exponent of the last place that the format keeps of m·2^e. -/
def Fmt.place (f : Fmt) (m : Nat) (e : Int) : Int := max (e + Nat.log2 m - f.mb) f.least

/-- The number m·2^e, and the value of a pattern, in units of both 2^e and the least subnormal. -/
def Fmt.exactIn (f : Fmt) (m : Nat) (e : Int) : Nat := m * 2 ^ (e - f.least).toNat
def Fmt.magIn (f : Fmt) (e : Int) (p : Nat) : Nat := f.mag p * 2 ^ (f.least - e).toNat

/-- m·2^e cut to the last place, and the pattern of that. -/
def Fmt.cut (f : Fmt) (m : Nat) (e : Int) : Nat := numer m e (f.place m e) / denom e (f.place m e)
def Fmt.pattern (f : Fmt) (r : Nat) (q : Int) : Nat := r + (q - f.least).toNat * 2 ^ f.mb
def Fmt.floorBits (f : Fmt) (m : Nat) (e : Int) : Nat := f.pattern (f.cut m e) (f.place m e)

theorem Fmt.magIn_strictMono (f : Fmt) (e : Int) : StrictMono (f.magIn e) := fun _ _ h =>
  Nat.mul_lt_mul_of_pos_right (f.mag_strictMono h) (Nat.two_pow_pos _)

section
variable {f : Fmt} {m : Nat} {e : Int}

theorem quotient_lt {k : Nat} {q : Int} (h : e + Nat.log2 m - k ≤ q) : numer m e q / denom e q < 2 ^ (k + 1) := by
  rw [Nat.div_lt_iff_lt_mul (denom_pos _ _), numer, denom, ← Nat.pow_add]
  calc m * 2 ^ (e - q).toNat < 2 ^ (Nat.log2 m + 1) * 2 ^ (e - q).toNat := Nat.mul_lt_mul_of_pos_right Nat.lt_log2_self (Nat.two_pow_pos _)
    _ = 2 ^ (Nat.log2 m + 1 + (e - q).toNat) := (Nat.pow_add ..).symm
    _ ≤ 2 ^ (k + 1 + (q - e).toNat) := Nat.pow_le_pow_right (by decide) (by omega)

theorem le_quotient {k : Nat} {q : Int} (hm : 0 < m) (h : q ≤ e + Nat.log2 m - k) : 2 ^ k ≤ numer m e q / denom e q := by
  rw [Nat.le_div_iff_mul_le (denom_pos _ _), numer, denom, ← Nat.pow_add]
  calc 2 ^ (k + (q - e).toNat) ≤ 2 ^ (Nat.log2 m + (e - q).toNat) := Nat.pow_le_pow_right (by decide) (by omega)
    _ = 2 ^ Nat.log2 m * 2 ^ (e - q).toNat := Nat.pow_add ..
    _ ≤ m * 2 ^ (e - q).toNat := Nat.mul_le_mul_right _ (Nat.log2_self_le (by omega))

theorem Fmt.cut_lt : f.cut m e < 2 ^ (f.mb + 1) := quotient_lt (Int.le_max_left _ _)

theorem Fmt.le_cut (hm : 0 < m) : (f.place m e - f.least).toNat = 0 ∨ 2 ^ f.mb ≤ f.cut m e := by
  rcases Int.le_total (e + Nat.log2 m - f.mb) f.least with h | h
  · left
    rw [Fmt.place, Int.max_eq_right h]
    omega
  · exact .inr (le_quotient hm (Int.max_eq_left h).le)

/-- The unit of the last place in units of both 2^e and the least subnormal. -/
def Fmt.placeIn (f : Fmt) (m : Nat) (e : Int) : Nat := 2 ^ (f.place m e - f.least).toNat * 2 ^ (f.least - e).toNat

theorem Fmt.placeIn_pos : 0 < f.placeIn m e := Nat.mul_pos (Nat.two_pow_pos _) (Nat.two_pow_pos _)

/-- The number in both units: by the last place, and by the common one. -/
theorem Fmt.exactIn_mul_denom : f.exactIn m e * denom e (f.place m e) = numer m e (f.place m e) * f.placeIn m e := by
  have hq : f.least ≤ f.place m e := Int.le_max_right _ _
  simp only [Fmt.exactIn, denom, numer, Fmt.placeIn, Nat.mul_assoc, ← Nat.pow_add]
  congr 2
  omega

theorem Fmt.magIn_floorBits (hm : 0 < m) : f.magIn e (f.floorBits m e) = f.cut m e * f.placeIn m e := by
  rw [Fmt.magIn, Fmt.floorBits, Fmt.pattern, Fmt.mag_add Fmt.cut_lt.le (Fmt.le_cut hm), Nat.mul_assoc, Fmt.placeIn]

theorem Fmt.magIn_floorBits_succ (hm : 0 < m) : f.magIn e (f.floorBits m e + 1) = (f.cut m e + 1) * f.placeIn m e := by
  rw [Fmt.magIn, Fmt.floorBits, Fmt.pattern, Nat.add_right_comm, Fmt.mag_add Fmt.cut_lt ((Fmt.le_cut hm).imp_right fun h => by omega),
    Nat.mul_assoc, Fmt.placeIn]

/-- What the cut leaves, in the units of the comparison. -/
theorem Fmt.exactIn_eq_cut_add_rem : f.exactIn m e * denom e (f.place m e) =
    f.cut m e * f.placeIn m e * denom e (f.place m e) + numer m e (f.place m e) % denom e (f.place m e) * f.placeIn m e := by
  rw [Fmt.exactIn_mul_denom]
  conv_lhs => rw [← Nat.div_add_mod (numer m e (f.place m e)) (denom e (f.place m e))]
  rw [Fmt.cut]
  ring

theorem Fmt.magIn_floorBits_le (hm : 0 < m) : f.magIn e (f.floorBits m e) ≤ f.exactIn m e := by
  rw [Fmt.magIn_floorBits hm]
  refine Nat.le_of_mul_le_mul_right ?_ (denom_pos e (f.place m e))
  rw [Fmt.exactIn_eq_cut_add_rem]
  exact Nat.le_add_right _ _

theorem Fmt.lt_magIn_floorBits_succ (hm : 0 < m) : f.exactIn m e < f.magIn e (f.floorBits m e + 1) := by
  rw [Fmt.magIn_floorBits_succ hm]
  have hd := denom_pos e (f.place m e)
  refine Nat.lt_of_mul_lt_mul_right (a := denom e (f.place m e)) ?_
  rw [Fmt.exactIn_eq_cut_add_rem]
  have h := Nat.mul_lt_mul_of_pos_right (Nat.mod_lt (numer m e (f.place m e)) hd) (Fmt.placeIn_pos (f := f) (m := m) (e := e))
  linarith

theorem Fmt.magIn_floorBits_eq_iff (hm : 0 < m) :
    f.magIn e (f.floorBits m e) = f.exactIn m e ↔ numer m e (f.place m e) % denom e (f.place m e) = 0 := by
  rw [Fmt.magIn_floorBits hm, ← Nat.mul_right_cancel_iff (denom_pos e (f.place m e)), Fmt.exactIn_eq_cut_add_rem, Nat.left_eq_add,
    Nat.mul_eq_zero]
  exact or_iff_left Fmt.placeIn_pos.ne'

/-- The remainder against half the last place, as the number against the midpoint of its neighbours. -/
theorem Fmt.midpoint (hm : 0 < m) :
    (f.magIn e (f.floorBits m e) + f.magIn e (f.floorBits m e + 1) < 2 * f.exactIn m e ↔
      denom e (f.place m e) < 2 * (numer m e (f.place m e) % denom e (f.place m e))) ∧
    (f.magIn e (f.floorBits m e) + f.magIn e (f.floorBits m e + 1) = 2 * f.exactIn m e ↔
      2 * (numer m e (f.place m e) % denom e (f.place m e)) = denom e (f.place m e)) := by
  rw [Fmt.magIn_floorBits hm, Fmt.magIn_floorBits_succ hm]
  have hx := Fmt.exactIn_eq_cut_add_rem (f := f) (m := m) (e := e)
  have hs := Fmt.placeIn_pos (f := f) (m := m) (e := e)
  have hd := denom_pos e (f.place m e)
  generalize numer m e (f.place m e) % denom e (f.place m e) = r at *
  generalize denom e (f.place m e) = d at *
  constructor
  · refine (Nat.mul_lt_mul_right hd).symm.trans (Iff.trans ?_ (Nat.mul_lt_mul_left hs))
    constructor <;> intro h <;> linarith
  · refine (Nat.mul_right_cancel_iff hd).symm.trans (Iff.trans ?_ (Nat.mul_right_inj hs.ne'))
    constructor <;> intro h <;> linarith

/-! ## What a rounding gives -/

/-- The pattern of a rounding with all exponents, from which what lies beyond the format is then taken away. -/
def Fmt.roundBits (f : Fmt) (rm : Nat) (neg : Bool) (m : Nat) (e : Int) : Nat :=
  f.floorBits m e + (roundsUp rm neg (numer m e (f.place m e)) (denom e (f.place m e)) false).toNat

/-- Beyond the format a mode gives infinity, or the greatest finite number. -/
def Fmt.clip (f : Fmt) (rm : Nat) (neg : Bool) (b : Nat) : Nat :=
  if b ≥ f.infBits then (if rm == 0 || rm == 2 && !neg || rm == 3 && neg then f.infBits else f.infBits - 1) else b

theorem Fmt.pattern_roundAt {rm : Nat} {neg : Bool} :
    f.pattern (roundAt rm neg m e (f.place m e) false).1 (f.place m e) = f.roundBits rm neg m e := by
  rw [roundAt_eq (.inr rfl), Fmt.pattern, Nat.add_right_comm]
  rfl

theorem Fmt.round_fst {rm : Nat} {neg : Bool} (hm : 0 < m) :
    (f.round rm false neg m e false).1 = f.signed neg (f.clip rm neg (f.roundBits rm neg m e)) := by
  rw [← Fmt.pattern_roundAt, Fmt.round, if_neg hm.ne', Fmt.clip]
  change (if f.pattern (roundAt rm neg m e (f.place m e) false).1 (f.place m e) ≥ f.infBits then _ else _ : Nat × Nat).1 = _
  by_cases hb : f.pattern (roundAt rm neg m e (f.place m e) false).1 (f.place m e) ≥ f.infBits
  · simp only [hb, if_true]
  · simp only [hb, if_false]
    rfl

theorem inexact_flags (x y : Bool) : ((if x = true then flNX else 0) ||| (if y = true then flUF else 0)) / 16 % 2 = 1 ↔ x = true := by
  cases x <;> cases y <;> decide

theorem Fmt.round_inexact {rm : Nat} {neg : Bool} (hm : 0 < m) : (f.round rm false neg m e false).2 / 16 % 2 = 1 ↔
    f.infBits ≤ f.roundBits rm neg m e ∨ f.magIn e (f.floorBits m e) ≠ f.exactIn m e := by
  have hx : (roundAt rm neg m e (f.place m e) false).2 = true ↔ f.magIn e (f.floorBits m e) ≠ f.exactIn m e := by
    rw [roundAt_eq (.inr rfl), Bool.or_false, bne_iff_ne, ne_eq, ne_eq, Fmt.magIn_floorBits_eq_iff hm]
  rw [← hx, ← Fmt.pattern_roundAt, Fmt.round, if_neg hm.ne']
  change (if f.pattern (roundAt rm neg m e (f.place m e) false).1 (f.place m e) ≥ f.infBits then _ else _ : Nat × Nat).2 / 16 % 2 = 1 ↔ _
  by_cases hb : f.infBits ≤ f.pattern (roundAt rm neg m e (f.place m e) false).1 (f.place m e)
  · simp [hb, flOF, flNX]
  · simp only [ge_iff_le, hb, if_false, false_or]
    exact inexact_flags _ _

end

/-! ## The neighbour that a mode names, among values that grow -/

/-- Entry b of the growing values V is the last that is not above x. -/
structure Brackets (V : Nat → Nat) (x b : Nat) : Prop where
  mono : StrictMono V
  le : V b ≤ x
  lt : x < V (b + 1)

/-- Where a mode goes up from the last entry not above a positive number: to the nearer one, or an even one at a tie; or to the one above. -/
def GoesUp (rm : Nat) (V : Nat → Nat) (x b : Nat) : Prop :=
  (rm = 0 ∧ (V b + V (b + 1) < 2 * x ∨ V b + V (b + 1) = 2 * x ∧ b % 2 = 1)) ∨ (rm = 2 ∧ V b ≠ x)

namespace Brackets
variable {V : Nat → Nat} {x b p top : Nat}

theorem split (h : Brackets V x b) (p : Nat) : (p ≤ b ∧ V p ≤ V b ∧ (p < b → V p < V b)) ∨
    (b + 1 ≤ p ∧ V (b + 1) ≤ V p ∧ (b + 1 < p → V (b + 1) < V p)) := by
  rcases Nat.lt_or_ge b p with hp | hp
  · exact .inr ⟨hp, h.mono.monotone hp, fun hp => h.mono hp⟩
  · exact .inl ⟨hp, h.mono.monotone hp, fun hp => h.mono hp⟩

/-- Toward zero: the greatest entry below the top that is not above the number. -/
theorem below_top (h : Brackets V x b) (ht : 0 < top) (hp : p = min b (top - 1)) :
    p < top ∧ V p ≤ x ∧ (p + 1 < top → x < V (p + 1)) := by
  have hle := h.le
  rcases Nat.lt_or_ge b top with hb | hb
  · obtain rfl : p = b := by omega
    exact ⟨hb, hle, fun _ => h.lt⟩
  · obtain rfl : p = top - 1 := by omega
    exact ⟨by omega, (h.mono.monotone (by omega)).trans hle, fun h => by omega⟩

/-- Away from zero: the least entry not below the number, or the top. -/
theorem up (h : Brackets V x b) (hp : p = b ∧ V b = x ∨ p = b + 1 ∧ V b ≠ x) :
    x ≤ V p ∧ (∀ n < p, V n < x) := by
  have hle := h.le
  have hlt := h.lt
  rcases hp with ⟨rfl, hx⟩ | ⟨rfl, hx⟩
  · exact ⟨by omega, fun n hn => by have := h.mono hn; omega⟩
  · exact ⟨by omega, fun n hn => by have := h.mono.monotone (Nat.lt_succ_iff.mp hn); omega⟩

/-- To nearest: no entry is nearer, and where another is as near the entry is even. -/
theorem nearest (h : Brackets V x b) (hp : p = b ∧ ¬ GoesUp 0 V x b ∨ p = b + 1 ∧ GoesUp 0 V x b) (n : Nat) :
    ((V p : Int) - x).natAbs ≤ ((V n : Int) - x).natAbs ∧
      (((V n : Int) - x).natAbs = ((V p : Int) - x).natAbs → n ≠ p → p % 2 = 0) := by
  have hle := h.le
  have hlt := h.lt
  simp only [GoesUp, true_and, OfNat.zero_ne_ofNat, false_and, or_false] at hp
  rcases hp with ⟨rfl, hu⟩ | ⟨rfl, hu⟩ <;> rcases h.split n with ⟨h1, h2, h3⟩ | ⟨h1, h2, h3⟩ <;> omega

/-- To nearest: the top is reached from the middle between it and the entry below it on. -/
theorem top_le_nearest (h : Brackets V x b) (ht : 0 < top) (he : top % 2 = 0)
    (hp : p = b ∧ ¬ GoesUp 0 V x b ∨ p = b + 1 ∧ GoesUp 0 V x b) : top ≤ p ↔ V (top - 1) + V top ≤ 2 * x := by
  have hle := h.le
  have hlt := h.lt
  simp only [GoesUp, true_and, OfNat.zero_ne_ofNat, false_and, or_false] at hp
  obtain ⟨n, rfl⟩ : ∃ n, top = n + 1 := ⟨top - 1, by omega⟩
  rw [Nat.add_sub_cancel]
  have hn : V n < V (n + 1) := h.mono (Nat.lt_succ_self n)
  rcases h.split n with ⟨h1, h2, h3⟩ | ⟨h1, h2, h3⟩
  · rcases Nat.eq_or_lt_of_le h1 with rfl | h4
    · omega
    · have : V (n + 1) ≤ V b := h.mono.monotone h4
      omega
  · omega

end Brackets

section
variable {f : Fmt} {m : Nat} {e : Int} {rm : Nat}

theorem Fmt.brackets (hm : 0 < m) : Brackets (f.magIn e) (f.exactIn m e) (f.floorBits m e) :=
  ⟨f.magIn_strictMono e, Fmt.magIn_floorBits_le hm, Fmt.lt_magIn_floorBits_succ hm⟩

theorem Fmt.infBits_even (hmb : 0 < f.mb) : f.infBits % 2 = 0 := by
  obtain ⟨k, hk⟩ : ∃ k, f.mb = k + 1 := ⟨f.mb - 1, by omega⟩
  rw [Fmt.infBits, hk, Nat.pow_succ, ← Nat.mul_assoc, Nat.mul_mod_left]

theorem Fmt.infBits_pos (heb : 0 < f.eb) : 0 < f.infBits :=
  Nat.mul_pos (Nat.sub_pos_of_lt (Nat.one_lt_two_pow heb.ne')) (Nat.two_pow_pos _)

/-- The remainder that decides a rounding, as the number against its neighbours. -/
theorem Fmt.roundsUp_iff (hm : 0 < m) (hmb : 0 < f.mb) :
    roundsUp rm false (numer m e (f.place m e)) (denom e (f.place m e)) false = true ↔
      GoesUp rm (f.magIn e) (f.exactIn m e) (f.floorBits m e) := by
  have hpar : f.floorBits m e % 2 = f.cut m e % 2 := by
    obtain ⟨k, hk⟩ : ∃ k, f.mb = k + 1 := ⟨f.mb - 1, by omega⟩
    rw [Fmt.floorBits, Fmt.pattern, hk, Nat.pow_succ, ← Nat.mul_assoc, Nat.add_mul_mod_self_right]
  rw [GoesUp, (Fmt.midpoint hm).1, (Fmt.midpoint hm).2, ne_eq, Fmt.magIn_floorBits_eq_iff hm, hpar, Fmt.cut, roundsUp]
  by_cases h0 : rm = 0
  · simp [h0]
  · by_cases h2 : rm = 2 <;> simp [h0, h2]

/-- A positive number is rounded to its floor, or to the pattern above where the mode goes up. -/
theorem Fmt.roundBits_cases (hm : 0 < m) (hmb : 0 < f.mb) :
    (f.roundBits rm false m e = f.floorBits m e ∧ ¬ GoesUp rm (f.magIn e) (f.exactIn m e) (f.floorBits m e)) ∨
    (f.roundBits rm false m e = f.floorBits m e + 1 ∧ GoesUp rm (f.magIn e) (f.exactIn m e) (f.floorBits m e)) := by
  rw [Fmt.roundBits, ← Fmt.roundsUp_iff hm hmb]
  cases roundsUp rm false (numer m e (f.place m e)) (denom e (f.place m e)) false
  · exact .inl ⟨rfl, Bool.false_ne_true⟩
  · exact .inr ⟨rfl, rfl⟩

theorem roundsUp_mirror {rn a b : Nat} (hrm : rm < 4) (hrn : rn = if rm = 2 then 3 else if rm = 3 then 2 else rm) :
    roundsUp rn true a b false = roundsUp rm false a b false := by
  subst hrn
  interval_cases rm <;> simp [roundsUp]

/-- A negative number is rounded as its positive one, with up and down exchanged. -/
theorem Fmt.round_mirror {ftz : Bool} {rn : Nat} (hrm : rm < 4) (hrn : rn = if rm = 2 then 3 else if rm = 3 then 2 else rm) (hm : 0 < m) :
    f.round rn ftz true m e false = (f.signBit + (f.round rm ftz false m e false).1, (f.round rm ftz false m e false).2) := by
  have hr (q : Int) : roundAt rn true m e q false = roundAt rm false m e q false := by
    rw [roundAt_eq (.inr rfl), roundAt_eq (.inr rfl), roundsUp_mirror hrm hrn]
  have hinf : (rn == 0 || rn == 2 && !true || rn == 3 && true) = (rm == 0 || rm == 2 && !false || rm == 3 && false) := by
    subst hrn
    interval_cases rm <;> rfl
  simp only [Fmt.round, if_neg hm.ne', hr, hinf, Fmt.signed]
  split
  · rfl
  · split <;> rfl

/-- What lies beyond the format is infinity to nearest and up, and the greatest finite pattern else. -/
theorem Fmt.round_pos (hm : 0 < m) : (f.round rm false false m e false).1 =
    min (f.roundBits rm false m e) (if rm = 0 ∨ rm = 2 then f.infBits else f.infBits - 1) := by
  rw [Fmt.round_fst hm, Fmt.signed, Fmt.clip]
  simp only [Bool.false_eq_true, if_false, Bool.not_false, Bool.and_true, Bool.and_false, Bool.or_false, Bool.or_eq_true, beq_iff_eq]
  split <;> split <;> omega

theorem Fmt.round_le_infBits (hm : 0 < m) : (f.round rm false false m e false).1 ≤ f.infBits := by
  rw [Fmt.round_pos hm]
  split <;> omega

theorem Fmt.round_down (hm : 0 < m) (hmb : 0 < f.mb) (heb : 0 < f.eb) (hrm : rm = 1 ∨ rm = 3) {b : Nat}
    (hb : b = (f.round rm false false m e false).1) :
    b < f.infBits ∧ f.magIn e b ≤ f.exactIn m e ∧ (b + 1 < f.infBits → f.exactIn m e < f.magIn e (b + 1)) := by
  refine (Fmt.brackets hm).below_top (Fmt.infBits_pos heb) ?_
  rw [hb, Fmt.round_pos hm, if_neg (by omega)]
  obtain ⟨hr, -⟩ | ⟨-, hu⟩ := Fmt.roundBits_cases (rm := rm) (e := e) hm hmb
  · rw [hr]
  · exact absurd hu (by unfold GoesUp; omega)

theorem Fmt.round_up (hm : 0 < m) (hmb : 0 < f.mb) {b : Nat} (hb : b = (f.round 2 false false m e false).1) :
    (b < f.infBits → f.exactIn m e ≤ f.magIn e b) ∧ (0 < b → f.magIn e (b - 1) < f.exactIn m e) := by
  obtain ⟨hge, hlt⟩ := (Fmt.brackets hm).up (p := f.roundBits 2 false m e) (by
    simpa [GoesUp] using Fmt.roundBits_cases (rm := 2) (e := e) hm hmb)
  rw [Fmt.round_pos hm, if_pos (.inr rfl)] at hb
  refine ⟨fun h => ?_, fun h => hlt _ (by omega)⟩
  obtain rfl : b = f.roundBits 2 false m e := by omega
  exact hge

theorem Fmt.round_nearest (hm : 0 < m) (hmb : 0 < f.mb) {b : Nat} (hb : b = (f.round 0 false false m e false).1) (h : b < f.infBits)
    (p : Nat) : ((f.magIn e b : Int) - f.exactIn m e).natAbs ≤ ((f.magIn e p : Int) - f.exactIn m e).natAbs ∧
      (((f.magIn e p : Int) - f.exactIn m e).natAbs = ((f.magIn e b : Int) - f.exactIn m e).natAbs → p ≠ b → b % 2 = 0) := by
  rw [Fmt.round_pos hm, if_pos (.inl rfl)] at hb
  obtain rfl : b = f.roundBits 0 false m e := by omega
  exact (Fmt.brackets hm).nearest (Fmt.roundBits_cases hm hmb) p

theorem Fmt.round_nearest_eq_infBits_iff (hm : 0 < m) (hmb : 0 < f.mb) (heb : 0 < f.eb) :
    (f.round 0 false false m e false).1 = f.infBits ↔ f.magIn e (f.infBits - 1) + f.magIn e f.infBits ≤ 2 * f.exactIn m e := by
  rw [← (Fmt.brackets hm).top_le_nearest (Fmt.infBits_pos heb) (Fmt.infBits_even hmb) (Fmt.roundBits_cases hm hmb), Fmt.round_pos hm,
    if_pos (.inl rfl)]
  omega

/-- A rounding is exact where its pattern has the value of the number: the floor has it then. -/
theorem Fmt.round_inexact_iff (hm : 0 < m) (hmb : 0 < f.mb) (heb : 0 < f.eb) {b : Nat} (hb : b = (f.round rm false false m e false).1) :
    (f.round rm false false m e false).2 / 16 % 2 = 1 ↔ b = f.infBits ∨ f.magIn e b ≠ f.exactIn m e := by
  have hV := Fmt.brackets (f := f) (e := e) hm
  have hI := Fmt.infBits_pos heb
  have hle := hV.le
  have hlt := hV.lt
  rw [Fmt.round_inexact hm]
  rw [Fmt.round_pos hm] at hb
  have hc := Fmt.roundBits_cases (rm := rm) (e := e) hm hmb
  rcases Nat.lt_or_ge (f.roundBits rm false m e) f.infBits with hr | hr
  · obtain rfl : b = f.roundBits rm false m e := by split at hb <;> omega
    obtain ⟨hr', -⟩ | ⟨hr', hu⟩ := hc <;> rw [hr'] at hr ⊢
    · omega
    · have : f.magIn e (f.floorBits m e) ≠ f.exactIn m e := by unfold GoesUp at hu; omega
      exact iff_of_true (.inr this) (.inr hlt.ne')
  · refine iff_of_true (.inl hr) ?_
    split at hb
    · exact .inl (by omega)
    next hrm =>
      obtain ⟨hr', -⟩ | ⟨-, hu⟩ := hc
      · exact .inr ((hV.mono (show b < f.floorBits m e by omega)).trans_le hle).ne
      · exact absurd hu (by unfold GoesUp; omega)

end

end Sys2Proof.Machine
end

section
/-! SUPPORT. Finite results as roundings of exact values: sums over their lower exponent, and quotients and roots from approximations below them
(R41, R135, R137). -/
namespace Sys2Proof.Machine

/-! ## Sums -/

section
variable {f : Fmt} {rm : Nat} {ftz : Bool}

@[simp] theorem Fmt.round_zero {neg s : Bool} {e : Int} : f.round rm ftz neg 0 e s = (f.signed neg 0, 0) := if_pos rfl

@[simp] theorem scaled_zero {n : Bool} {e lo : Int} : scaled n 0 e lo = 0 := by cases n <;> simp [scaled]

theorem scaled_ne_zero {n : Bool} {m : Nat} {e lo : Int} (hm : m ≠ 0) : scaled n m e lo ≠ 0 := by
  cases n <;> simp [scaled, hm]

/-- One number alone, over any lower exponent, is rounded as itself. -/
theorem Fmt.round_scaled {n : Bool} {m : Nat} {e lo : Int} (hm : m ≠ 0) (hlo : lo ≤ e) :
    f.round rm ftz (decide (scaled n m e lo < 0)) (scaled n m e lo).natAbs lo false = f.round rm ftz n m e false := by
  have hs : decide (scaled n m e lo < 0) = n := by cases n <;> simp [scaled, Nat.pos_of_ne_zero hm]
  have ha : (scaled n m e lo).natAbs = m * 2 ^ (e - lo).toNat := by
    cases n <;> simp only [scaled, Bool.false_eq_true, if_false, if_true, Int.natAbs_neg, Int.natAbs_natCast]
  rw [hs, ha, Fmt.round_mul_two_pow]
  congr 1
  omega

/-- The sum of two finite numbers is the one rounding of their exact sum over their lower exponent. -/
theorem Fmt.sumFin_eq {x y : Bool} {p q : Nat} {g h : Int} : f.sumFin rm ftz x p g y q h =
    if scaled x p g (min g h) + scaled y q h (min g h) = 0 then (f.signed (if p = 0 ∧ x = y then x else rm == 3) 0, 0)
    else f.round rm ftz (decide (scaled x p g (min g h) + scaled y q h (min g h) < 0))
      (scaled x p g (min g h) + scaled y q h (min g h)).natAbs (min g h) false := by
  by_cases hp : p = 0
  · by_cases hq : q = 0
    · simp [Fmt.sumFin, hp, hq]
    · simp only [Fmt.sumFin, hp, hq, and_false, if_false, if_true, scaled_zero, Int.zero_add, scaled_ne_zero hq]
      rw [Fmt.round_scaled hq (Int.le_refl _), Fmt.round_scaled hq (Int.min_le_right _ _)]
  · by_cases hq : q = 0
    · simp only [Fmt.sumFin, hp, hq, false_and, if_false, if_true, scaled_zero, Int.add_zero, scaled_ne_zero hp]
      rw [Fmt.round_scaled hp (Int.le_refl _), Fmt.round_scaled hp (Int.min_le_left _ _)]
    · simp only [Fmt.sumFin, hp, hq, false_and, if_false]

/-! ## Quotients and roots from approximations below them -/

/-- Two approximations to a number, the finer of j more bits and with a last bit set where it is not exact, are rounded alike. -/
theorem Fmt.round_finer {neg : Bool} {n r j : Nat} {e : Int} {exact : Prop} [Decidable exact] {s : Bool} (h : 2 ^ (f.mb + 1) ≤ r)
    (hr : n / 2 ^ j = r) (hs : s = true ↔ ¬ (exact ∧ n % 2 ^ j = 0)) :
    f.round rm ftz neg (2 * n + if exact then 0 else 1) (e - j - 1) false = f.round rm ftz neg r e s := by
  have hd : (2 * n + if exact then 0 else 1) / 2 ^ (j + 1) = r := by
    rw [Nat.pow_succ', ← Nat.div_div_eq_div_mul, ← hr]
    congr 1
    split <;> omega
  have hmod : ((2 * n + if exact then 0 else 1) % 2 ^ (j + 1) != 0) = s := by
    rw [Nat.pow_succ', Nat.mod_mul, Bool.eq_iff_iff, hs, bne_iff_ne]
    have : (2 * n + if exact then 0 else 1) / 2 = n := by split <;> omega
    rw [this]
    split <;> simp [*]
  rw [Fmt.round_sticky (j := j + 1) (by rw [hd]; exact h), hd, hmod]
  congr 1
  omega

/-- A quotient is the rounding of every approximation from below with enough bits (R41). -/
theorem Fmt.div_eq {n1 n2 : Bool} {m1 m2 K : Nat} {e1 e2 : Int} (h1 : 0 < m1) (h2 : 0 < m2) (hK : f.mb + 4 + Nat.log2 m2 ≤ K) :
    f.div rm ftz (.fin n1 m1 e1) (.fin n2 m2 e2) = f.round rm ftz (n1 != n2)
      (2 * (m1 * 2 ^ K / m2) + if m1 * 2 ^ K % m2 = 0 then 0 else 1) (e1 - e2 - K - 1) false := by
  obtain ⟨j, rfl⟩ : ∃ j, K = Nat.log2 m2 + f.mb + 4 + j := ⟨K - (Nat.log2 m2 + f.mb + 4), by omega⟩
  simp only [Fmt.div, h1.ne', h2.ne', if_false]
  generalize hk : Nat.log2 m2 + f.mb + 4 = k
  have hp : 0 < 2 ^ j := Nat.two_pow_pos j
  rw [Nat.pow_add, ← Nat.mul_assoc]
  have hbits : 2 ^ (f.mb + 1) ≤ m1 * 2 ^ k / m2 := by
    rw [Nat.le_div_iff_mul_le h2]
    calc 2 ^ (f.mb + 1) * m2 ≤ 2 ^ (f.mb + 1) * 2 ^ (Nat.log2 m2 + 1) := Nat.mul_le_mul_left _ Nat.lt_log2_self.le
      _ = 2 ^ (f.mb + 1 + (Nat.log2 m2 + 1)) := (Nat.pow_add ..).symm
      _ ≤ 2 ^ k := Nat.pow_le_pow_right (by decide) (by omega)
      _ ≤ m1 * 2 ^ k := Nat.le_mul_of_pos_left _ h1
  have hquot : m1 * 2 ^ k * 2 ^ j / m2 / 2 ^ j = m1 * 2 ^ k / m2 := by
    rw [Nat.div_div_eq_div_mul, Nat.mul_div_mul_right _ _ hp]
  have hexact : (m1 * 2 ^ k % m2 != 0) = true ↔ ¬ (m1 * 2 ^ k * 2 ^ j % m2 = 0 ∧ m1 * 2 ^ k * 2 ^ j / m2 % 2 ^ j = 0) := by
    rw [bne_iff_ne, ne_eq, ← Nat.dvd_iff_mod_eq_zero, ← Nat.dvd_iff_mod_eq_zero, ← Nat.dvd_iff_mod_eq_zero, not_iff_not]
    rw [← Nat.mul_dvd_mul_iff_right hp]
    exact ⟨fun h => ⟨(Nat.dvd_mul_right _ _).trans h, Nat.dvd_div_of_mul_dvd h⟩, fun h => Nat.mul_dvd_of_dvd_div h.1 h.2⟩
  rw [← Fmt.round_finer hbits hquot hexact]
  congr 1
  omega

/-- The digits of the root, from the highest: what is left lies below the next power of two. -/
theorem isqrt_eq_sqrt {n : Nat} : ∀ {k r : Nat}, r * r ≤ n → n < (r + 2 ^ k) * (r + 2 ^ k) → isqrt n k r = Nat.sqrt n
  | 0, _, hle, hlt => Nat.eq_sqrt.mpr ⟨hle, hlt⟩
  | k + 1, r, hle, hlt => by
    rw [Nat.pow_succ, Nat.mul_two, ← Nat.add_assoc] at hlt
    rw [isqrt]
    split
    next h => exact isqrt_eq_sqrt h hlt
    next h => exact isqrt_eq_sqrt hle (Nat.lt_of_not_le h)

theorem lt_two_pow_half_log2_sq (n : Nat) : n < (0 + 2 ^ (Nat.log2 n / 2 + 1)) * (0 + 2 ^ (Nat.log2 n / 2 + 1)) := by
  rw [Nat.zero_add, ← Nat.pow_add]
  exact Nat.lt_log2_self.trans_le (Nat.pow_le_pow_right (by decide) (by omega))

/-- The root of a number with 2j more bits has j more bits. -/
theorem sqrt_mul_four_pow_div (n j : Nat) : Nat.sqrt (n * (2 ^ j * 2 ^ j)) / 2 ^ j = Nat.sqrt n := by
  have hp : 0 < 2 ^ j := Nat.two_pow_pos j
  generalize 2 ^ j = c at hp
  obtain ⟨hle, hlt⟩ : Nat.sqrt (n * (c * c)) * Nat.sqrt (n * (c * c)) ≤ n * (c * c) ∧
      n * (c * c) < (Nat.sqrt (n * (c * c)) + 1) * (Nat.sqrt (n * (c * c)) + 1) := Nat.eq_sqrt.mp rfl
  generalize Nat.sqrt (n * (c * c)) = r at hle hlt
  have h1 : r / c * c ≤ r := Nat.div_mul_le_self r c
  have h2 : r + 1 ≤ (r / c + 1) * c := Nat.lt_div_mul_add hp |>.trans_eq (by ring)
  refine Nat.eq_sqrt.mpr ⟨?_, ?_⟩
  · refine Nat.le_of_mul_le_mul_right ?_ (Nat.mul_pos hp hp)
    calc r / c * (r / c) * (c * c) = r / c * c * (r / c * c) := by ring
      _ ≤ r * r := Nat.mul_le_mul h1 h1
      _ ≤ _ := hle
  · refine Nat.lt_of_mul_lt_mul_right (a := c * c) ?_
    calc n * (c * c) < (r + 1) * (r + 1) := hlt
      _ ≤ (r / c + 1) * c * ((r / c + 1) * c) := Nat.mul_le_mul h2 h2
      _ = _ := by ring

/-- A root is exact where the finer root is, and its further bits are zeros. -/
theorem sqrt_exact_iff (n j : Nat) : Nat.sqrt n * Nat.sqrt n = n ↔
    Nat.sqrt (n * (2 ^ j * 2 ^ j)) * Nat.sqrt (n * (2 ^ j * 2 ^ j)) = n * (2 ^ j * 2 ^ j) ∧ Nat.sqrt (n * (2 ^ j * 2 ^ j)) % 2 ^ j = 0 := by
  have hd := sqrt_mul_four_pow_div n j
  have hp : 0 < 2 ^ j := Nat.two_pow_pos j
  generalize 2 ^ j = c at *
  constructor
  · intro h
    have hs : Nat.sqrt (n * (c * c)) = Nat.sqrt n * c := by
      conv_lhs => rw [← h, show Nat.sqrt n * Nat.sqrt n * (c * c) = Nat.sqrt n * c * (Nat.sqrt n * c) by ring]
      exact Nat.sqrt_eq _
    rw [hs]
    refine ⟨?_, Nat.mul_mod_left _ _⟩
    conv_rhs => rw [← h]
    ring
  · rintro ⟨h, hm⟩
    have hs : Nat.sqrt (n * (c * c)) = Nat.sqrt n * c := by rw [← hd, Nat.div_mul_cancel (Nat.dvd_of_mod_eq_zero hm)]
    rw [hs] at h
    refine Nat.eq_of_mul_eq_mul_right (Nat.mul_pos hp hp) ?_
    rw [← h]
    ring

/-- A root is the rounding of every approximation from below with enough bits (R41). -/
theorem Fmt.sqrt_eq {m K n r : Nat} {e : Int} (hm : 0 < m) (hK : f.mb + 4 ≤ K) (hn : n = m * 2 ^ (2 * K + (e % 2).toNat))
    (hle : r * r ≤ n) (hlt : n < (r + 1) * (r + 1)) : f.sqrt rm ftz (.fin false m e) =
      f.round rm ftz false (2 * r + if r * r = n then 0 else 1) (e / 2 - K - 1) false := by
  obtain ⟨j, rfl⟩ : ∃ j, K = f.mb + 4 + j := ⟨K - (f.mb + 4), by omega⟩
  obtain rfl : r = Nat.sqrt n := Nat.eq_sqrt.mpr ⟨hle, hlt⟩
  have hpar : (if e % 2 = 0 then 0 else 1) = (e % 2).toNat := by split <;> omega
  simp only [Fmt.sqrt, hm.ne', if_false, hpar, Bool.false_eq_true]
  generalize hk : 2 * (f.mb + 4) + (e % 2).toNat = k
  have hn' : n = m * 2 ^ k * (2 ^ j * 2 ^ j) := by
    rw [hn, Nat.mul_assoc, ← Nat.pow_add, ← Nat.pow_add, ← hk]
    congr 2
    omega
  have hexact := sqrt_exact_iff (m * 2 ^ k) j
  rw [← hn'] at hexact
  rw [isqrt_eq_sqrt (Nat.zero_le _) (lt_two_pow_half_log2_sq _),
    ← Fmt.round_finer (exact := Nat.sqrt n * Nat.sqrt n = n) (n := Nat.sqrt n) (j := j)]
  · congr 1
    omega
  · rw [Nat.le_sqrt, ← Nat.pow_add]
    exact (Nat.pow_le_pow_right (by decide) (by omega)).trans (Nat.le_mul_of_pos_left _ hm)
  · rw [hn']
    exact sqrt_mul_four_pow_div _ _
  · rw [bne_iff_ne, ne_eq, not_iff_not]
    exact hexact

end

end Sys2Proof.Machine
end

section
/-! SUPPORT. Operands that are not finite, results without a rounding, and what is claimed of rounding (R41, R135). -/
namespace Sys2Proof.Machine

section
variable {f : Fmt} {rm : Nat} {ftz : Bool}

/-! ## Operands that are not finite, and zeros -/

@[simp] theorem Fp.snan_fin {n : Bool} {m : Nat} {e : Int} : (Fp.fin n m e).snan = 0 := rfl
@[simp] theorem Fp.snan_inf {n : Bool} : (Fp.inf n).snan = 0 := rfl

theorem Fp.exists_eq_nan : ∀ {a : Fp}, a.isNan = true → ∃ s, a = .nan s
  | .nan s, _ => ⟨s, rfl⟩

/-- 2 to an integer that a format may hold is exact before its rounding. -/
theorem Fmt.exp2_int {n : Bool} {m : Nat} (h : m < 4096) :
    f.exp2 rm ftz (.fin n m 0) = f.round rm ftz false 1 (if n then -(m : Int) else m) false := by
  by_cases hm : m = 0
  · subst hm
    cases n <;> rfl
  · have hl : ¬ 12 ≤ Nat.log2 m := Nat.not_le.mpr ((Nat.log2_lt hm).mpr h)
    simp [Fmt.exp2, hm, hl, scaled]

theorem Fmt.mul_fin {n p : Bool} {m k : Nat} {e g : Int} : f.mul rm ftz (.fin n m e) (.fin p k g) =
    if m * k = 0 then (f.signed (n != p) 0, 0) else f.round rm ftz (n != p) (m * k) (e + g) false := by
  split
  next h => rw [Fmt.mul, h, Fmt.round_zero]
  next => rfl

theorem Fmt.div_of_zero {n p : Bool} {k : Nat} {e g : Int} (hk : 0 < k) :
    f.div rm ftz (.fin n 0 e) (.fin p k g) = (f.signed (n != p) 0, 0) := by
  simp only [Fmt.div, hk.ne', if_false, if_true]

theorem Fmt.binary_nan (s p : Bool) (m : Nat) (e : Int) : let r := (f.nan, (Fp.nan s).snan)
    f.add rm ftz (.nan s) (.fin p m e) = r ∧ f.add rm ftz (.fin p m e) (.nan s) = r ∧ f.mul rm ftz (.nan s) (.fin p m e) = r ∧
    f.mul rm ftz (.fin p m e) (.nan s) = r ∧ f.div rm ftz (.nan s) (.fin p m e) = r ∧ f.div rm ftz (.fin p m e) (.nan s) = r := by
  simp [Fmt.add, Fmt.mul, Fmt.div]

theorem Fmt.fma_nan (s p : Bool) (m : Nat) (e : Int) : let x := Fp.fin p m e; let r := (f.nan, (Fp.nan s).snan)
    f.fma rm ftz (.nan s) x x = r ∧ f.fma rm ftz x (.nan s) x = r ∧ f.fma rm ftz x x (.nan s) = r := by
  simp [Fmt.fma]

theorem Fmt.sqrt_nan (s : Bool) : f.sqrt rm ftz (.nan s) = (f.nan, (Fp.nan s).snan) := by
  cases s <;> rfl

/-- One NaN gives the other operand. -/
theorem Fmt.minmax_nan (n s p : Bool) (m : Nat) (e : Int) : let x := Fp.fin p m e
    (f.minmax n (.nan s) x).1 = f.bits x ∧ (f.minmax n x (.nan s)).1 = f.bits x := ⟨rfl, rfl⟩

theorem fpCompare_nan (s p : Bool) (m : Nat) (e : Int) : let x := Fp.fin p m e
    fpCompare 0 (.nan s) x = (false, (Fp.nan s).snan) ∧ fpCompare 1 (.nan s) x = (false, 1) ∧ fpCompare 2 x (.nan s) = (false, 1) := by
  simp [fpCompare, Fp.isNan, flNV]

theorem Fmt.add_inf_inf (n p : Bool) : f.add rm ftz (.inf n) (.inf p) = if n = p then (f.signed n f.infBits, 0) else (f.nan, 1) := rfl

theorem Fmt.add_inf_fin (n p : Bool) (m : Nat) (e : Int) : f.add rm ftz (.inf n) (.fin p m e) = (f.signed n f.infBits, 0) := rfl

theorem Fmt.mul_inf_fin (n p : Bool) (m : Nat) (e : Int) :
    f.mul rm ftz (.inf n) (.fin p m e) = if m = 0 then (f.nan, 1) else (f.signed (n != p) f.infBits, 0) := rfl

theorem Fmt.div_inf_inf (n p : Bool) : f.div rm ftz (.inf n) (.inf p) = (f.nan, 1) := rfl

theorem Fmt.div_fin_inf (n p : Bool) (m : Nat) (e : Int) : f.div rm ftz (.fin p m e) (.inf n) = (f.signed (p != n) 0, 0) := rfl

theorem Fmt.div_zero (n p : Bool) (m : Nat) (e g : Int) :
    f.div rm ftz (.fin p m e) (.fin n 0 g) = if m = 0 then (f.nan, 1) else (f.signed (p != n) f.infBits, 2) := rfl

theorem Fmt.sqrt_fin (p : Bool) (m : Nat) (e : Int) : f.sqrt rm ftz (.fin p m e) =
    if m = 0 then (f.signed p 0, 0) else if p then (f.nan, 1) else f.sqrt rm ftz (.fin false m e) := by
  by_cases hm : m = 0
  · simp only [Fmt.sqrt, hm, if_true]
  · cases p
    · simp only [hm, if_false, Bool.false_eq_true]
    · simp only [Fmt.sqrt, hm, if_false, if_true, flNV]

/-- ∞ × 0 sets NV also beside a NaN. -/
theorem Fmt.fma_inf_zero (n p : Bool) (e : Int) (a : Fp) : f.fma rm ftz (.inf n) (.fin p 0 e) a = (f.nan, a.snan ||| 1) := by
  simp [Fmt.fma, flNV]

theorem Fmt.add_zero_zero (n p : Bool) (e g : Int) :
    f.add rm ftz (.fin n 0 e) (.fin p 0 g) = (f.signed (if n = p then n else rm == 3) 0, 0) := rfl

theorem Fmt.add_negate_self (p : Bool) {m : Nat} (e : Int) (hm : 0 < m) :
    f.add rm ftz (.fin p m e) (Fp.fin p m e).negate = (f.signed (rm == 3) 0, 0) := by
  have ht : scaled p m e (min e e) + scaled (!p) m e (min e e) = 0 := by cases p <;> simp [scaled]
  simp only [Fp.negate, Fmt.add]
  rw [Fmt.sumFin_eq, if_pos ht, if_neg (by omega)]

end

/-! ## The obligation -/

/-- Settles O27: one rounding by its neighbours (`Fmt.brackets`, `Fmt.round_pos`), finite results as roundings of exact values (`Fmt.sumFin_eq`,
`Fmt.div_eq`, `Fmt.sqrt_eq`), and the tables of special operands case by case. -/
theorem rounding : Obligations.Rounding := by
  unfold Obligations.Rounding
  refine ⟨?_, ?_, ?_⟩
  · intro f hf rm m e hrm hm
    have hmb : 0 < f.mb := by revert f; decide
    have heb : 0 < f.eb := by revert f; decide
    refine ⟨Fmt.round_le_infBits hm, fun h => Fmt.round_down hm hmb heb h rfl, ?_, ?_, ?_, Fmt.round_inexact_iff hm hmb heb rfl,
      fun rn hrn => Fmt.round_mirror hrm hrn hm⟩
    · rintro rfl
      exact Fmt.round_up hm hmb rfl
    · rintro rfl hb p -
      exact Fmt.round_nearest hm hmb rfl hb p
    · rintro rfl
      exact Fmt.round_nearest_eq_infBits_iff hm hmb heb
  · intro f _ rm ftz n1 n2 n3 m1 m2 m3 K e1 e2 e3
    refine ⟨Fmt.sumFin_eq, Fmt.sumFin_eq, Fmt.mul_fin, fun h2 h1 => ?_, Fmt.div_eq, fun h1 hK n r => Fmt.sqrt_eq h1 hK, Fmt.exp2_int⟩
    subst h1
    exact Fmt.div_of_zero h2
  · intro f rm ftz a n p m e
    refine ⟨fun h => ?_, Fmt.add_inf_inf n p, Fmt.add_inf_fin n p m e, Fmt.mul_inf_fin n p m e, Fmt.div_inf_inf n p, Fmt.div_fin_inf n p m e,
      Fmt.div_zero n p m e e, Fmt.sqrt_fin p m e, Fmt.fma_inf_zero n p e a, Fmt.add_zero_zero n p e e, Fmt.add_negate_self p e⟩
    obtain ⟨s, rfl⟩ := Fp.exists_eq_nan h
    obtain ⟨hadd, hadd', hmul, hmul', hdiv, hdiv'⟩ := Fmt.binary_nan (f := f) (rm := rm) (ftz := ftz) s p m e
    obtain ⟨hfma, hfma', hfma''⟩ := Fmt.fma_nan (f := f) (rm := rm) (ftz := ftz) s p m e
    obtain ⟨hminmax, hminmax'⟩ := Fmt.minmax_nan (f := f) n s p m e
    exact ⟨hadd, hadd', hmul, hmul', hdiv, hdiv', hfma, hfma', hfma'', Fmt.sqrt_nan s, hminmax, hminmax', fpCompare_nan s p m e⟩

end Sys2Proof.Machine
end

section
/-! SUPPORT. The value of a block and what an accumulator makes of it (R50 to R52). -/
namespace Sys2Proof.Machine

/-! ## The value of a block -/

/-- A property that every step of a fold keeps, and that one of its steps brings about, holds at its end. -/
theorem foldl_of_mem {α β : Type} {P : β → Prop} {g : β → α → β} (hkeep : ∀ r z, P r → P (g r z)) {z : α} (hz : ∀ r, P (g r z)) :
    ∀ {l : List α}, z ∈ l → ∀ r, P (l.foldl g r)
  | w :: l, hmem, r => by
    rcases List.mem_cons.mp hmem with rfl | h
    · exact List.foldlRecOn l g (hz r) fun b hb a _ => hkeep b a hb
    · exact foldl_of_mem hkeep hz h _

/-! What one product does to a block's sum. -/

@[simp] theorem blockStep_int_int (r : BlockSum) (a b : Int) : blockStep r (.int a, .int b) = { r with sum := r.sum + a * b } := rfl

theorem blockStep_nan_left (r : BlockSum) (x : MEl) : blockStep r (.nan, x) = { r with nan := true } := rfl

theorem blockStep_nan_right (r : BlockSum) (x : MEl) : blockStep r (x, .nan) = { r with nan := true } := by cases x <;> rfl

theorem blockStep_inf_zero (r : BlockSum) (s : Bool) : blockStep r (.inf s, .int 0) = { r with nan := true } := rfl

theorem blockStep_zero_inf (r : BlockSum) (s : Bool) : blockStep r (.int 0, .inf s) = { r with nan := true } := rfl

theorem blockStep_inf_pos (r : BlockSum) {v : Int} (hv : 0 < v) : blockStep r (.inf false, .int v) = { r with pos := true } := by
  have h : decide (v < 0) = false := decide_eq_false (by omega)
  simp only [blockStep, hv.ne', if_false, h, if_true]

/-- No product takes back that a NaN or a positive infinity was met. -/
theorem blockStep_keeps (r : BlockSum) : ∀ z : MEl × MEl,
    (r.nan = true → (blockStep r z).nan = true) ∧ (r.pos = true → (blockStep r z).pos = true)
  | (.nan, _) | (.inf _, .nan) | (.int _, .nan) => ⟨fun _ => rfl, id⟩
  | (.int _, .int _) => ⟨id, id⟩
  | (.inf _, .inf _) => by
    simp only [blockStep]
    split
    · exact ⟨id, fun _ => rfl⟩
    · exact ⟨id, id⟩
  | (.inf _, .int _) | (.int _, .inf _) => by
    simp only [blockStep]
    split
    · exact ⟨fun _ => rfl, id⟩
    · split
      · exact ⟨id, fun _ => rfl⟩
      · exact ⟨id, id⟩

/-- The sum of a block (R50). -/
def blockSum (as bs : List MEl) : BlockSum := (as.zip bs).foldl blockStep ⟨false, false, false, 0⟩

/-- A block whose sum has met a NaN is NaN. -/
theorem blockValue_of_nan {as bs : List MEl} {sA sB : Nat} {e : Int} (h : sA = 255 ∨ sB = 255 ∨ (blockSum as bs).nan = true) :
    blockValue as bs sA sB e = .nan false := by
  rw [blockSum] at h
  rw [blockValue]
  exact if_pos (h.imp_right fun h => h.imp_right .inl)

theorem blockSum_nan_of_mem {as bs : List MEl} {z : MEl × MEl} (hz : ∀ r, (blockStep r z).nan = true) (hmem : z ∈ as.zip bs) :
    (blockSum as bs).nan = true :=
  foldl_of_mem (P := fun r : BlockSum => r.nan = true) (fun r z => (blockStep_keeps r z).1) hz hmem _

/-- Integer elements give the exact sum of their products. -/
theorem foldl_blockStep_int (r : BlockSum) : ∀ l : List (Int × Int), (l.map (Prod.map MEl.int MEl.int)).foldl blockStep r =
    { r with sum := r.sum + (l.map fun z : Int × Int => z.1 * z.2).sum }
  | [] => by simp
  | z :: l => by
    rw [List.map_cons, List.foldl_cons, foldl_blockStep_int _ l]
    simp [Prod.map, Int.add_assoc]

theorem blockValue_int {x y : List Int} {m n : Nat} {e : Int} (hm : m ≠ 255) (hn : n ≠ 255) :
    blockValue (x.map .int) (y.map .int) m n e = .fin (decide (((x.zip y).map fun z : Int × Int => z.1 * z.2).sum < 0))
      ((x.zip y).map fun z : Int × Int => z.1 * z.2).sum.natAbs ((m : Int) + n + e) := by
  rw [blockValue, List.zip_map, foldl_blockStep_int]
  simp [hm, hn]

/-- Products of which none is −∞ or NaN, and one is +∞, give +∞. -/
theorem blockValue_pos_inf {p q : List MEl} {m n : Nat} {e : Int} (hm : m ≠ 255) (hn : n ≠ 255)
    (hall : ∀ z ∈ p.zip q, z.1 ≠ .nan ∧ z.1 ≠ .inf true ∧ ∃ v > 0, z.2 = .int v) (hinf : ∃ z ∈ p.zip q, z.1 = .inf false) :
    blockValue p q m n e = .inf false := by
  have hstep : ∀ r, ∀ z ∈ p.zip q, r.nan = false ∧ r.neg = false → (blockStep r z).nan = false ∧ (blockStep r z).neg = false := by
    rintro r ⟨a, b⟩ hz hr
    obtain ⟨hnan, hneg, v, hv, rfl⟩ := hall _ hz
    match a, hnan, hneg with
    | .inf false, _, _ => rw [blockStep_inf_pos r hv]; exact hr
    | .int _, _, _ => exact hr
  have hclear : (blockSum p q).nan = false ∧ (blockSum p q).neg = false :=
    List.foldlRecOn (motive := fun r : BlockSum => r.nan = false ∧ r.neg = false) _ _ ⟨rfl, rfl⟩ fun r hr z hz => hstep r z hz hr
  obtain ⟨⟨a, b⟩, hz, rfl⟩ := hinf
  obtain ⟨-, -, v, hv, rfl⟩ := hall _ hz
  have hpos : (blockSum p q).pos = true := foldl_of_mem (P := fun r : BlockSum => r.pos = true) (fun r z => (blockStep_keeps r z).2)
    (fun r => by rw [blockStep_inf_pos r hv]) hz _
  rw [blockSum] at hclear hpos
  simp [blockValue, hm, hn, hclear, hpos]

/-! ## Exact roundings -/

/-- A number that is a pattern's value is rounded to that pattern in every mode. -/
theorem Fmt.round_of_magIn_eq {f : Fmt} {rm : Nat} {neg : Bool} {m p : Nat} {e : Int} (hm : 0 < m) (h : f.magIn e p = f.exactIn m e) :
    (f.round rm false neg m e false).1 = f.signed neg (f.clip rm neg p) := by
  have hV := Fmt.brackets (f := f) (e := e) hm
  have hle := hV.le
  have hlt := hV.lt
  obtain rfl : p = f.floorBits m e := by
    rcases hV.split p with ⟨h1, -, h3⟩ | ⟨-, h2, -⟩
    · by_contra hne
      have := h3 (by omega)
      omega
    · omega
  have hrem := (Fmt.magIn_floorBits_eq_iff hm).mp h
  have hd := denom_pos e (f.place m e)
  have hup : roundsUp rm neg (numer m e (f.place m e)) (denom e (f.place m e)) false = false := by
    simp [roundsUp, hrem, hd.ne]
  rw [Fmt.round_fst hm, Fmt.roundBits, hup]
  rfl

/-! ## An accumulator's rounding (R52) -/

/-- The 24 bits that an accumulator keeps of a sum, in units of their last place. -/
def accBits (m : Nat) (e : Int) : Nat := (roundAt 0 false m e (e + Nat.log2 m - 23) false).1

/-- The exponent of the rounded sum. -/
def accExp (m : Nat) (e : Int) : Int := if accBits m e = 2 ^ 24 then e + Nat.log2 m + 1 else e + Nat.log2 m

theorem roundsUp_zero (neg s : Bool) (a b : Nat) : roundsUp 0 neg a b s = roundsUp 0 false a b s := rfl

/-- A tie above an odd floor goes up. -/
theorem roundsUp_of_odd {neg : Bool} {a b : Nat} (h : a / b % 2 = 1) : roundsUp 0 neg a b false = decide (b ≤ 2 * (a % b)) := by
  rw [roundsUp, if_pos rfl, h, Bool.eq_iff_iff]
  simp only [beq_self_eq_true, Bool.or_true, Bool.and_true, Bool.or_eq_true, decide_eq_true_eq, beq_iff_eq]
  omega

theorem roundAt_zero (neg : Bool) (m : Nat) (e q : Int) : roundAt 0 neg m e q false = roundAt 0 false m e q false := by
  rw [roundAt_eq (.inr rfl), roundAt_eq (.inr rfl), roundsUp_zero]

theorem roundAcc_eq (neg : Bool) (m : Nat) (e : Int) : roundAcc neg m e =
    if accExp m e < -126 then (BitVec.ofNat 32 (f32.signed neg 0), ⟨0, 0, 0, 1⟩)
    else if accExp m e > 127 then (BitVec.ofNat 32 (f32.signed neg f32.infBits), ⟨0, 1, 0, 0⟩)
    else (BitVec.ofNat 32 (f32.round 0 false neg (accBits m e) (e + Nat.log2 m - 23) false).1, ⟨0, 0, 0, 0⟩) := by
  rw [roundAcc]
  simp only [roundAt_zero neg]
  rfl

/-- A number in one unit and in another that is not below it. -/
theorem numer_mul_denom {m : Nat} {e p q : Int} (h : p ≤ q) :
    numer m e p * denom e q = numer m e q * denom e p * 2 ^ (q - p).toNat := by
  simp only [numer, denom, Nat.mul_assoc, ← Nat.pow_add]
  congr 2
  omega

/-- The sum is less than 2^-126 − 2^-151. -/
def Tiny (m : Nat) (e : Int) : Prop := numer m e (-151) < (2 ^ 25 - 1) * denom e (-151)

section
variable {m : Nat} {e : Int}

theorem accBits_eq : accBits m e = numer m e (e + Nat.log2 m - 23) / denom e (e + Nat.log2 m - 23) +
    (roundsUp 0 false (numer m e (e + Nat.log2 m - 23)) (denom e (e + Nat.log2 m - 23)) false).toNat := by
  rw [accBits, roundAt_eq (.inr rfl)]

theorem accBits_le : accBits m e ≤ 2 ^ 24 := by
  have h := quotient_lt (m := m) (e := e) (k := 23) (q := e + Nat.log2 m - 23) (Int.le_refl _)
  have hb := Bool.toNat_le (roundsUp 0 false (numer m e (e + Nat.log2 m - 23)) (denom e (e + Nat.log2 m - 23)) false)
  rw [accBits_eq]
  omega

theorem le_accBits (hm : 0 < m) : 2 ^ 23 ≤ accBits m e := by
  have h := le_quotient (m := m) (e := e) (k := 23) (q := e + Nat.log2 m - 23) hm (Int.le_refl _)
  rw [accBits_eq]
  omega

/-- A sum with 24 bits below 2^-126 is tiny but where they are all ones and the rest is half a unit or more. -/
theorem tiny_iff_of_log2 (hE : e + Nat.log2 m = -127) : Tiny m e ↔ accBits m e ≠ 2 ^ 24 := by
  have hq := quotient_lt (m := m) (e := e) (k := 23) (q := -150) (by omega)
  have hd := denom_pos e (-150)
  have hT : Tiny m e ↔ 2 * numer m e (-150) < (2 ^ 25 - 1) * denom e (-150) := by
    have hu : numer m e (-151) * denom e (-150) = numer m e (-150) * denom e (-151) * 2 := numer_mul_denom (by decide)
    have hd' := denom_pos e (-151)
    rw [Tiny, ← Nat.mul_lt_mul_right hd, hu]
    refine Iff.trans ?_ (Nat.mul_lt_mul_right hd')
    constructor <;> intro h <;> linarith
  have hdm := Nat.div_add_mod (numer m e (-150)) (denom e (-150))
  have hr := Nat.mod_lt (numer m e (-150)) hd
  rw [hT, accBits_eq, hE, show (-127 - 23 : Int) = -150 from rfl]
  rcases Nat.lt_or_ge (numer m e (-150) / denom e (-150)) (2 ^ 24 - 1) with hc | hc
  · have hup := Bool.toNat_le (roundsUp 0 false (numer m e (-150)) (denom e (-150)) false)
    have hle : denom e (-150) * (numer m e (-150) / denom e (-150)) ≤ denom e (-150) * (2 ^ 24 - 2) := Nat.mul_le_mul_left _ (by omega)
    exact iff_of_true (by omega) (by omega)
  · have hc' : numer m e (-150) / denom e (-150) = 2 ^ 24 - 1 := by omega
    rw [roundsUp_of_odd (by rw [hc']; rfl)]
    rw [hc'] at hdm ⊢
    rcases Nat.lt_or_ge (2 * (numer m e (-150) % denom e (-150))) (denom e (-150)) with h | h
    · rw [decide_eq_false (by omega)]
      exact iff_of_true (by omega) (by decide)
    · rw [decide_eq_true h]
      exact iff_of_false (by omega) (by decide)

theorem tiny_iff (hm : 0 < m) : Tiny m e ↔ accExp m e < -126 := by
  have hle := accBits_le (m := m) (e := e)
  rw [accExp]
  rcases Int.lt_trichotomy (e + Nat.log2 m) (-127) with hE | hE | hE
  · have h : numer m e (-151) / denom e (-151) < 2 ^ 24 := quotient_lt (k := 23) (by omega)
    rw [Nat.div_lt_iff_lt_mul (denom_pos _ _)] at h
    refine iff_of_true ?_ (by split <;> omega)
    rw [Tiny]
    omega
  · rw [tiny_iff_of_log2 hE]
    split <;> omega
  · have h : 2 ^ 25 ≤ numer m e (-151) / denom e (-151) := le_quotient hm (by omega)
    rw [Nat.le_div_iff_mul_le (denom_pos _ _)] at h
    refine iff_of_false ?_ (by split <;> omega)
    rw [Tiny]
    have := denom_pos e (-151)
    omega

theorem f32_mb : f32.mb = 23 := rfl

theorem f32_least : f32.least = -149 := by decide

theorem f32_pattern_mod {neg : Bool} {b : Nat} (h : b ≤ f32.infBits) : f32.signed neg b % 2 ^ 31 = b := by
  have hi : f32.infBits = 255 * 2 ^ 23 := by decide
  have hs : f32.signBit = 2 ^ 31 := by decide
  cases neg <;> simp only [Fmt.signed, Bool.false_eq_true, if_false, if_true, hs] <;> omega

/-- The pattern of the rounded sum: that of its 24 bits, or the least normal number where they carry into the normal range. -/
def accPattern (m : Nat) (e : Int) : Nat :=
  if e + Nat.log2 m < -126 then 2 ^ 23 else f32.pattern (accBits m e) (e + Nat.log2 m - 23)

/-- Where the accumulator does not flush, its 24 bits lie in the normal range, or carry into it. -/
theorem accExp_cases (h : -126 ≤ accExp m e) : -126 ≤ e + Nat.log2 m ∨ (e + Nat.log2 m = -127 ∧ accBits m e = 2 ^ 24) := by
  rw [accExp] at h
  split at h <;> omega

theorem accPattern_of_normal (h : -126 ≤ e + Nat.log2 m) :
    accPattern m e = accBits m e + (e + Nat.log2 m - 23 - -149).toNat * 2 ^ 23 := by
  rw [accPattern, if_neg (by omega), Fmt.pattern, f32_least, f32_mb]

theorem accPattern_of_carry (hE : e + Nat.log2 m = -127) : accPattern m e = 2 ^ 23 := if_pos (by omega)

/-- The 24 bits are a pattern of the format, so rounding them again changes nothing. -/
theorem round_accBits (neg : Bool) (hm : 0 < m) (h : -126 ≤ accExp m e) :
    (f32.round 0 false neg (accBits m e) (e + Nat.log2 m - 23) false).1 = f32.signed neg (f32.clip 0 neg (accPattern m e)) := by
  have hge := le_accBits (e := e) hm
  refine Fmt.round_of_magIn_eq (by omega) ?_
  rw [Fmt.magIn, Fmt.exactIn, f32_least]
  rcases accExp_cases h with hE | ⟨hE, hb⟩
  · have hmag := Fmt.mag_add (f := f32) (D := (e + Nat.log2 m - 23 - -149).toNat) accBits_le (.inr hge)
    rw [accPattern_of_normal hE, ← f32_mb, hmag, show (-149 - (e + Nat.log2 m - 23)).toNat = 0 by omega,
      Nat.pow_zero, Nat.mul_one]
  · rw [accPattern_of_carry hE, hb, hE]
    decide

/-- Below 2^-126 a rounding in the format ends in the place 2^-149. -/
theorem roundBits_of_small (neg : Bool) (hE : e + Nat.log2 m ≤ -126) : f32.roundBits 0 neg m e =
    numer m e (-149) / denom e (-149) + (roundsUp 0 neg (numer m e (-149)) (denom e (-149)) false).toNat := by
  have hp : f32.place m e = -149 := by
    rw [Fmt.place, f32_least, f32_mb]
    exact Int.max_eq_right (by omega)
  rw [Fmt.roundBits, Fmt.floorBits, Fmt.cut, Fmt.pattern, hp, f32_least, Int.sub_self, Int.toNat_zero, Nat.zero_mul, Nat.add_zero]

/-- A number of 2^-126 − 2^-151 or more, below 2^-126, is rounded to 2^-126. -/
theorem roundBits_of_carry (neg : Bool) (hE : e + Nat.log2 m = -127) (hb : accBits m e = 2 ^ 24) : f32.roundBits 0 neg m e = 2 ^ 23 := by
  have hq := quotient_lt (m := m) (e := e) (k := 22) (q := -149) (by omega)
  have hd := denom_pos e (-149)
  have hT : (2 ^ 25 - 1) * denom e (-149) ≤ 4 * numer m e (-149) := by
    have hu : numer m e (-151) * denom e (-149) = numer m e (-149) * denom e (-151) * 4 := numer_mul_denom (by decide)
    have hd' := denom_pos e (-151)
    have ht : (2 ^ 25 - 1) * denom e (-151) ≤ numer m e (-151) := Nat.not_lt.mp fun ht => (tiny_iff_of_log2 hE).mp ht hb
    refine Nat.le_of_mul_le_mul_right ?_ hd'
    have := Nat.mul_le_mul_right (denom e (-149)) ht
    linarith
  have hdm := Nat.div_add_mod (numer m e (-149)) (denom e (-149))
  have hr := Nat.mod_lt (numer m e (-149)) hd
  have hc : numer m e (-149) / denom e (-149) = 2 ^ 23 - 1 := by
    by_contra hne
    have : denom e (-149) * (numer m e (-149) / denom e (-149)) ≤ denom e (-149) * (2 ^ 23 - 2) := Nat.mul_le_mul_left _ (by omega)
    omega
  rw [roundBits_of_small neg (by omega), roundsUp_of_odd (by rw [hc]; rfl)]
  rw [hc] at hdm ⊢
  rw [decide_eq_true (by omega)]
  rfl

/-- Not tiny, the format's rounding has the same 24 bits. -/
theorem round_eq_accPattern (neg : Bool) (hm : 0 < m) (h : -126 ≤ accExp m e) :
    (f32.round 0 false neg m e false).1 = f32.signed neg (f32.clip 0 neg (accPattern m e)) := by
  rw [Fmt.round_fst hm]
  rcases accExp_cases h with hE | ⟨hE, hb⟩
  · have hp : f32.place m e = e + Nat.log2 m - 23 := by
      rw [Fmt.place, f32_least, f32_mb]
      exact Int.max_eq_left (by omega)
    rw [accPattern_of_normal hE, ← Fmt.pattern_roundAt, hp, roundAt_zero, Fmt.pattern, f32_least, f32_mb, accBits]
  · rw [roundBits_of_carry neg hE hb, accPattern_of_carry hE]

theorem infBits_le_accPattern_iff (hm : 0 < m) (h : -126 ≤ accExp m e) : f32.infBits ≤ accPattern m e ↔ 127 < accExp m e := by
  have hi : f32.infBits = 255 * 2 ^ 23 := by decide
  have hge := le_accBits (e := e) hm
  have hle := accBits_le (m := m) (e := e)
  rcases accExp_cases h with hE | ⟨hE, hb⟩
  · rw [hi, accPattern_of_normal hE, accExp]
    split <;> omega
  · rw [hi, accPattern_of_carry hE, accExp, if_pos hb]
    omega

theorem le_accPattern (hm : 0 < m) (h : -126 ≤ accExp m e) : 2 ^ 23 ≤ accPattern m e := by
  have hge := le_accBits (e := e) hm
  rcases accExp_cases h with hE | ⟨hE, -⟩
  · rw [accPattern_of_normal hE]
    omega
  · exact (accPattern_of_carry hE).ge

theorem clip_zero (f : Fmt) (neg : Bool) (b : Nat) : f.clip 0 neg b = min b f.infBits := by
  simp only [Fmt.clip, beq_self_eq_true, Bool.true_or, if_true]
  split <;> omega

/-- A tiny sum is far from infinity. -/
theorem round_ne_infBits_of_tiny (neg : Bool) (hm : 0 < m) (h : accExp m e < -126) :
    (f32.round 0 false neg m e false).1 % 2 ^ 31 ≠ f32.infBits := by
  have hi : f32.infBits = 255 * 2 ^ 23 := by decide
  have hE : e + Nat.log2 m ≤ -126 := by
    rw [accExp] at h
    split at h <;> omega
  have hq := quotient_lt (m := m) (e := e) (k := 23) (q := -149) (by omega)
  have hb := Bool.toNat_le (roundsUp 0 neg (numer m e (-149)) (denom e (-149)) false)
  rw [Fmt.round_fst hm, clip_zero, f32_pattern_mod (Nat.min_le_right _ _), roundBits_of_small neg hE]
  omega

/-- An accumulator's rounding of a sum that is not zero: flushed where it is tiny, infinite where the format's rounding is, and that
rounding else. -/
theorem roundAcc_spec (neg : Bool) (hm : 0 < m) (exact : Nat) (hexact : exact = (f32.round 0 false neg m e false).1) :
    (Tiny m e → roundAcc neg m e = (BitVec.ofNat 32 (f32.signed neg 0), ⟨0, 0, 0, 1⟩)) ∧
    (¬ Tiny m e → exact % 2 ^ 31 < f32.infBits → 2 ^ 23 ≤ exact % 2 ^ 31 ∧ roundAcc neg m e = (BitVec.ofNat 32 exact, ⟨0, 0, 0, 0⟩)) ∧
    (exact % 2 ^ 31 = f32.infBits → roundAcc neg m e = (BitVec.ofNat 32 exact, ⟨0, 1, 0, 0⟩)) := by
  rw [tiny_iff hm, roundAcc_eq]
  by_cases ht : accExp m e < -126
  · refine ⟨fun _ => if_pos ht, fun h => absurd ht h, fun h => ?_⟩
    exact absurd (hexact ▸ h) (round_ne_infBits_of_tiny neg hm ht)
  · have hn : -126 ≤ accExp m e := by omega
    have hp := round_eq_accPattern neg hm hn
    have hinf := infBits_le_accPattern_iff hm hn
    have hle := le_accPattern hm hn
    have hmod : exact % 2 ^ 31 = min (accPattern m e) f32.infBits := by
      rw [hexact, hp, clip_zero, f32_pattern_mod (Nat.min_le_right _ _)]
    rw [if_neg ht, round_accBits neg hm hn, ← hp, ← hexact, hmod]
    refine ⟨fun h => absurd h ht, fun _ h => ⟨by omega, if_neg (by omega)⟩, fun h => ?_⟩
    rw [if_pos (by omega), hexact, hp, clip_zero, h]

end

/-- Settles O35: the fold over a block's products (`blockStep_keeps`, `foldl_blockStep_int`), and the accumulator's rounding against the format's
(`roundAcc_spec`), which share their 24 bits wherever the sum is not tiny (`tiny_iff`). -/
theorem blocksAreExact : Obligations.BlocksAreExact := by
  unfold Obligations.BlocksAreExact
  refine ⟨fun x y p q m n e _ _ _ => ⟨blockValue_int, fun h => blockValue_of_nan ?_, fun s h => blockValue_of_nan (.inr (.inr ?_)),
    blockValue_pos_inf⟩, fun acc n1 n2 m1 m2 e1 e2 hacc => ?_⟩
  · refine h.imp_right fun h => h.imp_right ?_
    rintro ⟨⟨a, b⟩, hz, rfl | rfl⟩
    · exact blockSum_nan_of_mem (fun r => by rw [blockStep_nan_left]) hz
    · exact blockSum_nan_of_mem (fun r => by rw [blockStep_nan_right]) hz
  · rcases h with hz | hz
    · exact blockSum_nan_of_mem (fun r => by rw [blockStep_inf_zero]) hz
    · exact blockSum_nan_of_mem (fun r => by rw [blockStep_zero_inf]) hz
  · intro lo t r exact below
    have hr : r = if t = 0 then (BitVec.ofNat 32 (f32.signed (m1 == 0 && m2 == 0 && n1 && n2) 0), ⟨0, 0, 0, 0⟩)
        else roundAcc (decide (t < 0)) t.natAbs lo := by
      simp only [r, addAcc, hacc]
      rfl
    rw [hr]
    by_cases ht : t = 0
    · exact ⟨fun _ => if_pos ht, fun h => absurd ht h, fun h => absurd ht h, fun h => absurd ht h⟩
    · rw [if_neg ht]
      obtain ⟨hflush, hround, hinf⟩ := roundAcc_spec (e := lo) (decide (t < 0)) (Int.natAbs_pos.mpr ht) exact rfl
      exact ⟨fun h => absurd h ht, fun _ => hflush, fun _ => hround, fun _ => hinf⟩

end Sys2Proof.Machine
end

section
/-! SUPPORT. A release at a base that lies outside the store is no port access, whatever bank its offset would name (R62, R108, R111). -/
namespace Sys2Proof.Machine
open Sys2Proof

/-- A base past the store gives a scaled address and no key, for a port lies below the end of the store (R62, R108). -/
theorem mxAddress_past_store (c : Core) {base : Word} {o : Nat} (hb : placeOf base = .ok (.own o)) (ho : 0x40000 ≤ o) (idx : Word) (n : Nat) :
    mxAddress c base idx n = (base + idx * BitVec.ofNat 64 n, 0, 0) := by
  simp [mxAddress, hb, Nat.not_lt.mpr ho]

/-- An address outside every window is refused before anything else is asked of the access (R31, R105). -/
theorem attempt_of_no_place (s : State) (i : Instr) {k : Ask} {e : Nat} (h : placeOf k.addr = .error e) : attempt s i k = .fault e k.addr := by
  simp only [attempt, h]

/-- An indexed store whose base lies past the store, and whose scaled address lies outside every window, traps there, released or not. -/
theorem stx_traps_past_store {s : State} {d a b : Reg} {z : BitVec 3} {o : BitVec 2} {c : BitVec 3} {h : BitVec 2} {x e : Nat} {y : Word}
    (hb : placeOf (s.me.s a.toNat) = .ok (.own x)) (hx : 0x40000 ≤ x)
    (hy : s.me.s a.toNat + s.me.s b.toNat * BitVec.ofNat 64 (szOf z).1 = y) (he : placeOf y = .error e) :
    Traps (.stx d a b z o c h) s e y := by
  intro hp
  have haddr : (mxAsk s.me (.store (szOf z).1 (s.me.s d.toNat)) a b o c h).addr = y := by
    simp only [mxAsk, mxAddress_past_store _ hb hx, AccOp.size, hy]
  have hgot := attempt_of_no_place s (.stx d a b z o c h) (haddr.symm ▸ he)
  show retire _ s _ = _
  rw [retire, retireUnless, State.execute_passes _ _ _ hp, scalarEff, hgot, haddr]
  rfl

/-- A trap of a core that cannot take one is no stall: it seals the core (R193). -/
theorem not_follows_of_traps {i : Instr} {s : State} {e : Nat} {v : Word} (hp : Passes s i) (ht : Traps i s e v) (hc : ¬ s.me.canTrap)
    (hr : s.me.run ≠ .sealed) : ¬ Follows i s := by
  intro hf
  have hs : s.raise e v = s.upd fun c => { c with wait := some .order } := Host.Outcome.next.inj ((ht hp).symm.trans (hf hp))
  obtain ⟨hsealed, -⟩ := doubleSeals s e v hc hr
  rw [hs, State.me_upd] at hsealed
  exact hr hsealed

/-- A core whose bank list has an entry behind its sixteen banks, at the offset of the flag page: a QUEUE of 8-byte items. `s1` is that
offset, `s2` an index that leads to no window. -/
def strayBankCore : Core :=
  (({ Core.blank with run := .running, banks := [(16, Bank.blank 16 0x80001)] } : Core).setS 1 0x40000).setS 2 0x10000

/-- That core with a flag request of its own on the way. -/
def strayBank : State :=
  { State.reset with
    clusters := [(0, { Cluster.blank with cores := [(0, strayBankCore)] })]
    flight := [{ rel := none, src := ⟨0, 0⟩, fromStation := false, slot := 0, vc := 0, core := 0, chan := 0, body := .flag 0 true, addr := 0,
                 recq := 14, since := none, launch := 0, pid := 0, issue := 0, eng := none, backed := false, joined := false, stage := .bank }] }

/-- Refutes O16: the release that is to stall at a port has no premise that its base lies in the store. `isPort` takes a bank entry 16 at its
word, while the machine reads the address 0x40000, which is no port, scales it to 0x50000 and raises LOCAL-BOUNDS before it looks at what was
posted. -/
theorem not_portOperations : ¬ Obligations.PortOperations := by
  rintro ⟨ports, -⟩
  obtain ⟨-, -, -, -, -, -, -, -, -, -, -, -, -, indexed⟩ := ports strayBank 3 1 2 0 0
  obtain ⟨-, stores⟩ := indexed (by decide)
  obtain ⟨-, releases⟩ := stores (0, 1) (by decide)
  have hstall : Follows (.stx 3 1 2 0 2 0 0) strayBank := (releases 0).2 (by decide) (by decide)
  have htrap : Traps (.stx 3 1 2 0 2 0 0) strayBank tLOCALBOUNDS 0x50000 :=
    stx_traps_past_store (x := 0x40000) (by decide) le_rfl (by decide) (by decide)
  exact not_follows_of_traps ⟨by decide, by decide, by decide⟩ htrap (fun hc => hc.2.1 (by decide)) (by decide) hstall

end Sys2Proof.Machine
end

section
/-! SUPPORT. An item whose context slot another context has taken over has no destination (R72, R296). -/
namespace Sys2Proof.Machine
open Sys2Proof

/-- The way of an item ends where another context holds its slot, whatever is placed there (R296). -/
theorem State.wayOf_of_other_context {s : State} {f : Flight} {x : CtxCopy} (h : afind s.contexts f.slot = some x) (hx : x.pid ≠ f.pid)
    (n : Nat) : s.wayOf f n = .absent := by
  simp [State.wayOf, h, hx]

/-- A flag request whose slot another context has taken over is dropped, with a record at its source while its launch is there. -/
theorem exec_flag_of_other_context {s : State} {k n : Nat} {v : Bool} {f : Flight} {x : CtxCopy} (hf : s.flight[k]? = some f)
    (hs : f.stage = .bank) (hm : s.mayGo k f = true) (hb : f.body = .flag n v) (h : afind s.contexts f.slot = some x) (hx : x.pid ≠ f.pid) :
    exec (.bankOperationRequest (.posted k)) s = .next (s.lose k f uMesh tMESH f.meshDetail) := by
  show execBankOperationRequest (.posted k) s = _
  simp [execBankOperationRequest, hf, hs, hm, hb, State.wayOf_of_other_context h hx]

/-- A request to set flag 0 of core 0 of virtual cluster 0 of slot 0, posted by launch 1 of context 1. -/
def latecomer : Flight :=
  { rel := none, src := ⟨1, 0⟩, fromStation := false, slot := 0, vc := 0, core := 0, chan := 0, body := .flag 0 true, addr := 0, recq := 14,
    since := none, launch := 1, pid := 1, issue := 0, eng := none, backed := false, joined := false, stage := .bank }

/-- It is still on its way when slot 0 is context 2's, which has placed its own virtual cluster 0 on cluster 0. -/
def slotTakenOver : State :=
  { State.reset with contexts := [(0, ⟨2, 0, 0⟩)], placement := [(0, ⟨false, 0⟩)], flight := [latecomer] }

/-- Refutes O51: a posted item is said to be performed wherever its slot and virtual cluster are placed, without a premise that the slot is
still its own context's. A flag request of context 1 that finds the slot held by context 2 is dropped (R296), and the flag stays clear. -/
theorem not_itemsInFlight : ¬ Obligations.ItemsInFlight := by
  rintro ⟨-, posted⟩
  obtain ⟨flags, -⟩ := posted slotTakenOver 0 0 latecomer rfl rfl (by simp) rfl
  obtain ⟨-, performed⟩ := flags 0 true rfl
  have hset := performed ⟨by decide, by decide, by decide⟩
  have hdrop : exec (.bankOperationRequest (.posted 0)) slotTakenOver =
      .next (slotTakenOver.lose 0 latecomer uMesh tMESH latecomer.meshDetail) :=
    exec_flag_of_other_context rfl rfl (by decide) rfl rfl (by decide)
  have hflag := congrArg (fun t : State => (t.core ⟨0, 0⟩).flag 0) (Host.Outcome.next.inj (hdrop.symm.trans hset))
  exact absurd hflag (by decide)

end Sys2Proof.Machine
end

section
/-! SUPPORT. What an encoded instruction answers for each kind of effect, and the integer operations (R79 to R82, R104). -/
namespace Sys2Proof.Machine
open Sys2Proof

/-! ## An instruction that is its own effect -/

section
variable {i : Instr} {s : State} {body : State → Eff}

/-- Past the checks of R39 an instruction is the effect of its entry. -/
theorem exec_of_passes (he : exec i s = retire i s body) (hp : Passes s i) : exec i s = .next ((body s).apply s i) := by
  rw [he, retire, retireUnless, State.execute_passes _ _ _ hp]

theorem exec_of_next {u : State} (he : exec i s = retire i s body) (hb : body s = .next u) (hp : Passes s i) :
    exec i s = .next (u.finish i) := by
  rw [exec_of_passes he hp, hb]
  rfl

theorem exec_of_jump {u : State} {a : Word} (he : exec i s = retire i s body) (hb : body s = .jump u a) (hp : Passes s i) :
    exec i s = .next (u.goto a) := by
  rw [exec_of_passes he hp, hb]
  rfl

theorem exec_of_stay {u : State} (he : exec i s = retire i s body) (hb : body s = .stay u) (hp : Passes s i) : exec i s = .next u := by
  rw [exec_of_passes he hp, hb]
  rfl

theorem Traps.of_trap {cause : Nat} {v : Word} (he : exec i s = retire i s body) (hb : body s = .trap cause v) : Traps i s cause v := fun hp => by
  rw [exec_of_passes he hp, hb]
  rfl

theorem StallsFor.of_stall {w : Cond} (he : exec i s = retire i s body) (hb : body s = stallFor w s) : StallsFor i s w :=
  exec_of_stay he hb

end

/-! ## S(D) := a value -/

section values
variable {i : Instr} {d a b : Reg} {s : State} {v : Word}

theorem alu2_writes {f : Word → Word → Word} (he : exec i s = retire i s (alu2 d a b f))
    (hv : f (s.me.s a.toNat) (s.me.s b.toNat) = v) : Writes i s d v :=
  setS_writes i s d v _ _ he rfl (by rw [← hv])

theorem alu1_writes {f : Word → Word} (he : exec i s = retire i s (alu1 d a f)) (hv : f (s.me.s a.toNat) = v) : Writes i s d v :=
  setS_writes i s d v _ _ he rfl (by rw [← hv])

theorem put_writes {body : State → Eff} (he : exec i s = retire i s body) (hb : body s = put d v s) : Writes i s d v :=
  setS_writes i s d v body _ he hb rfl

end values

/-! ## The values of Tables 1 to 3 of spec/05 -/

theorem flag1_decide (p : Prop) [Decidable p] : flag1 (decide p) = if p then 1 else 0 := by
  by_cases h : p <;> simp [flag1, h]

theorem flag1_slt (a b : Word) : flag1 (a.slt b) = if a.toInt < b.toInt then 1 else 0 := flag1_decide _

theorem flag1_ult (a b : Word) : flag1 (a.ult b) = if a.toNat < b.toNat then 1 else 0 := flag1_decide _

theorem flag1_beq (a b : Word) : flag1 (a == b) = if a = b then 1 else 0 := by
  by_cases h : a = b <;> simp [flag1, h]

/-- Signed division rounds toward zero, and its one overflow wraps. -/
theorem divSigned_eq (a b : Word) : divSigned a b = if b = 0 then -1 else BitVec.ofInt 64 (a.toInt.tdiv b.toInt) := by
  rw [divSigned]
  split
  · rfl
  · refine BitVec.eq_of_toInt_eq ?_
    rw [BitVec.toInt_sdiv, BitVec.toInt_ofInt]

theorem divUnsigned_eq (a b : Word) : divUnsigned a b = if b = 0 then -1 else BitVec.ofNat 64 (a.toNat / b.toNat) := by
  rw [divUnsigned]
  split
  · rfl
  · refine BitVec.eq_of_toNat_eq ?_
    rw [BitVec.toNat_udiv, BitVec.toNat_ofNat, Nat.mod_eq_of_lt ((Nat.div_le_self _ _).trans_lt a.isLt)]

/-- The remainder takes the dividend's sign; of a division by zero it is the dividend. -/
theorem sub_mul_divSigned (a b : Word) : a - b * divSigned a b = if b = 0 then a else BitVec.ofInt 64 (a.toInt.tmod b.toInt) := by
  rw [divSigned_eq]
  split
  · next h => simp [h]
  · rw [sub_eq_iff_eq_add']
    calc a = BitVec.ofInt 64 (b.toInt * a.toInt.tdiv b.toInt + a.toInt.tmod b.toInt) := by rw [Int.mul_tdiv_add_tmod, BitVec.ofInt_toInt]
      _ = b * BitVec.ofInt 64 (a.toInt.tdiv b.toInt) + BitVec.ofInt 64 (a.toInt.tmod b.toInt) := by
        rw [BitVec.ofInt_add, BitVec.ofInt_mul, BitVec.ofInt_toInt]

theorem sub_mul_divUnsigned (a b : Word) : a - b * divUnsigned a b = if b = 0 then a else BitVec.ofNat 64 (a.toNat % b.toNat) := by
  rw [divUnsigned_eq]
  split
  · next h => simp [h]
  · rw [sub_eq_iff_eq_add']
    calc a = BitVec.ofNat 64 (b.toNat * (a.toNat / b.toNat) + a.toNat % b.toNat) := by rw [Nat.div_add_mod, BitVec.ofNat_toNat, BitVec.setWidth_eq]
      _ = b * BitVec.ofNat 64 (a.toNat / b.toNat) + BitVec.ofNat 64 (a.toNat % b.toNat) := by
        rw [BitVec.ofNat_add, BitVec.ofNat_mul, BitVec.ofNat_toNat, BitVec.setWidth_eq]

theorem ite_slt (a b x y : Word) : (if a.slt b then x else y) = if a.toInt < b.toInt then x else y := by
  simp only [BitVec.slt, decide_eq_true_eq]

theorem ite_ult (a b x y : Word) : (if a.ult b then x else y) = if a.toNat < b.toNat then x else y := by
  simp only [BitVec.ult, decide_eq_true_eq]

/-- Of equal numbers it does not matter which is chosen. -/
theorem lesser_of_lt {α : Type} [LinearOrder α] {f : Word → α} (hf : Function.Injective f) (a b : Word) :
    (if f a < f b then a else b) = if f a ≤ f b then a else b := by
  rcases eq_or_ne (f a) (f b) with h | h
  · rw [hf h, ite_self, ite_self]
  · simp only [h.le_iff_lt]

theorem greater_of_lt {α : Type} [LinearOrder α] {f : Word → α} (a b : Word) :
    (if f b < f a then a else b) = if f a ≤ f b then b else a := by
  rw [← ite_not]
  simp only [not_lt]

theorem toInt_injective : Function.Injective (BitVec.toInt : Word → Int) := fun _ _ => BitVec.eq_of_toInt_eq

theorem getLsbD_eq_false_of_lt {x : Word} {n : Nat} (h : x.toNat < 2 ^ n) : x.getLsbD n = false := Nat.testBit_lt_two_pow h

/-- Counting zeros down from bit n − 1 of a number below 2^n ends at its highest one. -/
theorem clzFrom_eq (x : Word) {n : Nat} (h : x.toNat < 2 ^ n) : clzFrom x n = if x = 0 then n else n - 1 - x.toNat.log2 := by
  induction n with
  | zero =>
    have hx : x = 0 := BitVec.eq_of_toNat_eq (by simpa using h)
    simp [clzFrom, hx]
  | succ n ih =>
    by_cases hb : x.toNat < 2 ^ n
    · have h0 : x ≠ 0 → x.toNat.log2 < n := fun hx => (Nat.log2_lt fun e => hx (BitVec.eq_of_toNat_eq e)).mpr hb
      rw [clzFrom, getLsbD_eq_false_of_lt hb, if_neg Bool.false_ne_true, ih hb]
      split
      · omega
      · next hx =>
        have := h0 hx
        omega
    · have hne : x.toNat ≠ 0 := fun e => hb (e ▸ Nat.two_pow_pos n)
      have hl : x.toNat.log2 = n := by
        have h1 := (Nat.le_log2 hne).mpr (Nat.not_lt.mp hb)
        have h2 := (Nat.log2_lt hne).mpr h
        omega
      have hbit : x.getLsbD n = true := by
        rw [BitVec.getLsbD, Nat.testBit_eq_decide_div_mod_eq, Nat.div_eq_of_lt_le (k := 1)]
        · rfl
        · omega
        · rw [Nat.pow_succ] at h; omega
      have hx : x ≠ 0 := by rintro rfl; exact hne rfl
      rw [clzFrom, hbit, if_pos rfl, if_neg hx, hl]
      omega

/-- Counting zeros up from bit 64 − n stops at the first one, or behind bit 63. -/
theorem ctzFrom_spec (x : Word) {n : Nat} (hn : n ≤ 64) : ctzFrom x n ≤ n ∧ (ctzFrom x n < n → x.getLsbD (64 - n + ctzFrom x n) = true) ∧
    ∀ m < ctzFrom x n, x.getLsbD (64 - n + m) = false := by
  induction n with
  | zero => exact ⟨le_rfl, nofun, nofun⟩
  | succ n ih =>
    obtain ⟨hle, hone, hzero⟩ := ih (by omega)
    have hs : ∀ m, 64 - (n + 1) + (m + 1) = 64 - n + m := by omega
    have h0 : 64 - (n + 1) = 63 - n := by omega
    rw [ctzFrom]
    cases hb : x.getLsbD (63 - n) with
    | true =>
      rw [if_pos rfl, Nat.add_zero, h0]
      exact ⟨Nat.zero_le _, fun _ => hb, nofun⟩
    | false =>
      rw [if_neg Bool.false_ne_true, Nat.add_comm 1]
      refine ⟨by omega, fun h => ?_, fun m hm => ?_⟩
      · rw [hs]
        exact hone (by omega)
      · cases m with
        | zero => rwa [Nat.add_zero, h0]
        | succ m =>
          rw [hs]
          exact hzero m (by omega)

theorem popFrom_eq (x : Word) (n : Nat) : popFrom x n = (List.range n).countP x.getLsbD := by
  induction n with
  | zero => rfl
  | succ n ih =>
    rw [popFrom, ih, List.range_succ, List.countP_append, List.countP_singleton, Nat.add_comm]

theorem ctz_writes (s : State) (d a : Reg) : let x := s.me.s a.toNat
    ∃ n, Writes (.ctz d a) s d (BitVec.ofNat 64 n) ∧ (x = 0 → n = 64) ∧
      (x ≠ 0 → n < 64 ∧ x.getLsbD n = true ∧ ∀ m < n, x.getLsbD m = false) := by
  intro x
  obtain ⟨hle, hone, hzero⟩ := ctzFrom_spec x le_rfl
  rw [Nat.sub_self, Nat.zero_add] at hone
  simp only [Nat.sub_self, Nat.zero_add] at hzero
  refine ⟨ctzFrom x 64, alu1_writes rfl rfl, fun h => ?_, fun h => ?_⟩
  · by_contra hne
    have h1 := hone (by omega)
    rw [h] at h1
    simp at h1
  · have hlt : ctzFrom x 64 < 64 := by
      by_contra hge
      exact h (BitVec.eq_of_getLsbD_eq fun m hm => by simpa using hzero m (by omega))
    exact ⟨hlt, hone hlt, hzero⟩

/-- Settles O10: each instruction is S(D) := a value (`alu2_writes`, `alu1_writes`, `put_writes`), and the model's values are those of the tables. -/
theorem integerOperations : Obligations.IntegerOperations := by
  refine ⟨fun s d a b c => ⟨alu2_writes rfl rfl, alu2_writes rfl rfl, alu2_writes rfl rfl, alu2_writes rfl rfl, alu2_writes rfl rfl,
      alu2_writes rfl rfl, alu2_writes rfl rfl, alu2_writes rfl rfl, alu2_writes rfl rfl, alu2_writes rfl rfl, alu2_writes rfl rfl,
      alu2_writes rfl rfl, setS_writes _ s d _ _ _ rfl rfl rfl, setS_writes _ s d _ _ _ rfl rfl ?csel⟩,
    fun s d a b => ⟨alu2_writes rfl (divSigned_eq _ _), alu2_writes rfl (divUnsigned_eq _ _), alu2_writes rfl (sub_mul_divSigned _ _),
      alu2_writes rfl (sub_mul_divUnsigned _ _)⟩,
    fun s d a b => ⟨alu2_writes rfl (flag1_slt _ _), alu2_writes rfl (flag1_ult _ _), alu2_writes rfl (flag1_beq _ _),
      alu2_writes rfl ?min, alu2_writes rfl ?max, alu2_writes rfl ?minu, alu2_writes rfl ?maxu, alu1_writes rfl ?clz, ctz_writes s d a,
      alu1_writes rfl (congrArg _ (popFrom_eq _ 64))⟩,
    fun s d a i n j => ⟨alu1_writes rfl rfl, alu1_writes rfl rfl, alu1_writes rfl rfl, alu1_writes rfl rfl, alu1_writes rfl (flag1_slt _ _),
      alu1_writes rfl (flag1_ult _ _), alu1_writes rfl rfl, alu1_writes rfl rfl, alu1_writes rfl rfl, alu1_writes rfl rfl,
      alu1_writes rfl rfl, alu1_writes rfl rfl, put_writes rfl rfl, alu2_writes rfl rfl⟩⟩
  case csel => rw [ite_not]
  case min => rw [ite_slt, lesser_of_lt toInt_injective]
  case max => rw [ite_slt, greater_of_lt]
  case minu => rw [ite_ult, lesser_of_lt BitVec.toNat_injective]
  case maxu => rw [ite_ult, greater_of_lt]
  case clz =>
    rw [clzFrom_eq _ (s.me.s a.toNat).isLt]
    split <;> rfl

/-! ## Immediates of the upper bits (R82) -/

theorem imm20_eq (i : BitVec 20) : imm20 i = i.signExtend 64 * 4096 := BitVec.shiftLeft_eq_mul_twoPow ..

/-- The upper immediate of a number below 2^31 is positive, and its low 12 bits are 0. -/
theorem upper_or_lower {v : Nat} (hv : v < 2 ^ 31) :
    (BitVec.ofNat 20 (v / 4096)).signExtend 64 * 4096 ||| BitVec.ofNat 64 (v % 4096) = BitVec.ofNat 64 v := by
  have hq : v / 4096 < 2 ^ 19 := by omega
  have hmsb : (BitVec.ofNat 20 (v / 4096)).msb = false := by
    rw [BitVec.msb_eq_false_iff_two_mul_lt, BitVec.toNat_ofNat]
    omega
  refine BitVec.eq_of_toNat_eq ?_
  rw [BitVec.signExtend_eq_setWidth_of_msb_false hmsb]
  have hhi : ((BitVec.ofNat 20 (v / 4096)).setWidth 64 * 4096).toNat = 2 ^ 12 * (v / 4096) := by
    simp only [BitVec.toNat_mul, BitVec.toNat_setWidth, BitVec.ofNat_eq_ofNat, BitVec.toNat_ofNat]
    omega
  have hlo : (BitVec.ofNat 64 (v % 4096)).toNat = v % 4096 := by
    rw [BitVec.toNat_ofNat]
    omega
  rw [BitVec.toNat_or, hhi, hlo, ← Nat.two_pow_add_eq_or_of_lt (by omega), BitVec.toNat_ofNat]
  omega

/-- Settles O11: `addpc` adds to the address of the instruction, which in a `rep` body is its place there (`Core.instrAddr`). -/
theorem luiAndAddpc : Obligations.LuiAndAddpc := by
  refine fun s d i => ⟨put_writes rfl (by rw [imm20_eq]), fun hr => put_writes rfl ?_, fun a f hr ha => put_writes rfl ?_,
    fun v => upper_or_lower⟩
  · rw [Core.instrAddr, hr, if_neg Bool.false_ne_true, imm20_eq]
  · rw [Core.instrAddr, hr, if_pos rfl, ha, imm20_eq]

end Sys2Proof.Machine
end

section
/-! SUPPORT. What a group's settling may do to a cluster (R89, R103, R205, R206), as one induction. -/
namespace Sys2Proof.Machine
open Sys2Proof

/-- What a settling keeps of a cluster: a property that stays when the stream changes, when a core that may leave detaches as diverged, and when
the entries buffered for it change; every attached core is one that may leave. -/
structure Cluster.Settled (may : Nat → Prop) (p : Cluster → Prop) : Prop where
  group : ∀ k g, p k → p { k with group := g }
  leaves : ∀ k j, may j → p k → p (k.detach j 1)
  buffer : ∀ k j b, may j → p k → p (k.setCore j { k.core j with buf := b })
  attached : ∀ k j, p k → (k.core j).att = true → may j

section
variable {may : Nat → Prop} {p : Cluster → Prop} {k : Cluster}

theorem Cluster.att_of_mem_attached {j : Nat} (h : j ∈ k.attached) : (k.core j).att = true := (List.mem_filter.mp h).2

theorem Cluster.Settled.compare (hs : Cluster.Settled may p) (h : p k) (j : Nat) : p (k.compare j) := by
  unfold Cluster.compare
  dsimp only
  split
  · next hc =>
    simp only [Bool.and_eq_true] at hc
    have hl := hs.leaves k j (hs.attached k j h hc.1.1.1) h
    split
    · split
      · exact h
      · exact hl
    · split
      · exact h
      · exact hl
  · exact h

theorem Cluster.Settled.settleOnce (hs : Cluster.Settled may p) (h : p k) : p k.settleOnce := by
  unfold Cluster.settleOnce
  refine List.foldlRecOn _ _ ?_ fun k h j _ => hs.compare h j
  split
  · exact h
  · dsimp only
    split
    · split
      · exact hs.group _ _ h
      · refine List.foldlRecOn _ _ (hs.group _ _ h) fun l hl j hj => ?_
        have hm : may j := hs.attached k j h (Cluster.att_of_mem_attached hj)
        split
        · split
          · exact hs.leaves l j hm hl
          · exact hl
        · exact hs.buffer l j _ hm hl
      · exact h
    · exact h

theorem Cluster.Settled.settleFrom (hs : Cluster.Settled may p) (n : Nat) (h : p k) : p (Cluster.settleFrom n k) := by
  induction n generalizing k with
  | zero => exact h
  | succ n ih =>
    unfold Cluster.settleFrom
    dsimp only
    split
    · exact hs.settleOnce h
    · exact ih (hs.settleOnce h)

theorem Cluster.Settled.settle (hs : Cluster.Settled may p) (h : p k) : p k.settle := by
  unfold Cluster.settle
  split
  · have h8 := hs.settleFrom 8 h
    unfold Cluster.passIfence
    split
    · exact hs.group _ _ h8
    · exact h8
  · exact h

end

theorem Cluster.core_dropBuf (k : Cluster) (j : Nat) : (k.dropBuf j).core j = { k.core j with buf := [] } := Cluster.core_setCore k j _

theorem Cluster.core_dropBuf_other (k : Cluster) {i j : Nat} (h : i ≠ j) : (k.dropBuf j).core i = k.core i :=
  Cluster.core_setCore_other k _ h

theorem Cluster.core_detach_other (k : Cluster) {i j : Nat} (why : Nat) (h : i ≠ j) : (k.detach j why).core i = k.core i := by
  unfold Cluster.detach
  dsimp only
  rw [Cluster.core_setCore_other _ _ h]
  split
  · rfl
  · exact Cluster.core_dropBuf_other k h

/-- A core that leaves for another reason than being left behind drops what was issued to it. -/
theorem Cluster.core_detach (k : Cluster) (j : Nat) {why : Nat} (h : why ≠ 2) : (k.detach j why).core j =
    { k.core j with att := false, why := why, buf := [],
                    transfer := if why = 1 then (k.core j).transfer.or (k.core j).fell else (k.core j).transfer } := by
  unfold Cluster.detach
  dsimp only
  rw [Cluster.core_setCore, if_neg h, Cluster.core_dropBuf]

/-- A settling leaves a core that is not attached as it is. -/
theorem Cluster.settled_core {j : Nat} {c : Core} (hc : c.att = false) : Cluster.Settled (· ≠ j) fun k => k.core j = c where
  group _ _ h := h
  leaves k _ hi h := (Cluster.core_detach_other k 1 hi.symm).trans h
  buffer k _ _ hi h := (Cluster.core_setCore_other k _ hi.symm).trans h
  attached k i h ha := by
    rintro rfl
    rw [h, hc] at ha
    exact Bool.false_ne_true ha

theorem Cluster.core_settle_of_detached {k : Cluster} {j : Nat} (h : (k.core j).att = false) : k.settle.core j = k.core j :=
  (Cluster.settled_core h).settle rfl

/-- A settling changes no transfer that a core has made: what it fell through counts only where there is none (R186). -/
theorem Cluster.settled_transfer (j : Nat) (a : Word) : Cluster.Settled (fun _ => True) fun k => (k.core j).transfer = some a where
  group _ _ h := h
  leaves k i _ h := by
    by_cases hi : j = i
    · subst hi
      rw [Cluster.core_detach k j (by decide), if_pos rfl, h, Option.some_or]
    · rwa [Cluster.core_detach_other k 1 hi]
  buffer k i b _ h := by
    by_cases hi : j = i
    · subst hi
      rwa [Cluster.core_setCore]
    · rwa [Cluster.core_setCore_other k _ hi]
  attached _ _ _ _ := trivial

end Sys2Proof.Machine
end

section
/-! SUPPORT. What an encoded instruction answers when it completes or transfers control, and branches and jumps (R86 to R88, R104). -/
namespace Sys2Proof.Machine
open Sys2Proof

/-! ## What changes nothing outside the current core -/

theorem OnlyMine.refl (s : State) : OnlyMine s s := ⟨rfl, fun _ => rfl, fun _ _ => rfl⟩

theorem OnlyMine.cur {s t : State} (h : OnlyMine s t) : t.cur = s.cur := by have x := congrArg State.cur h.1; exact x

theorem OnlyMine.trans {s t u : State} (h : OnlyMine s t) (h' : OnlyMine t u) : OnlyMine s u := by
  have hc := h.cur
  obtain ⟨ho, hf, hq⟩ := h
  obtain ⟨ho', hf', hq'⟩ := h'
  exact ⟨ho'.trans ho, fun k => (hf' k).trans (hf k), fun q hne => (hq' q (hc ▸ hne)).trans (hq q hne)⟩

theorem SameData.onlyMine {s t : State} (h : SameData s t) : OnlyMine s t := ⟨h.outer, h.fixed, fun q _ => h.cores q⟩

theorem State.onlyMine_upd (s : State) (f : Core → Core) : OnlyMine s (s.upd f) := by
  refine ⟨rfl, fun k => ?_, fun q hq => by rw [State.core_upd_other _ _ hq]⟩
  by_cases hk : k = s.cur.cl
  · subst hk; simp [State.upd, Cluster.fixed]
  · simp [State.upd, State.setCore, State.cluster_setCluster_other _ _ hk]

theorem toNat_eq_zero_iff {d : Reg} : d.toNat = 0 ↔ d = 0 := (BitVec.toNat_inj (y := (0 : Reg)))

/-! ## Instructions that complete, and transfers of control -/

section
variable {i : Instr} {s : State} {body : State → Eff}

/-- An instruction that completes leaves the state of its effect but for its core's place. -/
theorem Leaves.of_next {u : State} {p : State → Prop} (he : exec i s = retire i s body) (hb : body s = .next u) (hpc : u.me.pc = s.me.pc)
    (hr : u.me.inRep = s.me.inRep) (hp : p (u.finish i)) : Leaves i s u nothing nothing p := fun h => by
  obtain ⟨honly, hkeeps, hgo, -⟩ := u.finish_leaves i
  exact ⟨u.finish i, exec_of_next he hb h, honly, hkeeps, fun h => by rw [hgo (hr.trans h), hpc], hp⟩

/-- An instruction that completes with nothing changed. -/
theorem Does.of_next (he : exec i s = retire i s body) (hb : body s = .next s) : Does i s nothing nothing fun _ => True :=
  Leaves.of_next he hb rfl rfl trivial

@[simp] theorem State.me_updCluster (s : State) (f : Cluster → Cluster) : (s.updCluster s.cur.cl f).me = (f s.mine).core s.cur.core := by
  rw [State.me, State.core_updCluster]
  exact if_pos rfl

/-- The transfer of a core is its own, whatever its group's progress. -/
theorem State.transfer_goto (u : State) (a : Word) : (u.goto a).me.transfer = some u.me.pc := by
  have hme : (u.upd fun c => c.jumped a).me.transfer = some u.me.pc := by rw [State.me_upd]; rfl
  unfold State.goto
  dsimp only
  split
  · exact (State.me_updCluster (u.upd _) _).symm ▸ (Cluster.settled_transfer _ _).settle hme
  · exact hme

/-- What a transfer of control leaves of a state. -/
theorem State.goto_leaves (u : State) (a : Word) : OnlyMine u (u.goto a) ∧ u.me.Keeps (u.goto a).me nothing nothing ∧
    (u.goto a).me.pc = a ∧ ∀ j, (u.goto a).me.s j = u.me.s j := by
  have hd := State.goto_data u a
  have hm : (u.goto a).me.apart = (u.me.jumped a).apart := by rw [hd.me, State.me_upd]
  refine ⟨(u.onlyMine_upd _).trans hd.onlyMine, (Core.keeps_jumped _ a).trans (.of_apart hm _ _), ?_, fun j => ?_⟩
  · have x := congrArg Core.pc hm
    exact x
  · exact Core.s_apart hm j

/-- An instruction that transfers control, after a change of its own core. -/
theorem Jumps.of_jump {u : State} {b : Nat → Prop} {a : Word} {p : State → Prop} (he : exec i s = retire i s body)
    (hb : body s = .jump u a) (ho : OnlyMine s u) (hk : s.me.Keeps u.me b nothing) (hpc : u.me.pc = s.me.pc)
    (hp : ∀ t : State, (∀ j, t.me.s j = u.me.s j) → p t) : Jumps i s b a p := fun h => by
  obtain ⟨honly, hkeeps, hto, hs⟩ := u.goto_leaves a
  refine ⟨u.goto a, exec_of_jump he hb h, ho.trans honly, hk.trans (hkeeps.mono (fun _ h => h.elim) fun _ h => h.elim), hto, ?_, hp _ hs⟩
  rw [u.transfer_goto, hpc]

/-- A jump that changes no register. -/
theorem Jumps.of_jump_only {a : Word} (he : exec i s = retire i s body) (hb : body s = .jump s a) :
    Jumps i s nothing a fun _ => True := .of_jump he hb (.refl s) (.refl _ _ _) rfl fun _ _ => trivial

/-- A jump whose link is the address after it. -/
theorem Jumps.of_link {d : Reg} {a : Word} (he : exec i s = retire i s body)
    (hb : body s = .jump (s.upd fun c => c.setS d.toNat (c.pc + 4)) a) :
    Jumps i s (s.me.sBytes d) a fun t => t.me.s d.toNat = if d = 0 then 0 else s.me.pc + 4 := by
  refine .of_jump he hb (s.onlyMine_upd _) ?_ ?_ fun t ht => ?_
  · rw [State.me_upd]
    exact Core.keeps_setS s.me d _
  · rw [State.me_upd, Core.setS_pc]
  · rw [ht, State.me_upd, Core.s_setS_same]
    simp only [toNat_eq_zero_iff]

/-- A branch is decided by a test. -/
theorem Branches.of_branch {off to_ : Word} {test : Bool} {taken : Prop} (he : exec i s = retire i s body) (hb : body s = branch test off s)
    (htest : test = true ↔ taken) (hto : s.me.pc + off = to_) : Branches i s taken to_ := by
  subst hto
  refine ⟨fun h => .of_jump_only he ?_, fun h => .of_next he ?_⟩
  · rw [hb, branch, if_pos (htest.mpr h)]
  · rw [hb, branch, if_neg (mt htest.mp h)]

end

/-! ## Targets and tests (R86 to R88) -/

theorem off12_eq (o : BitVec 12) : off12 o = o.signExtend 64 * 2 := BitVec.shiftLeft_eq_mul_twoPow ..

theorem shiftLeft_one_eq (x : Word) : x <<< 1 = x * 2 := BitVec.shiftLeft_eq_mul_twoPow ..

theorem slt_iff (a b : Word) : a.slt b = true ↔ a.toInt < b.toInt := decide_eq_true_iff

theorem ult_iff (a b : Word) : a.ult b = true ↔ a.toNat < b.toNat := decide_eq_true_iff

theorem not_slt_iff (a b : Word) : (!a.slt b) = true ↔ b.toInt ≤ a.toInt := by rw [Bool.not_eq_true', ← Bool.not_eq_true, slt_iff, not_lt]

theorem not_ult_iff (a b : Word) : (!a.ult b) = true ↔ b.toNat ≤ a.toNat := by rw [Bool.not_eq_true', ← Bool.not_eq_true, ult_iff, not_lt]

/-- The bits above the low ones of a word say whether it is a small number. -/
theorem bits_high_eq_zero_iff (w : Word) (lo : Nat) {len : Nat} (h : lo + len = 64) : bits w lo len = 0 ↔ w.toNat < 2 ^ lo := by
  have hlt : w.toNat >>> lo < 2 ^ len := by
    rw [Nat.shiftRight_eq_div_pow, Nat.div_lt_iff_lt_mul (Nat.two_pow_pos _), ← Nat.pow_add, Nat.add_comm, h]
    exact w.isLt
  rw [bits, Nat.mod_eq_of_lt hlt, Nat.shiftRight_eq_div_pow, Nat.div_eq_zero_iff_lt (Nat.two_pow_pos _)]

theorem bflag_in_page {s : State} {x : Reg} {o : BitVec 12} (h : (s.me.s x.toNat).toNat < 256) :
    Branches (.bflag x o) s (s.me.flags.getLsbD (s.me.s x.toNat).toNat = true) (s.me.pc + o.signExtend 64 * 2) := by
  refine .of_branch rfl (if_neg ?_) Iff.rfl (by rw [off12_eq])
  rw [not_not, bits_high_eq_zero_iff _ _ rfl]
  exact h

theorem bflag_beyond_page {s : State} {x : Reg} {o : BitVec 12} (h : 256 ≤ (s.me.s x.toNat).toNat) :
    Traps (.bflag x o) s tLOCALBOUNDS (s.me.s x.toNat) := by
  refine .of_trap rfl (if_pos ?_)
  rw [Ne, bits_high_eq_zero_iff _ _ rfl]
  exact Nat.not_lt.mpr h

/-- Settles O14: every branch is a test and a target (`Branches.of_branch`), every jump a transfer after its link (`Jumps.of_link`). -/
theorem controlTransfers : Obligations.ControlTransfers := by
  refine ⟨fun s x y m o j => ?_, fun s d a i o j => ?_⟩
  · have hto : s.me.pc + off12 o = s.me.pc + o.signExtend 64 * 2 := by rw [off12_eq]
    have hnear : s.me.pc + (j.signExtend 64 <<< 1) = s.me.pc + j.signExtend 64 * 2 := by rw [shiftLeft_one_eq]
    exact ⟨.of_branch rfl rfl beq_iff_eq hto, .of_branch rfl rfl bne_iff_ne hto, .of_branch rfl rfl (slt_iff _ _) hto,
      .of_branch rfl rfl (not_slt_iff _ _) hto, .of_branch rfl rfl (ult_iff _ _) hto, .of_branch rfl rfl (not_ult_iff _ _) hto,
      .of_branch rfl rfl beq_iff_eq hto, .of_branch rfl rfl beq_iff_eq hto, .of_branch rfl rfl beq_iff_eq hto,
      .of_branch rfl rfl beq_iff_eq hto, .of_branch rfl rfl bne_iff_ne hto, .of_branch rfl rfl beq_iff_eq hto,
      .of_branch rfl rfl beq_iff_eq hto, bflag_in_page, bflag_beyond_page, .of_branch rfl rfl beq_iff_eq hnear,
      .of_branch rfl rfl bne_iff_ne hnear⟩
  · refine ⟨.of_link rfl ?_, fun h => .of_link rfl (if_neg ?_), fun h => .of_trap rfl (if_pos h), .of_jump_only rfl ?_,
      fun h => .of_jump_only rfl (if_neg ?_), fun h => .of_trap rfl (if_pos h)⟩
    · rw [← shiftLeft_one_eq]
    · exact Bool.eq_false_iff.mp h
    · rw [← shiftLeft_one_eq]
    · exact Bool.eq_false_iff.mp h

end Sys2Proof.Machine
end

section
/-! SUPPORT. Workspace: the place of a frame, and `grow`, `shrink`, `swp` and `rdws` (R97 to R99). -/
namespace Sys2Proof.Machine
open Sys2Proof

/-! ## An instruction that changes its own core -/

/-- An instruction that changes its own core alone: the next state's core is that core past the instruction. -/
theorem Does.of_local {i : Instr} {s : State} {body : State → Eff} {f : Core → Core} {b n : Nat → Prop} {p : State → Prop}
    (he : exec i s = retire i s body) (hb : body s = local_ s f) (hk : s.me.Keeps (f s.me) b n) (hpc : (f s.me).pc = s.me.pc)
    (hr : (f s.me).inRep = s.me.inRep) (hp : ∀ t : State, (∀ m, m ≠ Cr.repstate → t.me.cr_ m = (f s.me).cr_ m) →
      (∀ j, t.me.s j = (f s.me).s j) → p t) : Does i s b n p := fun h => by
  obtain ⟨honly, hkeeps, hgo, hm⟩ := local_does s i f b n hk hpc hr
  refine ⟨_, by rw [exec_of_passes he h, hb], honly, hkeeps, hgo, hp _ (fun m hne => ?_) fun j => ?_⟩
  · have hc := (Core.Keeps.of_apart hm nothing nothing).2.2 m id hne
    rw [hc, (Core.keeps_passed (f s.me) i).2.2 m id hne]
  · rw [Core.s_apart hm, Core.s_passed]

/-! ## The banks of a range -/

/-- Bank b is of another personality than ARRAY, and holds a byte of a range. -/
def Core.Obstructs (c : Core) (a n b : Nat) : Prop := b * 0x4000 < a + n ∧ a < b * 0x4000 + 0x4000 ∧ kindOf (c.bank b).pers ≠ 0

theorem Core.obstructs_iff (c : Core) (a n b : Nat) :
    (decide (b * 0x4000 < a + n ∧ a < b * 0x4000 + 0x4000) && kindOf (c.bank b).pers != 0) = true ↔ c.Obstructs a n b := by
  simp [Core.Obstructs, and_assoc]

theorem Core.notArray_eq_none_iff {c : Core} {a n : Nat} : c.notArray a n = none ↔ ∀ b < 16, ¬ c.Obstructs a n b := by
  simp only [Core.notArray, List.find?_eq_none, List.mem_range, Core.obstructs_iff]

/-- The first bank that obstructs a range. -/
theorem Core.notArray_eq_some {c : Core} {a n b : Nat} (hb : b < 16) (h : c.Obstructs a n b) (hfirst : ∀ j < b, ¬ c.Obstructs a n j) :
    c.notArray a n = some b := by
  rw [Core.notArray, List.find?_range_eq_some]
  refine ⟨(c.obstructs_iff a n b).mpr h, List.mem_range.mpr hb, fun j hj => ?_⟩
  rw [Bool.not_eq_true', ← Bool.not_eq_true, Core.obstructs_iff]
  exact hfirst j hj

/-- A range lies in ARRAY banks of the store: it ends in the store, and no bank obstructs it. -/
theorem Core.arrayRange_iff {c : Core} {a n : Nat} : c.arrayRange a n = true ↔ a + n ≤ 0x40000 ∧ c.notArray a n = none := by
  rw [Core.notArray_eq_none_iff]
  simp only [Core.arrayRange, Bool.and_eq_true, decide_eq_true_eq, List.all_eq_true, List.mem_range, Bool.or_eq_true, beq_iff_eq]
  refine and_congr_right fun _ => forall₂_congr fun b _ => ?_
  rw [Core.Obstructs]
  omega

/-! ## The place of a frame -/

/-- What `grow` and `swp` make of the place of a frame (R97, R98). -/
def State.frameOr (s : State) (a len : Nat) (done : Eff) : Eff :=
  if a + len - 1 > 0x3FFFF then .trap tLOCALBOUNDS (BitVec.ofNat 64 (a + len - 1))
  else if s.me.convertingIn a len then stall s
  else match s.me.notArray a len with
    | some b => .trap tBANKPORT (BitVec.ofNat 64 (b * 0x4000))
    | none => done

section
variable {s : State} {a k : Nat} {done : Eff}

theorem State.frameOr_beyond (h : 0x40000 < a + (448 + 64 * k)) :
    s.frameOr a (448 + 64 * k) done = .trap tLOCALBOUNDS (BitVec.ofNat 64 (a + (447 + 64 * k))) := by
  have hlast : a + (448 + 64 * k) - 1 = a + (447 + 64 * k) := by omega
  rw [State.frameOr, hlast, if_pos (by omega)]

theorem State.frameOr_within (h : a + (448 + 64 * k) ≤ 0x40000) : s.frameOr a (448 + 64 * k) done =
    if s.me.convertingIn a (448 + 64 * k) then stall s
    else match s.me.notArray a (448 + 64 * k) with
      | some b => .trap tBANKPORT (BitVec.ofNat 64 (b * 0x4000))
      | none => done := if_neg (by omega)

theorem State.frameOr_converting (h : a + (448 + 64 * k) ≤ 0x40000) (hc : ¬ s.me.convertingIn a (448 + 64 * k) = false) :
    s.frameOr a (448 + 64 * k) done = stallFor .retry s := by
  rw [State.frameOr_within h, if_pos (Bool.not_eq_false _ ▸ hc)]
  rfl

theorem State.frameOr_other {b : Nat} (h : a + (448 + 64 * k) ≤ 0x40000) (hc : s.me.convertingIn a (448 + 64 * k) = false)
    (hb : s.me.notArray a (448 + 64 * k) = some b) :
    s.frameOr a (448 + 64 * k) done = .trap tBANKPORT (BitVec.ofNat 64 (b * 0x4000)) := by
  rw [State.frameOr_within h, hc, if_neg Bool.false_ne_true, hb]

theorem State.frameOr_fits (h : s.me.arrayRange a (448 + 64 * k) = true) (hc : s.me.convertingIn a (448 + 64 * k) = false) :
    s.frameOr a (448 + 64 * k) done = done := by
  obtain ⟨hown, hnone⟩ := Core.arrayRange_iff.mp h
  rw [State.frameOr_within hown, hc, if_neg Bool.false_ne_true, hnone]

end

/-! ## grow and shrink -/

theorem exec_grow (n : Reg) (s : State) : exec (.grow n) s = retire (.grow n) s fun s =>
    if n.toNat < s.me.nv then .trap tREGISTER (n.zeroExtend 64)
    else s.frameOr s.me.wp (448 + 64 * n.toNat) (local_ s fun c => c.setCr Cr.wsize (n.zeroExtend 64)) := rfl

/-- An allotment takes effect in `WSIZE`. -/
theorem wsize_does {i : Instr} {s : State} {body : State → Eff} {v : Word} (he : exec i s = retire i s body)
    (hb : body s = local_ s fun c => c.setCr Cr.wsize v) :
    Does i s nothing (fun m => m = Cr.wsize) fun t => t.me.cr_ Cr.wsize = v := by
  refine .of_local he hb (Core.keeps_setCr _ _ _ _) rfl ?_ fun t hcr _ => ?_
  · simp [Core.inRep, Core.tm, Core.cr_setCr_other]
  · rw [hcr _ (by decide), Core.cr_setCr]

theorem grow_place {s : State} {n : Reg} (h : s.me.nv ≤ n.toNat) : ∃ body, exec (.grow n) s = retire (.grow n) s body ∧
    body s = s.frameOr s.me.wp (448 + 64 * n.toNat) (local_ s fun c => c.setCr Cr.wsize (n.zeroExtend 64)) :=
  ⟨_, exec_grow n s, if_neg (Nat.not_lt.mpr h)⟩

/-! ## swp -/

theorem exec_swp (d a : Reg) (s : State) : exec (.swp d a) s = retire (.swp d a) s fun s =>
    let w := s.me.s a.toNat
    if bits w 62 2 ≠ 0 ∨ w.toNat > 0x3FFFF then .trap tLOCALBOUNDS w
    else if w.toNat % 128 ≠ 0 then .trap tALIGN w
    else s.frameOr w.toNat (448 + 64 * s.me.nv) (local_ s fun c => (c.setCr Cr.wp w).setS d.toNat (c.cr_ Cr.wp)) := rfl

theorem bits_top_of_lt {w : Word} (h : w.toNat < 0x40000) : bits w 62 2 = 0 := (bits_high_eq_zero_iff w 62 rfl).mpr (by omega)

theorem swp_place {s : State} {d a : Reg} (h : (s.me.s a.toNat).toNat < 0x40000) (ha : (s.me.s a.toNat).toNat % 128 = 0) :
    ∃ body, exec (.swp d a) s = retire (.swp d a) s body ∧ body s = s.frameOr (s.me.s a.toNat).toNat (448 + 64 * s.me.nv)
      (local_ s fun c => (c.setCr Cr.wp (s.me.s a.toNat)).setS d.toNat (c.cr_ Cr.wp)) := by
  refine ⟨_, exec_swp d a s, ?_⟩
  dsimp only
  rw [if_neg (by rw [bits_top_of_lt h]; omega), if_neg (by omega)]

/-- A core with another frame, whose S(D) has the place of the old one, keeps all but `WP` and the bytes of that register. -/
theorem Core.keeps_frame (c : Core) (d : Reg) (w : Word) : c.Keeps ((c.setCr Cr.wp w).setS d.toNat (c.cr_ Cr.wp))
    (fun x => d ≠ 0 ∧ span (w.toNat + 128 + 8 * d.toNat) 8 x) fun m => m = Cr.wp := by
  refine (c.keeps_setCr Cr.wp w _).trans ((Core.keeps_setS _ d _).mono (fun x hx => ?_) fun _ h => h.elim)
  obtain ⟨hd, hlo, hhi⟩ := hx
  have hwp : (c.setCr Cr.wp w).wp = w.toNat := by rw [Core.wp, Core.cr_setCr]
  rw [sAddr, hwp] at hlo hhi
  exact ⟨hd, hlo, hhi⟩

theorem swp_does {s : State} {d a : Reg} (ha : (s.me.s a.toNat).toNat % 128 = 0)
    (hfits : s.me.arrayRange (s.me.s a.toNat).toNat (448 + 64 * s.me.nv) = true)
    (hstill : s.me.convertingIn (s.me.s a.toNat).toNat (448 + 64 * s.me.nv) = false) :
    Does (.swp d a) s (fun x => d ≠ 0 ∧ span ((s.me.s a.toNat).toNat + 128 + 8 * d.toNat) 8 x) (fun m => m = Cr.wp) fun t =>
      t.me.cr_ Cr.wp = s.me.s a.toNat ∧ t.me.s d.toNat = if d = 0 then 0 else s.me.cr_ Cr.wp := by
  obtain ⟨hown, -⟩ := Core.arrayRange_iff.mp hfits
  obtain ⟨body, he, hb⟩ := swp_place (d := d) (by omega) ha
  refine .of_local he (hb.trans (State.frameOr_fits hfits hstill)) (Core.keeps_frame _ _ _) ?_ ?_ fun t hcr hs => ⟨?_, ?_⟩
  · rw [Core.setS_pc]
    rfl
  · simp [Core.inRep, Core.tm, Core.cr_setCr_other]
  · rw [hcr _ (by decide), Core.cr_setS, Core.cr_setCr]
  · rw [hs, Core.s_setS_same]
    simp only [toNat_eq_zero_iff]

/-- Settles O39: `grow` and `swp` by the place of their frame (`State.frameOr`), whose first bank of another personality is found in order. -/
theorem workspaceMoves : Obligations.WorkspaceMoves := by
  intro s d a n
  refine ⟨fun h => .of_trap (exec_grow n s) (if_pos h), fun h => .of_trap rfl (if_pos h), fun h hfits hstill => ?_,
    fun h => wsize_does rfl (if_neg (Nat.not_lt.mpr h)), fun h hend => ?_, ⟨fun h hown => ?_, fun hw ha => ⟨fun hown => ?_, fun hown => ?_⟩⟩,
    fun hw => ?_, fun hw ha => ?_, swp_does, put_writes rfl rfl, put_writes rfl rfl, put_writes rfl rfl⟩
  · obtain ⟨body, he, hb⟩ := grow_place h
    exact wsize_does he (hb.trans (State.frameOr_fits hfits hstill))
  · obtain ⟨body, he, hb⟩ := grow_place h
    exact .of_trap he (hb.trans (State.frameOr_beyond hend))
  · obtain ⟨body, he, hb⟩ := grow_place h
    refine ⟨fun hc => .of_stall he (hb.trans (State.frameOr_converting hown hc)), fun b hb16 hc hfirst => ?_⟩
    exact .of_trap he (hb.trans (State.frameOr_other hown hc (Core.notArray_eq_some hb16 hfirst.1 hfirst.2)))
  · obtain ⟨body, he, hb⟩ := swp_place (d := d) hw ha
    exact .of_trap he (hb.trans (State.frameOr_beyond (Nat.not_le.mp hown)))
  · obtain ⟨body, he, hb⟩ := swp_place (d := d) hw ha
    refine ⟨fun hc => .of_stall he (hb.trans (State.frameOr_converting hown hc)), fun b hb16 hc hfirst => ?_⟩
    exact .of_trap he (hb.trans (State.frameOr_other hown hc (Core.notArray_eq_some hb16 hfirst.1 hfirst.2)))
  · exact .of_trap (exec_swp d a s) (if_pos (.inr (by omega)))
  · refine .of_trap (exec_swp d a s) ?_
    dsimp only
    rw [if_neg (by rw [bits_top_of_lt hw]; omega), if_pos ha]

end Sys2Proof.Machine
end

section
/-! SUPPORT. `detach`, `lead` and `once` (R90 to R92, R96). -/
namespace Sys2Proof.Machine
open Sys2Proof

section
variable {i : Instr} {s u : State} {b n : Nat → Prop} {p : State → Prop}

/-- An instruction that leaves a state which differs in its own core alone, and there in what it may change. -/
theorem Leaves.does (h : Leaves i s u b n p) (ho : OnlyMine s u) (hk : s.me.Keeps u.me b n) : Does i s b n p := fun hp =>
  have ⟨t, ht, honly, hkeeps, hgo, hpt⟩ := h hp
  ⟨t, ht, ho.trans honly, hk.trans hkeeps, hgo, hpt⟩

theorem Refuses.of_refused {cause : Nat} {v : Word} {body : State → Eff} (he : exec i s = retireUnless i (some (cause, v)) s body) :
    Refuses i s cause v := fun h => by
  rw [he, retireUnless, State.execute_refused s i _ body h]

end

/-! ## detach -/

/-- What a core is to its group: whether it is attached, why not, and what was issued to it. -/
def Core.standing (c : Core) : Bool × Nat × List Issued := (c.att, c.why, c.buf)

theorem Core.standing_retired (c : Core) (n : Nat) : (c.retired n).standing = c.standing := by
  unfold Core.retired Core.advance
  dsimp only
  split
  · split
    · rfl
    · split <;> rfl
  · rfl

/-- A core whose governed instruction has been posted is done with it. -/
theorem Cluster.core_post (k : Cluster) (id j : Nat) (p : Posting) :
    (k.post id j p).core j = { k.core j with governed := none, obligation := none } := Cluster.core_setCore _ j _

/-- Outside its group a core's standing stays when an instruction completes, also where `once` results are posted. -/
theorem State.finish_standing {u : State} {i : Instr} (h : u.me.att = false) : (u.finish i).me.standing = u.me.standing := by
  have hp : (u.upd fun c => c.passed i).me.standing = u.me.standing := by
    rw [State.me_upd]
    exact Core.standing_retired u.me i.len
  unfold State.finish
  dsimp only
  rw [h, if_neg Bool.false_ne_true]
  split
  · next id _ =>
    have hpost := State.me_updCluster (u.upd fun c => c.passed i) fun k => k.post id u.cur.core (u.me.posting i)
    rw [State.upd_cur, Cluster.core_post] at hpost
    rw [hpost]
    exact hp
  · exact hp

/-- The core that detaches, and its cluster after it (R92). -/
def State.left (s : State) : State := s.updCluster s.cur.cl fun k => (k.detach s.cur.core 3).settle

theorem State.left_data (s : State) : SameData s s.left := .of_updCluster s _ _ ((Cluster.alike_detach _ _ _).trans (Cluster.alike_settle _))

theorem State.me_left (s : State) : s.left.me = { s.me with att := false, why := 3, buf := [] } := by
  have hd : (s.mine.detach s.cur.core 3).core s.cur.core = { s.me with att := false, why := 3, buf := [] } :=
    Cluster.core_detach _ _ (by decide)
  rw [State.left, State.me_updCluster, Cluster.core_settle_of_detached (by rw [hd]), hd]

theorem detach_alone {s : State} (h : s.me.att = false) : Does .detach s nothing nothing fun _ => True :=
  .of_next (body := fun s => if s.me.att then .next s.left else .next s) rfl (by rw [h, if_neg Bool.false_ne_true])

theorem detach_attached {s : State} (h : s.me.att = true) :
    Does .detach s nothing nothing fun t => t.me.att = false ∧ t.me.why = 3 ∧ t.me.buf = [] := by
  have hme := s.me_left
  have hl : Leaves .detach s s.left nothing nothing fun t => t.me.att = false ∧ t.me.why = 3 ∧ t.me.buf = [] := by
    refine .of_next rfl (if_pos h) (by rw [hme]) (by rw [hme]; rfl) ?_
    have hs : (s.left.finish .detach).me.standing = (false, 3, []) := by rw [State.finish_standing (by rw [hme]), hme]; rfl
    simpa only [Core.standing, Prod.mk.injEq] using hs
  exact hl.does s.left_data.onlyMine (.of_apart s.left_data.me _ _)

/-! ## lead -/

/-- The lowest core of a mask of the cluster's cores. -/
theorem leadWord_eq {mask self j : Nat} (hm : mask < 256) (hj : j < 8) (hbit : mask.testBit j = true) (hlow : ∀ i < j, mask.testBit i = false) :
    leadWord mask self = BitVec.ofNat 64 (j + mask * 256) := by
  have h0 : mask ≠ 0 := by
    rintro rfl
    simp at hbit
  have htest : ∀ i, (mask / 2 ^ i % 2 == 1) = mask.testBit i := fun i => by rw [Nat.testBit_eq_decide_div_mod_eq, beq_eq_decide]
  have hfind : (List.range 8).find? mask.testBit = some j := by
    rw [List.find?_range_eq_some]
    exact ⟨hbit, List.mem_range.mpr hj, fun i hi => by rw [hlow i hi]; rfl⟩
  simp only [leadWord, if_neg h0, htest]
  rw [hfind, Nat.mod_eq_of_lt hm]
  rfl

/-! ## once -/

/-- What a `once` does that governs an instruction which may be governed (R90). -/
def onceEff (s : State) : Eff :=
  match s.me.taken.bind (·.once) with
  | some id => .stay ((s.upd fun c => c.retired 2).updCluster s.cur.cl fun k => k.takeOnce id s.cur.core)
  | none => .next s

theorem exec_once (s : State) : exec .once s = retireUnless .once (onceRefusal s) s onceEff := rfl

theorem exec_once_refused {s : State} (h : onceRefused (governedWhat s) = true) :
    exec .once s = retireUnless .once (some (tILLEGAL, Instr.once.word)) s onceEff := by
  rw [exec_once, onceRefusal, h, if_pos rfl]

theorem exec_once_allowed {s : State} (h : onceRefused (governedWhat s) = false) : exec .once s = retire .once s onceEff := by
  rw [exec_once, onceRefusal, h, if_neg Bool.false_ne_true, retire]

/-- The receiver of a `once` past it, with its record taken up. -/
def State.received (s : State) (id : Nat) : State :=
  (s.upd fun c => c.retired 2).updCluster s.cur.cl fun k => k.takeOnce id s.cur.core

theorem Cluster.core_takeOnce (k : Cluster) (id j : Nat) :
    (k.takeOnce id j).core j = { k.core j with governed := some id, brSet := false, flagsRaised := 0 } := Cluster.core_setCore _ _ _

theorem Cluster.onces_takeOnce (k : Cluster) (id j : Nat) : (k.takeOnce id j).onces = k.onces.map fun o =>
    if o.id = id ∧ o.elected = none ∧ o.receivers.head? = some j then { o with elected := some j } else o := rfl

theorem State.me_received (s : State) (id : Nat) :
    (s.received id).me = { s.me.retired 2 with governed := some id, brSet := false, flagsRaised := 0 } := by
  have hme := State.me_updCluster (s.upd fun c => c.retired 2) fun k => k.takeOnce id s.cur.core
  rw [State.upd_cur, Cluster.core_takeOnce, State.mine_upd, Cluster.core_setCore] at hme
  exact hme

theorem State.onces_received (s : State) (id : Nat) : (s.received id).mine.onces = s.mine.onces.map fun o =>
    if o.id = id ∧ o.elected = none ∧ o.receivers.head? = some s.cur.core then { o with elected := some s.cur.core } else o := by
  have hmine := State.cluster_updCluster (s.upd fun c => c.retired 2) s.cur.cl fun k => k.takeOnce id s.cur.core
  have honces := congrArg Cluster.onces (State.mine_upd s fun c => c.retired 2)
  rw [State.received, State.mine, State.updCluster_cur, State.upd_cur, hmine, Cluster.onces_takeOnce]
  exact congrArg _ honces

/-- Outside a `rep` body a completed instruction leads its core behind it, with all its registers. -/
theorem Core.retired_of_not_inRep {c : Core} (h : c.inRep = false) (n : Nat) :
    c.retired n = { c with wait := none, taken := none, transfer := none, pc := c.pc + BitVec.ofNat 64 n } := by
  have h' : ({ c with wait := none, taken := none, transfer := none } : Core).inRep = false := h
  rw [Core.retired, Core.advance, h', if_neg Bool.false_ne_true]

/-- A receiver takes up the record of a `once`, and goes on to what it governs (R90). -/
theorem once_received {s : State} {e : Issued} {id : Nat} (hr : s.me.inRep = false) (hg : onceRefused (governedWhat s) = false)
    (ht : s.me.taken = some e) (ho : e.once = some id) (hp : Passes s .once) :
    Answers (exec .once s) fun t => t.me.governed = some id ∧ t.me.pc = s.me.pc + 2 ∧ t.me.store = s.me.store ∧ t.me.cr = s.me.cr ∧
      t.mine.onces = s.mine.onces.map fun o => if o.id = id ∧ o.elected = none ∧ o.receivers.head? = some s.cur.core
        then { o with elected := some s.cur.core } else o := by
  have hb : onceEff s = .stay (s.received id) := by
    have hbind : s.me.taken.bind (·.once) = some id := by rw [ht]; exact ho
    rw [onceEff, hbind]
    rfl
  refine ⟨s.received id, exec_of_stay (exec_once_allowed hg) hb hp, ?_⟩
  dsimp only
  rw [s.onces_received, s.me_received, Core.retired_of_not_inRep hr]
  exact ⟨rfl, rfl, rfl, rfl, rfl⟩

/-- A `once` without a record, as a core that fetches for itself meets it, only goes on (R91). -/
theorem once_alone {s : State} (hg : onceRefused (governedWhat s) = false) (ht : s.me.taken = none) :
    Does .once s nothing nothing fun _ => True := by
  refine .of_next (exec_once_allowed hg) ?_
  rw [onceEff, ht]
  rfl

/-- Settles O46: an attached core leaves its group, whose settling cannot touch it any more (`Cluster.core_settle_of_detached`); the mask of `lead`
by its lowest bit; `once` by what it governs and whether it has a record. -/
theorem groupMembership : Obligations.GroupMembership := by
  refine ⟨fun s d => ⟨detach_alone, detach_attached, fun h => put_writes rfl ?_,
      fun e j h hm hj hbit hlow => put_writes rfl ?_⟩,
    fun s hr => ⟨fun h => .of_refused (exec_once_refused h), once_alone, fun e id hg ht ho hp => once_received hr hg ht ho hp, ?_⟩⟩
  · rw [h]
    rfl
  · rw [h, leadWord_eq hm hj hbit hlow]
  · simp only [List.forall_mem_cons]
    decide

end Sys2Proof.Machine
end

section
/-! SUPPORT. `join`, `c.join` and `bar`, and the completion of a join (R93 to R95, R104). -/
namespace Sys2Proof.Machine
open Sys2Proof

/-! ## What a core has posted -/

/-- Nothing of the current core's own is under way to the homes that a scope covers. -/
theorem State.performed_iff (s : State) (sc : Nat) : s.performed sc ↔ s.drained s.cur sc = true := by
  simp only [State.performed, State.drained, List.all_eq_true, Bool.or_eq_true, bne_iff_ne, Bool.not_eq_true']
  refine forall₂_congr fun f _ => ?_
  rw [← Option.not_isSome_iff_eq_none, ← Bool.not_eq_true f.fromStation]
  tauto

/-! ## The completion of a join (R93) -/

/-- A fold over cores that changes each in the same way, and no other, changes the cores of its list. -/
theorem Cluster.core_foldl {step : Cluster → Nat → Cluster} {g : Core → Core} (hsame : ∀ k j, (step k j).core j = g (k.core j))
    (hother : ∀ k i j, i ≠ j → (step k j).core i = k.core i) {l : List Nat} (hl : l.Nodup) (k : Cluster) (i : Nat) :
    (l.foldl step k).core i = if i ∈ l then g (k.core i) else k.core i := by
  induction l generalizing k with
  | nil => rfl
  | cons j l ih =>
    obtain ⟨hj, hl⟩ := List.nodup_cons.mp hl
    rw [List.foldl_cons, ih hl]
    by_cases hi : i = j
    · subst hi
      rw [if_neg hj, if_pos List.mem_cons_self, hsame]
    · simp only [hother k i j hi, List.mem_cons, hi, false_or]

/-- A core that waits at the join goes on at an address, attached, with the join point (R93). -/
def Core.rejoin (c : Core) (jpt : Nat) (pc : Word) : Core :=
  if c.run = .joining then { c with run := .running, att := true, why := 0, jpt := jpt, pc := pc, buf := [] } else c

theorem Core.rejoin_joining {c : Core} (h : c.run = .joining) (jpt : Nat) (pc : Word) :
    c.rejoin jpt pc = { c with run := .running, att := true, why := 0, jpt := jpt, pc := pc, buf := [] } := if_pos h

/-- A join at which a core has not arrived goes on. -/
theorem Cluster.completeJoin_of_waiting {k : Cluster} {j : Nat} (hj : j < 8) (h : (k.core j).arrived = false) : k.completeJoin = k := by
  refine if_neg fun hall => ?_
  rw [Bool.and_eq_true, List.all_eq_true] at hall
  rw [hall.2 j (List.mem_range.mpr hj)] at h
  exact Bool.false_ne_true h.symm

/-- The stream of a group whose join is complete. -/
def Group.resume (g : Group) (pc : Word) : Group := { g with pc := pc, hold := .none, join := none, rep := none }

/-- With the last arrival the lowest core that waits leads the others on. -/
theorem Cluster.completeJoin_spec {k : Cluster} {lead m : Nat} {isBar : Bool} (ha : k.group.active = true)
    (hall : ∀ j < 8, (k.core j).arrived = true) (hlead : lead < 8) (hjoin : (k.core lead).run = .joining)
    (hlow : ∀ j < lead, (k.core j).run ≠ .joining) (hm : k.group.join = some (m, isBar)) :
    k.completeJoin.group = k.group.resume (k.core lead).pc ∧ ∀ j < 8, k.completeJoin.core j = (k.core j).rejoin m (k.core lead).pc := by
  have hfind : ((List.range 8).find? fun j => (k.core j).run == .joining) = some lead := by
    rw [List.find?_range_eq_some]
    exact ⟨beq_iff_eq.mpr hjoin, List.mem_range.mpr hlead, fun j hj => by simpa using hlow j hj⟩
  have hdone : (k.group.active && (List.range 8).all fun j => (k.core j).arrived) = true := by
    rw [ha, Bool.true_and, List.all_eq_true]
    exact fun j hj => hall j (List.mem_range.mp hj)
  rw [Cluster.completeJoin, if_pos hdone, hfind, hm]
  dsimp only
  refine ⟨?_, fun j hj => ?_⟩
  · refine List.foldlRecOn (motive := fun l : Cluster => l.group = k.group.resume (k.core lead).pc) _ _ rfl fun l hl j _ => ?_
    split <;> exact hl
  · rw [Cluster.core_foldl (g := fun c => c.rejoin m (k.core lead).pc) (fun l j => ?_) (fun l i j hij => ?_) List.nodup_range,
      if_pos (List.mem_range.mpr hj)]
    · rfl
    · split
      · next h => rw [Cluster.core_setCore, Core.rejoin_joining h]
      · next h => rw [Core.rejoin, if_neg h]
    · split
      · exact Cluster.core_setCore_other _ _ hij
      · rfl

/-! ## A core at a join point -/

/-- A core past the `join` or `bar` at which it waits. -/
def Core.joins (c : Core) (i : Instr) : Core := { c.retired i.len with run := .joining }

/-- A cluster one of whose cores waits at a join point. -/
def Cluster.joinedBy (k : Cluster) (j : Nat) (c : Core) (m : Nat) (isBar : Bool) : Cluster :=
  { k.setCore j c with group := { k.group with join := some (m, isBar) } }

section
variable {k : Cluster} {j m : Nat} {c : Core} {isBar : Bool}

theorem Cluster.core_joinedBy : (k.joinedBy j c m isBar).core j = c := Cluster.core_setCore k j c

theorem Cluster.core_joinedBy_other {i : Nat} (h : i ≠ j) : (k.joinedBy j c m isBar).core i = k.core i := Cluster.core_setCore_other k c h

/-- A core that arrives while another has not yet waits. -/
theorem Cluster.joinedBy_waits (h : ¬ ∀ i < 8, i ≠ j → (k.core i).arrived = true) :
    (k.joinedBy j c m isBar).completeJoin = k.joinedBy j c m isBar := by
  push Not at h
  obtain ⟨i, hi, hne, harr⟩ := h
  refine Cluster.completeJoin_of_waiting hi ?_
  rwa [Cluster.core_joinedBy_other hne, ← Bool.not_eq_true]

/-- The last core to arrive, below which none waits, leads the others on. -/
theorem Cluster.joinedBy_releases (ha : k.group.active = true) (hj : j < 8) (hrun : c.run = .joining) (hstop : c.stopped = false)
    (hall : ∀ i < 8, i ≠ j → (k.core i).arrived = true) (hlow : ∀ i < j, (k.core i).run ≠ .joining) :
    (k.joinedBy j c m isBar).completeJoin.group = k.group.resume c.pc ∧ (k.joinedBy j c m isBar).completeJoin.core j = c.rejoin m c.pc ∧
      ∀ i < 8, i ≠ j → (k.joinedBy j c m isBar).completeJoin.core i = (k.core i).rejoin m c.pc := by
  have hself : (k.joinedBy j c m isBar).core j = c := Cluster.core_joinedBy
  have harr : ∀ i < 8, ((k.joinedBy j c m isBar).core i).arrived = true := fun i hi => by
    by_cases hij : i = j
    · rw [hij, hself, Core.arrived, hrun, hstop]
      rfl
    · rw [Cluster.core_joinedBy_other hij, hall i hi hij]
  have hlow' : ∀ i < j, ((k.joinedBy j c m isBar).core i).run ≠ .joining := fun i hi => by
    rw [Cluster.core_joinedBy_other (Nat.ne_of_lt hi)]
    exact hlow i hi
  obtain ⟨hgroup, hcores⟩ := Cluster.completeJoin_spec (k := k.joinedBy j c m isBar) ha harr hj (by rw [hself, hrun]) hlow' rfl
  rw [hself] at hgroup hcores
  refine ⟨hgroup, by rw [hcores j hj, hself], fun i hi hij => by rw [hcores i hi, Cluster.core_joinedBy_other hij]⟩

end

section
variable {s : State} {i : Instr} {m : Nat} {isBar : Bool}

theorem joinAt_posted (hb : isBar = true) (h : ¬ s.performed 1) : joinAt i m isBar s = stallFor .order s := by
  rw [State.performed_iff, Bool.not_eq_true] at h
  rw [joinAt, hb, h]
  rfl

theorem joinAt_performed (h : isBar = true → s.performed 1) : joinAt i m isBar s =
    if s.me.coreTask then local_ s fun c => { c with jpt := m }
    else match s.mine.group.join with
      | some (p, b) =>
        if p = m ∧ b = isBar then .stay ((s.upd fun c => c.joins i).updCluster s.cur.cl Cluster.completeJoin)
        else .trap tJOINMISMATCH (BitVec.ofNat 64 (p + m * 16))
      | none =>
        .stay (((s.upd fun c => c.joins i).updCluster s.cur.cl fun k =>
          { k with group := { k.group with join := some (m, isBar) } }).updCluster s.cur.cl Cluster.completeJoin) := by
  refine if_neg fun hc => ?_
  rw [Bool.and_eq_true, Bool.not_eq_true', ← Bool.not_eq_true, ← State.performed_iff] at hc
  exact hc.2 (h hc.1)

theorem joinAt_coreTask (h : isBar = true → s.performed 1) (ht : s.me.coreTask = true) :
    joinAt i m isBar s = .next (s.upd fun c => { c with jpt := m }) := by
  rw [joinAt_performed h, if_pos ht]
  rfl

theorem joinAt_mismatch {p : Nat} {b : Bool} (h : isBar = true → s.performed 1) (ht : s.me.coreTask = false)
    (hj : s.mine.group.join = some (p, b)) (hne : p ≠ m ∨ b ≠ isBar) :
    joinAt i m isBar s = .trap tJOINMISMATCH (BitVec.ofNat 64 (p + m * 16)) := by
  rw [joinAt_performed h, ht, if_neg Bool.false_ne_true, hj]
  exact if_neg (by tauto)

/-- At a join point that is in force, or that it sets, a core waits, and the join is completed where every other has arrived. -/
theorem joinAt_waits (h : isBar = true → s.performed 1) (ht : s.me.coreTask = false)
    (hj : s.mine.group.join = none ∨ s.mine.group.join = some (m, isBar)) : ∃ u : State, joinAt i m isBar s = .stay u ∧ u.outer = s.outer ∧
      u.mine = (s.mine.joinedBy s.cur.core (s.me.joins i) m isBar).completeJoin := by
  rw [joinAt_performed h, ht, if_neg Bool.false_ne_true]
  obtain hj | hj := hj
  · rw [hj]
    refine ⟨_, rfl, rfl, ?_⟩
    rw [State.mine, State.updCluster_cur, State.updCluster_cur, State.upd_cur, State.cluster_updCluster, State.cluster_updCluster]
    exact congrArg (fun k : Cluster => Cluster.completeJoin { k with group := { k.group with join := some (m, isBar) } }) (State.mine_upd s _)
  · rw [hj]
    refine ⟨_, if_pos ⟨rfl, rfl⟩, rfl, ?_⟩
    have hg : s.mine.joinedBy s.cur.core (s.me.joins i) m isBar = s.mine.setCore s.cur.core (s.me.joins i) := by
      rw [Cluster.joinedBy, ← hj]
      rfl
    rw [State.mine, State.updCluster_cur, State.upd_cur, State.cluster_updCluster, hg]
    exact congrArg Cluster.completeJoin (State.mine_upd s _)

end

/-- A core at a join point has gone past the instruction, outside a `rep` body, and nothing else of it changes. -/
theorem Core.joins_spec {c : Core} (h : c.inRep = false) (i : Instr) :
    (c.joins i).run = .joining ∧ (c.joins i).pc = c.pc + BitVec.ofNat 64 i.len ∧ (c.joins i).stopped = c.stopped := by
  rw [Core.joins, Core.retired_of_not_inRep h]
  exact ⟨rfl, rfl, rfl⟩

theorem State.me_of_outer {s t : State} (h : t.outer = s.outer) : t.me = t.mine.core s.cur.core := by
  have hc : t.cur = s.cur := by have x := congrArg State.cur h; exact x
  rw [← hc]
  rfl

/-- Settles O47: what a core does at a join point follows its task and the point in force (`joinAt_performed`), and the completion of the join is
the cluster's (`Cluster.joinedBy_waits`, `Cluster.joinedBy_releases`). -/
theorem joinsMeet : Obligations.JoinsMeet := by
  intro s k n a hact hgov hrep g others point
  have htask : s.me.coreTask = !a.cluster := by rw [Core.coreTask, hact]
  have hpoint : ∀ i m isBar, exec i s = retire i s (joinAt i m isBar) → point i m isBar := by
    intro i m isBar he
    obtain ⟨hrun, hpc, hstays⟩ := Core.joins_spec hrep i
    refine ⟨fun hb h => .of_stall he (joinAt_posted hb h), fun h => ⟨fun hc => ?_, fun hc hg hcore => ?_⟩⟩
    · refine .of_next he (joinAt_coreTask h (by rw [htask, hc]; rfl)) ?_ ?_ trivial
      · rw [State.me_upd]
      · rw [State.me_upd]
        rfl
    · rw [hc] at htask
      refine ⟨fun p b hj hne => .of_trap he (joinAt_mismatch h htask hj hne), fun hj => ?_⟩
      obtain ⟨u, hu, hout, hmine⟩ := joinAt_waits (i := i) h htask hj
      have hme := State.me_of_outer hout
      refine ⟨fun hothers hp => ⟨u, exec_of_stay he hu hp, hout, ?_⟩, fun hothers hstop hlow hp => ⟨u, exec_of_stay he hu hp, hout, ?_⟩⟩
      · rw [Cluster.joinedBy_waits hothers] at hmine
        rw [hme, hmine, Cluster.core_joinedBy]
        exact ⟨hrun, hpc, rfl, fun j _ hne => Cluster.core_joinedBy_other hne⟩
      · obtain ⟨hgroup, hself, hcores⟩ :=
          Cluster.joinedBy_releases (m := m) (isBar := isBar) hg hcore hrun (hstays.trans hstop) hothers hlow
        rw [← hmine] at hgroup hself hcores
        rw [Core.rejoin_joining hrun, hpc] at hself
        rw [hme, hself, hgroup, hpc]
        refine ⟨rfl, rfl, rfl, rfl, rfl, rfl, fun j hj hne hjoin => ?_⟩
        rw [hcores j hj hne, Core.rejoin_joining hjoin, hpc]
        exact ⟨rfl, rfl, rfl, rfl, rfl⟩
  exact ⟨hpoint _ _ _ rfl, hpoint _ _ _ rfl, hpoint _ _ _ rfl⟩

end Sys2Proof.Machine
end

section
/-! SUPPORT. `rep` and the passes of its body (R29, R100 to R103). -/
namespace Sys2Proof.Machine
open Sys2Proof

/-! ## The fields of `REPSTATE` (R29) -/

theorem bits_eq_div_mod (w : Word) (lo len : Nat) : bits w lo len = w.toNat / 2 ^ lo % 2 ^ len := by
  rw [bits, Nat.shiftRight_eq_div_pow]

theorem bit_eq_decide (w : Word) (n : Nat) : bit w n = decide (w.toNat / 2 ^ n % 2 = 1) := by
  rw [bit, BitVec.getLsbD, Nat.testBit_eq_decide_div_mod_eq]

/-- A `REPSTATE` at the start of a `rep` holds its fields, ACT set, position and pass 0. -/
theorem repState_fields {g str len : Nat} (hg : g < 8) (hs : str < 4) (hl : len < 16) : let r := repState g str len 0 0
    bit r 45 = true ∧ bits r 42 3 = g ∧ bits r 40 2 = str ∧ bits r 36 4 = len ∧ bits r 32 4 = 0 ∧ bits r 0 32 = 0 := by
  intro r
  have hr : r.toNat = 2 ^ 45 + g * 2 ^ 42 + str * 2 ^ 40 + len * 2 ^ 36 := by
    simp only [r, repState, BitVec.toNat_ofNat]
    omega
  simp only [bits_eq_div_mod, bit_eq_decide, hr, decide_eq_true_eq]
  omega

/-- The next position changes the position alone. -/
theorem setPos_fields (w : Word) {p : Nat} (hp : p < 16) :
    bits (setBits w 32 4 p) 32 4 = p ∧ bits (setBits w 32 4 p) 0 32 = bits w 0 32 := by
  have hw := w.isLt
  have hr : (setBits w 32 4 p).toNat = w.toNat - w.toNat / 2 ^ 32 % 2 ^ 4 * 2 ^ 32 + p * 2 ^ 32 := by
    simp only [setBits, bits_eq_div_mod, BitVec.toNat_ofNat]
    omega
  simp only [bits_eq_div_mod, hr]
  omega

/-- The next pass begins at position 0. -/
theorem setPass_fields (w : Word) {n : Nat} (hn : n < 2 ^ 32) :
    bits (setBits (setBits w 32 4 0) 0 32 n) 32 4 = 0 ∧ bits (setBits (setBits w 32 4 0) 0 32 n) 0 32 = n := by
  obtain ⟨hpos, -⟩ := setPos_fields w (p := 0) (by decide)
  generalize setBits w 32 4 0 = x at hpos ⊢
  have hx := x.isLt
  have hr : (setBits x 0 32 n).toNat = x.toNat - x.toNat % 2 ^ 32 + n := by
    simp only [setBits, bits_eq_div_mod, BitVec.toNat_ofNat]
    omega
  rw [bits_eq_div_mod] at hpos
  simp only [bits_eq_div_mod, hr]
  omega

/-! ## The place after an instruction of a body (R100) -/

section
variable {c : Core} {n : Nat}

theorem Core.advance_within (hr : c.inRep = true) (h : c.repPos < c.repLen) :
    c.advance n = c.setCr Cr.repstate (setBits (c.cr_ Cr.repstate) 32 4 (c.repPos + 1)) := by
  rw [Core.advance, if_pos hr, if_pos h]

theorem Core.advance_pass (hr : c.inRep = true) (h : c.repPos = c.repLen) (hp : c.repPass + 1 < c.repCount) :
    c.advance n = c.setCr Cr.repstate (setBits (setBits (c.cr_ Cr.repstate) 32 4 0) 0 32 (c.repPass + 1)) := by
  rw [Core.advance, if_pos hr, if_neg (by omega), if_pos hp]

theorem Core.advance_end (hr : c.inRep = true) (h : c.repPos = c.repLen) (hp : c.repCount ≤ c.repPass + 1) :
    c.advance n = { c.setCr Cr.repstate 0 with pc := afterBody c.repBuf c.pc, repBuf := [] } := by
  rw [Core.advance, if_pos hr, if_neg (by omega), if_neg (by omega)]

end

theorem Core.repLen_lt (c : Core) : c.repLen < 16 := Nat.mod_lt _ (by decide)

/-- Outside a group and a `once` an instruction that completes only takes its core past it. -/
theorem State.finish_alone {u : State} {i : Instr} (hg : u.me.governed = none) (ha : u.me.att = false) :
    u.finish i = u.upd fun c => c.passed i := by
  rw [State.finish, hg, ha, if_neg Bool.false_ne_true]

section
variable {c : Core} (i : Instr)

theorem Core.passed_within (hr : c.inRep = true) (h : c.repPos < c.repLen) : (c.passed i).repPos = c.repPos + 1 ∧
    (c.passed i).repPass = c.repPass ∧ (c.passed i).pc = c.pc ∧ (c.passed i).repBuf = c.repBuf := by
  have hl := c.repLen_lt
  have he := Core.advance_within (c := { c with wait := none, taken := none, transfer := none }) (n := i.len) hr h
  obtain ⟨hpos, hpass⟩ := setPos_fields (c.cr_ Cr.repstate) (p := c.repPos + 1) (by omega)
  rw [Core.passed, Core.retired, he]
  refine ⟨?_, ?_, rfl, rfl⟩
  · exact (congrArg (bits · 32 4) (Core.cr_setCr ..)).trans hpos
  · exact (congrArg (bits · 0 32) (Core.cr_setCr ..)).trans hpass

theorem Core.passed_pass (hr : c.inRep = true) (h : c.repPos = c.repLen) (hp : c.repPass + 1 < c.repCount) (hlt : c.repPass + 1 < 2 ^ 32) :
    (c.passed i).repPos = 0 ∧ (c.passed i).repPass = c.repPass + 1 ∧ (c.passed i).pc = c.pc := by
  have he := Core.advance_pass (c := { c with wait := none, taken := none, transfer := none }) (n := i.len) hr h hp
  obtain ⟨hpos, hpass⟩ := setPass_fields (c.cr_ Cr.repstate) hlt
  rw [Core.passed, Core.retired, he]
  refine ⟨?_, ?_, rfl⟩
  · exact (congrArg (bits · 32 4) (Core.cr_setCr ..)).trans hpos
  · exact (congrArg (bits · 0 32) (Core.cr_setCr ..)).trans hpass

theorem Core.passed_end (hr : c.inRep = true) (h : c.repPos = c.repLen) (hp : c.repCount ≤ c.repPass + 1) :
    (c.passed i).cr_ Cr.repstate = 0 ∧ (c.passed i).pc = afterBody c.repBuf c.pc ∧ (c.passed i).repBuf = [] := by
  have he := Core.advance_end (c := { c with wait := none, taken := none, transfer := none }) (n := i.len) hr h hp
  rw [Core.passed, Core.retired, he]
  exact ⟨Core.cr_setCr .., rfl, rfl⟩

end

/-! ## The start of a repetition -/

theorem Instr.rep_fields_of_legal {f : Word} {a l w : Reg} {g : BitVec 3} (h : (Instr.rep a l w g).legal f = true) :
    l.toNat ≤ 16 ∧ w.toNat ≤ 4 := by
  rw [Instr.legal, Bool.and_eq_true, Bool.and_eq_true] at h
  have hfields : (1 ≤ l.toNat && l.toNat ≤ 16 && 1 ≤ w.toNat && w.toNat ≤ 4 : Bool) = true := h.1.2
  simp only [Bool.and_eq_true, decide_eq_true_eq] at hfields
  omega

/-- What a `rep` does whose body may be repeated (R100, R103). -/
def repEff (a l w : Reg) (g : BitVec 3) (s : State) : Eff :=
  let count := (s.me.s a.toNat).toNat % 2 ^ 32
  let s1 := s.upd fun c => c.beginRep g w.toNat l.toNat count (repBody l s)
  if s.me.att then
    let differs := match s.me.taken.bind (·.count) with | some n => n != count | none => false
    .stay (s1.updCluster s.cur.cl fun k => (if differs then k.detach s.cur.core 1 else k).settle)
  else .stay s1

theorem exec_rep (a l w : Reg) (g : BitVec 3) (s : State) :
    exec (.rep a l w g) s = retireUnless (.rep a l w g) (bodyRefused s.feat0 (repBody l s)) s (repEff a l w g) := rfl

theorem Cluster.alike_detachIf (b : Bool) (k : Cluster) (j why : Nat) : k.Alike (if b then k.detach j why else k) := by
  cases b with
  | false => exact .refl k
  | true => exact Cluster.alike_detach k j why

/-- A `rep` begins at its own core; its group follows (R103). -/
theorem repEff_begins (a l w : Reg) (g : BitVec 3) (s : State) : ∃ t, repEff a l w g s = .stay t ∧
    SameData (s.upd fun c => c.beginRep g w.toNat l.toNat ((s.me.s a.toNat).toNat % 2 ^ 32) (repBody l s)) t := by
  unfold repEff
  dsimp only
  split
  · exact ⟨_, rfl, .of_updCluster _ _ _ ((Cluster.alike_detachIf _ _ _ _).trans (Cluster.alike_settle _))⟩
  · exact ⟨_, rfl, .refl _⟩

theorem Core.beginRep_pos (c : Core) (g : BitVec 3) (str len : Nat) {n : Nat} (hn : n ≠ 0) (body : List (Word × Fetched)) :
    c.beginRep g str len n body = { c.setCr Cr.repstate (repState g.toNat (str - 1) (len - 1) 0 0) with
      wait := none, taken := none, transfer := none, fell := none, repCount := n, repBuf := body } := by
  rw [Core.beginRep, if_neg hn]
  rfl

theorem Core.beginRep_keeps (c : Core) (g : BitVec 3) (str len n : Nat) (body : List (Word × Fetched)) :
    (c.beginRep g str len n body).store = c.store ∧ ∀ m, m ≠ Cr.repstate → (c.beginRep g str len n body).cr_ m = c.cr_ m := by
  by_cases hn : n = 0
  · subst hn
    exact ⟨rfl, fun m hm => Core.cr_setCr_other _ _ hm⟩
  · rw [Core.beginRep_pos c g str len hn body]
    exact ⟨rfl, fun m hm => Core.cr_setCr_other _ _ hm⟩

/-- With a count of 0 the program goes on behind the body, and any other count holds it, at its first pass and position. -/
theorem Core.beginRep_spec {c : Core} {g : BitVec 3} {str len n : Nat} {body : List (Word × Fetched)} (hs : str ≤ 4) (hl : len ≤ 16) :
    let d := c.beginRep g str len n body
    (n = 0 → d.pc = afterBody body c.pc ∧ d.cr_ Cr.repstate = 0 ∧ d.repBuf = c.repBuf) ∧
    (n ≠ 0 → d.pc = c.pc ∧ d.repBuf = body ∧ d.repCount = n ∧ let r := d.cr_ Cr.repstate
      bit r 45 = true ∧ bits r 42 3 = g.toNat ∧ bits r 40 2 = str - 1 ∧ bits r 36 4 = len - 1 ∧ bits r 32 4 = 0 ∧ bits r 0 32 = 0) := by
  refine ⟨fun hn => ?_, fun hn => ?_⟩
  · subst hn
    exact ⟨rfl, Core.cr_setCr .., rfl⟩
  · rw [Core.beginRep_pos c g str len hn body]
    have hr : ({ c.setCr Cr.repstate (repState g.toNat (str - 1) (len - 1) 0 0) with
        wait := none, taken := none, transfer := none, fell := none, repCount := n, repBuf := body } : Core).cr_ Cr.repstate =
        repState g.toNat (str - 1) (len - 1) 0 0 := Core.cr_setCr ..
    rw [hr]
    exact ⟨rfl, rfl, rfl, repState_fields g.isLt (by omega) (by omega)⟩

/-- What a group's progress leaves of a core in a repetition. -/
theorem Core.repetition_of_apart {c d : Core} (h : d.apart = c.apart) :
    d.store = c.store ∧ (∀ m, d.cr_ m = c.cr_ m) ∧ d.pc = c.pc ∧ d.repBuf = c.repBuf ∧ d.repCount = c.repCount := by
  have hcr : d.cr = c.cr := by have x := congrArg Core.cr h; exact x
  refine ⟨?_, fun m => by rw [Core.cr_, Core.cr_, hcr], ?_, ?_, ?_⟩
  · have x := congrArg Core.store h; exact x
  · have x := congrArg Core.pc h; exact x
  · have x := congrArg Core.repBuf h; exact x
  · have x := congrArg Core.repCount h; exact x

/-- Settles O48: a `rep` begins at its core alone (`repEff_begins`, `Core.beginRep_spec`); `nop` shows the three places that follow an instruction of
its body (`Core.passed_within`, `Core.passed_pass`, `Core.passed_end`). -/
theorem repetitions : Obligations.Repetitions := by
  refine ⟨fun s a l w g => ?_, fun s hr hg ha hle hp => ?_⟩
  · intro i fetched body n
    refine ⟨fun h => ?_, fun e h => ?_, fun e h => .of_refused (body := repEff a l w g) ?_, fun h hp => ?_⟩
    · simp only [body, repBody, h]; rfl
    · simp only [body, repBody, h]; rfl
    · rw [exec_rep, h]
    · obtain ⟨hl, hw⟩ := Instr.rep_fields_of_legal hp.1
      obtain ⟨t, ht, hd⟩ := repEff_begins a l w g s
      have he : exec i s = .next t := exec_of_stay (by rw [exec_rep, h]; rfl) ht hp
      have hm := hd.me
      rw [State.me_upd] at hm
      obtain ⟨hstore, hcr, hpc, hbuf, hcount⟩ := Core.repetition_of_apart hm
      obtain ⟨hkeeps, hcrs⟩ := Core.beginRep_keeps s.me g w.toNat l.toNat n body
      refine ⟨t, he, (s.onlyMine_upd _).trans hd.onlyMine, hstore.trans hkeeps, fun m hm => (hcr m).trans (hcrs m hm), ?_⟩
      rw [hpc, hbuf, hcount, hcr]
      exact Core.beginRep_spec hw hl
  · have he : exec .nop s = .next (s.upd fun c => c.passed .nop) := 
      (exec_of_next (u := s) rfl rfl hp).trans (by rw [State.finish_alone hg ha])
    refine ⟨_, he, s.onlyMine_upd _, ?_⟩
    rw [State.me_upd]
    exact ⟨Core.store_retired s.me _, Core.passed_within .nop hr, Core.passed_pass .nop hr, Core.passed_end .nop hr⟩

end Sys2Proof.Machine
end

section
/-! SUPPORT. A refetch of a buffered instruction charges its page walk to the bank, and an access that waits there loses its row (R331, R332). -/
namespace Sys2Proof.Machine
open Sys2Proof

/-- A running core whose access at another row of the first bank of HBM shares the activation that is under way, with a fetched instruction in
its buffer. -/
def Core.backlogged : Core :=
  { Core.blank with
    run := .running
    pend := some { op := .load 8 false, instr := .nop, addr := 0, idx := 0, asked := (0, 0), scale := 0, hint := 0, lane := 16, vec := none,
                   spread := none, probe := 0, tag := 0, reissue := false, since := none, rel := none, far := false, joined := true,
                   counted := false, stage := .home (2 ^ 24) }
    buf := [⟨0, .bad 0 false, none, none, 0, 0, [], none⟩] }

/-- A module with that core alone, in a context whose page tables lie at the start of HBM. -/
def State.refetching : State :=
  { State.reset with contexts := [(0, ⟨0, 0, 0⟩)], clusters := [(0, { Cluster.blank with cores := [(0, Core.backlogged)] })] }

theorem passes_refetching : Passes State.refetching .ifence := ⟨by decide, by decide, by decide⟩

/-- The walk of the refetch opens the row of the page table, and the core's own access no longer shares the activation. -/
theorem joined_of_refetching : ∃ t, exec .ifence State.refetching = .next t ∧ t.me.pend.map (·.joined) = some false :=
  ⟨_, rfl, by decide⟩

/-- Refutes O19: an `ifence` fetches buffered instructions again, the page walk of that fetch opens a row, and an access of the core itself
that waits at another row of the bank loses its share of the activation (R331, R332), so that more than its place has changed
(`joined_of_refetching`). -/
theorem not_fencesComplete : ¬ Obligations.FencesComplete := by
  intro h
  obtain ⟨t, ht, hkeeps, _⟩ := (h State.refetching 0 0 0).2.2.2.2.1 passes_refetching
  obtain ⟨u, hu, hjoined⟩ := joined_of_refetching
  obtain rfl : u = t := Host.Outcome.next.inj (hu.symm.trans ht)
  have hpend := congrArg (fun c => c.pend.map (·.joined)) hkeeps.1
  have hold : State.refetching.me.rest.pend.map (·.joined) = some true := rfl
  exact absurd (hjoined.symm.trans (hpend.trans hold)) (by decide)

end Sys2Proof.Machine
end

section
/-! SUPPORT. An instruction that completes after its effect has changed its own core, and a wait that is not met (R79, R120, R202). -/
namespace Sys2Proof.Machine
open Sys2Proof

/-! ## Completing behind an effect -/

theorem State.finish_store (u : State) (i : Instr) : (u.finish i).me.store = u.me.store := by
  have h := congrArg Core.store (u.finish_leaves i).2.2.2
  exact h.trans (Core.store_retired u.me i.len)

section
variable {i : Instr} {s u U : State} {body : State → Eff} {b n : Nat → Prop} {p : State → Prop}

/-- An instruction that completes leaves a state but for what its effect has changed of its own core. -/
theorem Leaves.of_effect (he : exec i s = retire i s body) (hb : body s = .next U) (ho : OnlyMine u U) (hk : u.me.Keeps U.me b n)
    (hpc : U.me.pc = s.me.pc) (hr : U.me.inRep = s.me.inRep)
    (hp : ∀ t : State, t.me.store = U.me.store → (∀ m, m ≠ Cr.repstate → t.me.cr_ m = U.me.cr_ m) → p t) : Leaves i s u b n p := fun h => by
  obtain ⟨honly, hkeeps, hgo, -⟩ := U.finish_leaves i
  exact ⟨U.finish i, exec_of_next he hb h, ho.trans honly, hk.trans (hkeeps.mono (fun _ h => h.elim) fun _ h => h.elim),
    fun h => by rw [hgo (hr.trans h), hpc], hp _ (U.finish_store i) fun m hm => U.finish_cr i m fun h => absurd h hm⟩

end

/-! ## The header of a frame (R20, R202) -/

/-- The five words of a header are read back as they were saved. -/
theorem Core.words_saveHeader (c : Core) (h : Nat) (pc : Word) :
    (c.saveHeader h pc).store.words h 5 = [pc, c.stat, c.cr_ Cr.fpc, c.cr_ Cr.wsize, c.cr_ Cr.repstate] := by
  have hread (m : Memory) {a b : Nat} (v : Nat) (hab : b + 8 ≤ a) : (m.store a 8 v).read8 b = m.read8 b :=
    Memory.read8_store_other _ _ _ (.inl hab)
  simp [Core.saveHeader, Memory.words, hread]

theorem Core.get_saveHeader (c : Core) (h : Nat) (pc : Word) {x : Nat} (hx : ¬ span h 40 x) :
    (c.saveHeader h pc).store.get x = c.store.get x := by
  rw [span] at hx
  simp only [Core.saveHeader]
  repeat rw [Memory.get_store_other _ _ _ (by omega)]

/-! ## Waiting -/

theorem State.trace_of_untraced {s : State} {r : CoreRef} (h : (s.core r).untraced) (ev : Nat) : s.trace r ev = s := by
  rw [State.trace, if_neg (Bool.eq_false_iff.mp h)]

section
variable {i : Instr} {s : State} {body : State → Eff} {cond : Cond}

/-- A core task outside trap mode parks. -/
theorem State.waitFor_of_solo {a : Act} (h : s.me.solo a) : s.waitFor cond = .stay (s.upd fun c => c.park cond) := by
  obtain ⟨hact, hcluster, htm, -, -, htrace⟩ := h
  have hcore : s.me.coreTask = true := by simp [Core.coreTask, hact, hcluster]
  rw [State.waitFor, hcore, htm, State.trace_of_untraced htrace]
  rfl

/-- A cluster task and a handler block. -/
theorem State.waitFor_of_blocks (h : s.me.tm = true ∨ ∀ a, s.me.act = some a → a.cluster = true) : s.waitFor cond = stallFor cond s := by
  have hno : ¬ (s.me.coreTask && !s.me.tm) = true := by
    rw [Bool.and_eq_true, Bool.not_eq_true', Core.coreTask]
    rintro ⟨hcore, htm⟩
    rcases h with h | h
    · rw [htm] at h
      exact Bool.false_ne_true h
    · split at hcore
      · next a hact => simp [h a hact] at hcore
      · exact Bool.false_ne_true hcore
  rw [State.waitFor, if_neg hno]
  rfl

theorem Core.park_of_act {c : Core} {a : Act} (h : c.act = some a) (cond : Cond) : c.park cond = { c.saveHeader c.wp c.pc with
    parked := c.parked ++ [⟨{ a with frame := c.wp }, cond⟩], act := none, run := c.resting, wait := none, taken := none, repBuf := [],
    transfer := none } := by
  rw [Core.park, h]

/-- An effect that waits parks a core task with its header saved, and blocks any other (R120, R202). -/
theorem Waits.of_waitFor (he : exec i s = retire i s body) (hb : body s = s.waitFor cond) : Waits i s cond := by
  refine ⟨fun a ha hp => ?_, fun h => .of_stall he (hb.trans (State.waitFor_of_blocks h))⟩
  refine ⟨_, exec_of_stay he (hb.trans (State.waitFor_of_solo ha)) hp, s.onlyMine_upd _, ?_⟩
  rw [State.me_upd, Core.park_of_act ha.1]
  exact ⟨rfl, rfl, rfl, rfl, rfl, s.me.words_saveHeader _ _, fun x hx => s.me.get_saveHeader _ _ hx⟩

end

end Sys2Proof.Machine
end

section
/-! SUPPORT. `yield` (R126). -/
namespace Sys2Proof.Machine
open Sys2Proof

theorem exec_yield (s : State) : exec .yield s = retire .yield s fun s =>
    if s.me.yields then .stay (((s.finish .yield).trace s.cur 2).upd fun c => c.giveWay s.cyc) else .next s := rfl

/-- A core task gives way where an entry of its own priority or above is ready. -/
theorem Core.yields_iff {c : Core} {a : Act} (h : c.act = some a) :
    c.yields = true ↔ a.cluster = false ∧ c.tm = false ∧ ∃ e ∈ c.ready, a.prio ≤ e.level := by
  simp [Core.yields, h, and_assoc]

theorem Core.yields_eq_false {c : Core}
    (h : ∀ a, c.act = some a → a.cluster = true ∨ c.tm = true ∨ ∀ e ∈ c.ready, e.level < a.prio) : c.yields = false := by
  cases hact : c.act with
  | none => rw [Core.yields, hact]
  | some a =>
    rw [Bool.eq_false_iff, Ne, Core.yields_iff hact]
    rintro ⟨hcluster, htm, e, he, hle⟩
    rcases h a hact with h | h | h
    · rw [hcluster] at h
      exact Bool.false_ne_true h
    · rw [htm] at h
      exact Bool.false_ne_true h
    · exact absurd (h e he) (Nat.not_lt.mpr hle)

/-- The entry of an activation that gives way: behind the others of its level, and parked while the queue is full. -/
theorem Core.giveWay_spec {c : Core} {a : Act} (h : c.act = some a) (now : Word) :
    (c.giveWay now).run = c.resting ∧ (c.giveWay now).act = none ∧ (c.giveWay now).store = (c.saveHeader c.wp c.pc).store ∧
      if c.ready.length < 64 then (c.giveWay now).parked = c.parked ∧
        (c.giveWay now).ready = c.ready ++ [⟨a.cls, a.prio, some { a with frame := c.wp }, a.slot, none, 0, now, now⟩]
      else (c.giveWay now).ready = c.ready ∧ (c.giveWay now).parked = c.parked ++ [⟨{ a with frame := c.wp }, .time 0⟩] := by
  rw [Core.giveWay, h]
  dsimp only
  by_cases hroom : c.ready.length < 64
  · have hfull : ¬ c.readyFull = true := by rw [Core.readyFull, decide_eq_true_eq, readyMax]; omega
    rw [if_neg hfull, if_pos hroom]
    exact ⟨rfl, rfl, rfl, rfl, rfl⟩
  · have hfull : c.readyFull = true := by rw [Core.readyFull, decide_eq_true_eq, readyMax]; omega
    rw [if_pos hfull, if_neg hroom, Core.park_of_act h]
    exact ⟨rfl, rfl, rfl, rfl, rfl⟩

/-- Settles O21: what gives way is the core past the instruction (`State.finish_alone`), with its header saved (`Core.words_saveHeader`). -/
theorem yieldGivesWay : Obligations.YieldGivesWay := by
  intro s
  refine ⟨fun h => .of_next (exec_yield s) (if_neg ?_), fun a e hsolo hrep he hle hp => ?_⟩
  · rw [Core.yields_eq_false h]
    exact Bool.false_ne_true
  · obtain ⟨hact, hcluster, htm, hatt, hgoverned, htrace⟩ := hsolo
    have hexec := exec_of_stay (exec_yield s) (if_pos ((Core.yields_iff hact).mpr ⟨hcluster, htm, e, he, hle⟩)) hp
    rw [State.finish_alone hgoverned hatt] at hexec
    have hpassed : s.me.passed .yield = { s.me with
        wait := none, taken := none, transfer := none, pc := s.me.pc + 4, fell := none } := by
      rw [Core.passed, Core.retired_of_not_inRep hrep]
      rfl
    have huntraced : (s.upd fun c => c.passed .yield).me.untraced := by
      rw [State.me_upd, hpassed]
      exact htrace
    have hsame : (s.upd fun c => c.passed .yield).trace s.cur 2 = s.upd fun c => c.passed .yield := State.trace_of_untraced huntraced 2
    rw [hsame] at hexec
    have hact' : (s.me.passed .yield).act = some a := by rw [hpassed]; exact hact
    obtain ⟨hrun, hnone, hstore, hqueue⟩ := Core.giveWay_spec hact' s.cyc
    refine ⟨_, hexec, (s.onlyMine_upd _).trans (State.onlyMine_upd _ _), ?_⟩
    rw [State.me_upd, State.me_upd, hrun, hnone, hstore]
    rw [hpassed] at hqueue ⊢
    exact ⟨rfl, rfl, hqueue, Core.words_saveHeader .., fun x hx => Core.get_saveHeader _ _ _ hx⟩

end Sys2Proof.Machine
end

section
/-! SUPPORT. Where an address of a core lies (R31): the place of each form, and the trap of an address outside every window. -/
namespace Sys2Proof.Machine
open Sys2Proof

theorem inStore_iff {o : Nat} : inStore o = true ↔ o < 0x40020 := decide_eq_true_iff

section
variable {a : Word}

theorem placeOf_own (h : a.toNat < 0x40020) : placeOf a = .ok (.own a.toNat) := by
  have hspace : bits a 62 2 = 0 := by rw [bits_eq_div_mod]; omega
  rw [placeOf, if_pos hspace, if_pos (inStore_iff.mpr h)]

theorem placeOf_window (hlo : 0x41000 ≤ a.toNat) (hhi : a.toNat < 0x41400) :
    placeOf a = .ok (.window ((a.toNat - 0x41000) / 0x100) (a.toNat % 0x100)) := by
  have hspace : bits a 62 2 = 0 := by rw [bits_eq_div_mod]; omega
  rw [placeOf, if_pos hspace, if_neg (by rw [inStore_iff]; omega), if_pos ⟨hlo, hhi⟩]

theorem placeOf_past (hown : a.toNat < 2 ^ 62) (hlo : 0x40020 ≤ a.toNat) (hwin : ¬ (0x41000 ≤ a.toNat ∧ a.toNat < 0x41400)) :
    placeOf a = .error tLOCALBOUNDS := by
  have hspace : bits a 62 2 = 0 := by rw [bits_eq_div_mod]; omega
  rw [placeOf, if_pos hspace, if_neg (by rw [inStore_iff]; omega), if_neg hwin]

theorem meshAddr_toNat {vc core o : Nat} (hvc : vc < 8192) (hcore : core < 8) (ho : o < 0x40020) :
    (meshAddr vc core o).toNat = 2 ^ 62 + vc * 2 ^ 24 + core * 2 ^ 21 + o := by
  rw [meshAddr, BitVec.toNat_ofNat, Nat.mod_eq_of_lt]
  omega

theorem placeOf_mesh {vc core o : Nat} (hvc : vc < 8192) (hcore : core < 8) (ho : o < 0x40020) :
    placeOf (meshAddr vc core o) = .ok (.mesh vc core o) := by
  have ha := meshAddr_toNat hvc hcore ho
  have hspace : bits (meshAddr vc core o) 62 2 = 1 := by rw [bits_eq_div_mod, ha]; omega
  have hhigh : bits (meshAddr vc core o) 37 25 = 0 := by rw [bits_eq_div_mod, ha]; omega
  have hzero : bits (meshAddr vc core o) 20 1 = 0 := by rw [bits_eq_div_mod, ha]; omega
  have hoff : bits (meshAddr vc core o) 0 20 = o := by rw [bits_eq_div_mod, ha]; omega
  have hcl : bits (meshAddr vc core o) 24 13 = vc := by rw [bits_eq_div_mod, ha]; omega
  have hno : bits (meshAddr vc core o) 21 3 = core := by rw [bits_eq_div_mod, ha]; omega
  rw [placeOf, hspace, if_neg (by omega), if_pos rfl, hoff, hcl, hno, if_pos ⟨hhigh, hzero, inStore_iff.mpr ho⟩]

theorem placeOf_no_core (hmesh : a.toNat / 2 ^ 62 = 1) (hbad : a.toNat / 2 ^ 37 % 2 ^ 25 ≠ 0 ∨ 0x40020 ≤ a.toNat % 2 ^ 21) :
    placeOf a = .error tMESH := by
  have hspace : bits a 62 2 = 1 := by rw [bits_eq_div_mod]; omega
  rw [placeOf, hspace, if_neg (by omega), if_pos rfl, if_neg]
  rw [inStore_iff]
  simp only [bits_eq_div_mod]
  omega

theorem placeOf_high (h : 2 ^ 63 ≤ a.toNat) : placeOf a = if bits a 57 6 = 0 then .ok (.global (bits a 0 57)) else .error tTRANSLATION := by
  have hspace : ¬ bits a 62 2 = 0 ∧ ¬ bits a 62 2 = 1 := by rw [bits_eq_div_mod]; omega
  rw [placeOf, if_neg hspace.1, if_neg hspace.2]

theorem placeOf_global (h : 2 ^ 63 ≤ a.toNat) (hva : a.toNat / 2 ^ 57 % 2 ^ 6 = 0) : placeOf a = .ok (.global (bits a 0 57)) := by
  rw [placeOf_high h, if_pos ((bits_eq_div_mod a 57 6).trans hva)]

theorem placeOf_untranslated (h : 2 ^ 63 ≤ a.toNat) (hva : a.toNat / 2 ^ 57 % 2 ^ 6 ≠ 0) : placeOf a = .error tTRANSLATION := by
  rw [placeOf_high h, if_neg fun e => hva ((bits_eq_div_mod a 57 6).symm.trans e)]

/-- A mesh place is that of the address which names it, and its core and offset exist. -/
theorem placeOf_eq_mesh {vc core o : Nat} (h : placeOf a = .ok (.mesh vc core o)) :
    vc < 8192 ∧ core < 8 ∧ o < 0x40020 ∧ a = meshAddr vc core o := by
  simp only [placeOf, bits_eq_div_mod] at h
  have hlt := a.isLt
  split at h
  · split at h
    · cases h
    · split at h <;> cases h
  · split at h
    · next hspace =>
      split at h
      · next hin =>
        obtain ⟨hhigh, hzero, hstore⟩ := hin
        rw [inStore_iff] at hstore
        cases h
        refine ⟨by omega, by omega, hstore, BitVec.eq_of_toNat_eq ?_⟩
        rw [meshAddr_toNat (by omega) (by omega) hstore]
        omega
      · cases h
    · split at h <;> cases h

end

end Sys2Proof.Machine
end

section
/-! SUPPORT. A field of a number replaced, and so BR in `STAT` (R26) and the bytes of the flag page (R113). -/
namespace Sys2Proof.Machine
open Sys2Proof

/-! ## A field replaced -/

/-- A number whose k bits from bit m on are replaced by v. -/
def splice (x m k v : Nat) : Nat := x - x / 2 ^ m % 2 ^ k * 2 ^ m + v * 2 ^ m

section
variable {x m k v : Nat}

/-- What lies above the field, the field and what lies below it. -/
theorem splice_eq (x m k v : Nat) : splice x m k v = 2 ^ m * (2 ^ k * (x / 2 ^ m / 2 ^ k) + v) + x % 2 ^ m := by
  have hx : 2 ^ m * (x / 2 ^ m) + x % 2 ^ m = x := Nat.div_add_mod x (2 ^ m)
  have hq : 2 ^ k * (x / 2 ^ m / 2 ^ k) + x / 2 ^ m % 2 ^ k = x / 2 ^ m := Nat.div_add_mod _ _
  have hsum : 2 ^ m * (2 ^ k * (x / 2 ^ m / 2 ^ k)) + x / 2 ^ m % 2 ^ k * 2 ^ m + x % 2 ^ m = x := by
    rw [Nat.mul_comm (x / 2 ^ m % 2 ^ k), ← Nat.mul_add, hq, hx]
  rw [splice, Nat.mul_add, Nat.mul_comm v]
  omega

theorem splice_field (hv : v < 2 ^ k) : splice x m k v / 2 ^ m % 2 ^ k = v := by
  rw [splice_eq, Nat.mul_add_div (Nat.two_pow_pos m), Nat.div_eq_of_lt (Nat.mod_lt _ (Nat.two_pow_pos m)), Nat.add_zero, Nat.mul_add_mod,
    Nat.mod_eq_of_lt hv]

/-- No bit outside the field changes. -/
theorem testBit_splice (hv : v < 2 ^ k) {j : Nat} (hj : j < m ∨ m + k ≤ j) : (splice x m k v).testBit j = x.testBit j := by
  rw [splice_eq, Nat.testBit_two_pow_mul_add _ (Nat.mod_lt _ (Nat.two_pow_pos m))]
  split
  · next h => rw [Nat.testBit_mod_two_pow, decide_eq_true h, Bool.true_and]
  · next h =>
    rw [Nat.testBit_two_pow_mul_add _ hv, if_neg (by omega), Nat.testBit_div_two_pow, Nat.testBit_div_two_pow]
    congr 1
    omega

theorem splice_lt (hv : v < 2 ^ k) {w : Nat} (hx : x < 2 ^ w) (hw : m + k ≤ w) : splice x m k v < 2 ^ w := by
  refine Nat.lt_pow_two_of_testBit _ fun j hj => ?_
  rw [testBit_splice hv (.inr (hw.trans hj))]
  exact Nat.testBit_lt_two_pow (hx.trans_le (Nat.pow_le_pow_right (by decide) hj))

end

/-! ## BR -/

theorem setBits_toNat (w : Word) {lo len : Nat} (h : lo + len ≤ 64) (v : Nat) :
    (setBits w lo len v).toNat = splice w.toNat lo len (v % 2 ^ len) := by
  rw [setBits, bits_eq_div_mod, BitVec.toNat_ofNat]
  exact Nat.mod_eq_of_lt (splice_lt (Nat.mod_lt _ (Nat.two_pow_pos _)) w.isLt h)

theorem getLsbD_setBits (w : Word) {lo len j : Nat} (h : lo + len ≤ 64) (v : Nat) (hj : j < lo ∨ lo + len ≤ j) :
    (setBits w lo len v).getLsbD j = w.getLsbD j := by
  rw [BitVec.getLsbD, setBits_toNat w h, testBit_splice (Nat.mod_lt _ (Nat.two_pow_pos _)) hj]
  rfl

section
variable (c : Core) (v : Nat)

theorem Core.stat_setBr : (c.setBr v).cr_ Cr.stat = setBits (c.cr_ Cr.stat) 0 2 v := Core.cr_setCr c _ _

theorem Core.br_setBr (hv : v < 4) : (c.setBr v).br = v := by
  rw [Core.br, Core.stat_setBr, bits_eq_div_mod, setBits_toNat _ (by decide), splice_field (Nat.mod_lt _ (by decide))]
  exact Nat.mod_eq_of_lt hv

theorem Core.statBit_setBr {n : Nat} (hn : 2 ≤ n) : ((c.setBr v).cr_ Cr.stat).getLsbD n = (c.cr_ Cr.stat).getLsbD n := by
  rw [Core.stat_setBr, getLsbD_setBits _ (by decide) _ (.inr hn)]

theorem Core.tm_setBr : (c.setBr v).tm = c.tm := Core.statBit_setBr c v (by decide)

theorem Core.cr_setBr_other {m : Nat} (hm : m ≠ Cr.stat) : (c.setBr v).cr_ m = c.cr_ m := Core.cr_setCr_other _ _ hm

theorem Core.inRep_setBr : (c.setBr v).inRep = c.inRep := by
  rw [Core.inRep, Core.inRep, Core.tm_setBr, Core.cr_setBr_other c v (by decide)]
  rfl

theorem Core.keeps_setBr (b : Nat → Prop) : c.Keeps (c.setBr v) b onlyStat :=
  ⟨rfl, Memory.Keeps.refl _ _, fun _ h _ => Core.cr_setBr_other c v h⟩

theorem Core.inRep_setS (j : Nat) (w : Word) : (c.setS j w).inRep = c.inRep := by simp [Core.inRep, Core.tm]

theorem Core.s_setBr (j : Nat) : (c.setBr v).s j = c.s j := by
  have hwp : (c.setBr v).cr_ Cr.wp = c.cr_ Cr.wp := Core.cr_setBr_other c v (by decide)
  have hstore : (c.setBr v).store = c.store := rfl
  rw [Core.s_congr hstore hwp]

end

theorem Core.s_setS_reg (c : Core) (d : Reg) (v : Word) : (c.setS d.toNat v).s d.toNat = if d = 0 then 0 else v := by
  rw [Core.s_setS_same]
  simp only [toNat_eq_zero_iff]

/-- A core's BR is in its `STAT`. -/
theorem Core.br_congr {c d : Core} (h : d.cr_ Cr.stat = c.cr_ Cr.stat) : d.br = c.br := by rw [Core.br, Core.br, h]

/-- An instruction whose only effect is a value in S(D) and a result in BR (R26). -/
theorem GivesBr.of_local {i : Instr} {s : State} {body : State → Eff} {d : Reg} {w : Word} {r : Nat} (he : exec i s = retire i s body)
    (hb : body s = local_ s fun c => (c.setS d.toNat w).setBr r) (hr : r < 4) : GivesBr i s d w r := by
  refine Does.of_local he hb ?_ ?_ ?_ fun t hcr hs => ⟨?_, ?_, fun n hn => ?_⟩
  · exact ((s.me.keeps_setS d w).mono (fun _ h => h) fun _ h => h.elim).trans (Core.keeps_setBr _ _ _)
  · simp [Core.setBr]
  · rw [Core.inRep_setBr, Core.inRep_setS]
  · rw [hs, Core.s_setBr, Core.s_setS_reg]
  · rw [Core.br_congr (hcr _ (by decide)), Core.br_setBr _ _ hr]
  · rw [hcr _ (by decide), Core.statBit_setBr _ _ hn, Core.cr_setS]

end Sys2Proof.Machine
end

section
/-! SUPPORT. Waits on a counter, on the time and on a flag (R120 to R125). -/
namespace Sys2Proof.Machine
open Sys2Proof

/-! ## The place that a wait names -/

/-- An address names an offset of a core of the cluster, in own or in mesh form. -/
def State.Names (s : State) (x : Word) (k o : Nat) : Prop :=
  placeOf x = .ok (.own o) ∧ k = s.cur.core ∨ placeOf x = .ok (.mesh s.mine.vc k o)

section
variable {s : State} {x : Word} {k o : Nat}

theorem State.names_of_address (hvc : s.mine.vc < 8192) (hk : k < 8) (ho : o < 0x40020)
    (h : k = s.cur.core ∧ x.toNat = o ∨ x = meshAddr s.mine.vc k o) : s.Names x k o := by
  rcases h with ⟨hcore, hx⟩ | hx
  · subst hx
    exact .inl ⟨placeOf_own ho, hcore⟩
  · exact .inr (hx ▸ placeOf_mesh hvc hk ho)

theorem State.Names.storePlace (h : s.Names x k o) : s.storePlace x = (o % 8 == 0 && decide (o < 0x40000)) := by
  rcases h with ⟨hp, -⟩ | hp
  · rw [State.storePlace, hp]
  · rw [State.storePlace, hp]
    simp only [beq_self_eq_true, Bool.true_and]

theorem State.Names.counterConverts (h : s.Names x k o) : s.counterConverts x =
    (o % 8 == 0 && decide (o < 0x40000) && (s.mine.core k).run != .sealed && ((s.mine.core k).bank (o / 0x4000)).converting) := by
  rcases h with ⟨hp, hk⟩ | hp
  · rw [State.counterConverts, hp, hk]
  · rw [State.counterConverts, hp]
    simp only [beq_self_eq_true, Bool.true_and]

theorem State.Names.counterAt (h : s.Names x k o) : counterAt s x =
    if o % 8 ≠ 0 then .error tALIGN
    else if (s.mine.core k).counterPlace o = false then .error tBANKPORT
    else if (s.mine.core k).run = .sealed then .error tREMOTEERROR
    else .ok (k, o) := by
  rcases h with ⟨hp, hk⟩ | hp
  · rw [Machine.counterAt, hp, hk]
  · rw [Machine.counterAt, hp]
    exact if_pos rfl

end

/-! ## Reading a counter -/

/-- What `waitge` and `waitp` do once they look at their counter; they differ where its target is not met. -/
def State.readCounter (s : State) (d : Reg) (x target : Word) (unmet : Nat × Nat → Eff) : Eff :=
  if s.counterConverts x then waitConverting x s
  else match counterAt s x with
  | .error e => .trap e x
  | .ok p =>
    if s.postedTo p.1 then stallFor .order s
    else match counterMeets (counterWord s p) target with
      | some r => local_ s fun c => (c.setS d.toNat (counterWord s p)).setBr r
      | none => unmet p

theorem exec_waitge (d a b : Reg) (s : State) : exec (.waitge d a b) s = retire (.waitge d a b) s fun s =>
    s.readCounter d (s.me.s a.toNat) (s.me.s b.toNat) fun p => s.waitFor (.counter p.1 p.2 (s.me.s b.toNat)) := rfl

theorem exec_waitp (d a b c : Reg) (s : State) : exec (.waitp d a b c) s = retire (.waitp d a b c) s fun s =>
    if s.storePlace (s.me.s a.toNat) = true ∧ s.cyc < s.me.s c.toNat then s.waitFor (.time (s.me.s c.toNat))
    else s.readCounter d (s.me.s a.toNat) (s.me.s b.toNat) fun p => .trap tPROMISEMISSED (counterWord s p) := rfl

section
variable {s : State} {d a b c : Reg} {e : Nat}

/-- `waitp` waits for its time at an aligned place of a store (R123). -/
theorem waitp_early (hplace : s.storePlace (s.me.s a.toNat) = true) (hearly : s.cyc < s.me.s c.toNat) :
    Waits (.waitp d a b c) s (.time (s.me.s c.toNat)) := .of_waitFor (exec_waitp d a b c s) (if_pos ⟨hplace, hearly⟩)

/-- Once its time has come, or where it names no such place, `waitp` reads its counter. -/
theorem waitp_late (h : ¬ (s.storePlace (s.me.s a.toNat) = true ∧ s.cyc < s.me.s c.toNat)) : ∃ body,
    exec (.waitp d a b c) s = retire (.waitp d a b c) s body ∧
      body s = s.readCounter d (s.me.s a.toNat) (s.me.s b.toNat) fun p => .trap tPROMISEMISSED (counterWord s p) :=
  ⟨_, exec_waitp d a b c s, if_neg h⟩

theorem State.readCounter_refused {x target : Word} {unmet : Nat × Nat → Eff} (hc : s.counterConverts x = false)
    (he : counterAt s x = .error e) : s.readCounter d x target unmet = .trap e x := by
  rw [State.readCounter, hc, if_neg Bool.false_ne_true, he]

/-- A counter that is refused traps both waits, `waitp` once its time has come. -/
theorem waits_refused (hc : s.counterConverts (s.me.s a.toNat) = false) (he : counterAt s (s.me.s a.toNat) = .error e) :
    Traps (.waitge d a b) s e (s.me.s a.toNat) ∧
      (¬ (s.storePlace (s.me.s a.toNat) = true ∧ s.cyc < s.me.s c.toNat) → Traps (.waitp d a b c) s e (s.me.s a.toNat)) := by
  refine ⟨.of_trap (exec_waitge d a b s) (State.readCounter_refused hc he), fun h => ?_⟩
  obtain ⟨body, hbody, hb⟩ := waitp_late (d := d) (b := b) h
  exact .of_trap hbody (hb.trans (State.readCounter_refused hc he))

/-- An address that names no place of a store at all traps both waits at once. -/
theorem waits_refused_at_once (hplace : s.storePlace (s.me.s a.toNat) = false) (hc : s.counterConverts (s.me.s a.toNat) = false)
    (he : counterAt s (s.me.s a.toNat) = .error e) :
    Traps (.waitge d a b) s e (s.me.s a.toNat) ∧ Traps (.waitp d a b c) s e (s.me.s a.toNat) := by
  obtain ⟨hge, hp⟩ := waits_refused (d := d) (b := b) (c := c) hc he
  exact ⟨hge, hp fun h => by rw [hplace] at h; exact Bool.false_ne_true h.1⟩

/-- A wait on a counter in a bank under conversion is answered RETRY, and MESH after 2^16 cycles of it (R230). -/
theorem converting_wait {i : Instr} {body : State → Eff} {x : Word} (he : exec i s = retire i s body) (hb : body s = waitConverting x s) :
    let since := match s.me.wait with | some (.converting t) => t | _ => s.cyc
    ((s.cyc - since).toNat < 2 ^ 16 → StallsFor i s (.converting since)) ∧ (2 ^ 16 ≤ (s.cyc - since).toNat → Traps i s tMESH x) := by
  intro since
  exact ⟨fun h => .of_stall he (hb.trans (if_neg (Nat.not_le.mpr h))), fun h => .of_trap he (hb.trans (if_pos h))⟩

/-! ## What a wait makes of a counter -/

theorem counterMeets_of_met {w target : Word} (h : bit w 63 = true ∨ bits target 0 48 ≤ bits w 0 48) :
    counterMeets w target = some (if bit w 63 then 2 else 0) := by
  by_cases hmark : bit w 63 = true
  · rw [counterMeets, if_pos hmark, if_pos hmark]
    rfl
  · rw [counterMeets, if_neg hmark, if_neg hmark, if_pos (h.resolve_left hmark)]
    rfl

theorem counterMeets_of_unmet {w target : Word} (h : ¬ (bit w 63 = true ∨ bits target 0 48 ≤ bits w 0 48)) :
    counterMeets w target = none := by
  obtain ⟨hmark, hlow⟩ := not_or.mp h
  rw [counterMeets, if_neg hmark, if_neg hlow]

theorem State.readCounter_posted {x target : Word} {unmet : Nat × Nat → Eff} {p : Nat × Nat} (hc : s.counterConverts x = false)
    (he : counterAt s x = .ok p) (hp : s.postedTo p.1 = true) : s.readCounter d x target unmet = stallFor .order s := by
  rw [State.readCounter, hc, if_neg Bool.false_ne_true, he]
  exact if_pos hp

/-- A counter that meets its target is given with its result, and with its target unmet the wait goes its own way. -/
theorem State.readCounter_done {x target : Word} {unmet : Nat × Nat → Eff} {p : Nat × Nat} (hc : s.counterConverts x = false)
    (he : counterAt s x = .ok p) (hp : s.postedTo p.1 = false) :
    let w := counterWord s p; let met := bit w 63 = true ∨ bits target 0 48 ≤ bits w 0 48
    (met → s.readCounter d x target unmet = local_ s fun c => (c.setS d.toNat w).setBr (if bit w 63 then 2 else 0)) ∧
    (¬ met → s.readCounter d x target unmet = unmet p) := by
  intro w met
  rw [State.readCounter, hc, if_neg Bool.false_ne_true, he]
  refine ⟨fun h => (if_neg (Bool.eq_false_iff.mp hp)).trans ?_, fun h => (if_neg (Bool.eq_false_iff.mp hp)).trans ?_⟩
  · rw [counterMeets_of_met h]
  · rw [counterMeets_of_unmet h]

end

/-! ## Flags -/

theorem flagBad_iff (f : Word) : flagBad f = true ↔ 256 ≤ f.toNat := by
  rw [flagBad, bne_iff_ne, Ne, bits_high_eq_zero_iff f 8 rfl, Nat.not_lt]
  rfl

theorem exec_fwait (a v c : Reg) (s : State) : exec (.fwait a v c) s = retire (.fwait a v c) s fun s =>
    if flagBad (s.me.s a.toNat) then .trap tLOCALBOUNDS (s.me.s a.toNat)
    else if s.me.flag (s.me.s a.toNat).toNat = (v == 1#5) then .next s
    else s.waitFor (.flag (s.me.s a.toNat).toNat (v == 1#5)) := rfl

theorem exec_sleep (a : Reg) (s : State) : exec (.sleep a) s = retire (.sleep a) s fun s =>
    if s.cyc < s.me.s a.toNat then s.waitFor (.time (s.me.s a.toNat)) else .next s := rfl

theorem fwait_in_page {s : State} {a v c : Reg} (h : (s.me.s a.toNat).toNat < 256) : ∃ body, exec (.fwait a v c) s = retire (.fwait a v c) s body ∧
    body s = if s.me.flag (s.me.s a.toNat).toNat = (v == 1#5) then .next s else s.waitFor (.flag (s.me.s a.toNat).toNat (v == 1#5)) :=
  ⟨_, exec_fwait a v c s, if_neg (by rw [flagBad_iff]; omega)⟩

/-! ## The waits on a counter -/

section
variable (s : State) (d a b c : Reg) (k o : Nat)

/-- A counter that may be read: the two waits on it. -/
theorem counter_waits : let x := s.me.s a.toNat; let target := s.me.s b.toNat
    s.mine.vc < 8192 → k < 8 → (k = s.cur.core ∧ x.toNat = o ∨ x = meshAddr s.mine.vc k o) → o + 8 ≤ 0x40000 → o % 8 = 0 →
    (s.mine.core k).hit o 8 = .plain → (s.mine.core k).run ≠ .sealed → ((s.mine.core k).bank (o / 0x4000)).converting = false →
    let w := (s.mine.core k).store.read8 o; let early := s.cyc < s.me.s c.toNat
    let met := bit w 63 = true ∨ bits target 0 48 ≤ bits w 0 48
    let gives (i : Instr) : Prop := GivesBr i s d w (if bit w 63 then 2 else 0)
    (early → Waits (.waitp d a b c) s (.time (s.me.s c.toNat))) ∧
    (s.postedTo k = true → Follows (.waitge d a b) s ∧ (¬ early → Follows (.waitp d a b c) s)) ∧
    (s.postedTo k = false → met → gives (.waitge d a b) ∧ (¬ early → gives (.waitp d a b c))) ∧
    (s.postedTo k = false → ¬ met → Waits (.waitge d a b) s (.counter k o target) ∧
      (¬ early → Traps (.waitp d a b c) s tPROMISEMISSED w)) := by
  intro x target hvc hk hx ho halign hhit hrun hconv w early met gives
  have hnames := State.names_of_address hvc hk (by omega) hx
  have hplace : s.storePlace x = true := by rw [hnames.storePlace, halign, decide_eq_true (by omega)]; rfl
  have hc : s.counterConverts x = false := by rw [hnames.counterConverts, hconv, Bool.and_false]
  have hcounter : (s.mine.core k).counterPlace o = true := by rw [Core.counterPlace, halign, decide_eq_true ho, hhit]; rfl
  have hat : counterAt s x = .ok (k, o) := by
    rw [hnames.counterAt, if_neg (not_not.mpr halign), if_neg (by rw [hcounter]; decide), if_neg hrun]
  have hlate (h : ¬ early) := waitp_late (d := d) (b := b) fun hp : s.storePlace x = true ∧ early => h hp.2
  have hr : (if bit w 63 then 2 else 0) < 4 := by split <;> decide
  refine ⟨fun h => waitp_early hplace h, fun hp => ⟨?_, fun h => ?_⟩, fun hp hmet => ⟨?_, fun h => ?_⟩, fun hp hmet => ⟨?_, fun h => ?_⟩⟩
  · exact .of_stall (exec_waitge d a b s) (State.readCounter_posted hc hat hp)
  · obtain ⟨body, he, hb⟩ := hlate h
    exact .of_stall he (hb.trans (State.readCounter_posted hc hat hp))
  · exact .of_local (exec_waitge d a b s) ((State.readCounter_done hc hat hp).1 hmet) hr
  · obtain ⟨body, he, hb⟩ := hlate h
    exact .of_local he (hb.trans ((State.readCounter_done hc hat hp).1 hmet)) hr
  · exact .of_waitFor (exec_waitge d a b s) ((State.readCounter_done hc hat hp).2 hmet)
  · obtain ⟨body, he, hb⟩ := hlate h
    exact .of_trap he (hb.trans ((State.readCounter_done hc hat hp).2 hmet))

/-- No store has a place at a global address: a counter there is refused with MESH. -/
theorem global_counter {x : Word} (h : 2 ^ 63 ≤ x.toNat) :
    s.storePlace x = false ∧ s.counterConverts x = false ∧ counterAt s x = .error tMESH := by
  have hp := placeOf_high h
  split at hp
  · exact ⟨by rw [State.storePlace, hp], by rw [State.counterConverts, hp], by rw [counterAt, hp]⟩
  · exact ⟨by rw [State.storePlace, hp], by rw [State.counterConverts, hp], by rw [counterAt, hp]; rfl⟩

theorem foreign_counter {vc : Nat} (hvc : vc < 8192) (hk : k < 8) (ho : o < 0x40020) (hne : vc ≠ s.mine.vc) :
    s.storePlace (meshAddr vc k o) = false ∧ s.counterConverts (meshAddr vc k o) = false ∧ counterAt s (meshAddr vc k o) = .error tMESH := by
  have hp := placeOf_mesh hvc hk ho
  have hv : (vc == s.mine.vc) = false := beq_eq_false_iff_ne.mpr hne
  exact ⟨by rw [State.storePlace, hp]; simp [hv], by rw [State.counterConverts, hp]; simp [hv], by rw [counterAt, hp]; exact if_neg hne⟩

theorem beyond_counter {x : Word} (hlo : 0x41400 ≤ x.toNat) (hhi : x.toNat < 2 ^ 62) :
    s.storePlace x = false ∧ s.counterConverts x = false ∧ counterAt s x = .error tLOCALBOUNDS := by
  have hp := placeOf_past hhi (by omega) (by omega)
  exact ⟨by rw [State.storePlace, hp], by rw [State.counterConverts, hp], by rw [counterAt, hp]; rfl⟩

/-- Where a counter of the cluster may not lie. -/
theorem misplaced_counters {x : Word} (h : s.Names x k o) :
    (o % 8 ≠ 0 → s.storePlace x = false ∧ s.counterConverts x = false ∧ counterAt s x = .error tALIGN) ∧
    (o % 8 = 0 → 0x40000 ≤ o → s.storePlace x = false ∧ s.counterConverts x = false ∧ counterAt s x = .error tBANKPORT) ∧
    (o % 8 = 0 → o < 0x40000 → s.storePlace x = true ∧
      (((s.mine.core k).bank (o / 0x4000)).converting = false ∨ (s.mine.core k).run = .sealed → s.counterConverts x = false ∧
        ((s.mine.core k).hit o 8 ≠ .plain → counterAt s x = .error tBANKPORT)) ∧
      (((s.mine.core k).bank (o / 0x4000)).converting = true → (s.mine.core k).run ≠ .sealed → s.counterConverts x = true) ∧
      ((s.mine.core k).hit o 8 = .plain → (s.mine.core k).run = .sealed → counterAt s x = .error tREMOTEERROR)) := by
  rw [h.storePlace, h.counterConverts, h.counterAt]
  refine ⟨fun ho => ?_, fun ho hpage => ?_, fun ho hin => ⟨?_, fun hfree => ⟨?_, fun hhit => ?_⟩, fun hconv hrun => ?_, fun hhit hrun => ?_⟩⟩
  · have hoff : (o % 8 == 0) = false := beq_eq_false_iff_ne.mpr ho
    simp [hoff, ho]
  · have hno : (s.mine.core k).counterPlace o = false := by rw [Core.counterPlace, decide_eq_false (by omega), Bool.and_false, Bool.false_and]
    simp [ho, hno, Nat.not_lt.mpr hpage]
  · simp [ho, hin]
  · rcases hfree with hconv | hrun
    · rw [hconv, Bool.and_false]
    · simp [hrun]
  · have hno : (s.mine.core k).counterPlace o = false := by simp [Core.counterPlace, hhit]
    simp [ho, hno]
  · simp [ho, hin, hconv, hrun]
  · have hplace : (s.mine.core k).counterPlace o = true := by
      rw [Core.counterPlace, ho, hhit, decide_eq_true (by omega)]
      rfl
    simp [ho, hplace, hrun]

end

/-- Settles O20: both waits read their counter alike (`State.readCounter`), `waitp` once its time has come (`waitp_early`, `waitp_late`); where a
counter may not lie is said by its place (`misplaced_counters`). -/
theorem waitsComplete : Obligations.WaitsComplete := by
  refine ⟨counter_waits, fun s d a b c k o => ?_, fun s a v c => ?_⟩
  · intro x both inTime
    have hboth {e : Nat} (h : s.storePlace x = false ∧ s.counterConverts x = false ∧ counterAt s x = .error e) : both e :=
      waits_refused_at_once h.1 h.2.1 h.2.2
    have hinTime {e : Nat} (hplace : s.storePlace x = true) (hc : s.counterConverts x = false) (he : counterAt s x = .error e) : inTime e := by
      obtain ⟨hge, hp⟩ := waits_refused (d := d) (b := b) (c := c) hc he
      refine ⟨hge, ?_⟩
      split
      · next hearly => exact waitp_early hplace hearly
      · next hlate => exact hp fun h => hlate h.2
    refine ⟨fun h => hboth (global_counter s h), fun vc hvc hk ho hne hx => ?_, fun hlo hhi => hboth (beyond_counter s hlo hhi),
      fun hvc hk ho hx => ?_⟩
    · have h := foreign_counter s k o hvc hk ho hne
      rw [← hx] at h
      exact hboth h
    · obtain ⟨halign, hpage, hin⟩ := misplaced_counters s k o (State.names_of_address hvc hk ho hx)
      refine ⟨fun h => hboth (halign h), fun h h' => hboth (hpage h h'), ?_, fun h h' hhit hrun => ?_⟩
      · intro conv early since time h h'
        obtain ⟨hplace, hfree, hconv, -⟩ := hin h h'
        refine ⟨fun hor hhit => hinTime hplace (hfree hor).1 ((hfree hor).2 hhit), fun hc hrun => ⟨waitp_early hplace, fun j hj => ?_⟩⟩
        rcases hj with rfl | ⟨hlate, rfl⟩
        · exact converting_wait (exec_waitge d a b s) (if_pos (hconv hc hrun))
        · obtain ⟨body, he, hb⟩ := waitp_late (d := d) (b := b) fun hp : s.storePlace x = true ∧ early => hlate hp.2
          exact converting_wait he (hb.trans (if_pos (hconv hc hrun)))
      · obtain ⟨hplace, hfree, -, hsealed⟩ := hin h h'
        exact hinTime hplace (hfree (.inr hrun)).1 (hsealed hhit hrun)
  · intro t
    refine ⟨fun h => .of_next (exec_sleep a s) (if_neg (BitVec.not_lt.mpr h)), fun h => .of_waitFor (exec_sleep a s) (if_pos h),
      fun hf hv => ?_, fun hf hv => ?_, fun h => .of_trap (exec_fwait a v c s) (if_pos ((flagBad_iff _).mpr h))⟩
    · obtain ⟨body, he, hb⟩ := fwait_in_page (v := v) (c := c) hf
      exact .of_next he (hb.trans (if_pos hv))
    · obtain ⟨body, he, hb⟩ := fwait_in_page (v := v) (c := c) hf
      exact .of_waitFor he (hb.trans (if_neg hv))

end Sys2Proof.Machine
end

section
/-! SUPPORT. A scalar access to the own store and flag page (R62, R105, R109 to R114): what it answers, and what the instruction makes of it. -/
namespace Sys2Proof.Machine
open Sys2Proof

/-! ## What an access changes outside its core -/

theorem OnlyMine.of_upd {s t : State} (h : OnlyMine s t) (f : Core → Core) : OnlyMine (s.upd f) t := by
  obtain ⟨houter, hfixed, hcores⟩ := h
  obtain ⟨-, hf, hc⟩ := s.onlyMine_upd f
  exact ⟨houter, fun k => (hfixed k).trans (hf k).symm, fun q hq => (hcores q hq).trans (hc q hq).symm⟩

/-- The lines that an own store drops from the operand buffer are no part of what a core holds (R255). -/
theorem Cluster.alike_ownStore (k : Cluster) (issuer core o : Nat) : k.Alike (k.ownStore issuer core o) := by
  rw [Cluster.ownStore]
  split
  · exact .refl k
  · exact ⟨rfl, fun _ => rfl⟩

/-- A core after an access of its own: an AMO uses up the reissue record outside trap mode (R116). -/
def Core.accessed (c : Core) (amo tm : Bool) : Core := if amo && !tm then { c with reissue := none } else c

theorem Core.accessed_amo (c : Core) (tm : Bool) : c.accessed true tm = { c with reissue := if tm then c.reissue else none } := by
  rw [Core.accessed]
  cases tm <;> rfl

/-! ## The access -/

/-- An aligned scalar access to an offset of the own store or flag page, which is no port. -/
structure OwnAsk (s : State) (k : Ask) (o : Nat) : Prop where
  place : placeOf k.addr = .ok (.own o)
  aligned : k.addr.toNat % k.op.size = 0
  scalar : k.lane = 16
  within : o + k.op.size ≤ 0x40000 ∧ s.me.hit o k.op.size = .plain ∨ 0x40000 ≤ o ∧ o + k.op.size ≤ 0x40020

/-- What the own store or flag page answers to an access, and the core afterwards. -/
def State.ownAnswer (s : State) (k : Ask) (o : Nat) : Resp × Core :=
  storeAccess s.me k.op o k.key 0 (sourceWord s s.cur) (fun b => s.mine.clearHeld s.cur.core b) k.addr

section
variable {s : State} {i : Instr} {k : Ask} {o : Nat} {body : State → Eff} {d : Option Nat}

theorem OwnAsk.not_waiting (h : OwnAsk s k o) (r : Resp) : (decide (o < 0x40000) && waitsAt s.me o k.op.size k.key r) = false := by
  rcases h.within with ⟨-, hhit⟩ | ⟨hpage, -⟩
  · simp only [waitsAt, hhit, Bool.and_false]
  · rw [decide_eq_false (Nat.not_lt.mpr hpage), Bool.false_and]

/-- A release waits for what its core has posted; any other access is performed at once (R105, R111). -/
theorem OwnAsk.attempt_eq (h : OwnAsk s k o) : attempt s i k =
    if k.releases && !s.drained s.cur k.scope then .again .order else ownAccess s k o := by
  have hpast : ¬ (0x40000 ≤ o ∧ 0x40020 < o + k.op.size) := by have := h.within; omega
  simp [attempt, h.place, h.aligned, hpast]

theorem OwnAsk.ownAccess_trap (h : OwnAsk s k o) {e : Nat} {v : Word} {c : Core} (hr : s.ownAnswer k o = (.trap e v, c)) :
    ownAccess s k o = .fault e v := by
  have hwait := h.not_waiting (.trap e v)
  rw [State.ownAnswer] at hr
  simp only [ownAccess, hr, h.scalar, hwait, bne_self_eq_false, Bool.false_and, Bool.false_eq_true, if_false]

theorem OwnAsk.ownAccess_value (h : OwnAsk s k o) {w : Word} {c : Core} (hr : s.ownAnswer k o = (.value w none, c)) :
    ownAccess s k o = .done ((s.upd fun _ => c.accessed k.op.isAmo s.me.tm).updCluster s.cur.cl fun q =>
      if k.op.isLoad then q else q.ownStore s.cur.core s.cur.core o) (.value w none) := by
  have hwait := h.not_waiting (.value w none)
  rw [State.ownAnswer] at hr
  simp only [ownAccess, hr, h.scalar, hwait, bne_self_eq_false, Bool.false_and, Bool.false_eq_true, if_false, Core.accessed]

/-- The access may be performed: it is no release, or what was posted is performed. -/
def Ask.ready (k : Ask) (s : State) : Prop := k.releases = true → s.drained s.cur k.scope = true

theorem OwnAsk.attempt_ready (h : OwnAsk s k o) (hr : k.ready s) : attempt s i k = ownAccess s k o := by
  rw [h.attempt_eq, if_neg]
  rw [Bool.and_eq_true, Bool.not_eq_true', ← Bool.not_eq_true]
  exact fun hp => hp.2 (hr hp.1)

/-! ## The instruction -/

theorem OwnAsk.stalls (h : OwnAsk s k o) (he : exec i s = retire i s body) (hb : body s = scalarEff i d s k) (hrel : k.releases = true)
    (hd : s.drained s.cur k.scope = false) : Follows i s := by
  have hgot : attempt s i k = .again .order := by rw [h.attempt_eq, hrel, hd]; rfl
  exact .of_stall he (by rw [hb, scalarEff, hgot])

theorem OwnAsk.traps (h : OwnAsk s k o) (he : exec i s = retire i s body) (hb : body s = scalarEff i d s k) (hready : k.ready s) {e : Nat}
    {v : Word} {c : Core} (hr : s.ownAnswer k o = (.trap e v, c)) : Traps i s e v :=
  .of_trap he (by rw [hb, scalarEff, h.attempt_ready hready, h.ownAccess_trap hr])

/-- An access that is answered gives its value to a register, behind the change of its core. -/
theorem OwnAsk.completes (h : OwnAsk s k o) (hb : body s = scalarEff i d s k) (hready : k.ready s) {w : Word} {c : Core}
    (hr : s.ownAnswer k o = (.value w none, c)) : ∃ t, body s = .next t ∧ OnlyMine s t ∧
      t.me = (c.accessed k.op.isAmo s.me.tm).takeResp d (.value w none) := by
  refine ⟨_, by rw [hb, scalarEff, h.attempt_ready hready, h.ownAccess_value hr], ?_, ?_⟩
  · refine (s.onlyMine_upd _).trans ((SameData.of_updCluster _ _ _ ?_).onlyMine.trans (State.onlyMine_upd _ _))
    split
    · exact .refl _
    · exact Cluster.alike_ownStore ..
  · have hkeep (q : Cluster) : (if k.op.isLoad then q else q.ownStore s.cur.core s.cur.core o).core s.cur.core = q.core s.cur.core := by
      split
      · rfl
      · rw [Cluster.ownStore]
        split <;> rfl
    rw [State.me_upd]
    refine congrArg (Core.takeResp · d (.value w none)) ((State.me_updCluster (s.upd _) _).trans ((hkeep _).trans ?_))
    exact State.me_upd s _

/-- A load whose own core answers. -/
theorem OwnAsk.writes {d : Reg} (h : OwnAsk s k o) (he : exec i s = retire i s body) (hb : body s = scalarEff i (some d.toNat) s k)
    (hready : k.ready s) (hload : k.op.isAmo = false) {w : Word} (hr : s.ownAnswer k o = (.value w none, s.me)) : Writes i s d w := by
  obtain ⟨t, ht, honly, hme⟩ := h.completes hb hready hr
  have hme : t.me = s.me.setS d.toNat w := by rw [hme, Core.accessed, hload]; rfl
  refine Leaves.of_effect he ht honly (hme ▸ Core.keeps_setS s.me d w) (by rw [hme, Core.setS_pc]) (by rw [hme, Core.inRep_setS])
    fun u hstore hcr => ?_
  rw [Core.s_congr hstore (hcr _ (by decide)), hme, Core.s_setS_reg]

/-- A store whose own core answers leaves that core. -/
theorem OwnAsk.stores {u : State} {b : Nat → Prop} {p : State → Prop} {w : Word} (h : OwnAsk s k o) (he : exec i s = retire i s body)
    (hb : body s = scalarEff i none s k) (hready : k.ready s) (hstore : k.op.isAmo = false) {c : Core}
    (hr : s.ownAnswer k o = (.value w none, c)) (hu : ∀ t, OnlyMine s t → OnlyMine u t) (hk : u.me.Keeps c b nothing)
    (hpc : c.pc = s.me.pc) (hrep : c.inRep = s.me.inRep) (hp : ∀ t : State, t.me.store = c.store → p t) : Leaves i s u b nothing p := by
  obtain ⟨t, ht, honly, hme⟩ := h.completes hb hready hr
  have hme : t.me = c := by rw [hme, Core.accessed, hstore]; rfl
  subst hme
  exact .of_effect he ht (hu t honly) hk hpc hrep fun u hu _ => hp u hu

/-- An AMO whose own core answers: the value in S(D), behind the change of the core. -/
theorem OwnAsk.swaps {d : Reg} {f : Core → Core} {b : Nat → Prop} {p : State → Prop} (h : OwnAsk s k o) (he : exec i s = retire i s body)
    (hb : body s = scalarEff i (some d.toNat) s k) (hready : k.ready s) (hamo : k.op.isAmo = true) {w : Word} {c : Core}
    (hr : s.ownAnswer k o = (.value w none, c))
    (hk : (f s.me).Keeps { c with reissue := if s.me.tm then c.reissue else none } b nothing) (hpc : c.pc = s.me.pc)
    (hrep : c.inRep = s.me.inRep) (hwp : c.wp = s.me.wp)
    (hp : ∀ t : State, t.me.s d.toNat = (if d = 0 then 0 else w) → t.me.store = (c.setS d.toNat w).store → p t) :
    Leaves i s (s.upd f) (fun x => b x ∨ s.me.sBytes d x) nothing p := by
  obtain ⟨t, ht, honly, hme⟩ := h.completes hb hready hr
  rw [hamo, Core.accessed_amo] at hme
  have hme : t.me = Core.setS { c with reissue := if s.me.tm then c.reissue else none } d.toNat w := hme
  have hbytes {x : Nat} (hx : Core.sBytes { c with reissue := if s.me.tm then c.reissue else none } d x) : s.me.sBytes d x := by
    have hx : d ≠ 0 ∧ c.wp + 128 + 8 * d.toNat ≤ x ∧ x < c.wp + 128 + 8 * d.toNat + 8 := hx
    rw [hwp] at hx
    exact hx
  refine .of_effect he ht (honly.of_upd f) ?_ ?_ ?_ fun u hu hcr => hp u ?_ ?_
  · rw [State.me_upd, hme]
    exact (hk.mono (fun _ hx => .inl hx) fun _ hx => hx).trans ((Core.keeps_setS _ d w).mono (fun _ hx => .inr (hbytes hx)) fun _ hx => hx)
  · rw [hme, Core.setS_pc]
    exact hpc
  · rw [hme, Core.inRep_setS]
    exact hrep
  · rw [Core.s_congr hu (hcr _ (by decide)), hme, Core.s_setS_reg]
  · rw [hu, hme, Core.setS, Core.setS]
    split <;> rfl

/-! ## Addresses that raise a trap -/

/-- Outside every window, and misaligned, an access raises its trap with its address (R31, R105). -/
theorem RefusesBad.of_scalarEff {a : Word} {n : Nat} (he : exec i s = retire i s body) (hb : body s = scalarEff i d s k) (ha : k.addr = a)
    (hn : k.op.size = n) : RefusesBad i s a n := by
  subst ha hn
  have hnowhere {e : Nat} (h : placeOf k.addr = .error e) : Traps i s e k.addr :=
    .of_trap he (by rw [hb, scalarEff, attempt_of_no_place s i h])
  refine ⟨fun hown hlo hwin => hnowhere (placeOf_past hown hlo hwin), fun hmesh hbad => hnowhere (placeOf_no_core hmesh hbad),
    fun hhigh hva => hnowhere (placeOf_untranslated hhigh hva), fun hplace halign => .of_trap he ?_⟩
  have hgot : attempt s i k = .fault tALIGN k.addr := by
    rcases hplace with h | ⟨hlo, hhi⟩ | ⟨hhigh, hva⟩
    · simp [attempt, placeOf_own h, halign]
    · simp [attempt, placeOf_window hlo hhi, halign]
    · simp [attempt, placeOf_global hhigh hva, halign]
  rw [hb, scalarEff, hgot]

end

/-! ## The extensions of Table 1 of spec/06 -/

theorem sext_eq {n : Nat} (hn : 0 < n) (h64 : n ≤ 64) (x : Nat) : sext x n = (BitVec.ofNat n x).signExtend 64 := by
  have hpow := Nat.two_pow_pred_add_two_pow_pred hn
  have hle : 2 ^ n ≤ 2 ^ 64 := Nat.pow_le_pow_right (by decide) h64
  have hlt : x % 2 ^ n < 2 ^ n := Nat.mod_lt _ (Nat.two_pow_pos n)
  refine BitVec.eq_of_toNat_eq ?_
  rw [BitVec.toNat_signExtend, BitVec.msb_eq_decide, BitVec.toNat_setWidth, BitVec.toNat_ofNat, sext,
    Nat.mod_eq_of_lt (hlt.trans_le hle)]
  generalize x % 2 ^ n = y at hlt
  generalize 2 ^ (n - 1) = m, 2 ^ n = q at hpow hle hlt
  by_cases hsmall : y < m
  · rw [if_pos hsmall, decide_eq_false (Nat.not_le.mpr hsmall), BitVec.toNat_ofNat, Nat.mod_eq_of_lt (by omega)]
    rfl
  · rw [if_neg hsmall, decide_eq_true (Nat.not_lt.mp hsmall), BitVec.toNat_ofNat, if_pos rfl, Nat.mod_eq_of_lt (by omega)]
    omega

theorem extend_signed {n : Nat} (hn : 0 < n) (h8 : n < 8) (v : Nat) : extend n true v = (BitVec.ofNat (8 * n) v).signExtend 64 := by
  rw [extend, decide_eq_true h8, Bool.and_self, if_pos rfl, sext_eq (by omega) (by omega)]

theorem extend_zero {n v : Nat} (hv : v < 2 ^ (8 * n)) : extend n false v = zext v := by
  rw [extend, Bool.false_and, if_neg Bool.false_ne_true, Nat.mod_eq_of_lt hv]
  rfl

end Sys2Proof.Machine
end

section
/-! SUPPORT. Loads, stores and AMOs on plain memory of the own store (R64, R105 to R111, R114). -/
namespace Sys2Proof.Machine
open Sys2Proof

/-! ## Bytes of a store -/

/-- A store leaves its value little-endian (R17). -/
theorem Memory.get_writeLE (m : Memory) (a v : Nat) {n x : Nat} (hx : x < n) : (m.writeLE a n v).get (a + x) = BitVec.ofNat 8 (v / 256 ^ x) := by
  induction n generalizing m a v x with
  | zero => omega
  | succ n ih =>
    cases x with
    | zero => simpa using Memory.get_writeLE_head m a n v
    | succ x => rw [Memory.writeLE, show a + (x + 1) = a + 1 + x by omega, ih _ _ _ (by omega), Nat.div_div_eq_div_mul, Nat.pow_succ']

theorem Memory.get_store (m : Memory) (a v : Nat) {n x : Nat} (hx : x < n) : (m.store a n v).get (a + x) = BitVec.ofNat 8 (v / 256 ^ x) := by
  rw [Memory.store]
  split
  · next h8 =>
    subst h8
    exact m.get_writeLE a v hx
  · exact m.get_writeLE a v hx

/-- A doubleword that is stored whole is not poisoned (R318). -/
theorem Memory.poisoned_store_double (m : Memory) {a : Nat} (ha : a % 8 = 0) (v : Nat) : (m.store a 8 v).poisoned a 8 = false := by
  rw [Memory.store, if_pos rfl, Memory.poisoned, List.any_eq_false]
  intro w hw
  have hne : w ≠ a / 8 := by simpa [Memory.unmark] using (List.mem_filter.mp hw).2
  rw [decide_eq_true_eq]
  omega

/-! ## What plain memory answers -/

section
variable {s : State} {k : Ask}

theorem OwnPlain.ask (h : OwnPlain s k.addr k.op.size) (hs : k.lane = 16) : OwnAsk s k k.addr.toNat := by
  obtain ⟨hin, halign, hhit⟩ := h
  exact ⟨placeOf_own (by omega), halign, hs, .inl ⟨hin, hhit⟩⟩

theorem OwnPlain.answer (h : OwnPlain s k.addr k.op.size) (hn : 0 < k.op.size) {r : Resp} {m : Memory}
    (hr : memAccess s.me.store k.op k.addr.toNat k.addr = (r, m)) : s.ownAnswer k k.addr.toNat = (r, { s.me with store := m }) := by
  obtain ⟨hin, -, hhit⟩ := h
  unfold State.ownAnswer storeAccess
  rw [if_neg (by omega), if_neg (by omega), hhit, hr]

end

section
variable (m : Memory) {n o : Nat} (tval : Word)

theorem memAccess_load (sg : Bool) (h : m.poisoned o n = false) :
    memAccess m (.load n sg) o tval = (.value (extend n sg (m.readLE o n)) none, m) := by simp [memAccess, h]

theorem memAccess_load_poisoned (sg : Bool) (h : m.poisoned o n = true) : memAccess m (.load n sg) o tval = (.trap tPOISON tval, m) := by
  simp [memAccess, h]

theorem memAccess_amo (fn : Nat) (b d : Word) (h : m.poisoned o n = false) : memAccess m (.amo fn n b d) o tval =
    (.value (BitVec.ofNat 64 (m.readLE o n)) none,
      m.store o n (amoNew fn n (m.readLE o n) (b.toNat % 2 ^ (8 * n)) (d.toNat % 2 ^ (8 * n)))) := by simp [memAccess, h]

theorem memAccess_amo_poisoned (fn : Nat) (b d : Word) (h : m.poisoned o n = true) :
    memAccess m (.amo fn n b d) o tval = (.trap tPOISON tval, m) := by simp [memAccess, h]

end

/-! ## Loads and stores -/

section
variable {i : Instr} {s : State} {k : Ask} {body : State → Eff} {n : Nat}

/-- A load of the own store that is no release, or is illegal as one (R109). -/
theorem LoadsOwn.of_scalarEff {d : Reg} {sg : Bool} {ext : Nat → Word} {a : Word} (he : exec i s = retire i s body)
    (hb : body s = scalarEff i (some d.toNat) s k) (ha : k.addr = a) (hop : k.op = .load n sg) (hs : k.lane = 16) (hn : 0 < n)
    (hrel : i.legal s.feat0 = true → k.releases = false) (hext : ∀ v < 2 ^ (8 * n), extend n sg v = ext v) : LoadsOwn i s d a n ext := by
  subst ha
  intro h
  have hsize : k.op.size = n := by rw [hop]; rfl
  rw [← hsize] at h
  have hready (hp : Passes s i) : k.ready s := fun hr => absurd (hrel hp.1) (by rw [hr]; decide)
  have hlt : s.me.store.readLE k.addr.toNat n < 2 ^ (8 * n) := by rw [Nat.pow_mul]; exact Memory.readLE_lt ..
  refine ⟨fun hclean hp => ?_, fun hbad hp => ?_⟩
  · refine (h.ask hs).writes he hb (hready hp) (by rw [hop]; rfl) (h.answer (hsize ▸ hn) (m := s.me.store) ?_) hp
    rw [hop, memAccess_load _ _ _ hclean, hext _ hlt]
  · refine (h.ask hs).traps he hb (hready hp) (h.answer (hsize ▸ hn) (m := s.me.store) ?_) hp
    rw [hop, memAccess_load_poisoned _ _ _ hbad]

/-- A store to the own store that is no release, or one that waits no more (R110, R111). -/
theorem StoresOwn.of_scalarEff {v a : Word} (he : exec i s = retire i s body) (hb : body s = scalarEff i none s k) (ha : k.addr = a)
    (hop : k.op = .store n v) (hs : k.lane = 16) (hn : 0 < n) (hready : k.ready s) (h : OwnPlain s a n) : StoresOwn i s a n v := by
  subst ha
  have halign := h.2.1
  have hsize : k.op.size = n := by rw [hop]; rfl
  rw [← hsize] at h
  have hanswer := h.answer (hsize ▸ hn) (congrArg (memAccess s.me.store · k.addr.toNat k.addr) hop)
  have hkeeps := s.me.store.keeps_store k.addr.toNat n (v.toNat % 2 ^ (8 * n))
  refine (h.ask hs).stores he hb hready (by rw [hop]; rfl) hanswer (fun _ h => h) ⟨rfl, hkeeps, fun _ _ _ => rfl⟩ rfl rfl fun t ht => ?_
  rw [ht]
  refine ⟨?_, fun h8 => ?_⟩
  · rw [Memory.readLE_store, Nat.pow_mul, Nat.mod_mod]
  · subst h8
    exact Memory.poisoned_store_double _ halign _

end

/-! ## AMOs (R114) -/

theorem signedOf_eq (n v : Nat) : signedOf n v = signedVal n v := by
  rw [signedOf, signedVal, elemInt, ← ite_not]
  simp only [Nat.not_lt]

theorem ofNat32_mod (v : Nat) : BitVec.ofNat 32 (v % 2 ^ (8 * 4)) = BitVec.ofNat 32 v := by
  refine BitVec.eq_of_toNat_eq ?_
  rw [BitVec.toNat_ofNat, BitVec.toNat_ofNat, Nat.mod_mod]

/-- The access of an AMO. -/
def State.amoAsk (s : State) (fn n : Nat) (d a b : Reg) (o : BitVec 2) (sc : BitVec 3) : Ask :=
  { op := .amo fn n (s.me.s b.toNat) (s.me.s d.toNat), addr := s.me.s a.toNat, key := 0, scale := 0, hint := 0, ord := o.toNat,
    scope := sc.toNat, lane := 16, vec := none, posts := false }

theorem amoEff_eq (i : Instr) (fn : Nat) (d a b : Reg) (o : BitVec 2) (sc : BitVec 3) (w : BitVec 1) (s : State) :
    amoEff i fn d a b o sc w s = scalarEff i (some d.toNat) s (s.amoAsk fn (if w = 1 then 8 else 4) d a b o sc) := rfl

theorem order_releases (o : BitVec 2) : (o.toNat / 2 % 2 == 1) = o.getLsbD 1 := by
  revert o
  decide

section
variable {i : Instr} {s : State} {body : State → Eff} {fn n : Nat} {d a b : Reg} {o : BitVec 2} {sc : BitVec 3}

/-- An AMO whose function gives the new value of its location. -/
theorem AmoOwn.of_amoAsk {new : Nat → Nat} (he : exec i s = retire i s body)
    (hb : body s = scalarEff i (some d.toNat) s (s.amoAsk fn n d a b o sc)) (hn : 0 < n)
    (hnew : ∀ m, amoNew fn n m ((s.me.s b.toNat).toNat % 2 ^ (8 * n)) ((s.me.s d.toNat).toNat % 2 ^ (8 * n)) = new m) :
    AmoOwn i s d (s.me.s a.toNat) o sc n new := by
  intro h old
  have hplain : OwnPlain s (s.amoAsk fn n d a b o sc).addr (s.amoAsk fn n d a b o sc).op.size := h
  have hask := hplain.ask rfl
  refine ⟨fun hdrained => ?_, fun hrel hd => hask.stalls he hb ((order_releases o).trans hrel) hd⟩
  have hready : (s.amoAsk fn n d a b o sc).ready s := fun hr => hdrained ((order_releases o).symm.trans hr)
  refine ⟨fun hclean => ?_, fun hbad => ?_⟩
  · have hanswer := hplain.answer hn (memAccess_amo _ _ _ _ _ hclean)
    rw [hnew] at hanswer
    refine hask.swaps he hb hready rfl hanswer ⟨rfl, Memory.keeps_store .., fun _ _ _ => rfl⟩ rfl rfl rfl
      fun t hval hstore => ⟨hval, fun x hx hfree => ?_⟩
    rw [hstore, Core.setS]
    split
    · exact Memory.get_store _ _ _ hx
    · next hd =>
      refine (Memory.get_store_other _ _ _ ?_).trans (Memory.get_store _ _ _ hx)
      have hout : ¬ (sAddr s.me d.toNat ≤ (s.me.s a.toNat).toNat + x ∧ (s.me.s a.toNat).toNat + x < sAddr s.me d.toNat + 8) :=
        fun hin => hfree ⟨fun e => hd (toNat_eq_zero_iff.mpr e), hin⟩
      change (s.me.s a.toNat).toNat + x < sAddr s.me d.toNat ∨ sAddr s.me d.toNat + 8 ≤ (s.me.s a.toNat).toNat + x
      omega
  · exact hask.traps he hb hready (hplain.answer hn (memAccess_amo_poisoned _ _ _ _ _ hbad))

end

/-! ## Indexed accesses (R108) -/

section
variable {s : State} {d a b : Reg} {z : BitVec 3} {o : BitVec 2} {c : BitVec 3} {h : BitVec 2}

/-- A base in the own store that is no port gives a scaled address and no key. -/
theorem mxAddress_own {c : Core} {base : Word} (hin : base.toNat < 0x40000) (hport : c.isPort base.toNat = false) (idx : Word) (n : Nat) :
    mxAddress c base idx n = (base + idx * BitVec.ofNat 64 n, 0, 0) := by
  simp [mxAddress, placeOf_own (a := base) (by omega), hport]

theorem mxAsk_addr (op : AccOp) (hin : (s.me.s a.toNat).toNat < 0x40000) (hport : s.me.isPort (s.me.s a.toNat).toNat = false) :
    (mxAsk s.me op a b o c h).addr = s.me.s a.toNat + s.me.s b.toNat * BitVec.ofNat 64 op.size := by
  rw [mxAsk, mxAddress_own hin hport]

/-- An indexed load does not release (R111). -/
theorem Instr.ldx_order {f : Word} (hl : (Instr.ldx d a b z o c h).legal f = true) : (o.toNat / 2 % 2 == 1) = false := by
  rw [Instr.legal, Bool.and_eq_true, Bool.and_eq_true] at hl
  have hfields : (z != 7#3 && (o == 0#2 && c == 7#3 || o == 1#2 && c != 7#3) && h != 3#2 : Bool) = true := hl.1.2
  simp only [Bool.and_eq_true, Bool.or_eq_true, beq_iff_eq] at hfields
  obtain ⟨⟨-, ho⟩, -⟩ := hfields
  rcases ho with ⟨rfl, -⟩ | ⟨rfl, -⟩ <;> rfl

theorem ldx_loads {n : Nat} {sg : Bool} {ext : Nat → Word} (hin : (s.me.s a.toNat).toNat < 0x40000)
    (hport : s.me.isPort (s.me.s a.toNat).toNat = false) (hz : szOf z = (n, sg)) (hn : 0 < n)
    (hext : ∀ v < 2 ^ (8 * n), extend n sg v = ext v) :
    LoadsOwn (.ldx d a b z o c h) s d (s.me.s a.toNat + s.me.s b.toNat * BitVec.ofNat 64 n) n ext := by
  refine .of_scalarEff (k := mxAsk s.me (.load n sg) a b o c h) (body := fun s => scalarEff (.ldx d a b z o c h) (some d.toNat) s
    (mxAsk s.me (.load (szOf z).1 (szOf z).2) a b o c h)) rfl ?_ (mxAsk_addr _ hin hport) rfl rfl hn Instr.ldx_order hext
  simp only [hz]

theorem exec_stx : exec (.stx d a b z o c h) s = retire (.stx d a b z o c h) s fun s =>
    scalarEff (.stx d a b z o c h) none s (mxAsk s.me (.store (szOf z).1 (s.me.s d.toNat)) a b o c h) := rfl

/-- An indexed store stores at once, or as a release once what the core has posted is performed (R111). -/
theorem stx_stores {n : Nat} (hin : (s.me.s a.toNat).toNat < 0x40000) (hport : s.me.isPort (s.me.s a.toNat).toNat = false)
    (hz : (szOf z).1 = n) (hn : 0 < n) (hown : OwnPlain s (s.me.s a.toNat + s.me.s b.toNat * BitVec.ofNat 64 n) n) :
    ((o.getLsbD 1 = true → s.drained s.cur c.toNat = true) →
      StoresOwn (.stx d a b z o c h) s (s.me.s a.toNat + s.me.s b.toNat * BitVec.ofNat 64 n) n (s.me.s d.toNat)) ∧
    (o.getLsbD 1 = true → s.drained s.cur c.toNat = false → Follows (.stx d a b z o c h) s) := by
  subst hz
  have haddr := mxAsk_addr (b := b) (o := o) (c := c) (h := h) (.store (szOf z).1 (s.me.s d.toNat)) hin hport
  have hask : OwnAsk s (mxAsk s.me (.store (szOf z).1 (s.me.s d.toNat)) a b o c h) _ := OwnPlain.ask (haddr.symm ▸ hown) rfl
  exact ⟨fun hr => .of_scalarEff exec_stx rfl haddr rfl rfl hn (fun h => hr ((order_releases o).symm.trans h)) hown,
    fun hr hd => hask.stalls exec_stx rfl ((order_releases o).trans hr) hd⟩

end

/-! ## Displacement loads and stores (R106) -/

section
variable {i : Instr} {s : State} {d a : Reg} {j : BitVec 15} {n : Nat}

theorem Ask.releases_scalar (op : AccOp) (x : Word) : (Ask.scalar op x).releases = false := by simp [Ask.releases, Ask.scalar]

theorem LoadsOwn.of_loadMd {sg : Bool} {ext : Nat → Word} {x : Word} (he : exec i s = retire i s (loadMd i d a j n sg))
    (hx : s.me.s a.toNat + j.signExtend 64 = x) (hn : 0 < n) (hext : ∀ v < 2 ^ (8 * n), extend n sg v = ext v) : LoadsOwn i s d x n ext :=
  .of_scalarEff he rfl hx rfl rfl hn (fun _ => Ask.releases_scalar ..) hext

theorem StoresOwn.of_storeMd {x : Word} (he : exec i s = retire i s (storeMd i d a j n)) (hx : s.me.s a.toNat + j.signExtend 64 = x)
    (hn : 0 < n) (hown : OwnPlain s x n) : StoresOwn i s x n (s.me.s d.toNat) :=
  .of_scalarEff he rfl hx rfl rfl hn (fun h => absurd (Ask.releases_scalar _ _) (by rw [h]; decide)) hown

theorem RefusesBad.of_loadMd {sg : Bool} {x : Word} (he : exec i s = retire i s (loadMd i d a j n sg))
    (hx : s.me.s a.toNat + j.signExtend 64 = x) : RefusesBad i s x n := .of_scalarEff he rfl hx rfl

theorem RefusesBad.of_storeMd {x : Word} (he : exec i s = retire i s (storeMd i d a j n)) (hx : s.me.s a.toNat + j.signExtend 64 = x) :
    RefusesBad i s x n := .of_scalarEff he rfl hx rfl

theorem add_no_displacement (x : Word) : x + (0 : BitVec 15).signExtend 64 = x := by simp

end

theorem extend_signed_byte {v : Nat} : extend 1 true v = sext8 v := extend_signed (by decide) (by decide) v
theorem extend_signed_half {v : Nat} : extend 2 true v = sext16 v := extend_signed (by decide) (by decide) v
theorem extend_signed_word {v : Nat} : extend 4 true v = sext32 v := extend_signed (by decide) (by decide) v

/-- Settles O15: every access is a scalar access to plain memory (`OwnPlain.answer`), or an address that is refused (`RefusesBad.of_scalarEff`). -/
theorem ownStoreAccesses : Obligations.OwnStoreAccesses := by
  refine ⟨fun s d a b i o c h => ?_, fun s d a b i c h => ?_, fun s d a b o c w => ?_, fun s d a b i o c w => ?_⟩
  · exact ⟨.of_loadMd rfl rfl (by decide) fun _ _ => extend_signed_byte, .of_loadMd rfl rfl (by decide) fun _ h => extend_zero h,
      .of_loadMd rfl rfl (by decide) fun _ _ => extend_signed_half, .of_loadMd rfl rfl (by decide) fun _ h => extend_zero h,
      .of_loadMd rfl rfl (by decide) fun _ _ => extend_signed_word, .of_loadMd rfl rfl (by decide) fun _ h => extend_zero h,
      .of_loadMd rfl rfl (by decide) fun _ h => extend_zero h, .of_loadMd rfl (add_no_displacement _) (by decide) fun _ h => extend_zero h,
      fun hin hport => ⟨ldx_loads hin hport rfl (by decide) fun _ _ => extend_signed_byte,
        ldx_loads hin hport rfl (by decide) fun _ _ => extend_signed_half, ldx_loads hin hport rfl (by decide) fun _ _ => extend_signed_word,
        ldx_loads hin hport rfl (by decide) fun _ h => extend_zero h, ldx_loads hin hport rfl (by decide) fun _ h => extend_zero h,
        ldx_loads hin hport rfl (by decide) fun _ h => extend_zero h, ldx_loads hin hport rfl (by decide) fun _ h => extend_zero h⟩⟩
  · refine ⟨.of_storeMd rfl rfl (by decide), .of_storeMd rfl rfl (by decide), .of_storeMd rfl rfl (by decide), .of_storeMd rfl rfl (by decide),
      .of_storeMd rfl (add_no_displacement _) (by decide), fun hin hport z n hzn => ?_⟩
    intro y hown
    have hsizes : ∀ p ∈ [((0 : BitVec 3), 1), (1, 2), (2, 4), (3, 8)], (szOf p.1).1 = p.2 ∧ 0 < p.2 := by decide
    obtain ⟨hz, hn⟩ := hsizes _ hzn
    exact ⟨(stx_stores hin hport hz hn hown).1 fun h => absurd h (by decide), fun hd => (stx_stores hin hport hz hn hown).1 fun _ => hd,
      (stx_stores hin hport hz hn hown).2 rfl⟩
  · intro n x y z
    have hn : 0 < n := by simp only [n]; split <;> decide
    refine ⟨.of_amoAsk rfl (amoEff_eq ..) hn fun _ => rfl, .of_amoAsk rfl (amoEff_eq ..) hn fun _ => rfl, .of_amoAsk rfl (amoEff_eq ..) hn fun _ => rfl,
      .of_amoAsk rfl (amoEff_eq ..) hn fun _ => rfl, .of_amoAsk rfl (amoEff_eq ..) hn fun _ => ?min, .of_amoAsk rfl (amoEff_eq ..) hn fun _ => ?max,
      .of_amoAsk rfl (amoEff_eq ..) hn fun _ => rfl, .of_amoAsk rfl (amoEff_eq ..) hn fun _ => rfl, .of_amoAsk rfl (amoEff_eq ..) hn fun _ => rfl,
      .of_amoAsk rfl (amoEff_eq ..) hn fun _ => rfl, .of_amoAsk rfl (amoEff_eq ..) hn fun _ => rfl, .of_amoAsk rfl (amoEff_eq ..) (by decide) fun _ => ?fadd⟩
    case min => simp only [amoNew, signedOf_eq]; rfl
    case max => simp only [amoNew, signedOf_eq]; rfl
    case fadd => simp only [amoNew, ofNat32_mod]
  · intro x y n
    simp only [List.mem_cons, List.not_mem_nil, or_false, forall_eq_or_imp, forall_eq]
    exact ⟨⟨.of_loadMd rfl rfl, .of_loadMd rfl rfl, .of_storeMd rfl rfl⟩, ⟨.of_loadMd rfl rfl, .of_loadMd rfl rfl, .of_storeMd rfl rfl⟩,
      ⟨.of_loadMd rfl rfl, .of_loadMd rfl rfl, .of_storeMd rfl rfl⟩, ⟨.of_loadMd rfl rfl, .of_storeMd rfl rfl⟩,
      ⟨.of_loadMd rfl (add_no_displacement _), .of_storeMd rfl (add_no_displacement _)⟩,
      ⟨.of_scalarEff rfl rfl rfl rfl, .of_scalarEff rfl rfl rfl rfl, .of_scalarEff rfl rfl rfl rfl, .of_scalarEff rfl rfl rfl rfl,
        .of_scalarEff rfl rfl rfl rfl, .of_scalarEff rfl rfl rfl rfl, .of_scalarEff rfl rfl rfl rfl, .of_scalarEff rfl rfl rfl rfl,
        .of_scalarEff rfl rfl rfl rfl, .of_scalarEff rfl rfl rfl rfl, .of_scalarEff rfl rfl rfl rfl⟩, .of_scalarEff rfl rfl rfl rfl⟩

end Sys2Proof.Machine
end

section
/-! SUPPORT. The flag page and the flag instructions (R113, R114, R125). -/
namespace Sys2Proof.Machine
open Sys2Proof

/-! ## Bytes of the flag page -/

theorem Core.flagsRead_eq (c : Core) (a n : Nat) : c.flagsRead (a - 0x40000) n = flagBytes c.flags a n := by
  rw [Core.flagsRead, Nat.shiftRight_eq_div_pow, flagBytes]

theorem FlagsStored.congr {f g : BitVec 256} {a n v u : Nat} (h : FlagsStored f g a n v) (hv : v % 2 ^ (8 * n) = u % 2 ^ (8 * n)) :
    FlagsStored f g a n u := ⟨h.1.trans hv, h.2⟩

/-- A write of bytes of the page leaves every other flag. -/
theorem Core.flagsWrite_stored (c : Core) {a n : Nat} (h : a - 0x40000 + n ≤ 32) (v : Nat) :
    FlagsStored c.flags (c.flagsWrite (a - 0x40000) n v).flags a n v := by
  have hv : v % 2 ^ (8 * n) < 2 ^ (8 * n) := Nat.mod_lt _ (Nat.two_pow_pos _)
  have hg : (c.flagsWrite (a - 0x40000) n v).flags.toNat = splice c.flags.toNat (8 * (a - 0x40000)) (8 * n) (v % 2 ^ (8 * n)) := by
    have hlt := splice_lt hv c.flags.isLt (show 8 * (a - 0x40000) + 8 * n ≤ 256 by omega)
    rw [Core.flagsWrite, Core.flagsRead_eq, flagBytes, BitVec.toNat_ofNat]
    exact Nat.mod_eq_of_lt hlt
  refine ⟨?_, fun k hk => ?_⟩
  · rw [flagBytes, hg, splice_field hv]
  · rw [BitVec.getLsbD, hg, testBit_splice hv hk]
    rfl

theorem Core.inRep_congr {c d : Core} (hcr : d.cr = c.cr) (hbuf : d.repBuf = c.repBuf) : d.inRep = c.inRep := by
  simp only [Core.inRep, Core.tm, Core.cr_, hcr, hbuf]

theorem Core.wp_congr {c d : Core} (hcr : d.cr = c.cr) : d.wp = c.wp := by simp only [Core.wp, Core.cr_, hcr]

/-! ## What the flag page answers -/

section
variable {s : State} {k : Ask}

theorem OwnFlags.ask (h : OwnFlags k.addr k.op.size) (hn : 0 < k.op.size) (hs : k.lane = 16) : OwnAsk s k k.addr.toNat := by
  obtain ⟨hlo, hhi, halign⟩ := h
  exact ⟨placeOf_own (by omega), halign, hs, .inr ⟨hlo, hhi⟩⟩

theorem OwnFlags.answer (h : OwnFlags k.addr k.op.size) (hop : ∀ st m ks ds, k.op ≠ .keyed st m ks ds) :
    s.ownAnswer k k.addr.toNat = flagAccess s.me k.op (k.addr.toNat - 0x40000) k.addr := by
  obtain ⟨hlo, hhi, -⟩ := h
  unfold State.ownAnswer storeAccess
  rw [if_pos ⟨hlo, hhi⟩]
  cases hk : k.op with
  | keyed st m ks ds => exact absurd hk (hop st m ks ds)
  | _ => rfl

end

section
variable (c : Core) {o n : Nat} (tval : Word)

theorem flagAccess_load (sg : Bool) (h : c.flagPoison.contains (o / 8) = false) :
    flagAccess c (.load n sg) o tval = (.value (extend n sg (c.flagsRead o n)) none, c) := by
  simp only [flagAccess, h, Bool.false_eq_true, if_false]

theorem flagAccess_load_poisoned (sg : Bool) (h : c.flagPoison.contains (o / 8) = true) :
    flagAccess c (.load n sg) o tval = (.trap tPOISON tval, c) := by simp only [flagAccess, h, if_true]

theorem flagAccess_store (d : Word) : flagAccess c (.store n d) o tval = (.value 0 none, { c with
    flags := (c.flagsWrite o n d.toNat).flags, flagPoison := c.flagPoison.filter fun w => !(n == 8 && w == o / 8) }) := by
  by_cases h8 : n = 8
  · subst h8
    simp only [flagAccess, if_true, beq_self_eq_true, Bool.true_and]
    rfl
  · have hn : (n == 8) = false := beq_eq_false_iff_ne.mpr h8
    simp only [flagAccess, h8, hn, if_false, Bool.false_and, Bool.not_false, List.filter_true]
    rfl

theorem flagAccess_amo (fn : Nat) (b d : Word) (h : c.flagPoison.contains (o / 8) = false) :
    flagAccess c (.amo fn n b d) o tval = (.value (BitVec.ofNat 64 (c.flagsRead o n)) none, { c with
      flags := (c.flagsWrite o n (amoNew fn n (c.flagsRead o n) (b.toNat % 2 ^ (8 * n)) (d.toNat % 2 ^ (8 * n)))).flags }) := by
  simp only [flagAccess, h, Bool.false_eq_true, if_false]
  rfl

theorem flagAccess_amo_poisoned (fn : Nat) (b d : Word) (h : c.flagPoison.contains (o / 8) = true) :
    flagAccess c (.amo fn n b d) o tval = (.trap tPOISON tval, c) := by simp only [flagAccess, h, if_true]

end

theorem flagBytes_lt (f : BitVec 256) (a n : Nat) : flagBytes f a n < 2 ^ (8 * n) := Nat.mod_lt _ (Nat.two_pow_pos _)

/-! ## Displacement accesses -/

section
variable {i : Instr} {s : State} {d a : Reg} {j : BitVec 15} {n : Nat} {x : Word}

theorem flags_load {sg : Bool} {ext : Nat → Word} (he : exec i s = retire i s (loadMd i d a j n sg)) (hx : s.me.s a.toNat + j.signExtend 64 = x)
    (hn : 0 < n) (hext : ∀ v < 2 ^ (8 * n), extend n sg v = ext v) (h : OwnFlags x n) :
    (s.me.flagsBad x = false → Writes i s d (ext (flagBytes s.me.flags x.toNat n))) ∧ (s.me.flagsBad x = true → Traps i s tPOISON x) := by
  subst hx
  have hflags : OwnFlags (Ask.scalar (.load n sg) (mdAddr s.me a j)).addr (Ask.scalar (.load n sg) (mdAddr s.me a j)).op.size := h
  have hask := hflags.ask (s := s) hn rfl
  have hready : (Ask.scalar (.load n sg) (mdAddr s.me a j)).ready s := fun hr => absurd (Ask.releases_scalar _ _) (by rw [hr]; decide)
  refine ⟨fun hclean => hask.writes he rfl hready rfl ?_, fun hbad => hask.traps he rfl hready (c := s.me) ?_⟩
  · rw [hflags.answer nofun, ← hext _ (flagBytes_lt _ _ _), ← Core.flagsRead_eq]
    exact flagAccess_load _ _ _ hclean
  · rw [hflags.answer nofun]
    exact flagAccess_load_poisoned _ _ _ hbad

theorem flags_store (he : exec i s = retire i s (storeMd i d a j n)) (hx : s.me.s a.toNat + j.signExtend 64 = x) (hn : 0 < n) (h : OwnFlags x n) :
    ∃ g, FlagsStored s.me.flags g x.toNat n (s.me.s d.toNat).toNat ∧ Leaves i s (s.upd fun c => { c with
      flags := g, flagPoison := c.flagPoison.filter fun w => !(n == 8 && w == (x.toNat - 0x40000) / 8) }) nothing nothing fun _ => True := by
  subst hx
  have hflags : OwnFlags (Ask.scalar (.store n (s.me.s d.toNat)) (mdAddr s.me a j)).addr
    (Ask.scalar (.store n (s.me.s d.toNat)) (mdAddr s.me a j)).op.size := h
  have hask := hflags.ask (s := s) hn rfl
  have hready : (Ask.scalar (.store n (s.me.s d.toNat)) (mdAddr s.me a j)).ready s :=
    fun hr => absurd (Ask.releases_scalar _ _) (by rw [hr]; decide)
  have hanswer := (hflags.answer (s := s) nofun).trans (flagAccess_store s.me _ _)
  refine ⟨_, s.me.flagsWrite_stored (by obtain ⟨hlo, hhi, -⟩ := h; omega) _, ?_⟩
  refine hask.stores he rfl hready rfl hanswer (fun _ h => h.of_upd _) ?_ rfl (Core.inRep_congr rfl rfl) fun _ _ => trivial
  rw [State.me_upd]
  exact .refl _ _ _

end

/-! ## AMOs -/

theorem Leaves.widen {i : Instr} {s u : State} {b b' n : Nat → Prop} {p : State → Prop} (h : Leaves i s u b n p) (hb : ∀ x, b x → b' x) :
    Leaves i s u b' n p := fun hp => by
  obtain ⟨t, ht, honly, hkeeps, hrest⟩ := h hp
  exact ⟨t, ht, honly, hkeeps.mono hb fun _ h => h, hrest⟩

section
variable {i : Instr} {s : State} {body : State → Eff} {fn n : Nat} {d a b : Reg} {o : BitVec 2} {sc : BitVec 3}

/-- An AMO on the flag page whose function gives the new value of its bytes. -/
theorem flags_amo (new : Nat → Nat) (he : exec i s = retire i s body) (hb : body s = scalarEff i (some d.toNat) s (s.amoAsk fn n d a b o sc))
    (hn : 0 < n) (hready : o.getLsbD 1 = true → s.performed sc.toNat) (h : OwnFlags (s.me.s a.toNat) n)
    (hnew : ∀ m, amoNew fn n m ((s.me.s b.toNat).toNat % 2 ^ (8 * n)) ((s.me.s d.toNat).toNat % 2 ^ (8 * n)) % 2 ^ (8 * n) =
      new m % 2 ^ (8 * n)) :
    let old := flagBytes s.me.flags (s.me.s a.toNat).toNat n
    (s.me.flagsBad (s.me.s a.toNat) = true → Traps i s tPOISON (s.me.s a.toNat)) ∧
      (s.me.flagsBad (s.me.s a.toNat) = false → ∃ g, FlagsStored s.me.flags g (s.me.s a.toNat).toNat n (new old) ∧
        Leaves i s (s.upd fun c => { c with flags := g, reissue := if c.tm then c.reissue else none }) (s.me.sBytes d) nothing fun t =>
          t.me.s d.toNat = if d = 0 then 0 else BitVec.ofNat 64 old) := by
  have hflags : OwnFlags (s.amoAsk fn n d a b o sc).addr (s.amoAsk fn n d a b o sc).op.size := h
  have hask := hflags.ask (s := s) hn rfl
  have hready : (s.amoAsk fn n d a b o sc).ready s := fun hr => (s.performed_iff _).mp (hready ((order_releases o).symm.trans hr))
  refine ⟨fun hbad => hask.traps he hb hready ((hflags.answer nofun).trans (flagAccess_amo_poisoned _ _ _ _ _ hbad)), fun hclean => ?_⟩
  have hanswer := (hflags.answer (s := s) nofun).trans (flagAccess_amo s.me _ _ _ _ hclean)
  rw [Core.flagsRead_eq] at hanswer
  refine ⟨_, (s.me.flagsWrite_stored (by obtain ⟨hlo, hhi, -⟩ := h; omega) _).congr (hnew _), ?_⟩
  refine Leaves.widen (b := fun x => nothing x ∨ s.me.sBytes d x) ?_ fun x hx => hx.resolve_left id
  exact hask.swaps he hb hready rfl hanswer (.refl _ _ _) rfl (Core.inRep_congr rfl rfl) (Core.wp_congr rfl)
    fun t hval _ => hval

end

/-! ## The flag instructions (R125) -/

theorem Core.flag_setFlag (c : Core) (f : Nat) (v : Bool) {k : Nat} (hk : k < 256) :
    (c.setFlag f v).flags.getLsbD k = if k = f then v else c.flags.getLsbD k := by
  have hbit : (1#256 <<< f).getLsbD k = decide (k = f) := by
    rw [BitVec.getLsbD_shiftLeft, BitVec.getLsbD_one, decide_eq_true hk]
    rw [Bool.eq_iff_iff]
    simp only [Bool.and_eq_true, Bool.not_eq_true', decide_eq_true_eq, decide_eq_false_iff_not, true_and]
    omega
  rw [Core.setFlag]
  cases v
  · simp only [Bool.false_eq_true, if_false, BitVec.getLsbD_and, BitVec.getLsbD_not, hbit, hk, decide_true, Bool.true_and]
    by_cases h : k = f <;> simp [h]
  · simp only [if_true, BitVec.getLsbD_or, hbit]
    by_cases h : k = f <;> simp [h]

/-- Posting on an open channel of the current core puts an item under way (R72, R251). -/
theorem State.post_open {s : State} {rel : Option Nat} {vc core : Nat} {b : FBody} {a : Word} (h : chanKey vc core ∉ s.me.closed) :
    s.post (s.posted rel vc core b a) = { s with flight := s.flight ++ [s.posted rel vc core b a] } := by
  rw [State.post, if_neg]
  rw [List.contains_iff_mem]
  exact h

section
variable {i : Instr} {s : State} {a b c : Reg} {v : Bool}

/-- An own flag is set at once. -/
theorem flag_local (he : exec i s = retire i s (flagEff a b c v)) (hb : flagEff a b c v s = local_ s fun c => c.setFlag (s.me.s a.toNat).toNat v) :
    ∃ g : BitVec 256, (∀ k < 256, g.getLsbD k = if k = (s.me.s a.toNat).toNat then v else s.me.flags.getLsbD k) ∧
      Leaves i s (s.upd fun c => { c with flags := g }) nothing nothing fun _ => True := by
  have hsame : (s.upd fun c => c.setFlag (s.me.s a.toNat).toNat v) = s.upd fun c => { c with flags := (s.me.setFlag (s.me.s a.toNat).toNat v).flags } := rfl
  refine ⟨(s.me.setFlag (s.me.s a.toNat).toNat v).flags, fun k hk => Core.flag_setFlag _ _ _ hk, ?_⟩
  rw [← hsame]
  exact .of_next he hb (by rw [State.me_upd]; rfl) (by rw [State.me_upd]; rfl) trivial

theorem flagEff_own (hf : (s.me.s a.toNat).toNat < 256) (ht : s.me.s b.toNat = 0) :
    (c = 7 ∨ s.performed c.toNat → flagEff a b c v s = local_ s fun c => c.setFlag (s.me.s a.toNat).toNat v) ∧
    (c ≠ 7 → ¬ s.performed c.toNat → flagEff a b c v s = stallFor .order s) := by
  have hbad : ¬ flagBad (s.me.s a.toNat) = true := by rw [flagBad_iff]; omega
  simp only [flagEff, if_neg hbad, if_pos ht, State.performed_iff]
  refine ⟨fun h => ?_, fun hc hd => ?_⟩
  · by_cases hc : c = 7
    · rw [if_pos (show c = 7#5 from hc)]
    · rw [if_neg (show c ≠ 7#5 from hc)]
      exact if_pos (h.resolve_left hc)
  · rw [if_neg (show c ≠ 7#5 from hc)]
    exact if_neg hd

theorem meshAddr_ne_zero {vc core o : Nat} (hvc : vc < 8192) (hcore : core < 8) (ho : o < 0x40020) : meshAddr vc core o ≠ 0 := fun h => by
  have hn := congrArg BitVec.toNat h
  rw [meshAddr_toNat hvc hcore ho, show (0 : Word).toNat = 0 from rfl] at hn
  omega

theorem flagEff_mesh (hf : (s.me.s a.toNat).toNat < 256) {vc core : Nat} (h : Mesh s (s.me.s b.toNat) 8 vc core 0x40000) : flagEff a b c v s =
    .next (s.post (s.posted (if c = 7 then none else some c.toNat) vc core (.flag (s.me.s a.toNat).toNat v) (s.me.s b.toNat))) := by
  obtain ⟨hvc, hcore, ho, ht, -, hthere⟩ := h
  have hbad : ¬ flagBad (s.me.s a.toNat) = true := by rw [flagBad_iff]; omega
  have hplace : placeOf (s.me.s b.toNat) = .ok (.mesh vc core 0x40000) := ht ▸ placeOf_mesh hvc hcore ho
  simp only [flagEff, if_neg hbad, if_neg (ht ▸ meshAddr_ne_zero hvc hcore ho : s.me.s b.toNat ≠ 0), hplace, hthere, and_self, if_true]
  rfl

theorem flagEff_elsewhere (hf : (s.me.s a.toNat).toNat < 256) (ht : s.me.s b.toNat ≠ 0)
    (h : ∀ vc core, ¬ Mesh s (s.me.s b.toNat) 8 vc core 0x40000) : flagEff a b c v s = .trap tMESH (s.me.s b.toNat) := by
  have hbad : ¬ flagBad (s.me.s a.toNat) = true := by rw [flagBad_iff]; omega
  simp only [flagEff, if_neg hbad, if_neg ht]
  split
  · next vc core o hplace =>
    refine if_neg fun hin => h vc core ?_
    obtain ⟨ho, hthere⟩ := hin
    obtain ⟨hvc, hcore, hlt, haddr⟩ := placeOf_eq_mesh hplace
    subst ho
    refine ⟨hvc, hcore, hlt, haddr, ?_, hthere⟩
    rw [haddr, meshAddr_toNat hvc hcore hlt]
    omega
  · rfl

theorem flagEff_beyond (hf : 256 ≤ (s.me.s a.toNat).toNat) : flagEff a b c v s = .trap tLOCALBOUNDS (s.me.s a.toNat) :=
  if_pos ((flagBad_iff _).mpr hf)

end

theorem exec_ftest (d a : Reg) (s : State) : exec (.ftest d a) s = retire (.ftest d a) s fun s =>
    if flagBad (s.me.s a.toNat) then .trap tLOCALBOUNDS (s.me.s a.toNat) else put d (flag1 (s.me.flag (s.me.s a.toNat).toNat)) s := rfl

/-- Settles O17: an access to the page is a scalar access whose own page answers (`OwnFlags.answer`), and a flag instruction goes where its target
says (`flagEff_own`, `flagEff_mesh`, `flagEff_elsewhere`). -/
theorem flagPages : Obligations.FlagPages := by
  refine ⟨fun s d a i => ?_, fun s d a b o c w => ?_, fun s d a b c => ?_⟩
  · exact ⟨flags_load rfl rfl (by decide) fun _ _ => extend_signed_byte, flags_load rfl rfl (by decide) fun _ h => extend_zero h,
      flags_load rfl rfl (by decide) fun _ _ => extend_signed_half, flags_load rfl rfl (by decide) fun _ h => extend_zero h,
      flags_load rfl rfl (by decide) fun _ _ => extend_signed_word, flags_load rfl rfl (by decide) fun _ h => extend_zero h,
      flags_load rfl rfl (by decide) fun _ h => extend_zero h, flags_load rfl (add_no_displacement _) (by decide) fun _ h => extend_zero h,
      flags_store rfl rfl (by decide), flags_store rfl rfl (by decide), flags_store rfl rfl (by decide), flags_store rfl rfl (by decide),
      flags_store rfl (add_no_displacement _) (by decide)⟩
  · intro n x y z old old4 does hr
    have hn : 0 < n := by simp only [n]; split <;> decide
    refine ⟨fun h => ⟨flags_amo (fun m => m + y) rfl (amoEff_eq ..) hn hr h fun _ => Nat.mod_mod _ _,
      flags_amo (fun m => m &&& y) rfl (amoEff_eq ..) hn hr h fun _ => rfl,
      flags_amo (fun m => m ||| y) rfl (amoEff_eq ..) hn hr h fun _ => rfl,
      flags_amo (fun m => m ^^^ y) rfl (amoEff_eq ..) hn hr h fun _ => rfl,
      flags_amo (fun _ => y) rfl (amoEff_eq ..) hn hr h fun _ => rfl,
      flags_amo (fun m => if m = z then y else m) rfl (amoEff_eq ..) hn hr h fun _ => rfl,
      flags_amo (fun m => min m y) rfl (amoEff_eq ..) hn hr h fun _ => rfl,
      flags_amo (fun m => max m y) rfl (amoEff_eq ..) hn hr h fun _ => rfl,
      flags_amo (fun m => if m < y then m + 1 else 0) rfl (amoEff_eq ..) hn hr h fun _ => rfl,
      flags_amo (fun m => if signedVal n y < signedVal n m then y else m) rfl (amoEff_eq ..) hn hr h fun _ => ?min,
      flags_amo (fun m => if signedVal n m < signedVal n y then y else m) rfl (amoEff_eq ..) hn hr h fun _ => ?max⟩,
      fun h => flags_amo (fun m => (rneAdd32 (BitVec.ofNat 32 m) (BitVec.ofNat 32 (s.me.s b.toNat).toNat)).toNat) rfl (amoEff_eq ..) (by decide) hr h
        fun _ => ?fadd⟩
    case min => simp only [amoNew, signedOf_eq]; rfl
    case max => simp only [amoNew, signedOf_eq]; rfl
    case fadd => simp only [amoNew, ofNat32_mod]
  · intro f t both rel
    have hpage (h : f.toNat < 256) : ¬ flagBad f = true := by rw [flagBad_iff]; omega
    refine ⟨fun h => put_writes (exec_ftest d a s) (if_neg (hpage h)), fun h => ⟨.of_trap (exec_ftest d a s) (if_pos ((flagBad_iff _).mpr h)),
      .of_trap rfl (flagEff_beyond h), .of_trap rfl (flagEff_beyond h)⟩, fun h ht hc => ⟨flag_local rfl ((flagEff_own h ht).1 hc),
      flag_local rfl ((flagEff_own h ht).1 hc)⟩, fun h ht hc hd => ⟨.of_stall rfl ((flagEff_own h ht).2 hc hd),
      .of_stall rfl ((flagEff_own h ht).2 hc hd)⟩, fun h vc core hmesh hopen => ⟨?_, ?_⟩, fun h ht hno => ⟨.of_trap rfl (flagEff_elsewhere h ht hno),
      .of_trap rfl (flagEff_elsewhere h ht hno)⟩⟩
    · exact .of_next rfl ((flagEff_mesh h hmesh).trans (congrArg _ (State.post_open hopen))) rfl rfl trivial
    · exact .of_next rfl ((flagEff_mesh h hmesh).trans (congrArg _ (State.post_open hopen))) rfl rfl trivial

end Sys2Proof.Machine
end

section
/-! SUPPORT. Banks that are busy, and the beginning and the end of a change of banks (R127 to R131, R228 to R233). -/
namespace Sys2Proof.Machine
open Sys2Proof

/-! ## Busy and fixed banks -/

theorem touches_iff {b a n : Nat} (hn : 0 < n) : touches b a n = true ↔ ∃ x, span (b * 0x4000) 0x4000 x ∧ span a n x := by
  simp only [touches, decide_eq_true_eq, span]
  constructor
  · rintro ⟨hlo, hhi⟩
    exact ⟨max a (b * 0x4000), by omega, by omega⟩
  · rintro ⟨x, hbank, hrange⟩
    omega

theorem touches_below_iff {b n : Nat} : touches b 0 n = true ↔ ∃ x, span (b * 0x4000) 0x4000 x ∧ x < n := by
  simp only [touches, decide_eq_true_eq, span]
  constructor
  · rintro ⟨-, hhi⟩
    exact ⟨b * 0x4000, by omega, by omega⟩
  · rintro ⟨x, hbank, hrange⟩
    omega

theorem busyBank_iff (s : State) (b : Nat) : busyBank s b = true ↔ s.Busy b := by
  have htwp : touches b (s.me.cr_ Cr.twp).toNat 448 = true ↔ _ := touches_iff (by decide)
  rw [busyBank, Core.busy, Bool.or_eq_true, Bool.or_eq_true, Bool.and_eq_true, bne_iff_ne, touches_iff (by omega), htwp,
    touches_below_iff, State.Busy]
  constructor
  · rintro ((⟨x, hx, hin⟩ | ⟨ht, x, hx, hin⟩) | ⟨x, hx, hin⟩)
    · exact ⟨x, hx, .inl hin⟩
    · exact ⟨x, hx, .inr (.inl ⟨ht, hin⟩)⟩
    · exact ⟨x, hx, .inr (.inr hin)⟩
  · rintro ⟨x, hx, hin | ⟨ht, hin⟩ | hin⟩
    · exact .inl (.inl ⟨x, hx, hin⟩)
    · exact .inl (.inr ⟨ht, x, hx, hin⟩)
    · exact .inr ⟨x, hx, hin⟩

theorem bankRegBad_iff (w : Word) : bankRegBad w = true ↔ 16 ≤ w.toNat := by
  rw [bankRegBad, bne_iff_ne, Ne, bits_high_eq_zero_iff w 4 rfl, Nat.not_lt]
  rfl

/-! ## Banks that are marked, and that are so no more -/

theorem Core.bank_congr {c d : Core} (h : d.banks = c.banks) (b : Nat) : d.bank b = c.bank b := by rw [Core.bank, Core.bank, h]

section
variable (c : Core) (l : List Nat)

/-- A core whose banks of a list answer as converting. -/
def Core.converting : Core := l.foldl (fun (c : Core) b => c.setBank b { c.bank b with converting := true }) c

theorem Core.bank_converting (b : Nat) : (c.converting l).bank b = if b ∈ l then { c.bank b with converting := true } else c.bank b := by
  induction l generalizing c with
  | nil => rfl
  | cons a l ih =>
    have hstep : (c.converting (a :: l)).bank b = ((c.setBank a { c.bank a with converting := true }).converting l).bank b := rfl
    rw [hstep, ih]
    by_cases hb : b = a
    · subst hb
      simp
    · simp [Core.bank_setBank_other _ _ hb, hb]

theorem Core.converting_apart : { c.converting l with banks := [] } = { c with banks := [] } := by
  induction l generalizing c with
  | nil => rfl
  | cons a l ih => exact ih (c.setBank a { c.bank a with converting := true })

/-- A bank of a list is converted no more. -/
theorem Core.bank_unconverted_of (b : Nat) :
    (l.foldl (fun (c : Core) b => if (c.bank b).converting then c.setBank b { c.bank b with converting := false } else c) c).bank b =
      if b ∈ l then { c.bank b with converting := false } else c.bank b := by
  induction l generalizing c with
  | nil => rfl
  | cons a l ih =>
    have hsame {x : Bank} (h : ¬ x.converting = true) : { x with converting := false } = x := by
      have h := Bool.eq_false_iff.mpr h
      cases x
      cases h
      rfl
    rw [List.foldl_cons, ih]
    by_cases hb : b = a
    · subst hb
      by_cases hc : (c.bank b).converting = true
      · simp [hc]
      · simp only [hc, Bool.false_eq_true, if_false, List.mem_cons, true_or, hsame hc, ite_self]
    · have hother : (if (c.bank a).converting = true then c.setBank a { c.bank a with converting := false } else c).bank b = c.bank b := by
        split
        · exact Core.bank_setBank_other _ _ hb
        · rfl
      rw [hother]
      simp only [List.mem_cons, hb, false_or]

theorem Core.bank_unconverted {b : Nat} (hb : b < 16) : c.unconverted.bank b = { c.bank b with converting := false } := by
  rw [Core.unconverted, Core.bank_unconverted_of, if_pos (List.mem_range.mpr hb)]

theorem Core.unconverted_apart_of :
    { l.foldl (fun (c : Core) b => if (c.bank b).converting then c.setBank b { c.bank b with converting := false } else c) c with banks := [] } =
      { c with banks := [] } := by
  induction l generalizing c with
  | nil => rfl
  | cons a l ih =>
    rw [List.foldl_cons, ih]
    split <;> rfl

theorem Core.unconverted_apart : { c.unconverted with banks := [] } = { c with banks := [] } := Core.unconverted_apart_of c _

end

/-! ## The two ways in which an instruction answers -/

section
variable {i : Instr} {s : State} {body : State → Eff} {d : Reg} {v : Word} {br : Nat} {l : List Nat} {c : Core}

theorem GivesBr.of_done (he : exec i s = retire i s body) (hb : body s = bankDone s d v br) (hbr : br < 4) : GivesBr i s d v br :=
  .of_local he hb hbr

/-- A change of banks that begins holds the instruction, with the result that it has found (R127, R230). -/
theorem Changes.of_begin (he : exec i s = retire i s body) (hb : body s = beginChange s d v br l c) : Changes i s d v br l c := fun hp => by
  refine ⟨_, exec_of_stay he hb hp, s.onlyMine_upd _, ?_⟩
  rw [State.me_upd]
  refine ⟨?_, rfl, c.bank_converting l⟩
  exact congrArg (fun k : Core => { k with conv := none }) (c.converting_apart l)

end

/-! ## What a conversion makes of the personality -/

/-- The bank at which a structure starts takes its personality. -/
theorem Core.pers_label (c : Core) (f g : Nat) (p : W32) : ((c.label f g p).bank f).pers = p := by
  have hfold (h : Bank → Nat → Bank) (hp : ∀ x i, (h x i).pers = p) (n : Nat) :
      (((List.range (n + 1)).foldl (fun (c : Core) i => c.setBank (f + i) (h (c.bank (f + i)) i)) c).bank f).pers = p := by
    induction n with
    | zero => simp [hp]
    | succ n ih =>
      rw [List.range_succ, List.foldl_append, List.foldl_cons, List.foldl_nil, Core.bank_setBank_other _ _ (by omega)]
      exact ih
  obtain ⟨n, hn⟩ : ∃ n, groupSize g = n + 1 := ⟨groupSize g - 1, by have := Nat.two_pow_pos g; rw [groupSize]; omega⟩
  rw [Core.label, hn]
  split
  · exact hfold (fun x i => x.fresh p (f + i) 0) (fun _ _ => rfl) n
  · exact hfold (fun x _ => x.fresh p f g) (fun _ _ => rfl) n

theorem Core.pers_build {c k : Core} {f g : Nat} {p : W32} {l : List Elem} (h : c.build f g p l = some k) : (k.bank f).pers = p := by
  have hlabel := c.pers_label f g p
  have hset (x : Bank) (hx : x.pers = p) : (((c.label f g p).setBank f x).bank f).pers = p := by rw [Core.bank_setBank, hx]
  rw [Core.build, Option.ite_none_left_eq_some] at h
  obtain ⟨-, h⟩ := h
  by_cases harray : kindOf p = 0
  · rw [if_pos harray, Option.ite_none_left_eq_some, Option.some_inj] at h
    obtain ⟨-, rfl⟩ := h
    exact hlabel
  · rw [if_neg harray] at h
    by_cases hslot : isSlotBank p = true
    · rw [if_pos hslot, Option.ite_none_left_eq_some, Option.some_inj] at h
      obtain ⟨-, rfl⟩ := h
      exact hset _ hlabel
    · rw [if_neg hslot, Option.ite_none_left_eq_some, Option.ite_none_left_eq_some, Option.some_inj] at h
      obtain ⟨-, -, rfl⟩ := h
      exact hset _ hlabel

theorem Core.pers_convertAt {c k : Core} {f g : Nat} {p : W32} (h : c.convertAt f g p = some k) : (k.bank f).pers = p := by
  obtain ⟨l, -, hb⟩ := Option.bind_eq_some_iff.mp h
  exact Core.pers_build hb

/-! ## Converting one bank (R128, R233) -/

section
variable {s : State} {b : Nat} {p : W32} {leaving : Bool}

theorem fixed_iff : (pinnedBank s b || b == 15 || (s.me.bank b).gsize != 0 : Bool) = true ↔ s.Fixed b := by
  simp [State.Fixed, or_assoc]

theorem convertBank_refused (h : s.Fixed b ∨ ((s.me.bank b).shard = true ∧ leaving = false)) : convertBank s b p leaving = none := by
  rw [convertBank]
  refine if_pos ?_
  rw [Bool.or_eq_true, fixed_iff, Bool.and_eq_true, Bool.not_eq_true']
  exact h

theorem convertBank_allowed (h : ¬ s.Fixed b) (hs : (s.me.bank b).shard = false ∨ leaving = true) :
    convertBank s b p leaving = if (s.me.bank b).pers = p then some s.me else s.me.convertAt b 0 p := by
  rw [convertBank]
  refine if_neg ?_
  rw [Bool.or_eq_true, fixed_iff, Bool.and_eq_true, Bool.not_eq_true']
  rintro (hf | ⟨hshard, hstay⟩)
  · exact h hf
  · rcases hs with hs | hs
    · rw [hs] at hshard
      exact Bool.false_ne_true hshard
    · rw [hs] at hstay
      exact Bool.false_ne_true hstay.symm

end

/-! ## bpers -/

section
variable (s : State) (d a b : Reg)

/-- What `bpers` does with a bank that it may look at. -/
def persChange (n : Nat) (p : Word) : Eff :=
  match convertBank s n (p.truncate 32) false with
  | none => bankDone s d (BitVec.ofNat 64 (s.me.countOf n)) brFULL
  | some c => if c = s.me then bankDone s d (BitVec.ofNat 64 (s.me.countOf n)) brOK
    else beginChange s d (BitVec.ofNat 64 (c.countOf n)) brOK [n] c

/-- The effect of `bpers`. -/
def persEff : Eff :=
  if bankRegBad (s.me.s a.toNat) then .trap tBANKPORT (s.me.s a.toNat)
  else if persOk (s.me.s b.toNat) = false then .trap tBANKPORT (s.me.s b.toNat)
  else if busyBank s (s.me.s a.toNat).toNat then .trap tBANKBUSY (bankBase (s.me.s a.toNat).toNat)
  else persChange s d (s.me.s a.toNat).toNat (s.me.s b.toNat)

theorem exec_bpers : exec (.bpers d a b) s = retire (.bpers d a b) s fun s => persEff s d a b := rfl

theorem bpers_changes : let w := s.me.s a.toNat; let p := s.me.s b.toNat; let n := w.toNat; let i := Instr.bpers d a b
    let count (c : Core) : Word := BitVec.ofNat 64 (c.bank (c.bank n).first).count
    (16 ≤ n → Traps i s tBANKPORT w) ∧ (n < 16 → persOk p = false → Traps i s tBANKPORT p) ∧
    (n < 16 → persOk p = true → s.Busy n → Traps i s tBANKBUSY (BitVec.ofNat 64 (n * 0x4000))) ∧
    (n < 16 → persOk p = true → ¬ s.Busy n →
      (s.Fixed n ∨ (s.me.bank n).shard = true → GivesBr i s d (count s.me) 2) ∧
      (¬ s.Fixed n → (s.me.bank n).shard = false →
        ((s.me.bank n).pers = p.truncate 32 → GivesBr i s d (count s.me) 0) ∧
        ((s.me.bank n).pers ≠ p.truncate 32 →
          (s.me.convertAt n 0 (p.truncate 32) = none → GivesBr i s d (count s.me) 2) ∧
          ∀ c, s.me.convertAt n 0 (p.truncate 32) = some c → Changes i s d (count c) 0 [n] c))) := by
  intro w p n i count
  have hreg (h : n < 16) : ¬ bankRegBad w = true := by rw [bankRegBad_iff]; exact Nat.not_le.mpr h
  have hpers (h : persOk p = true) : ¬ persOk p = false := by rw [h]; decide
  have he := exec_bpers s d a b
  refine ⟨fun h => .of_trap he (if_pos ((bankRegBad_iff _).mpr h)), fun h hp => .of_trap he ((if_neg (hreg h)).trans (if_pos hp)),
    fun h hp hbusy => .of_trap he ?_, fun h hp hbusy => ?_⟩
  · exact (if_neg (hreg h)).trans ((if_neg (hpers hp)).trans (if_pos ((busyBank_iff s n).mpr hbusy)))
  · have hbody : persEff s d a b = persChange s d n p :=
      (if_neg (hreg h)).trans ((if_neg (hpers hp)).trans (if_neg (mt (busyBank_iff s n).mp hbusy)))
    refine ⟨fun hfixed => .of_done he (hbody.trans ?_) (by decide), fun hfree hshard => ⟨fun hsame => .of_done he (hbody.trans ?_) (by decide),
      fun hdiff => ⟨fun hno => .of_done he (hbody.trans ?_) (by decide), fun c hc => .of_begin he (hbody.trans ?_)⟩⟩⟩
    · rw [persChange, convertBank_refused (hfixed.imp id fun h => ⟨h, rfl⟩)]
      rfl
    · rw [persChange, convertBank_allowed hfree (.inl hshard), if_pos hsame]
      exact if_pos rfl
    · rw [persChange, convertBank_allowed hfree (.inl hshard), if_neg hdiff, hno]
      rfl
    · rw [persChange, convertBank_allowed hfree (.inl hshard), if_neg hdiff, hc]
      refine if_neg fun hsame => hdiff ?_
      rw [← Core.pers_convertAt hc, hsame]

end

/-! ## bgroup -/

section
variable (s : State) (d a b n : Reg)

/-- The banks that a group of a size code would have. -/
def groupBanks (f g : Nat) : List Nat := (List.range (2 ^ g)).map fun k => f + k

/-- What `bgroup` does with banks that are not busy. -/
def groupChange (f g : Nat) (p : Word) (whole : Bool) : Eff :=
  let full := bankDone s d (BitVec.ofNat 64 (s.me.countOf f)) brFULL
  if (groupBanks f g).any fun m => pinnedBank s m || m == 15 || (s.me.bank m).shard || (!whole && (s.me.bank m).gsize != 0) then full
  else if whole && (s.me.bank f).pers == p.truncate 32 then bankDone s d (BitVec.ofNat 64 (s.me.countOf f)) brOK
  else match (if whole then s.me.convertAt f g (p.truncate 32)
      else (s.me.views (p.truncate 32) (groupBanks f g)).bind fun l => s.me.build f g (p.truncate 32) l : Option Core) with
    | none => full
    | some c => beginChange s d (BitVec.ofNat 64 (c.countOf f)) brOK (groupBanks f g) c

/-- The effect of `bgroup`. -/
def groupEff : Eff :=
  let f := (s.me.s a.toNat).toNat
  if bankRegBad (s.me.s a.toNat) then .trap tBANKPORT (s.me.s a.toNat)
  else if f % 2 ^ n.toNat ≠ 0 then .trap tBANKPORT (s.me.s a.toNat)
  else if persOk (s.me.s b.toNat) = false then .trap tBANKPORT (s.me.s b.toNat)
  else match (groupBanks f n.toNat).find? (busyBank s) with
    | some m => .trap tBANKBUSY (bankBase m)
    | none => groupChange s d f n.toNat (s.me.s b.toNat) ((s.me.bank f).first == f && (s.me.bank f).gsize == n.toNat && n.toNat != 0)

theorem exec_bgroup : exec (.bgroup d a b n) s = retire (.bgroup d a b n) s fun s => groupEff s d a b n := rfl

/-- The size of a group is 2, 4 or 8 banks (R130). -/
theorem Instr.bgroup_size {f : Word} (h : (Instr.bgroup d a b n).legal f = true) : n.toNat ≠ 0 := by
  rw [Instr.legal, Bool.and_eq_true, Bool.and_eq_true] at h
  have hfields : (1 ≤ n.toNat && n.toNat ≤ 3 : Bool) = true := h.1.2
  simp only [Bool.and_eq_true, decide_eq_true_eq] at hfields
  omega

theorem groupBanks_first_busy {f g k : Nat} (hk : k < 2 ^ g) (hbusy : s.Busy (f + k)) (hfirst : ∀ j < k, ¬ s.Busy (f + j)) :
    (groupBanks f g).find? (busyBank s) = some (f + k) := by
  have hfind : (List.range (2 ^ g)).find? (busyBank s ∘ fun k => f + k) = some k := by
    rw [List.find?_range_eq_some]
    refine ⟨(busyBank_iff s _).mpr hbusy, List.mem_range.mpr hk, fun j hj => ?_⟩
    rw [Bool.not_eq_true', ← Bool.not_eq_true]
    exact mt (busyBank_iff s _).mp (hfirst j hj)
  rw [groupBanks, List.find?_map, hfind]
  rfl

theorem groupBanks_none_busy {f g : Nat} (h : ∀ m ∈ groupBanks f g, ¬ s.Busy m) : (groupBanks f g).find? (busyBank s) = none :=
  List.find?_eq_none.mpr fun m hm => mt (busyBank_iff s m).mp (h m hm)

section
variable {s : State} {d a b n : Reg} {f g : Nat} {p : Word} {whole : Bool}

theorem groupEff_busy (hf : (s.me.s a.toNat).toNat < 16) (halign : (s.me.s a.toNat).toNat % 2 ^ n.toNat = 0)
    (hp : persOk (s.me.s b.toNat) = true) {m : Nat} (hm : (groupBanks (s.me.s a.toNat).toNat n.toNat).find? (busyBank s) = some m) :
    groupEff s d a b n = .trap tBANKBUSY (bankBase m) := by
  have hreg : ¬ bankRegBad (s.me.s a.toNat) = true := by rw [bankRegBad_iff]; exact Nat.not_le.mpr hf
  have hpers : ¬ persOk (s.me.s b.toNat) = false := by rw [hp]; decide
  unfold groupEff
  dsimp only
  rw [if_neg hreg, if_neg (not_not.mpr halign), if_neg hpers, hm]

theorem groupEff_free (hf : (s.me.s a.toNat).toNat < 16) (halign : (s.me.s a.toNat).toNat % 2 ^ n.toNat = 0)
    (hp : persOk (s.me.s b.toNat) = true) (hm : (groupBanks (s.me.s a.toNat).toNat n.toNat).find? (busyBank s) = none) :
    groupEff s d a b n = groupChange s d (s.me.s a.toNat).toNat n.toNat (s.me.s b.toNat) ((s.me.bank (s.me.s a.toNat).toNat).first ==
      (s.me.s a.toNat).toNat && (s.me.bank (s.me.s a.toNat).toNat).gsize == n.toNat && n.toNat != 0) := by
  have hreg : ¬ bankRegBad (s.me.s a.toNat) = true := by rw [bankRegBad_iff]; exact Nat.not_le.mpr hf
  have hpers : ¬ persOk (s.me.s b.toNat) = false := by rw [hp]; decide
  unfold groupEff
  dsimp only
  rw [if_neg hreg, if_neg (not_not.mpr halign), if_neg hpers, hm]

/-- Banks that may form the group. -/
def State.Groupable (s : State) (f g : Nat) (whole : Bool) : Prop :=
  ∀ m ∈ groupBanks f g, pinnedBank s m = false ∧ m ≠ 15 ∧ (s.me.bank m).shard = false ∧ (whole = true ∨ (s.me.bank m).gsize = 0)

theorem groupable_iff : ¬ ((groupBanks f g).any fun m => pinnedBank s m || m == 15 || (s.me.bank m).shard ||
    (!whole && (s.me.bank m).gsize != 0)) = true ↔ s.Groupable f g whole := by
  rw [Bool.not_eq_true, List.any_eq_false]
  refine forall₂_congr fun m _ => ?_
  cases whole <;> simp [and_assoc]

theorem groupChange_refused (h : ¬ s.Groupable f g whole) :
    groupChange s d f g p whole = bankDone s d (BitVec.ofNat 64 (s.me.countOf f)) brFULL := if_pos (not_not.mp (mt groupable_iff.mp h))

theorem groupChange_same (h : s.Groupable f g whole) (hw : whole = true) (hp : (s.me.bank f).pers = p.truncate 32) :
    groupChange s d f g p whole = bankDone s d (BitVec.ofNat 64 (s.me.countOf f)) brOK := by
  refine (if_neg (groupable_iff.mpr h)).trans (if_pos ?_)
  rw [hw, hp, Bool.true_and, beq_self_eq_true]

theorem groupChange_new (h : s.Groupable f g whole) (hp : ¬ (whole = true ∧ (s.me.bank f).pers = p.truncate 32)) :
    let r := if whole then s.me.convertAt f g (p.truncate 32)
      else (s.me.views (p.truncate 32) (groupBanks f g)).bind fun l => s.me.build f g (p.truncate 32) l
    (r = none → groupChange s d f g p whole = bankDone s d (BitVec.ofNat 64 (s.me.countOf f)) brFULL) ∧
    ∀ c, r = some c → groupChange s d f g p whole = beginChange s d (BitVec.ofNat 64 (c.countOf f)) brOK (groupBanks f g) c := by
  intro r
  have hno : ¬ (whole && (s.me.bank f).pers == p.truncate 32) = true := by
    rw [Bool.and_eq_true, beq_iff_eq]
    exact hp
  refine ⟨fun hr => (if_neg (groupable_iff.mpr h)).trans ((if_neg hno).trans ?_),
    fun c hr => (if_neg (groupable_iff.mpr h)).trans ((if_neg hno).trans ?_)⟩
  · rw [show (if whole then s.me.convertAt f g (p.truncate 32) else _) = none from hr]
  · rw [show (if whole then s.me.convertAt f g (p.truncate 32) else _) = some c from hr]

end

theorem bgroup_changes : let w := s.me.s a.toNat; let p := s.me.s b.toNat; let f := w.toNat; let g := n.toNat
    let i := Instr.bgroup d a b n; let ms := (List.range (2 ^ g)).map fun k => f + k
    let count (c : Core) : Word := BitVec.ofNat 64 (c.bank (c.bank f).first).count
    let same := (s.me.bank f).first = f ∧ (s.me.bank f).gsize = g
    let free := ∀ m ∈ ms, pinnedBank s m = false ∧ m ≠ 15 ∧ (s.me.bank m).shard = false ∧ (same ∨ (s.me.bank m).gsize = 0)
    (16 ≤ f ∨ f % 2 ^ g ≠ 0 → Traps i s tBANKPORT w) ∧
    (f < 16 → f % 2 ^ g = 0 → persOk p = false → Traps i s tBANKPORT p) ∧
    (f < 16 → f % 2 ^ g = 0 → persOk p = true → ∀ k < 2 ^ g, s.Busy (f + k) → (∀ j < k, ¬ s.Busy (f + j)) →
      Traps i s tBANKBUSY (BitVec.ofNat 64 ((f + k) * 0x4000))) ∧
    (f < 16 → f % 2 ^ g = 0 → persOk p = true → (∀ m ∈ ms, ¬ s.Busy m) →
      (¬ free → GivesBr i s d (count s.me) 2) ∧
      (free → same → (s.me.bank f).pers = p.truncate 32 → GivesBr i s d (count s.me) 0) ∧
      (free → ¬ (same ∧ (s.me.bank f).pers = p.truncate 32) →
        let r := if same then s.me.convertAt f g (p.truncate 32)
          else (s.me.views (p.truncate 32) ms).bind fun l => s.me.build f g (p.truncate 32) l
        (r = none → GivesBr i s d (count s.me) 2) ∧ ∀ c, r = some c → Changes i s d (count c) 0 ms c)) := by
  intro w p f g i ms count same free
  have hreg (h : f < 16) : ¬ bankRegBad w = true := by rw [bankRegBad_iff]; exact Nat.not_le.mpr h
  have hpers (h : persOk p = true) : ¬ persOk p = false := by rw [h]; decide
  have he := exec_bgroup s d a b n
  refine ⟨fun h => .of_trap he ?_, fun h halign hp => .of_trap he ?_, fun h halign hp k hk hbusy hfirst => .of_trap he ?_,
    fun h halign hp hbusy => ?_⟩
  · by_cases hf : f < 16
    · exact (if_neg (hreg hf)).trans (if_pos (h.resolve_left (Nat.not_le.mpr hf)))
    · exact if_pos ((bankRegBad_iff _).mpr (Nat.not_lt.mp hf))
  · exact (if_neg (hreg h)).trans ((if_neg (not_not.mpr halign)).trans (if_pos hp))
  · exact groupEff_busy h halign hp (groupBanks_first_busy s hk hbusy hfirst)
  · have hwhole (hg : g ≠ 0) : ((s.me.bank f).first == f && (s.me.bank f).gsize == g && g != 0) = decide same := by
      rw [Bool.eq_iff_iff]
      simp [same, hg]
    have hbody (hl : Passes s i) : groupEff s d a b n = groupChange s d f g p (decide same) := by
      rw [groupEff_free h halign hp (groupBanks_none_busy s hbusy)]
      exact congrArg (groupChange s d f g p) (hwhole (Instr.bgroup_size d a b n hl.1))
    have hfree : free ↔ s.Groupable f g (decide same) := by simp only [free, State.Groupable, decide_eq_true_eq]; rfl
    have hnew (hdiff : ¬ (same ∧ (s.me.bank f).pers = p.truncate 32)) : ¬ (decide same = true ∧ (s.me.bank f).pers = p.truncate 32) := by
      rw [decide_eq_true_eq]
      exact hdiff
    have hr' {x y : Option Core} : (if decide same = true then x else y) = if same then x else y := by simp only [decide_eq_true_eq]
    refine ⟨fun hno hl => ?_, fun hyes hsame hpers hl => ?_, fun hyes hdiff => ⟨fun hr hl => ?_, fun c hr hl => ?_⟩⟩
    · exact GivesBr.of_done he ((hbody hl).trans (groupChange_refused (mt hfree.mpr hno))) (by decide) hl
    · exact GivesBr.of_done he ((hbody hl).trans (groupChange_same (hfree.mp hyes) (decide_eq_true hsame) hpers)) (by decide) hl
    · exact GivesBr.of_done he ((hbody hl).trans ((groupChange_new (hfree.mp hyes) (hnew hdiff)).1 (hr'.trans hr))) (by decide) hl
    · exact Changes.of_begin he ((hbody hl).trans ((groupChange_new (hfree.mp hyes) (hnew hdiff)).2 c (hr'.trans hr))) hl

end

/-! ## bspread -/

section
variable (s : State) (d a n : Reg)

/-- What `bspread` does with the bank that its definition block names. -/
def spreadChange (ws : List Word) (k : Nat) : Eff :=
  let p : W32 := (ws.getD 0 0).truncate 32
  let b := bits (ws.getD 0 0) 32 4
  let leave := kindOf p == 0
  if busyBank s b then .trap tBANKBUSY (bankBase b)
  else match convertBank s b p leave with
    | none => bankDone s d (BitVec.ofNat 64 (s.me.countOf b)) brFULL
    | some c => beginChange s d (BitVec.ofNat 64 k) brOK [b]
      ((c.setBank b { c.bank b with shard := !leave }).setCr (Cr.spread0 + n.toNat) (if leave then 0 else spreadWord ws))

/-- The effect of `bspread`. -/
def spreadEff : Eff :=
  let w := s.me.s a.toNat
  let ws := s.me.store.words w.toNat 4
  if w.toNat % 32 ≠ 0 ∨ w.toNat ≥ 0x40000 ∨ s.me.arrayRange w.toNat 32 = false then .trap tBANKPORT w
  else match spreadIndex ws s.mine.vc s.cur.core with
    | none => .trap tBANKPORT w
    | some k => spreadChange s d n ws k

theorem exec_bspread : exec (.bspread d a n) s = retire (.bspread d a n) s fun s => spreadEff s d a n := rfl

theorem bspread_changes : let w := s.me.s a.toNat; let i := Instr.bspread d a n; let ws := s.me.store.words w.toNat 4
    let place := w.toNat < 0x40000 ∧ w.toNat % 32 = 0 ∧ s.me.arrayRange w.toNat 32 = true
    let p : W32 := (ws.getD 0 0).truncate 32; let b := bits (ws.getD 0 0) 32 4; let leave := kindOf p = 0
    let count : Word := BitVec.ofNat 64 (s.me.bank (s.me.bank b).first).count
    (¬ place → Traps i s tBANKPORT w) ∧
    (place → spreadIndex ws s.mine.vc s.cur.core = none → Traps i s tBANKPORT w) ∧
    ∀ k, place → spreadIndex ws s.mine.vc s.cur.core = some k →
      (s.Busy b → Traps i s tBANKBUSY (BitVec.ofNat 64 (b * 0x4000))) ∧
      (¬ s.Busy b → (s.Fixed b ∨ ((s.me.bank b).shard = true ∧ ¬ leave) → GivesBr i s d count 2) ∧
        (¬ s.Fixed b → ((s.me.bank b).shard = false ∨ leave) →
          let r := if (s.me.bank b).pers = p then some s.me else s.me.convertAt b 0 p
          (r = none → GivesBr i s d count 2) ∧
          ∀ c, r = some c → Changes i s d (BitVec.ofNat 64 k) 0 [b]
            ((c.setBank b { c.bank b with shard := !decide leave }).setCr (Cr.spread0 + n.toNat) (if leave then 0 else spreadWord ws)))) := by
  intro w i ws place p b leave count
  have he := exec_bspread s d a n
  have hplace (h : place) : ¬ (w.toNat % 32 ≠ 0 ∨ w.toNat ≥ 0x40000 ∨ s.me.arrayRange w.toNat 32 = false) := by
    obtain ⟨hin, halign, harray⟩ := h
    rintro (hno | hno | hno)
    · exact hno halign
    · exact absurd hin (Nat.not_lt.mpr hno)
    · exact Bool.false_ne_true (hno.symm.trans harray)
  refine ⟨fun h => .of_trap he (if_pos ?_), fun h hno => .of_trap he ((if_neg (hplace h)).trans ?_), fun k h hk => ?_⟩
  · by_contra hno
    simp only [not_or, not_not, ge_iff_le, Nat.not_le, Bool.not_eq_false] at hno
    exact h ⟨hno.2.1, hno.1, hno.2.2⟩
  · rw [hno]
  · have hbody : spreadEff s d a n = spreadChange s d n ws k := by
      refine (if_neg (hplace h)).trans ?_
      rw [hk]
    have hfree (hbusy : ¬ s.Busy b) : ¬ busyBank s b = true := mt (busyBank_iff s b).mp hbusy
    have hleave (c : Core) : (c.setBank b { c.bank b with shard := !(kindOf p == 0) }).setCr (Cr.spread0 + n.toNat)
        (if (kindOf p == 0) = true then 0 else spreadWord ws) =
        (c.setBank b { c.bank b with shard := !decide leave }).setCr (Cr.spread0 + n.toNat) (if leave then 0 else spreadWord ws) := by
      simp only [beq_eq_decide, decide_eq_true_eq, leave]
    refine ⟨fun hbusy => .of_trap he (hbody.trans (if_pos ((busyBank_iff s b).mpr hbusy))), fun hbusy => ⟨fun hfixed => ?_, fun hfixed hshard => ?_⟩⟩
    · refine .of_done he (hbody.trans ((if_neg (hfree hbusy)).trans ?_)) (by decide)
      rw [convertBank_refused (hfixed.imp id fun h => ⟨h.1, beq_eq_false_iff_ne.mpr h.2⟩)]
      rfl
    · have hconvert : convertBank s b p (kindOf p == 0) = if (s.me.bank b).pers = p then some s.me else s.me.convertAt b 0 p :=
        convertBank_allowed hfixed (hshard.imp id fun h => beq_iff_eq.mpr h)
      refine ⟨fun hr => .of_done he (hbody.trans ((if_neg (hfree hbusy)).trans ?_)) (by decide),
        fun c hr => .of_begin he (hbody.trans ((if_neg (hfree hbusy)).trans ?_))⟩
      · rw [hconvert.trans hr]
        rfl
      · rw [hconvert.trans hr]
        exact congrArg (beginChange s d _ brOK [b]) (hleave c)

end

/-! ## The end of a change -/

section
variable {s : State} {r : CoreRef} {d : Reg} {v : Word} {br : Nat}

/-- A core whose banks are converted no more, and whose change has ended. -/
def Core.answering (c : Core) : Core := { c.unconverted with conv := none }

/-- A core whose change of banks has ended, with its result (R229, R230). -/
def Core.changed (c : Core) (d : Reg) (v : Word) (br : Nat) : Core := (c.answering.setS d.toNat v).setBr br

theorem exec_bankConversionEnd (h : (s.core r).conv = some (d, v, br)) : exec (.bankConversionEnd r) s =
    .next { (({ s with cur := r }.upd fun c => c.changed d v br).finish (.bclear d 0)) with cur := s.cur } := by
  show execBankConversionEnd r s = _
  rw [execBankConversionEnd, h]
  rfl

/-- Apart from its banks a core is as it was. -/
theorem Core.answering_apart (c : Core) : { c.answering with banks := [] } = { c with banks := [], conv := none } :=
  congrArg (fun k : Core => { k with conv := none }) c.unconverted_apart

section
variable (c : Core)

theorem Core.answering_store : c.answering.store = c.store := by have x := congrArg Core.store c.answering_apart; dsimp only at x; exact x
theorem Core.answering_cr : c.answering.cr = c.cr := by have x := congrArg Core.cr c.answering_apart; dsimp only at x; exact x
theorem Core.answering_pc : c.answering.pc = c.pc := by have x := congrArg Core.pc c.answering_apart; dsimp only at x; exact x
theorem Core.answering_repBuf : c.answering.repBuf = c.repBuf := by
  have x := congrArg Core.repBuf c.answering_apart
  dsimp only at x
  exact x
theorem Core.answering_conv : c.answering.conv = none := rfl
theorem Core.answering_bank {b : Nat} (hb : b < 16) : c.answering.bank b = { c.bank b with converting := false } :=
  (Core.bank_congr (by rw [Core.answering]) b).trans (c.bank_unconverted hb)

end

/-- What the result of a change makes of its core. -/
theorem Core.changed_spec (c : Core) (hbr : br < 4) : (c.changed d v br).conv = none ∧
    (∀ b < 16, (c.changed d v br).bank b = { c.bank b with converting := false }) ∧ (c.changed d v br).br = br ∧
    (c.changed d v br).s d.toNat = (if d = 0 then 0 else v) ∧ (c.changed d v br).pc = c.pc ∧ (c.changed d v br).inRep = c.inRep ∧
    ∀ x, ¬ c.sBytes d x → (c.changed d v br).store.get x = c.store.get x := by
  have hbytes (x : Nat) : c.answering.sBytes d x ↔ c.sBytes d x := by
    rw [Core.sBytes, Core.sBytes, sAddr, sAddr, Core.wp_congr c.answering_cr]
  unfold Core.changed
  refine ⟨?_, fun b hb => ?_, Core.br_setBr _ _ hbr, ?_, ?_, ?_, fun x hx => ?_⟩
  · simp [Core.setBr, Core.answering_conv]
  · refine Eq.trans ?_ (c.answering_bank hb)
    simp [Core.setBr, Core.bank]
  · rw [Core.s_setBr, Core.s_setS_reg]
  · simp [Core.setBr, Core.answering_pc]
  · rw [Core.inRep_setBr, Core.inRep_setS]
    exact Core.inRep_congr c.answering_cr c.answering_repBuf
  · have hkeep := (c.answering.keeps_setS d v).2.1.1 x (mt (hbytes x).mp hx)
    rw [Core.answering_store] at hkeep
    exact hkeep

theorem conversion_ends (h : (s.core r).conv = some (d, v, br)) (hbr : br < 4) : let s0 : State := { s with cur := r }
    Answers (exec (.bankConversionEnd r) s) fun t => t.cur = s.cur ∧ OnlyMine s0 { t with cur := r } ∧ (t.core r).conv = none ∧
      (∀ b < 16, (t.core r).bank b = { (s.core r).bank b with converting := false }) ∧ (t.core r).br = br ∧
      (t.core r).s d.toNat = (if d = 0 then 0 else v) ∧ ((s.core r).inRep = false → (t.core r).pc = (s.core r).pc + 4) ∧
      ∀ x, ¬ (s.core r).sBytes d x → (t.core r).store.get x = (s.core r).store.get x := by
  intro s0
  have hexec := exec_bankConversionEnd h
  obtain ⟨hconv, hbank, hbr', hs, hpc, hrep, hbytes⟩ := (s.core r).changed_spec (d := d) (v := v) hbr
  have hme : (s0.upd fun c => c.changed d v br).me = (s.core r).changed d v br := State.me_upd s0 _
  generalize hU : (s0.upd fun c => c.changed d v br) = U at hme
  rw [hU] at hexec
  rw [← hme] at hconv hbank hbr' hs hpc hrep hbytes
  obtain ⟨honly, hkeeps, hgo, -⟩ := U.finish_leaves (.bclear d 0)
  have hU0 : OnlyMine s0 U := hU ▸ s0.onlyMine_upd _
  have hcur : (U.finish (.bclear d 0)).cur = r := (hU0.trans honly).cur
  have hcore : (U.finish (.bclear d 0)).core r = (U.finish (.bclear d 0)).me := by rw [State.me, hcur]
  refine ⟨_, hexec, rfl, ?_, ?_⟩
  · have hsame : { U.finish (.bclear d 0) with cur := r } = U.finish (.bclear d 0) := by rw [← hcur]
    exact hsame.symm ▸ hU0.trans honly
  · show ((U.finish (.bclear d 0)).core r).conv = none ∧ _
    have hconvs : (U.finish (.bclear d 0)).me.conv = U.me.conv := by have x := congrArg Core.conv hkeeps.1; exact x
    have hbanks : (U.finish (.bclear d 0)).me.banks = U.me.banks := by have x := congrArg Core.banks hkeeps.1; exact x
    refine ⟨?_, fun b hb => ?_, ?_, ?_, fun hno => ?_, fun x hx => ?_⟩
    · rw [hcore, hconvs, hconv]
    · rw [← hbank b hb]
      show ((U.finish (.bclear d 0)).core r).bank b = _
      rw [hcore]
      exact Core.bank_congr hbanks b
    · rw [← hbr']
      show ((U.finish (.bclear d 0)).core r).br = _
      rw [hcore]
      exact Core.br_congr (U.finish_cr _ _ fun h => absurd h (by decide))
    · rw [← hs]
      show ((U.finish (.bclear d 0)).core r).s d.toNat = _
      rw [hcore]
      exact U.finish_s _ _
    · show ((U.finish (.bclear d 0)).core r).pc = _
      rw [hcore, hgo (hrep.trans hno), hpc]
      rfl
    · rw [← hbytes x hx]
      show ((U.finish (.bclear d 0)).core r).store.get x = _
      rw [hcore, U.finish_store]

end

/-- Settles O22: each instruction goes through what it refuses in order, and then begins a change (`Changes.of_begin`) or answers at once
(`GivesBr.of_done`); the end of a change completes it (`conversion_ends`). -/
theorem bankChanges : Obligations.BankChanges :=
  ⟨bpers_changes, bgroup_changes, bspread_changes, fun _ _ _ _ _ h hbr => conversion_ends h hbr⟩

end Sys2Proof.Machine
end

section
/-! SUPPORT. An access to a mesh address at its home on the own die (R72, R230, R294, R324): the way of its request, and what the core it reaches
makes of it. -/
namespace Sys2Proof.Machine
open Sys2Proof

theorem Cluster.core_ownStore (k : Cluster) (issuer core o j : Nat) : (k.ownStore issuer core o).core j = k.core j := by
  rw [Cluster.ownStore]
  split <;> rfl

/-- A change of a cluster that keeps its cores keeps every core. -/
theorem State.core_updCluster_kept (s : State) (n : Nat) {f : Cluster → Cluster} (h : ∀ k j, (f k).core j = k.core j) (q : CoreRef) :
    (s.updCluster n f).core q = s.core q := by
  rw [State.core_updCluster, h]
  split
  · next hq => rw [State.core, hq]
  · rfl

section
variable {s : State} {r : CoreRef} {a : Access}

theorem State.core_setPend (s : State) (r : CoreRef) (a : Access) : (s.setPend r a).core r = { s.core r with pend := some a } :=
  s.core_updCore r _

theorem State.core_setPend_other (s : State) {q r : CoreRef} (a : Access) (h : q ≠ r) : (s.setPend r a).core q = s.core q :=
  s.core_updCore_other _ h

theorem MovesOn.of_setPend {i : Instr} {x : Access} (h : exec i s = .next (s.setPend r x)) : MovesOn i s r x :=
  ⟨_, h, s.core_setPend r x, fun _ hq => s.core_setPend_other x hq, rfl, rfl, rfl⟩

/-! ## The way of a request -/

section
variable {slot vc core cl from_ : Nat}

theorem wayTo_absent (h : placed s slot vc = none) : s.wayTo slot vc core from_ = .absent := by
  rw [State.wayTo, meshTarget, h]
  rfl

/-- The way to an entry of the placement table. -/
theorem wayTo_placed {p : Placement} (h : placed s slot vc = some p) : s.wayTo slot vc core from_ =
    if (p.moving && p.phys != from_) || (s.cluster p.phys).evict == .streaming then .retry else .core ⟨p.phys, core⟩ := by
  rw [State.wayTo, meshTarget, h]
  rfl

theorem wayTo_moving (h : placed s slot vc = some ⟨true, cl⟩) (hcl : cl ≠ from_) : s.wayTo slot vc core from_ = .retry := by
  rw [wayTo_placed h, if_pos]
  rw [Bool.true_and, bne_iff_ne.mpr hcl, Bool.true_or]

theorem wayTo_streaming (h : placed s slot vc = some ⟨false, cl⟩) (he : (s.cluster cl).evict = .streaming) :
    s.wayTo slot vc core from_ = .retry := by
  rw [wayTo_placed h, if_pos]
  rw [Bool.false_and, Bool.false_or]
  exact beq_iff_eq.mpr he

theorem wayTo_core (h : placed s slot vc = some ⟨false, cl⟩) (he : (s.cluster cl).evict ≠ .streaming) :
    s.wayTo slot vc core from_ = .core ⟨cl, core⟩ := by
  rw [wayTo_placed h, if_neg]
  rw [Bool.false_and, Bool.false_or]
  exact fun e => he (beq_iff_eq.mp e)

end

/-! ## A protected access that needs no record of its own (R116) -/

theorem performOnce_direct {owner : Nat} {crosses : Bool} (f : State → Resp × State) (h : a.tag = 0 ∨ crosses = false) :
    s.performOnce r a owner crosses f = (f s).2.setPend r { a with far := crosses, stage := .answered (f s).1 } := by
  rw [State.performOnce, if_pos h]
  rfl

/-! ## At the core -/

section
variable {t : CoreRef} {o : Nat}

theorem atBank_sealed (key : Word) (h : (s.core t).run = .sealed) :
    atBank s r a t o key = s.setPend r { a with stage := .answered (.trap tREMOTEERROR a.addr) } := by
  rw [atBank, if_pos h]
  rfl

theorem atBank_converting (key : Word) (h : (s.core t).run ≠ .sealed) (hport : (s.core t).isPort o = false) (ho : o < 0x40000)
    (hconv : ((s.core t).bank (o / 0x4000)).converting = true) :
    atBank s r a t o key = s.setPend r { a with stage := .retry true, since := some (a.since.getD s.cyc) } := by
  rw [atBank, if_neg h, hport, Bool.false_and, if_neg Bool.false_ne_true, hconv, decide_eq_true ho]
  rfl

theorem atBank_performs (key : Word) (h : (s.core t).run ≠ .sealed) (hport : (s.core t).isPort o = false)
    (hconv : ((s.core t).bank (o / 0x4000)).converting = false) : atBank s r a t o key =
      s.performOnce r a (s.ownerCore t) (dieOf t.cl != dieOf r.cl) fun s => bankPerform s r a t o key := by
  rw [atBank, if_neg h, hport, Bool.false_and, if_neg Bool.false_ne_true, hconv, Bool.and_false, if_neg Bool.false_ne_true]

/-- Plain memory performs the access, and its core's own store leaves the operand buffer (R255). -/
theorem bankPerform_plain (key : Word) (ho : o + a.op.size ≤ 0x40000) (hlo : o < 0x40000) (hhit : (s.core t).hit o a.op.size = .plain) :
    bankPerform s r a t o key = ((memAccess (s.core t).store a.op o a.addr).1,
      (s.setCore t { s.core t with store := (memAccess (s.core t).store a.op o a.addr).2 }).updCluster r.cl fun k =>
        if t.cl = r.cl && !a.op.isLoad then k.ownStore r.core t.core o else k) := by
  simp only [bankPerform, storeAccess, hhit, if_neg (show ¬ (0x40000 ≤ o ∧ o + a.op.size ≤ 0x40020) by omega),
    if_neg (show ¬ 0x40000 < o + a.op.size by omega), Bool.false_and, Bool.false_eq_true, if_false]

/-- What a plain access leaves of every core, but the access itself. -/
theorem core_bankPerform_plain (key : Word) (ho : o + a.op.size ≤ 0x40000) (hlo : o < 0x40000) (hhit : (s.core t).hit o a.op.size = .plain)
    (q : CoreRef) : (bankPerform s r a t o key).2.core q =
      (s.setCore t { s.core t with store := (memAccess (s.core t).store a.op o a.addr).2 }).core q := by
  rw [bankPerform_plain key ho hlo hhit]
  refine State.core_updCluster_kept (f := fun k => if t.cl = r.cl && !a.op.isLoad then k.ownStore r.core t.core o else k) _ _ (fun k j => ?_) q
  split
  · exact Cluster.core_ownStore ..
  · rfl

end

/-! ## The request -/

/-- An access of a core to an open channel, with nothing of its core posted there before it. -/
structure MeshRequest (s : State) (r : CoreRef) (a : Access) (vc core o : Nat) : Prop where
  pend : (s.core r).pend = some a
  stage : a.stage = .bank
  spread : a.spread = none
  scale : a.scale = 0
  place : placeOf a.addr = .ok (.mesh vc core o)
  opened : chanKey vc core ∉ (s.core r).closed
  first : s.postedBefore r vc core = false

namespace MeshRequest
variable {vc core o cl : Nat}

theorem exec_eq (h : MeshRequest s r a vc core o) :
    exec (.bankOperationRequest (.pend r)) s = .next (bankMesh s r a vc core o) := by
  show execBankOperationRequest (.pend r) s = _
  rw [execBankOperationRequest, State.pendOf, h.pend]
  dsimp only
  rw [if_neg (not_not_intro h.stage), h.spread]
  dsimp only
  rw [h.place]

theorem not_closed (h : MeshRequest s r a vc core o) : ¬ (s.core r).closed.contains (chanKey vc core) = true := fun e =>
  h.opened (List.contains_iff_mem.mp e)

theorem absent (h : MeshRequest s r a vc core o) (hw : s.wayTo (s.cluster r.cl).slot vc core r.cl = .absent) :
    MovesOn (.bankOperationRequest (.pend r)) s r { a with stage := .answered (.trap tMESH a.addr) } :=
  .of_setPend (by rw [h.exec_eq, bankMesh, if_neg h.not_closed, hw]; rfl)

theorem retried (h : MeshRequest s r a vc core o) (hw : s.wayTo (s.cluster r.cl).slot vc core r.cl = .retry) :
    MovesOn (.bankOperationRequest (.pend r)) s r { a with stage := .retry false } :=
  .of_setPend (by rw [h.exec_eq, bankMesh, if_neg h.not_closed, hw]; rfl)

theorem arrives (h : MeshRequest s r a vc core o) {t : CoreRef} (hw : s.wayTo (s.cluster r.cl).slot vc core r.cl = .core t) :
    exec (.bankOperationRequest (.pend r)) s = .next (atBank s r a t o a.idx) := by
  rw [h.exec_eq, bankMesh, if_neg h.not_closed, hw]
  dsimp only
  rw [h.first, if_neg Bool.false_ne_true, if_pos h.scale]

/-- Plain memory of another core of the die performs the access (R72, R114). -/
theorem performed (h : MeshRequest s r a vc core o) {t : CoreRef} (hw : s.wayTo (s.cluster r.cl).slot vc core r.cl = .core t)
    (hrun : (s.core t).run ≠ .sealed) (hdie : dieOf t.cl = dieOf r.cl) (hport : (s.core t).isPort o = false) (hlo : o < 0x40000)
    (ho : o + a.op.size ≤ 0x40000) (hconv : ((s.core t).bank (o / 0x4000)).converting = false)
    (hhit : (s.core t).hit o a.op.size = .plain) (hne : t ≠ r) :
    Answers (exec (.bankOperationRequest (.pend r)) s) fun u => let x := memAccess (s.core t).store a.op o a.addr
      u.core t = { s.core t with store := x.2 } ∧ u.core r = { s.core r with pend := some { a with far := false, stage := .answered x.1 } } ∧
        (∀ q, q ≠ t → q ≠ r → u.core q = s.core q) ∧ u.hbm = s.hbm ∧ u.flight = s.flight := by
  have hcross : (dieOf t.cl != dieOf r.cl) = false := by rw [hdie, bne_self_eq_false]
  have hcore := core_bankPerform_plain (s := s) (r := r) (a := a) a.idx ho hlo hhit
  have hrest := bankPerform_plain (s := s) (r := r) (a := a) a.idx ho hlo hhit
  refine ⟨_, by rw [h.arrives hw, atBank_performs _ hrun hport hconv, performOnce_direct _ (.inr hcross), hcross], ?_, ?_, fun q hqt hqr => ?_, ?_, ?_⟩
  · rw [State.core_setPend_other _ _ hne, hcore, State.core_setCore]
  · rw [State.core_setPend, hcore, State.core_setCore_other _ _ hne.symm, hrest]
  · rw [State.core_setPend_other _ _ hqr, hcore, State.core_setCore_other _ _ hqt]
  · rw [hrest]
    rfl
  · rw [hrest]
    rfl

end MeshRequest

end

end Sys2Proof.Machine
end

section
/-! SUPPORT. Requests of HBM at their home (R331, R334): what a burst leaves of the module, and the access behind it. -/
namespace Sys2Proof.Machine
open Sys2Proof

/-! ## A burst -/

theorem findFlaws_of_none {s : State} (h : s.flaws = []) (p : Nat) : s.findFlaws p = s := by rw [State.findFlaws, if_pos h]

theorem touchEdge_eq (s : State) (p hint : Nat) : ∃ e, s.touchEdge p hint = { s with edge := e } := by
  unfold State.touchEdge
  dsimp only
  split
  · exact ⟨s.edge, rfl⟩
  · exact ⟨_, rfl⟩

theorem block_eq (s : State) (p : Nat) : ∃ b, s.block p = { s with blocked := b } := by
  unfold State.block
  dsimp only
  split <;> exact ⟨_, rfl⟩

/-- An activation opens the row, and keeps its own counts (R331 to R333). -/
theorem activate_eq (s : State) (p : Nat) : ∃ rows ctl rfms blocked,
    s.activate p = { s.openRow p with rows := rows, ctl := ctl, rfms := rfms, blocked := blocked } := by
  unfold State.activate
  dsimp only
  split
  · obtain ⟨b, hb⟩ := block_eq (((({ s.openRow p with rows := adel (s.openRow p).rows (keyOfRow p) } : State).bump
      (stackReg Reg.alerts (stackOf p)) 1)).manage p) p
    exact ⟨_, _, _, b, hb⟩
  · exact ⟨_, _, _, _, rfl⟩

/-- What a burst leaves as it was: HBM, the placement, and every core but whether its waiting access has joined. -/
structure State.Opens (s t : State) : Prop where
  hbm : t.hbm = s.hbm
  placement : t.placement = s.placement
  cores : ∀ q, ∃ x, t.core q = { s.core q with pend := x }

theorem opens_activate (s : State) (p : Nat) : s.Opens (s.activate p) := by
  obtain ⟨rows, ctl, rfms, blocked, h⟩ := activate_eq s p
  refine ⟨by rw [h]; rfl, by rw [h]; rfl, fun q => ?_⟩
  obtain ⟨x, hx⟩ := State.joinedCore_eq s p (8 * q.cl + q.core) (s.core q)
  exact ⟨x, by rw [h, ← hx]; exact State.openRow_core s p q⟩

section
variable {s : State} {joined : Bool} {p hint : Nat}

/-- The edge buffer serves the burst, which then opens no row (R331). -/
theorem burstOf_of_edgeHit (hf : s.flaws = []) (h : s.edgeHit p = true) : ∃ e, s.burstOf joined p hint = { s with edge := e } := by
  obtain ⟨e, he⟩ := touchEdge_eq s p hint
  refine ⟨e, ?_⟩
  rw [State.burstOf, h, Bool.true_or, if_pos rfl]
  exact (findFlaws_of_none ((State.touchEdge_flaws s p hint).trans hf) p).trans he

theorem opens_burstOf (hf : s.flaws = []) : s.Opens (s.burstOf joined p hint) := by
  have hopen : ∀ u : State, s.Opens u → u.flaws = [] → s.Opens ((u.touchEdge p hint).findFlaws p) := fun u ho hu => by
    obtain ⟨e, he⟩ := touchEdge_eq u p hint
    rw [findFlaws_of_none ((State.touchEdge_flaws u p hint).trans hu), he]
    exact ⟨ho.hbm, ho.placement, ho.cores⟩
  rw [State.burstOf]
  split
  · exact hopen s ⟨rfl, rfl, fun q => ⟨(s.core q).pend, rfl⟩⟩ hf
  · have hflaws := congrArg Prod.snd (State.sameCode_activate (cl := 0) s p).memory
    exact hopen _ (opens_activate s p) (hflaws.trans hf)

end

/-! ## The access behind it -/

section
variable {s : State} {joined : Bool} {p hint : Nat} {op : AccOp} {tval : Word}

theorem eccAccess_clean : s.eccAccess joined p .clean op hint tval = s.hbmAccess joined op p hint tval := rfl

theorem hbmAccess_resp (hf : s.flaws = []) : (s.hbmAccess joined op p hint tval).1 = (memAccess s.hbm op p tval).1 := by
  rw [State.hbmAccess, (opens_burstOf hf).hbm]

theorem hbmAccess_hbm (hf : s.flaws = []) : (s.hbmAccess joined op p hint tval).2.hbm = (memAccess s.hbm op p tval).2 := by
  rw [State.hbmAccess, (opens_burstOf hf).hbm]

theorem hbmAccess_placement (hf : s.flaws = []) : (s.hbmAccess joined op p hint tval).2.placement = s.placement :=
  (opens_burstOf hf).placement

theorem hbmAccess_core (hf : s.flaws = []) (q : CoreRef) : ∃ x, (s.hbmAccess joined op p hint tval).2.core q = { s.core q with pend := x } :=
  (opens_burstOf hf).cores q

theorem hbmAccess_of_edgeHit (hf : s.flaws = []) (h : s.edgeHit p = true) :
    ∃ e m, (s.hbmAccess joined op p hint tval).2 = { s with edge := e, hbm := m } := by
  obtain ⟨e, he⟩ := burstOf_of_edgeHit (joined := joined) (hint := hint) hf h
  refine ⟨e, (memAccess s.hbm op p tval).2, ?_⟩
  rw [State.hbmAccess, he]

end

/-! ## At the home -/

section
variable {s : State} {p : Nat}

theorem homeOf_hbm (s : State) (h : p < 2 ^ 40) : s.homeOf p = .hbm p := by
  have hspace : spaceOf p = 0 := by rw [spaceOf]; omega
  rw [State.homeOf, hspace]
  rfl

/-- No port leads to HBM of this module. -/
theorem onePort_hbm (s : State) (q : Nat) (h : p < 2 ^ 40) : s.onePort q p = false := by
  rw [State.onePort, homeOf_hbm s h]
  split
  · next hp => cases hp
  · rfl

theorem leavesBefore_hbm (s : State) (f : Flight) (h : p < 2 ^ 40) : f.leavesBefore s p = false := by
  rw [Flight.leavesBefore]
  split
  · rw [onePort_hbm s _ h, Bool.and_false]
  · rfl

theorem amoLeaves_hbm (s : State) (tags : Nat → Bool) (h : p < 2 ^ 40) : s.amoLeaves p tags = false := by
  simp only [State.amoLeaves, List.any_eq_false, Bool.not_eq_true]
  intro k _ c _
  split
  · split
    · rw [onePort_hbm s _ h, Bool.and_false]
    · rfl
  · rfl

theorem portBefore_hbm (s : State) (a : Access) (h : p < 2 ^ 40) : s.portBefore a p = false := by
  simp [State.portBefore, leavesBefore_hbm s _ h, amoLeaves_hbm s _ h]

section
variable {r : CoreRef} {a : Access}

theorem exec_memoryRequest_pend (hp : (s.core r).pend = some a) (hs : a.stage = .home p) (e : Ecc) :
    exec (.memoryRequest (.pend r) e) s = .next (homePend s r a p e) := by
  show execMemoryRequest (.pend r) e s = _
  rw [execMemoryRequest, State.pendOf, hp]
  dsimp only
  rw [hs]

theorem homePend_backsOff (hp : p < 2 ^ 40) (hb : s.globalBefore r p a.op = false) (e : Ecc) {t : Word} (ht : s.backsOff p = some t) :
    homePend s r a p e = (s.backoffReply p (some r)).setPend r { a with joined := false, stage := .backoff p t } := by
  rw [homePend, hb, portBefore_hbm s a hp, Bool.or_false, if_neg Bool.false_ne_true, homeOf_hbm s hp]
  dsimp only
  rw [ht]

theorem foundNow_clean (hf : s.flaws = []) (op : AccOp) : s.foundNow p .clean op = false := by
  rw [State.foundNow, hf]
  rfl

theorem homePend_performs (hp : p < 2 ^ 40) (hf : s.flaws = []) (hb : s.globalBefore r p a.op = false) (ht : s.backsOff p = none)
    (ho : a.tag = 0 ∨ stackOf p / 2 = dieOf r.cl) : homePend s r a p .clean =
      (s.hbmAccess a.joined a.op p (hintAt p a.hint) a.addr).2.setPend r { a with
        far := stackOf p / 2 != dieOf r.cl, counted := false, stage := .answered (memAccess s.hbm a.op p a.addr).1 } := by
  have hdirect : a.tag = 0 ∨ (stackOf p / 2 != dieOf r.cl) = false := ho.imp_right fun h => by rw [h, bne_self_eq_false]
  rw [homePend, hb, portBefore_hbm s a hp, Bool.or_false, if_neg Bool.false_ne_true, homeOf_hbm s hp]
  dsimp only
  rw [ht, foundNow_clean hf]
  dsimp only
  rw [performOnce_direct (a := { a with counted := false }) _ hdirect, eccAccess_clean, hbmAccess_resp hf]

/-- A back-off reply counts at its core (R334, R335). -/
theorem core_backoffReply (s : State) (p : Nat) (r : CoreRef) :
    (s.backoffReply p (some r)).core r = (s.core r).setCr Cr.backoff ((s.core r).cr_ Cr.backoff + 1) := State.core_updCore _ _ _

/-- A core's load or AMO of HBM meets a blocked bank (R334). -/
theorem home_backsOff (hp : p < 2 ^ 40) (hpend : (s.core r).pend = some a) (hs : a.stage = .home p) (hb : s.globalBefore r p a.op = false)
    {t : Word} (ht : s.backsOff p = some t) : Answers (exec (.memoryRequest (.pend r) .clean) s) fun u =>
      u.hbm = s.hbm ∧ (∀ q, q ≠ r → u.core q = s.core q) ∧ (u.core r).pend = some { a with joined := false, stage := .backoff p t } ∧
        (u.core r).store = (s.core r).store ∧ (u.core r).cr_ Cr.backoff = (s.core r).cr_ Cr.backoff + 1 := by
  refine ⟨_, (exec_memoryRequest_pend hpend hs _).trans (congrArg _ (homePend_backsOff hp hb _ ht)), rfl, fun q hq => ?_, ?_, ?_, ?_⟩
  · rw [State.core_setPend_other _ _ hq]
    exact State.core_updCore_other _ _ hq
  · rw [State.core_setPend]
  · rw [State.core_setPend, core_backoffReply]
    rfl
  · rw [State.core_setPend, core_backoffReply]
    exact Core.cr_setCr _ _ _

/-- A core's load or AMO of HBM is performed (R114, R331). -/
theorem home_performs (hp : p < 2 ^ 40) (hf : s.flaws = []) (hpend : (s.core r).pend = some a) (hs : a.stage = .home p)
    (hb : s.globalBefore r p a.op = false) (ht : s.backsOff p = none) (ho : a.tag = 0 ∨ stackOf p / 2 = dieOf r.cl) :
    Answers (exec (.memoryRequest (.pend r) .clean) s) fun u => let x := memAccess s.hbm a.op p a.addr
      u.hbm = x.2 ∧ u.placement = s.placement ∧
        u.core r = { s.core r with pend := some { a with far := stackOf p / 2 != dieOf r.cl, counted := false, stage := .answered x.1 } } ∧
        (∀ q, q ≠ r → { u.core q with pend := none } = { s.core q with pend := none }) ∧
        (s.edgeHit p = true → (∀ q, q ≠ r → u.core q = s.core q) ∧ u.flight = s.flight ∧ u.rows = s.rows) := by
  refine ⟨_, (exec_memoryRequest_pend hpend hs _).trans (congrArg _ (homePend_performs hp hf hb ht ho)), hbmAccess_hbm hf,
    hbmAccess_placement (op := a.op) (tval := a.addr) hf, ?_, fun q hq => ?_, fun hhit => ?_⟩
  · obtain ⟨x, hx⟩ := hbmAccess_core (joined := a.joined) (p := p) (hint := hintAt p a.hint) (op := a.op) (tval := a.addr) hf r
    rw [State.core_setPend, hx]
  · obtain ⟨x, hx⟩ := hbmAccess_core (joined := a.joined) (p := p) (hint := hintAt p a.hint) (op := a.op) (tval := a.addr) hf q
    rw [State.core_setPend_other _ _ hq, hx]
  · obtain ⟨e, m, hedge⟩ := hbmAccess_of_edgeHit (joined := a.joined) (hint := hintAt p a.hint) (op := a.op) (tval := a.addr) hf hhit
    rw [hedge]
    exact ⟨fun q hq => State.core_setPend_other _ _ hq, rfl, rfl⟩

end

/-! ## Posted stores -/

section
variable {k hint : Nat} {f : Flight} {op : AccOp}

theorem mayGo_hbm (hp : p < 2 ^ 40) (hbody : f.body = .gstore p op hint) (hb : ∀ g ∈ s.flight.take k, g.precedes s f = false) :
    s.mayGo k f = true := by
  simp only [State.mayGo, State.amoBefore, hbody]
  rw [amoLeaves_hbm s _ hp, Bool.not_false, Bool.and_true, List.all_eq_true]
  exact fun g hg => by rw [hb g hg, Bool.not_false]

theorem exec_memoryRequest_posted (hk : s.flight[k]? = some f) (hbody : f.body = .gstore p op hint) (hs : f.stage = .home p)
    (hgo : s.mayGo k f = true) (e : Ecc) : exec (.memoryRequest (.posted k) e) s = .next (homePosted s k f p op hint e) := by
  show execMemoryRequest (.posted k) e s = _
  rw [execMemoryRequest, hk]
  dsimp only
  rw [hbody, hs]
  dsimp only
  rw [if_pos hgo]

theorem homePosted_performs (hp : p < 2 ^ 40) (ht : s.backsOff p = none) :
    homePosted s k f p op hint .clean = ((s.dropFlight k).hbmAccess f.joined op p (hintAt p hint) 0).2 := by
  rw [homePosted, homeOf_hbm s hp]
  dsimp only
  rw [ht]
  rfl

/-- A posted store of HBM is performed (R331). -/
theorem posted_performs (hp : p < 2 ^ 40) (hf : s.flaws = []) (hk : s.flight[k]? = some f) (hbody : f.body = .gstore p op hint)
    (hs : f.stage = .home p) (hb : ∀ g ∈ s.flight.take k, g.precedes s f = false) (ht : s.backsOff p = none) :
    Answers (exec (.memoryRequest (.posted k) .clean) s) fun u =>
      u.hbm = (memAccess s.hbm op p 0).2 ∧ (∀ q, { u.core q with pend := none } = { s.core q with pend := none }) ∧
        (s.edgeHit p = true → u.flight = dropAt s.flight k ∧ u.clusters = s.clusters) := by
  have hdrop : (s.dropFlight k).flaws = [] := hf
  refine ⟨_, (exec_memoryRequest_posted hk hbody hs (mayGo_hbm hp hbody hb) _).trans (congrArg _ (homePosted_performs hp ht)),
    hbmAccess_hbm hdrop, fun q => ?_, fun hhit => ?_⟩
  · obtain ⟨x, hx⟩ := hbmAccess_core (joined := f.joined) (p := p) (hint := hintAt p hint) (op := op) (tval := 0) hdrop q
    rw [hx]
    rfl
  · obtain ⟨e, m, hedge⟩ := hbmAccess_of_edgeHit (s := s.dropFlight k) (joined := f.joined) (hint := hintAt p hint) (op := op) (tval := 0) hdrop hhit
    rw [hedge]
    exact ⟨rfl, rfl⟩

end

end

end Sys2Proof.Machine
end

section
/-! SUPPORT. The answer of an access returns to its instruction (R72, R105): a value in its register and BR, or a trap. -/
namespace Sys2Proof.Machine
open Sys2Proof

/-! ## A core written as it stands -/

theorem State.setCore_core {t : State} {r : CoreRef} (hk : (afind t.clusters r.cl).isSome = true)
    (hj : (afind (t.cluster r.cl).cores r.core).isSome = true) : t.setCore r (t.core r) = t := by
  have hcluster : (t.cluster r.cl).setCore r.core (t.core r) = t.cluster r.cl :=
    congrArg (fun l => ({ t.cluster r.cl with cores := l } : Cluster)) (aput_aget Core.blank _ _ hj)
  rw [State.setCore, hcluster]
  exact congrArg (fun l => ({ t with clusters := l } : State)) (aput_aget Cluster.blank _ _ hk)

/-- A core that has been changed is listed. -/
theorem State.upd_self_of_upd (s : State) (f : Core → Core) : (s.upd f).upd (fun c => c) = s.upd f := by
  refine State.setCore_core (r := s.cur) ?_ ?_
  · show (afind (aput _ _ _) _).isSome = true
    rw [afind_aput, if_pos rfl]
    rfl
  · rw [State.upd, State.cluster_setCore]
    show (afind (aput _ _ _) _).isSome = true
    rw [afind_aput, if_pos rfl]
    rfl

/-! ## A value in its register and BR -/

section
variable (c : Core) (w : Word)

theorem Core.keeps_setS_index (j : Nat) : c.Keeps (c.setS j w) (fun x => j ≠ 0 ∧ span (sAddr c j) 8 x) nothing := by
  refine ⟨by simp [Core.rest, Core.apart], ?_, fun m _ _ => by simp⟩
  rw [Core.setS]
  split
  · exact Memory.Keeps.refl _ _
  · next hj => exact (Memory.keeps_store _ _ _ _).mono fun _ ha => ⟨hj, ha⟩

/-- The bytes of a register that an instruction may have as its destination. -/
def Core.destBytes (c : Core) (d : Option Nat) (x : Nat) : Prop := ∃ j, d = some j ∧ j ≠ 0 ∧ span (sAddr c j) 8 x

theorem Core.keeps_takeResp (d : Option Nat) (br : Option Nat) : c.Keeps (c.takeResp d (.value w br)) (c.destBytes d) onlyStat := by
  have hdest : c.Keeps (c.takeResp d (.value w none)) (c.destBytes d) onlyStat := by
    cases d with
    | none => exact .refl _ _ _
    | some j => exact (c.keeps_setS_index w j).mono (fun x hx => ⟨j, rfl, hx⟩) fun _ h => h.elim
  cases br with
  | none => exact hdest
  | some b => exact hdest.trans (Core.keeps_setBr _ _ _)

theorem Core.pc_takeResp (d : Option Nat) (br : Option Nat) : (c.takeResp d (.value w br)).pc = c.pc := by
  have hdest : (c.takeResp d (.value w none)).pc = c.pc := by cases d <;> simp [Core.takeResp]
  cases br with
  | none => exact hdest
  | some b => exact hdest

theorem Core.inRep_takeResp (d : Option Nat) (br : Option Nat) : (c.takeResp d (.value w br)).inRep = c.inRep := by
  have hdest : (c.takeResp d (.value w none)).inRep = c.inRep := by
    cases d with
    | none => rfl
    | some j => exact c.inRep_setS j w
  cases br with
  | none => exact hdest
  | some b => exact (Core.inRep_setBr _ b).trans hdest

theorem Core.s_takeResp (j : Nat) (br : Option Nat) : (c.takeResp (some j) (.value w br)).s j = if j = 0 then 0 else w := by
  cases br with
  | none => exact c.s_setS_same j w
  | some b => exact (Core.s_setBr _ b j).trans (c.s_setS_same j w)

theorem Core.br_takeResp (d : Option Nat) {b : Nat} (hb : b < 4) : (c.takeResp d (.value w (some b))).br = b := Core.br_setBr _ _ hb

theorem Core.stat_takeResp (d : Option Nat) : (c.takeResp d (.value w none)).cr_ Cr.stat = c.cr_ Cr.stat := by
  cases d with
  | none => rfl
  | some j => exact c.cr_setS j w _

end

/-! ## The answer -/

section
variable {s : State} {r : CoreRef} {a : Access}

/-- The state whose current core has no access outstanding. -/
def State.unpended (s : State) : State := s.upd fun c => { c with pend := none }

theorem exec_accessResponse {x : Resp} (hp : (s.core r).pend = some a) (hs : a.stage = .answered x) :
    exec (.accessResponse r .own) s = .next { takeAnswer { s with cur := r } a x with cur := s.cur } := by
  show execAccessResponse r .own s = _
  rw [execAccessResponse, State.pendOf, hp]
  dsimp only
  rw [hs]

theorem takeAnswer_value (hl : a.lane = 16) (w : Word) (br : Option Nat) : takeAnswer s a (.value w br) =
    (s.unpended.upd fun c => c.takeResp (destOf a.instr) (.value w br)).finish a.instr := by
  unfold takeAnswer
  dsimp only
  rw [if_neg (by rw [hl]; decide), if_neg (by rw [hl]; decide)]
  rfl

theorem takeAnswer_trap (hl : a.lane = 16) {e : Nat} (v : Word) (he : e ≠ tLINKLOST) (hc : a.counted = false ∨ e ≠ tPOISON) :
    takeAnswer s a (.trap e v) = s.unpended.raise e v := by
  have hcounted : ¬ (a.counted && e == tPOISON) = true := by
    rw [Bool.and_eq_true, beq_iff_eq]
    rintro ⟨hfound, hpoison⟩
    rcases hc with h | h
    · rw [h] at hfound
      exact Bool.false_ne_true hfound
    · exact h hpoison
  have hlane : ¬ a.lane < 16 := by rw [hl]; decide
  unfold takeAnswer
  dsimp only
  rw [if_neg hcounted]
  simp only [hlane, if_false, if_neg he]
  split
  · rfl
  · refine congrArg (State.raise · e v) (Eq.trans ?_ (s.upd_self_of_upd _))
    exact congrArg (State.upd _) (funext fun c => by split <;> rfl)

/-- A value is in its register and BR, and the program goes on. -/
theorem answer_value {w : Word} {br : Option Nat} (hp : (s.core r).pend = some a) (hl : a.lane = 16)
    (hs : a.stage = .answered (.value w br)) : let u := ({ s with cur := r } : State).unpended; let c := s.core r
    Answers (exec (.accessResponse r .own) s) fun t => let t' : State := { t with cur := r }
      t.cur = s.cur ∧ OnlyMine u t' ∧ u.me.Keeps t'.me (c.destBytes (destOf a.instr)) onlyStat ∧ GoesOn u t' a.instr ∧
        (∀ d, destOf a.instr = some d → t'.me.s d = if d = 0 then 0 else w) ∧ (∀ b < 4, br = some b → t'.me.br = b) ∧
        (br = none → t'.me.cr_ Cr.stat = c.cr_ Cr.stat) := by
  intro u c
  have hexec := exec_accessResponse hp hs
  rw [takeAnswer_value hl] at hexec
  have hu : u.me = { c with pend := none } := State.me_upd _ _
  have hme : (u.upd fun c => c.takeResp (destOf a.instr) (.value w br)).me = u.me.takeResp (destOf a.instr) (.value w br) := State.me_upd _ _
  have hU : OnlyMine u (u.upd fun c => c.takeResp (destOf a.instr) (.value w br)) := u.onlyMine_upd _
  change exec _ s = .next { (u.upd fun c => c.takeResp (destOf a.instr) (.value w br)).finish a.instr with cur := s.cur } at hexec
  generalize (u.upd fun c => c.takeResp (destOf a.instr) (.value w br)) = U at hme hU hexec
  obtain ⟨honly, hkeeps, hgo, -⟩ := U.finish_leaves a.instr
  have hcur : (U.finish a.instr).cur = r := (hU.trans honly).cur
  have hsame : { U.finish a.instr with cur := r } = U.finish a.instr := by rw [← hcur]
  have hstat : (U.finish a.instr).me.cr_ Cr.stat = U.me.cr_ Cr.stat := U.finish_cr _ _ fun h => absurd h (by decide)
  refine ⟨_, hexec, rfl, ?_⟩
  show OnlyMine u { U.finish a.instr with cur := r } ∧ u.me.Keeps ({ U.finish a.instr with cur := r } : State).me _ _ ∧
    GoesOn u { U.finish a.instr with cur := r } _ ∧ (∀ d, _ → ({ U.finish a.instr with cur := r } : State).me.s d = _) ∧
    (∀ b < 4, _ → ({ U.finish a.instr with cur := r } : State).me.br = b) ∧ (_ → ({ U.finish a.instr with cur := r } : State).me.cr_ _ = _)
  rw [hsame]
  have hbytes : u.me.destBytes (destOf a.instr) = c.destBytes (destOf a.instr) := by rw [hu]; rfl
  refine ⟨hU.trans honly, ?_, fun hno => ?_, fun d hd => ?_, fun b hb hbr => ?_, fun hbr => ?_⟩
  · rw [hme] at hkeeps
    rw [← hbytes]
    exact (u.me.keeps_takeResp w _ br).trans (hkeeps.mono (fun _ h => h.elim) fun _ h => h.elim)
  · rw [hgo (by rw [hme, Core.inRep_takeResp, hno]), hme, Core.pc_takeResp]
  · rw [U.finish_s, hme, hd, Core.s_takeResp]
  · rw [Core.br_congr hstat, hme, hbr, Core.br_takeResp _ _ _ hb]
  · rw [hstat, hme, hbr, Core.stat_takeResp, hu]
    rfl

/-- A trap is raised at the instruction. -/
theorem answer_trap {e : Nat} {v : Word} (hp : (s.core r).pend = some a) (hl : a.lane = 16) (hs : a.stage = .answered (.trap e v))
    (he : e ≠ tLINKLOST) (hc : a.counted = false ∨ e ≠ tPOISON) : exec (.accessResponse r .own) s =
      .next { ({ s with cur := r } : State).unpended.raise e v with cur := s.cur } := by
  rw [exec_accessResponse hp hs, takeAnswer_trap hl v he hc]

end

end Sys2Proof.Machine
end

section
/-! SUPPORT. What a memory access does (R105, R109, R110, R114), and accesses on their way to memory and back (R72, R331). -/
namespace Sys2Proof.Machine
open Sys2Proof

section
variable (m : Memory) (o n : Nat)

/-- The bytes that a store leaves are its value's (R17). -/
theorem Memory.readLE_store_bits (v : Nat) : (m.store o n v).readLE o n = v % 2 ^ (8 * n) := by
  rw [Memory.readLE_store, Nat.pow_mul]

theorem Memory.get_store_outside (v : Nat) {q : Nat} (hq : ¬ span o n q) : (m.store o n v).get q = m.get q := by
  refine Memory.get_store_other m n v ?_
  rw [span] at hq
  omega

end

theorem extend_unsigned (n v : Nat) : extend n false v = BitVec.ofNat 64 (v % 2 ^ (8 * n)) := by
  rw [extend, Bool.false_and, if_neg Bool.false_ne_true]

/-- A doubleword has no sign to extend (R109). -/
theorem extend_double (sg : Bool) (v : Nat) : extend 8 sg v = BitVec.ofNat 64 v := by
  have hwide : (sg && decide (8 < 8)) = false := by simp
  rw [extend, hwide, if_neg Bool.false_ne_true]
  exact BitVec.eq_of_toNat_eq (by simp only [BitVec.toNat_ofNat]; omega)

/-- Settles O52: a mesh request goes its way to a core (`MeshRequest.performed`), a request of HBM is backed off or performed at its home
(`home_performs`, `posted_performs`), memory does what the access says, and its answer returns (`answer_value`, `answer_trap`). -/
theorem accessesAreServed : Obligations.AccessesAreServed := by
  refine ⟨?_, ?_, ?_, ?_⟩
  · intro s r a vc core o cl t c i hpend hstage hspread hscale hplace hopen hfirst
    have h : MeshRequest s r a vc core o := ⟨hpend, hstage, hspread, hscale, hplace, hopen, hfirst⟩
    refine ⟨fun hp => h.absent (wayTo_absent hp), fun hp hcl => h.retried (wayTo_moving hp hcl),
      fun hp he => h.retried (wayTo_streaming hp he), fun hp he => ?_⟩
    have harrives := h.arrives (wayTo_core hp he)
    exact ⟨fun hrun => .of_setPend (harrives.trans (congrArg _ (atBank_sealed _ hrun))),
      fun hrun hport hlo hconv => .of_setPend (harrives.trans (congrArg _ (atBank_converting _ hrun hport hlo hconv))),
      fun hrun hdie hport hlo ho hconv hhit hne => h.performed (wayTo_core hp he) hrun hdie hport hlo ho hconv hhit hne⟩
  · intro m o n v sg fn b d _ _
    refine ⟨memAccess_load m v sg, fun hbad => ⟨memAccess_load_poisoned m v sg hbad, memAccess_amo_poisoned m v fn b d hbad⟩,
      ⟨rfl, ?_, fun q hq => Memory.get_store_outside m o n _ hq⟩, fun hclean => ?_, extend_unsigned n o, extend_double sg o⟩
    · exact (Memory.readLE_store_bits m o n _).trans (Nat.mod_mod _ _)
    · rw [memAccess_amo m v fn b d hclean]
      exact ⟨rfl, fun q hq => Memory.get_store_outside m o n _ hq, Memory.readLE_store_bits m o n _⟩
  · intro s r a p hp hflaws
    exact ⟨fun hpend hs hb => ⟨fun t ht => home_backsOff hp hpend hs hb ht, fun ht ho => home_performs hp hflaws hpend hs hb ht ho⟩,
      fun k f op hint hk hbody hs hb ht => posted_performs hp hflaws hk hbody hs hb ht⟩
  · intro s r a s0 u c i hpend hl
    exact ⟨fun w br hs => answer_value hpend hl hs, fun e v hs he hc => answer_trap hpend hl hs he hc⟩

end Sys2Proof.Machine
end

section
/-! SUPPORT. Vector and mask registers: reading after writing, what a write leaves as it was, and an instruction whose effect is such a write
(R18 to R21, R134). -/
namespace Sys2Proof.Machine
open Sys2Proof

/-! ## Words of a memory -/

section
variable (m : Memory) {a b : Nat} (x : W32)

theorem Memory.read4_store : (m.store a 4 x.toNat).read4 a = x := by
  rw [Memory.read4, Memory.readLE_store, Nat.mod_eq_of_lt (by exact x.isLt), BitVec.ofNat_toNat, BitVec.setWidth_eq]

theorem Memory.read4_store_other (n v : Nat) (h : b + 4 ≤ a ∨ a + n ≤ b) : (m.store a n v).read4 b = m.read4 b := by
  rw [Memory.read4, Memory.readLE_store_other _ _ _ _ h, Memory.read4]

/-- A word without a poison mark is a change of the word's own mark alone. -/
theorem Memory.keeps_unmark (w : Nat) (h : 8 * w ≤ a ∧ a < 8 * w + 8) {s : Nat → Prop} (hs : s a) : m.Keeps (m.unmark w) s := by
  refine ⟨fun _ _ => rfl, fun u hu => ?_⟩
  have hne : u ≠ w := by
    rintro rfl
    exact hu a h.1 h.2 hs
  simp [Memory.unmark, hne]

theorem Memory.keeps_foldl {α : Type} {f : Memory → α → Memory} {s : Nat → Prop} {l : List α}
    (h : ∀ (k : Memory), ∀ y ∈ l, k.Keeps (f k y) s) :
    m.Keeps (l.foldl f m) s := by
  induction l generalizing m with
  | nil => exact .refl _ _
  | cons y t ih => exact (h m y List.mem_cons_self).trans (ih _ fun k z hz => h k z (List.mem_cons_of_mem _ hz))

end

/-! ## A core that changes its store alone -/

/-- A core changes its store alone, and there no more than a set of bytes. -/
structure Core.Stores (c d : Core) (b : Nat → Prop) : Prop where
  only : d = { c with store := d.store }
  kept : c.store.Keeps d.store b

namespace Core.Stores
variable {c d e : Core} {b b' : Nat → Prop}

theorem refl (c : Core) (b : Nat → Prop) : c.Stores c b := ⟨rfl, .refl _ _⟩

theorem trans (h : c.Stores d b) (h' : d.Stores e b) : c.Stores e b :=
  ⟨by rw [h'.only, h.only], h.kept.trans h'.kept⟩

theorem mono (h : c.Stores d b) (hb : ∀ x, b x → b' x) : c.Stores d b' := ⟨h.only, h.kept.mono hb⟩

theorem cr (h : c.Stores d b) (n : Nat) : d.cr_ n = c.cr_ n := by rw [h.only]; rfl

theorem wp (h : c.Stores d b) : d.wp = c.wp := by rw [h.only]; rfl

theorem pc (h : c.Stores d b) : d.pc = c.pc := by rw [h.only]

theorem inRep (h : c.Stores d b) : d.inRep = c.inRep := by rw [h.only]; rfl

theorem keeps (h : c.Stores d b) (n : Nat → Prop) : c.Keeps d b n := ⟨by rw [h.only]; rfl, h.kept, fun m _ _ => h.cr m⟩

end Core.Stores

section
variable (c : Core)

theorem Core.stores_setS (d : Reg) (v : Word) : c.Stores (c.setS d.toNat v) (c.sBytes d) := by
  refine ⟨?_, (c.keeps_setS d v).2.1⟩
  unfold Core.setS
  split <;> rfl

theorem Core.stores_setM (d : Reg) (v : BitVec 16) : c.Stores (c.setM d.toNat v) (c.mBytes d) := ⟨rfl, (c.keeps_setM d v).2.1⟩

/-- The bytes of the listed lanes of V(j). -/
def Core.laneBytes (j : Nat) (l : List Nat) (x : Nat) : Prop := ∃ i ∈ l, span (vAddr c j + 4 * i) 4 x

theorem Core.stores_setLanes (j : Nat) (l : List (Nat × W32)) : c.Stores (c.setLanes j l) (c.laneBytes j (l.map Prod.fst)) := by
  induction l generalizing c with
  | nil => exact .refl _ _
  | cons p t ih =>
    have hp : c.Stores (c.setV j p.1 p.2) (c.laneBytes j ((p :: t).map Prod.fst)) :=
      ⟨rfl, (Memory.keeps_store ..).mono fun x hx => ⟨p.1, by simp, hx⟩⟩
    refine hp.trans ((ih (c.setV j p.1 p.2)).mono fun x ⟨i, hi, hx⟩ => ⟨i, List.mem_cons_of_mem _ hi, ?_⟩)
    rwa [show vAddr (c.setV j p.1 p.2) j = vAddr c j from congrArg (· + 448 + 64 * j) hp.wp] at hx

theorem Core.stores_writeV (j : Nat) (l : List (Nat × W32)) : c.Stores (c.writeV j l) (c.laneBytes j (l.map Prod.fst)) := by
  have hset := c.stores_setLanes j l
  refine hset.trans ⟨rfl, Memory.keeps_foldl _ fun k p hp => ?_⟩
  split
  · rw [show vAddr (c.setLanes j l) j = vAddr c j from congrArg (· + 448 + 64 * j) hset.wp]
    exact k.keeps_unmark (a := vAddr c j + 4 * p.1) _ ⟨by omega, by omega⟩ ⟨p.1, List.mem_map_of_mem hp, by simp [span]⟩
  · exact .refl _ _

theorem Core.laneBytes_vBytes {d : Reg} {l : List Nat} (h : ∀ i ∈ l, i < 16) (x : Nat) (hx : c.laneBytes d.toNat l x) : c.vBytes d x := by
  obtain ⟨i, hi, hlo, hhi⟩ := hx
  have := h i hi
  exact ⟨by omega, by omega⟩

end

/-! ## Reading after writing -/

section
variable {c d : Core} {b : Nat → Prop}

theorem Core.v_congr (hs : d.store = c.store) (hw : d.wp = c.wp) (j i : Nat) : d.v j i = c.v j i := by simp only [Core.v, vAddr, hs, hw]

theorem Core.m_congr (hs : d.store = c.store) (hw : d.wp = c.wp) (j : Nat) : d.m j = c.m j := by simp only [Core.m, mAddr, hs, hw]

/-- A lane keeps its value where a change of the store does not meet it. -/
theorem Core.Stores.v (h : c.Stores d b) {j i : Nat} (hb : ∀ x, span (vAddr c j + 4 * i) 4 x → ¬ b x) : d.v j i = c.v j i := by
  have ha : vAddr d j = vAddr c j := congrArg (· + 448 + 64 * j) h.wp
  rw [Core.v, Core.v, Memory.read4, Memory.read4, ha, Memory.readLE_congr _ _ fun x h1 h2 => h.kept.1 x (hb x ⟨h1, h2⟩)]

theorem Core.v_setV (j i k : Nat) (x : W32) : (c.setV j i x).v j k = if k = i then x else c.v j k := by
  have ha : vAddr (c.setV j i x) j = vAddr c j := rfl
  rw [Core.v, ha]
  split
  · next h =>
    subst h
    exact Memory.read4_store _ _
  · next h => exact Memory.read4_store_other _ _ _ (by omega)

/-- Lanes written from a function take its values. -/
theorem Core.v_setLanes (j : Nat) (f : Nat → W32) (l : List Nat) (i : Nat) :
    (c.setLanes j (l.map fun k => (k, f k))).v j i = if i ∈ l then f i else c.v j i := by
  induction l generalizing c with
  | nil => rfl
  | cons k t ih =>
    rw [List.map_cons, Core.setLanes, ih, Core.v_setV]
    by_cases hk : i = k
    · simp [hk]
    · simp [hk]

theorem Memory.get_foldl_unmark {α : Type} (p : α → Bool) (w : α → Nat) (l : List α) (m : Memory) (x : Nat) :
    (l.foldl (fun m y => if p y then m.unmark (w y) else m) m).get x = m.get x := by
  induction l generalizing m with
  | nil => rfl
  | cons y t ih =>
    rw [List.foldl_cons, ih]
    split <;> rfl

theorem Core.v_writeV (j : Nat) (f : Nat → W32) (l : List Nat) (i : Nat) :
    (c.writeV j (l.map fun k => (k, f k))).v j i = if i ∈ l then f i else c.v j i := by
  rw [← Core.v_setLanes j f l i, Core.v, Core.v, Memory.read4, Memory.read4]
  exact congrArg _ (Memory.readLE_congr _ _ fun x _ _ => Memory.get_foldl_unmark ..)

theorem Core.m_setM (j : Nat) (v : BitVec 16) : (c.setM j v).m j = v := by
  have ha : mAddr (c.setM j v) j = mAddr c j := rfl
  rw [Core.m, ha, Core.setM, Memory.readLE_store, Nat.mod_eq_of_lt (by exact v.isLt), BitVec.ofNat_toNat, BitVec.setWidth_eq]

end

/-! ## The lanes in use (R134) -/

section
variable (c : Core) (m : BitVec 3) (l : Nat)

theorem Core.active_iff : c.active m.toNat l = true ↔ c.inUse m l := by
  have h0 : m.toNat = 0 ↔ m = 0 := BitVec.toNat_inj (y := (0 : BitVec 3))
  simp [Core.active, Core.inUse, h0]

theorem Core.mem_lanes : l ∈ c.lanes m.toNat ↔ l < 16 ∧ c.inUse m l := by
  rw [Core.lanes, List.mem_filter, List.mem_range, c.active_iff]

theorem Core.lanes_lt : ∀ i ∈ c.lanes m.toNat, i < 16 := fun i hi => ((c.mem_lanes m i).mp hi).1

end

/-! ## Instructions whose effect is a write of registers -/

/-- Two cores hold the same bytes and, apart from `REPSTATE`, the same control registers: so they show the same registers. -/
structure Core.SameHeld (c d : Core) : Prop where
  store : d.store = c.store
  cr : ∀ m, m ≠ Cr.repstate → d.cr_ m = c.cr_ m

namespace Core.SameHeld
variable {c d : Core} (h : c.SameHeld d)
include h

theorem wp : d.wp = c.wp := congrArg BitVec.toNat (h.cr Cr.wp (by decide))
theorem v (j i : Nat) : d.v j i = c.v j i := Core.v_congr h.store h.wp j i
theorem m (j : Nat) : d.m j = c.m j := Core.m_congr h.store h.wp j
theorem s (j : Nat) : d.s j = c.s j := Core.s_congr h.store (h.cr Cr.wp (by decide)) j

end Core.SameHeld

section
variable {i : Instr} {s : State} {body : State → Eff} {f : Core → Core} {b : Nat → Prop} {p : State → Prop} {d : Reg} {m : BitVec 3}

theorem Does.of_stores (he : exec i s = retire i s body) (hb : body s = local_ s f) (hf : s.me.Stores (f s.me) b)
    (hp : ∀ t : State, (f s.me).SameHeld t.me → p t) : Does i s b nothing p :=
  Leaves.of_effect he hb (s.onlyMine_upd f) (by rw [State.me_upd]; exact hf.keeps _) (by rw [State.me_upd, hf.pc])
    (by rw [State.me_upd, hf.inRep]) fun t hs hcr => hp t ⟨by rw [hs, State.me_upd], fun n hn => by rw [hcr n hn, State.me_upd]⟩

/-- The active lanes written from a function, whatever else of the store is not V(D). -/
theorem LanesAre.of_writeV {c : Core} {t : State} {g : Nat → W32}
    (ht : ∀ l, t.me.v d.toNat l = (c.writeV d.toNat ((s.me.lanes m.toNat).map fun l => (l, g l))).v d.toNat l)
    (hc : ∀ l, c.v d.toNat l = s.me.v d.toNat l) : LanesAre s t d m g := fun l hl => by
  rw [ht, Core.v_writeV, hc]
  exact ⟨fun hu => if_pos ((s.me.mem_lanes m l).mpr ⟨hl, hu⟩), fun hu => if_neg fun hm => hu ((s.me.mem_lanes m l).mp hm).2⟩

theorem Core.stores_writeLanes (c : Core) (g : Nat → W32) {l : List Nat} (hl : ∀ i ∈ l, i < 16) :
    c.Stores (c.writeV d.toNat (l.map fun k => (k, g k))) (c.vBytes d) :=
  (c.stores_writeV _ _).mono (c.laneBytes_vBytes fun i hi => hl i (by simpa using hi))

theorem WritesV.of_writeV {g : Nat → W32} (he : exec i s = retire i s body)
    (hb : body s = local_ s fun c => c.writeV d.toNat ((s.me.lanes m.toNat).map fun l => (l, g l))) : WritesV i s d m g :=
  Does.of_stores he hb (s.me.stores_writeLanes g (s.me.lanes_lt m)) fun _ ht => .of_writeV (ht.v _) fun _ => rfl

theorem WritesM.of_setM {v : BitVec 16} (he : exec i s = retire i s body) (hb : body s = local_ s f) (hf : f s.me = s.me.setM d.toNat v) :
    WritesM i s d v :=
  Does.of_stores he hb (hf ▸ s.me.stores_setM d v) fun _ ht => by rw [ht.m, hf, Core.m_setM]

end

end Sys2Proof.Machine
end

section
/-! SUPPORT. Moves between registers and lanes, and operations on mask registers (R143). -/
namespace Sys2Proof.Machine
open Sys2Proof

theorem WritesV.of_vxf {i : Instr} {s : State} {d : Reg} {m : BitVec 3} {f : Core → Nat → W32} {g : Nat → W32}
    (he : exec i s = retire i s (vxf d m f)) (hf : ∀ l, f s.me l = g l) : WritesV i s d m g :=
  .of_writeV he (congrArg (local_ s) (funext fun _ => congrArg _ (List.map_congr_left fun l _ => Prod.ext rfl (hf l))))

theorem Instr.vins_lane {f : Word} {d a n : Reg} (h : (Instr.vins d a n).legal f = true) : n.toNat < 16 := by
  simp only [Instr.legal, Bool.and_eq_true] at h
  exact of_decide_eq_true h.1.2

theorem vins_writes (s : State) (d a n : Reg) : Does (.vins d a n) s (s.me.vBytes d) nothing fun t =>
    ∀ l < 16, t.me.v d.toNat l = if l = n.toNat then (s.me.s a.toNat).truncate 32 else s.me.v d.toNat l := fun hp => by
  let g : Nat → W32 := fun _ => (s.me.s a.toNat).truncate 32
  have hn : ∀ i ∈ [n.toNat], i < 16 := by simpa using Instr.vins_lane hp.1
  refine Does.of_stores rfl rfl (s.me.stores_writeLanes g hn) (fun t ht l _ => ?_) hp
  rw [ht.v]
  exact (Core.v_writeV _ g [n.toNat] l).trans (by simp [g])

theorem popFrom_mask (x : BitVec 16) : popFrom (x.zeroExtend 64) 16 = (List.range 16).countP x.getLsbD := by
  rw [popFrom_eq]
  refine List.countP_congr fun k hk => ?_
  have : k < 64 := by have := List.mem_range.mp hk; omega
  simp [this]

/-- Settles O25: a move writes the active lanes (`WritesV.of_vxf`), a mask operation one mask register (`WritesM.of_setM`). -/
theorem vectorMovesAndMasks : Obligations.VectorMovesAndMasks := by
  refine ⟨fun s d a b m n => ?_, fun s d a b => ⟨.of_setM rfl rfl rfl, .of_setM rfl rfl rfl, .of_setM rfl rfl rfl,
    .of_setM rfl rfl rfl, .of_setM rfl rfl rfl,
    put_writes rfl rfl, put_writes rfl ?_⟩⟩
  · intro x k
    refine ⟨.of_vxf rfl fun _ => rfl, put_writes rfl rfl, vins_writes s d a n, .of_vxf rfl fun _ => rfl, .of_vxf rfl fun l => ?_,
      .of_vxf rfl fun _ => rfl⟩
    exact if_congr (and_congr_right fun _ => Int.lt_add_one_iff.symm) rfl rfl
  · rw [← popFrom_mask]

end Sys2Proof.Machine
end

section
/-! SUPPORT. A floating-point instruction and its conditions (R27, R43, R134, R321): what raising flags leaves of a core, and a result in a scalar,
a vector or a mask register with its flags. -/
namespace Sys2Proof.Machine
open Sys2Proof

/-! ## Sticky flags -/

section
variable (c : Core) (fl : Nat)

theorem Core.cr_raise : (c.raise fl).cr_ Cr.fpc = c.cr_ Cr.fpc ||| BitVec.ofNat 64 (fl * 16) := Core.cr_setCr c _ _

theorem Core.cr_raise_other {n : Nat} (h : n ≠ Cr.fpc) : (c.raise fl).cr_ n = c.cr_ n := Core.cr_setCr_other c _ h

theorem Core.wp_raise : (c.raise fl).wp = c.wp := congrArg BitVec.toNat (c.cr_raise_other fl (by decide))

theorem Core.store_raise : (c.raise fl).store = c.store := rfl

theorem Core.s_raise (j : Nat) : (c.raise fl).s j = c.s j := Core.s_congr (c.store_raise fl) (c.cr_raise_other fl (by decide)) j

theorem Core.v_raise (j i : Nat) : (c.raise fl).v j i = c.v j i := Core.v_congr (c.store_raise fl) (c.wp_raise fl) j i

theorem Core.vBytes_raise (d : Reg) : (c.raise fl).vBytes d = c.vBytes d := by
  funext x
  simp only [Core.vBytes, vAddr, Core.wp_raise]

theorem Core.sBytes_raise (d : Reg) : (c.raise fl).sBytes d = c.sBytes d := by
  funext x
  simp only [Core.sBytes, sAddr, Core.wp_raise]

theorem Core.mBytes_raise (d : Reg) : (c.raise fl).mBytes d = c.mBytes d := by
  funext x
  simp only [Core.mBytes, mAddr, Core.wp_raise]

theorem Core.inRep_raise : (c.raise fl).inRep = c.inRep := by
  have hstat : (c.raise fl).cr_ Cr.stat = c.cr_ Cr.stat := c.cr_raise_other fl (by decide)
  have hrep : (c.raise fl).cr_ Cr.repstate = c.cr_ Cr.repstate := c.cr_raise_other fl (by decide)
  simp only [Core.inRep, Core.tm, hstat, hrep]
  rfl

theorem Core.keeps_raise (b : Nat → Prop) : c.Keeps (c.raise fl) b onlyFpc := ⟨rfl, .refl _ _, fun _ h _ => c.cr_raise_other fl h⟩

end

/-! ## An instruction with flags -/

section
variable {i : Instr} {s : State} {body : State → Eff} {fl : Nat} {units : Option (List Nat)} {div : Shadow → Bool}
  {write : Core → Core} {b : Nat → Prop} {p : State → Prop} {d : Reg} {m : BitVec 3}

theorem fpEff_disputed {n : Nat} (h : fl &&& s.me.enables = 0) (hd : s.disputed units div = some n) :
    fpEff s fl units div write = .trap tSHADOW (BitVec.ofNat 64 n) := by
  simp only [fpEff, h, hd, ne_eq, not_true_eq_false, if_false]

theorem fpEff_completes (h : fl &&& s.me.enables = 0) (hd : s.disputed units div = none) :
    fpEff s fl units div write = local_ s fun c => write (c.raise fl) := by
  simp only [fpEff, h, hd, ne_eq, not_true_eq_false, if_false]

theorem fpEff_raises (h : fl &&& s.me.enables ≠ 0) : fpEff s fl units div write =
    .kept (s.upd fun c => c.raise (fl &&& s.me.enables)) tFP (BitVec.ofNat 64 ((fl &&& s.me.enables) * 16)) := if_pos h

/-- A write of registers behind the flags that an instruction sets in `FPC`. -/
theorem Does.of_raise (he : exec i s = retire i s body) (hb : body s = local_ s fun c => write (c.raise fl))
    (hw : (s.me.raise fl).Stores (write (s.me.raise fl)) b) (hp : ∀ t : State, (write (s.me.raise fl)).SameHeld t.me → p t) :
    Does i s b onlyFpc fun t => t.me.cr_ Cr.fpc = s.me.cr_ Cr.fpc ||| BitVec.ofNat 64 (fl * 16) ∧ p t := by
  have hme : (s.upd fun c => write (c.raise fl)).me = write (s.me.raise fl) := State.me_upd ..
  refine Leaves.of_effect he hb (s.onlyMine_upd _) ?_ ?_ ?_ fun t hs hcr => ?_
  · rw [hme]
    exact (s.me.keeps_raise fl b).trans (hw.keeps _)
  · rw [hme, hw.pc]
    rfl
  · rw [hme, hw.inRep, Core.inRep_raise]
  · rw [hme] at hs
    simp only [hme] at hcr
    exact ⟨by rw [hcr _ (by decide), hw.cr, Core.cr_raise], hp t ⟨hs, hcr⟩⟩

/-- A floating-point instruction is its flags, its disputed result or its write. -/
theorem Floats.of_fpEff (he : exec i s = retire i s body) (hb : body s = fpEff s fl units div write)
    (hw : (s.me.raise fl).Stores (write (s.me.raise fl)) b) (hp : ∀ t : State, (write (s.me.raise fl)).SameHeld t.me → p t) :
    Floats i s fl units div b p := by
  refine ⟨fun h hd => .of_raise he (hb.trans (fpEff_completes h hd)) hw hp,
    fun h n hd => .of_trap he (hb.trans (fpEff_disputed h hd)), fun h hpass => ?_⟩
  rw [exec_of_passes he hpass, hb, fpEff_raises h, Eff.apply]
  split
  · rfl
  · rfl

theorem FloatsS.of_fpEff {r : Word × Nat} (he : exec i s = retire i s body) (hb : body s = fpEff s r.2 units div write)
    (hw : write (s.me.raise r.2) = (s.me.raise r.2).setS d.toNat r.1) : FloatsS i s d r units div := by
  refine Floats.of_fpEff he hb ?_ fun t ht => ?_
  · rw [hw, ← Core.sBytes_raise s.me r.2]
    exact Core.stores_setS _ d _
  · rw [ht.s, hw, Core.s_setS_reg]

theorem FloatsS.of_setS {r : Word × Nat} (he : exec i s = retire i s body)
    (hb : body s = fpEff s r.2 units div fun c => c.setS d.toNat r.1) : FloatsS i s d r units div := .of_fpEff he hb rfl

/-- The flags of the lanes are joined as they are listed. -/
theorem flagsOf_map (l : List Nat) (f : Nat → W32 × Nat) : flagsOf (l.map fun k => (k, f k)) = l.foldl (fun x k => x ||| (f k).2) 0 :=
  List.foldl_map

theorem valuesOf_map (l : List Nat) (f : Nat → W32 × Nat) : valuesOf (l.map fun k => (k, f k)) = l.map fun k => (k, (f k).1) :=
  List.map_map

theorem aget_map_of_mem {α : Type} (e : α) (f : Nat → α) {l : List Nat} {k : Nat} (h : k ∈ l) : aget e (l.map fun k => (k, f k)) k = f k := by
  induction l with
  | nil => exact absurd h List.not_mem_nil
  | cons j t ih =>
    rw [List.map_cons, aget]
    split
    · next hj => rw [hj]
    · next hj => exact ih ((List.mem_cons.mp h).resolve_left (Ne.symm hj))

/-- What a shadow unit disputes depends on its comparison in the lanes in use alone. -/
theorem State.disputed_congr {l : List Nat} {div div' : Shadow → Bool} (h : ∀ x, x.lane ∈ l → div x = div' x) :
    s.disputed (some l) div = s.disputed (some l) div' := by
  unfold State.disputed
  cases hx : s.shadowHit with
  | none => rfl
  | some x =>
    by_cases hm : x.lane ∈ l
    · simp [h x hm]
    · simp [hm]

theorem Floats.congr_div {l : List Nat} {div' : Shadow → Bool} (h : ∀ x, x.lane ∈ l → div x = div' x) (hf : Floats i s fl (some l) div b p) :
    Floats i s fl (some l) div' b p := by
  unfold Floats
  rw [← State.disputed_congr h]
  exact hf

/-- A vector floating-point operation writes its active lanes, with the flags of all of them. -/
theorem FloatsV.of_vecFp {div : W32 → Shadow → Bool} {f : Core → Nat → W32 × Nat} {g : Nat → W32 × Nat} (he : exec i s = retire i s body)
    (hb : body s = vecFp s d m div f) (hf : ∀ l, f s.me l = g l) : FloatsV i s d m div g := by
  have hg : f s.me = g := funext hf
  rw [vecFp, hg, flagsOf_map, valuesOf_map] at hb
  refine Floats.congr_div (fun x hx => ?_) (Floats.of_fpEff he hb ?_ fun t ht => ?_)
  · rw [aget_map_of_mem 0 (fun k => (g k).1) hx]
  · rw [← Core.vBytes_raise]
    exact Core.stores_writeLanes _ (fun k => (g k).1) (s.me.lanes_lt m)
  · exact .of_writeV (fun l => ht.v _ l) fun l => Core.v_raise _ _ _ l

/-- A mask of listed lanes holds those lanes. -/
theorem getLsbD_maskOf (l : List Nat) {k : Nat} (hk : k < 16) : (maskOf l).getLsbD k = true ↔ k ∈ l := by
  have hstep (l : List Nat) (x : BitVec 16) :
      (l.foldl (fun x i => x ||| (1#16 <<< i)) x).getLsbD k = true ↔ x.getLsbD k = true ∨ k ∈ l := by
    induction l generalizing x with
    | nil => simp
    | cons j t ih =>
      have hbit : (1#16 <<< j).getLsbD k = true ↔ k = j := by
        simp [hk]
        omega
      rw [List.foldl_cons, ih, BitVec.getLsbD_or, Bool.or_eq_true, hbit, List.mem_cons, or_assoc]
  rw [maskOf, hstep]
  simp

/-- A vector floating-point compare writes a mask of the active lanes that meet it. -/
theorem FloatsM.of_vecFpCmp {f : Core → Nat → Bool × Nat} {g : Nat → Bool × Nat} (he : exec i s = retire i s body)
    (hb : body s = vecFpCmp s d m f) (hf : ∀ l, f s.me l = g l) : FloatsM i s d m g := by
  have hg : f s.me = g := funext hf
  rw [vecFpCmp, hg] at hb
  rw [List.foldl_map] at hb
  refine Floats.of_fpEff he hb ?_ fun t ht l hl => ?_
  · rw [← Core.mBytes_raise]
    exact Core.stores_setM _ d _
  · rw [ht.m, Core.m_setM, getLsbD_maskOf _ hl]
    simp [Core.mem_lanes, hl]

end

end Sys2Proof.Machine
end

section
/-! SUPPORT. Scalar and vector floating-point instructions (R135, R137). -/
namespace Sys2Proof.Machine
open Sys2Proof

/-! ## Scalar operations -/

section
variable {i : Instr} {s : State} {d a b : Reg} {t : BitVec 1}

theorem fp1_floats {op : Fmt → Core → Fp → Nat × Nat} {g : Fp → Nat × Nat} (he : exec i s = retire i s (fp1 t d a op))
    (hop : op (fmtOf t) s.me = g) :
    FloatsTo (fmtOf t) i s d (fpOp1 (fmtOf t) s.me g ((s.me.s a.toNat).toNat % 2 ^ (fmtOf t).width)) :=
  hop ▸ FloatsS.of_setS he rfl

theorem fp2_floats {op : Fmt → Core → Fp → Fp → Nat × Nat} {g : Fp → Fp → Nat × Nat} (he : exec i s = retire i s (fp2 t d a b op))
    (hop : op (fmtOf t) s.me = g) :
    FloatsTo (fmtOf t) i s d (fpOp2 (fmtOf t) s.me g ((s.me.s a.toNat).toNat % 2 ^ (fmtOf t).width)
      ((s.me.s b.toNat).toNat % 2 ^ (fmtOf t).width)) :=
  hop ▸ FloatsS.of_setS he rfl

theorem toNat_eq_ite (x : Bool) : x.toNat = if x then 1 else 0 := by cases x <;> rfl

/-- A compare gives 1 or 0. -/
def compareOp (n : Nat) (a b : Fp) : Nat × Nat := ((fpCompare n a b).1.toNat, (fpCompare n a b).2)

theorem compareOp_eq (n : Nat) : (fun a b => let r := fpCompare n a b; ((if r.1 then 1 else 0 : Nat), r.2)) = compareOp n := by
  funext a b
  rw [compareOp, toNat_eq_ite]

theorem fpCmp_floats {n : Nat} (he : exec i s = retire i s (fpCmp n t d a b)) :
    let r := fpOp2 (fmtOf t) s.me (compareOp n) ((s.me.s a.toNat).toNat % 2 ^ (fmtOf t).width) ((s.me.s b.toNat).toNat % 2 ^ (fmtOf t).width)
    FloatsS i s d (BitVec.ofNat 64 r.1, r.2) none otherDiverges := by
  rw [← compareOp_eq]
  exact FloatsS.of_setS he rfl

end

/-! ## Vector operations -/

section
variable {i : Instr} {s : State} {d a b : Reg} {m : BitVec 3} {t : BitVec 1}

theorem vfpCmp_floats {n : Nat} (he : exec i s = retire i s (vfpCmp n d a b m)) :
    FloatsM i s d m fun l =>
      let r := fpOp2 f32 s.me (compareOp n) (s.me.v a.toNat l).toNat (s.me.v b.toNat l).toNat
      (r.1 == 1, r.2) := by
  rw [← compareOp_eq]
  exact .of_vecFpCmp he rfl fun _ => rfl

end

/-! ## Signs under FTZ (R27, R137) -/

section
variable {f : Fmt} {v n : Bool} {u : Nat}

theorem Fmt.signed_sign (hu : u < f.signBit) : ((f.signed n u) / f.signBit % 2 == 1) = n := by
  have hpos : 0 < f.signBit := Nat.two_pow_pos _
  cases n with
  | false => simp [Fmt.signed, Nat.div_eq_of_lt hu]
  | true => simp [Fmt.signed, Nat.add_div_left _ hpos, Nat.div_eq_of_lt hu]

/-- The sign bit lies above the exponent and the fraction. -/
theorem Fmt.isSub_signed : f.isSub (f.signed n u) = f.isSub u := by
  cases n with
  | false => rfl
  | true =>
    have hsplit : f.signBit = 2 ^ f.mb * 2 ^ f.eb := by rw [Fmt.signBit, ← pow_add, add_comm]
    have hdiv : (f.signBit + u) / 2 ^ f.mb % 2 ^ f.eb = u / 2 ^ f.mb % 2 ^ f.eb := by
      rw [hsplit, Nat.mul_add_div (Nat.two_pow_pos _), Nat.add_mod_left]
    have hmod : (f.signBit + u) % 2 ^ f.mb = u % 2 ^ f.mb := by rw [hsplit, Nat.mul_add_mod]
    simp only [Fmt.isSub, Fmt.signed, if_true, hdiv, hmod]

theorem Fmt.signFlushed_kept {ftz : Bool} (h : ftz = false ∨ f.isSub u = false) :
    f.signFlushed ftz v (f.signed n u) = f.signOp v (f.signed n u) := by
  rw [Fmt.signFlushed, Fmt.isSub_signed]
  exact if_neg (by simpa [imp_iff_not_or] using h)

end

/-- The sign of a zero, cleared or inverted. -/
theorem signOp_zero {f : Fmt} (hf : f ∈ [f32, bf16]) (v n : Bool) : (f.signOp v (f.signed n 0)).1 = f.signed (v && !n) 0 := by
  simp only [List.mem_cons, List.not_mem_nil, or_false] at hf
  rcases hf with rfl | rfl
  · cases v <;> cases n <;> rfl
  · cases v <;> cases n <;> rfl

theorem Fmt.signFlushed_flushed {f : Fmt} (hf : f ∈ [f32, bf16]) {v n : Bool} {u : Nat} (hu : u < f.signBit) (h : f.isSub u = true) :
    f.signFlushed true v (f.signed n u) = (f.signed (v && !n) 0, 8) := by
  rw [Fmt.signFlushed, Fmt.isSub_signed, h, Fmt.signed_sign hu, ← signOp_zero hf]
  rfl

/-! ## The obligation -/

/-- The scalar operations that have none of the forms above. -/
theorem scalar_floating (s : State) (d a b c : Reg) (t : BitVec 1) : let f := fmtOf t; let k := s.me
    let x := (k.s a.toNat).toNat % 2 ^ f.width; let y := (k.s b.toNat).toNat % 2 ^ f.width; let z := (k.s c.toNat).toNat % 2 ^ f.width
    FloatsTo f (.fma d a b c t) s d (fpOp3 f k (f.fma k.rm k.ftz) x y z) ∧
    FloatsTo f (.fabs d a t) s d (f.signOp false x) ∧ FloatsTo f (.fneg d a t) s d (f.signOp true x) ∧
    FloatsS (.fclass d a t) s d (f.classWord x, 0) none otherDiverges := by
  refine ⟨FloatsS.of_setS rfl rfl, FloatsS.of_setS rfl rfl, FloatsS.of_setS rfl rfl,
    FloatsS.of_fpEff (write := fun c => c.setS d.toNat ((fmtOf t).classWord (fpArg (fmtOf t) (c.s a.toNat)))) rfl rfl ?_⟩
  rw [Core.s_raise]
  rfl

theorem vector_compares (s : State) (d a b : Reg) (m : BitVec 3) :
    let cmp (n l : Nat) : Bool × Nat := let r := fpOp2 f32 s.me (compareOp n) (s.me.v a.toNat l).toNat (s.me.v b.toNat l).toNat; (r.1 == 1, r.2)
    FloatsM (.vfceq d a b m) s d m (cmp 0) ∧ FloatsM (.vfclt d a b m) s d m (cmp 1) ∧ FloatsM (.vfcle d a b m) s d m (cmp 2) :=
  ⟨vfpCmp_floats rfl, vfpCmp_floats rfl, vfpCmp_floats rfl⟩

theorem signFlushed_spec : ∀ f ∈ [f32, bf16], ∀ (ftz v n : Bool) (u : Nat), u < f.signBit →
    (ftz = false ∨ f.isSub u = false → f.signFlushed ftz v (f.signed n u) = f.signOp v (f.signed n u)) ∧
      (f.isSub u = true → f.signFlushed true v (f.signed n u) = (f.signed (v && !n) 0, 8)) :=
  fun _ hf _ _ _ _ hu => ⟨Fmt.signFlushed_kept, Fmt.signFlushed_flushed hf hu⟩

/-- Settles O26: every scalar form is one rounding of its operands (`FloatsS.of_setS`), every vector form one of each lane
(`FloatsV.of_vecFp`, `FloatsM.of_vecFpCmp`). -/
theorem floatingPoint : Obligations.FloatingPoint := by
  refine ⟨fun s d a b c t => ?_, fun s d a b m t => ?_⟩
  · obtain ⟨hfma, habs, hneg, hclass⟩ := scalar_floating s d a b c t
    exact ⟨fp2_floats rfl rfl, fp2_floats rfl rfl, fp2_floats rfl rfl, fp2_floats rfl rfl, fp2_floats rfl rfl, fp2_floats rfl rfl, hfma,
      fp1_floats rfl rfl, fpCmp_floats rfl, fpCmp_floats rfl, fpCmp_floats rfl, habs, hneg, hclass⟩
  · obtain ⟨heq, hlt, hle⟩ := vector_compares s d a b m
    intro k x y z lane two one cmp
    refine ⟨?_, ?_, ?_, ?_, ?_, ?_, ?_, ?_, ?_, ?_, ?_, ?_, ?_, fun f hf v n u hu => signFlushed_spec f hf k.ftz v n u hu, heq, hlt, hle⟩
    all_goals exact .of_vecFp rfl rfl fun _ => rfl

end Sys2Proof.Machine
end

section
/-! SUPPORT. Conversions between formats and integers (R145, R146). -/
namespace Sys2Proof.Machine
open Sys2Proof

/-! ## To a signed 32-bit integer (R145) -/

section
variable (rm m : Nat) (n : Bool) (e : Int)

theorem roundAt_integer (h : 0 ≤ e) : roundAt rm n m e 0 false = (m * 2 ^ e.toNat, false) := by
  simp [roundAt, h]

/-- A multiple is never rounded up. -/
theorem roundsUp_of_multiple {rm a b : Nat} {n : Bool} (hb : 0 < b) (h : a % b = 0) : roundsUp rm n a b false = false := by
  simp [roundsUp, h, hb.ne]

/-- A rounding to an integer takes the integer below or the next, and is exact where nothing lies below the point. -/
theorem roundAt_fraction (h : e < 0) : let r := roundAt rm n m e 0 false
    (r.2 = true ↔ m % 2 ^ (-e).toNat ≠ 0) ∧ (r.1 = m / 2 ^ (-e).toNat ∨ (r.2 = true ∧ r.1 = m / 2 ^ (-e).toNat + 1)) := by
  have hd : denom e 0 = 2 ^ (-e).toNat := by rw [denom, zero_sub]
  have hpos : 0 < 2 ^ (-e).toNat := Nat.two_pow_pos _
  rw [roundAt_eq (.inl h), numer_of_lt h, hd, Bool.or_false]
  refine ⟨bne_iff_ne, ?_⟩
  by_cases hm : m % 2 ^ (-e).toNat = 0
  · exact .inl (by rw [roundsUp_of_multiple hpos hm]; rfl)
  · cases roundsUp rm n m (2 ^ (-e).toNat) false with
    | false => exact .inl rfl
    | true => exact .inr ⟨bne_iff_ne.mpr hm, rfl⟩

/-- The number that a rounding to an integer gives. -/
def roundedInt : Int := if n then -((roundAt rm n m e 0 false).1 : Int) else (roundAt rm n m e 0 false).1

theorem toI32_eq : toI32 rm (.fin n m e) = if roundedInt rm m n e > 2147483647 then (0x7FFFFFFF#32, flNV)
    else if roundedInt rm m n e < -2147483648 then (0x80000000#32, flNV)
    else (BitVec.ofInt 32 (roundedInt rm m n e), if (roundAt rm n m e 0 false).2 then flNX else 0) := rfl

theorem toI32_below (h : roundedInt rm m n e < -2 ^ 31) : toI32 rm (.fin n m e) = (0x80000000, 1) := by
  rw [toI32_eq, if_neg (by omega), if_pos (by omega)]
  rfl

theorem toI32_above (h : 2 ^ 31 ≤ roundedInt rm m n e) : toI32 rm (.fin n m e) = (0x7FFFFFFF, 1) := by
  rw [toI32_eq, if_pos (by omega)]
  rfl

theorem toI32_within (h : -2 ^ 31 ≤ roundedInt rm m n e) (h' : roundedInt rm m n e < 2 ^ 31) : let y := toI32 rm (.fin n m e)
    y.1.toInt = roundedInt rm m n e ∧ y.2 = if (roundAt rm n m e 0 false).2 then 16 else 0 := by
  rw [toI32_eq, if_neg (by omega), if_neg (by omega)]
  exact ⟨by rw [BitVec.toInt_ofInt, Int.bmod_def]; omega, rfl⟩

end

/-! ## The obligation -/

/-- Settles O28: the conversions are one rounding of their operands (`FloatsS.of_setS`, `FloatsV.of_vecFp`), and that to an integer takes a
neighbour within the range (`roundAt_fraction`, `toI32_within`). -/
theorem formatConversions : Obligations.FormatConversions := by
  have hvector : (1 : BitVec 1) ≠ 0#1 := by decide
  refine ⟨fun s d a b h m => ?_, fun rm m n e _ => ?_⟩
  · intro k lane ofInt toInt x y
    exact ⟨FloatsS.of_setS rfl rfl, .of_vecFp rfl (if_neg hvector) fun _ => rfl, FloatsS.of_setS rfl rfl,
      .of_vecFp rfl (if_neg hvector) fun _ => rfl, FloatsS.of_setS rfl rfl, FloatsS.of_setS rfl rfl, .of_vecFp rfl rfl fun _ => rfl,
      .of_vecFp rfl rfl fun _ => rfl⟩
  · intro r v y
    refine ⟨toI32_below rm m n e, toI32_above rm m n e, toI32_within rm m n e, fun he => ?_, roundAt_fraction rm m n e, rfl, ?_⟩
    · have hr : r = (m * 2 ^ e.toNat, false) := roundAt_integer rm m n e he
      simp only [v, hr]
      exact ⟨trivial, trivial⟩
    · cases n <;> rfl

end Sys2Proof.Machine
end

section
/-! SUPPORT. Vector integer operations element by element, selects and compares (R134, R136). -/
namespace Sys2Proof.Machine
open Sys2Proof

/-! ## Elements of a lane (R134) -/

/-- The widths of an element. -/
def IsElem (w : Nat) : Prop := w = 32 ∨ w = 16 ∨ w = 8

theorem elemBits_eq (t : BitVec 2) : elemBits t = if t = 0 then 32 else if t = 1 then 16 else 8 := by
  revert t; decide

theorem isElem_elemBits (t : BitVec 2) : IsElem (elemBits t) := by
  rw [elemBits_eq, IsElem]
  split
  · exact .inl rfl
  · split
    · exact .inr (.inl rfl)
    · exact .inr (.inr rfl)

/-- A sum of elements at their places. -/
def packed (w : Nat) (g : Nat → Nat) (n : Nat) : Nat := (List.range n).foldl (fun r k => r + g k * 2 ^ (w * k)) 0

section
variable {w : Nat} {g : Nat → Nat} (hg : ∀ k, g k < 2 ^ w)

theorem packed_succ (n : Nat) : packed w g (n + 1) = packed w g n + g n * 2 ^ (w * n) := by
  rw [packed, List.range_succ, List.foldl_append]
  rfl

include hg

theorem packed_lt (n : Nat) : packed w g n < 2 ^ (w * n) := by
  induction n with
  | zero => exact Nat.two_pow_pos _
  | succ n ih =>
    have hmul : g n * 2 ^ (w * n) + 2 ^ (w * n) ≤ 2 ^ (w * (n + 1)) := by
      rw [← Nat.succ_mul, Nat.mul_succ, Nat.pow_add, Nat.mul_comm (2 ^ (w * n))]
      exact Nat.mul_le_mul_right _ (hg n)
    rw [packed_succ]
    omega

theorem packed_digit {n k : Nat} (hk : k < n) : packed w g n / 2 ^ (w * k) % 2 ^ w = g k := by
  induction n with
  | zero => exact absurd hk (Nat.not_lt_zero _)
  | succ n ih =>
    rw [packed_succ]
    obtain hlt | rfl := Nat.lt_succ_iff_lt_or_eq.mp hk
    · obtain ⟨j, rfl⟩ := Nat.exists_eq_add_of_lt hlt
      have hpow : 2 ^ (w * (k + j + 1)) = 2 ^ (w * k) * (2 ^ w * 2 ^ (w * j)) := by
        rw [← pow_add, ← pow_add]
        ring_nf
      rw [hpow, Nat.mul_left_comm, Nat.add_mul_div_left _ _ (Nat.two_pow_pos _), Nat.mul_left_comm, Nat.add_mul_mod_self_left, ih hlt]
    · rw [Nat.add_mul_div_right _ _ (Nat.two_pow_pos _), Nat.div_eq_of_lt (packed_lt hg k), Nat.zero_add, Nat.mod_eq_of_lt (hg k)]

/-- The elements of a lane that is packed of them. -/
theorem elemAt_packed {n k : Nat} (hn : w * n = 32) (hk : k < n) : elemAt w (BitVec.ofNat 32 (packed w g n)) k = g k := by
  have hlt : packed w g n < 2 ^ 32 := hn ▸ packed_lt hg n
  rw [elemAt, BitVec.toNat_ofNat, Nat.mod_eq_of_lt hlt, packed_digit hg hk]

end

/-- Each element of a lane is the operation's result modulo its width. -/
theorem elemAt_mapElems {w : Nat} (hw : IsElem w) (f : Nat → Nat → Nat → Nat) (x y z : W32) {k : Nat} (hk : k < 32 / w) :
    elemAt w (mapElems w f x y z) k = f (elemAt w x k) (elemAt w y k) (elemAt w z k) % 2 ^ w := by
  have hn : w * (32 / w) = 32 := by rcases hw with rfl | rfl | rfl <;> rfl
  exact elemAt_packed (g := fun k => f (elemAt w x k) (elemAt w y k) (elemAt w z k) % 2 ^ w) (fun _ => Nat.mod_lt _ (Nat.two_pow_pos _)) hn hk

theorem elemAt_lt (w : Nat) (x : W32) (k : Nat) : elemAt w x k < 2 ^ w := Nat.mod_lt _ (Nat.two_pow_pos _)

theorem sgn_eq (w x : Nat) : sgn w x = elemInt w x := by
  simp only [sgn, elemInt, ← not_lt, ite_not]

theorem unsgn_mod (w : Nat) (x : Int) : ((unsgn w x : Nat) : Int) % 2 ^ w = x % 2 ^ w := by
  have hpos : (0 : Int) < 2 ^ w := by positivity
  rw [unsgn, Int.toNat_of_nonneg (Int.emod_nonneg _ hpos.ne'), Int.emod_emod]

/-- An element's signed and unsigned readings agree modulo its width. -/
theorem elemInt_mod (w x : Nat) : elemInt w x % 2 ^ w = (x : Int) % 2 ^ w := by
  unfold elemInt
  split
  · exact Int.sub_emod_right _ _
  · rfl

section
variable {i : Instr} {s : State} {d a b : Reg} {m : BitVec 3} {t : BitVec 2}

/-- A lane-wise operation whose function agrees with f on elements modulo their width. -/
theorem WritesElems.of_valu {g : Nat → Nat → Nat → Nat → Nat} {f : Nat → Nat → Nat → Nat → Int}
    (he : exec i s = retire i s (valu t d a b m g))
    (hg : ∀ w x y z, y < 2 ^ w → ((g w x y z : Nat) : Int) % 2 ^ w = f w x y z % 2 ^ w) : WritesElems i s t d a b m f := by
  let r (l : Nat) : W32 := mapElems (elemBits t) (g (elemBits t)) (s.me.v a.toNat l) (s.me.v b.toNat l) (s.me.v d.toNat l)
  have hv : WritesV i s d m r := .of_writeV he rfl
  unfold WritesElems
  rw [← elemBits_eq]
  refine hv.mono fun u hu l hl => ⟨fun hin k hk => ?_, (hu l hl).2⟩
  rw [(hu l hl).1 hin, elemAt_mapElems (isElem_elemBits t) _ _ _ _ hk, ← hg _ _ _ _ (elemAt_lt ..)]
  norm_cast

/-- The lesser and the greater of two elements as signed numbers. -/
theorem lesser_elem (w x y : Nat) : ((if sgn w y < sgn w x then y else x : Nat) : Int) % 2 ^ w = min (elemInt w x) (elemInt w y) % 2 ^ w := by
  rw [sgn_eq, sgn_eq]
  split
  · next h => rw [min_eq_right h.le, elemInt_mod]
  · next h => rw [min_eq_left (not_lt.mp h), elemInt_mod]

theorem greater_elem (w x y : Nat) : ((if sgn w x < sgn w y then y else x : Nat) : Int) % 2 ^ w = max (elemInt w x) (elemInt w y) % 2 ^ w := by
  rw [sgn_eq, sgn_eq]
  split
  · next h => rw [max_eq_right h.le, elemInt_mod]
  · next h => rw [max_eq_left (not_lt.mp h), elemInt_mod]

theorem sub_elem {w x y : Nat} (hy : y < 2 ^ w) : ((x + 2 ^ w - y : Nat) : Int) % 2 ^ w = (x - y : Int) % 2 ^ w := by
  have h : ((x + 2 ^ w - y : Nat) : Int) = x - y + 2 ^ w := by
    rw [Int.natCast_sub (by omega)]
    push_cast
    ring
  rw [h, Int.add_emod_right]

end

/-! ## Selects and compares -/

section
variable {i : Instr} {s : State} {d a b : Reg} {m : BitVec 3} {t : BitVec 2}

theorem vsel_writes : Does (.vsel d a b m t) s (s.me.vBytes d) nothing fun u => ∀ l < 16,
    (s.me.inUse m l → u.me.v d.toNat l = s.me.v a.toNat l) ∧ (¬ s.me.inUse m l → u.me.v d.toNat l = s.me.v b.toNat l) := by
  let g (l : Nat) : W32 := if s.me.active m.toNat l then s.me.v a.toNat l else s.me.v b.toNat l
  refine Does.of_stores rfl rfl (s.me.stores_writeLanes g fun _ => List.mem_range.mp) fun u hu l hl => ?_
  have hv : u.me.v d.toNat l = g l := by
    rw [hu.v]
    exact (Core.v_writeV _ g _ l).trans (if_pos (List.mem_range.mpr hl))
  rw [hv]
  exact ⟨fun h => if_pos ((s.me.active_iff m l).mpr h), fun h => if_neg (mt (s.me.active_iff m l).mp h)⟩

theorem valuCmp_writes {f : W32 → W32 → Bool} {r : W32 → W32 → Prop} (he : exec i s = retire i s (valuCmp d a b m f))
    (hf : ∀ x y, f x y = true ↔ r x y) : Does i s (s.me.mBytes d) nothing fun u =>
      ∀ l < 16, (u.me.m d.toNat).getLsbD l = true ↔ s.me.inUse m l ∧ r (s.me.v a.toNat l) (s.me.v b.toNat l) := by
  refine Does.of_stores he rfl (s.me.stores_setM d _) fun u hu l hl => ?_
  rw [hu.m, Core.m_setM, getLsbD_maskOf _ hl, List.mem_filter, s.me.mem_lanes, hf]
  exact and_congr_left fun _ => and_iff_right hl

end

/-! ## The tree of a reduction (R44) -/

section
variable (op : Nat → Nat → Nat × Nat)

/-- One level of the tree: a step takes the results of two places, and joins its flags to theirs. -/
def treeUp (v : Nat → Nat × Nat) (l : Nat) : Nat × Nat :=
  ((op (v (2 * l)).1 (v (2 * l + 1)).1).1, (v (2 * l)).2 ||| (v (2 * l + 1)).2 ||| (op (v (2 * l)).1 (v (2 * l + 1)).1).2)

/-- The tree over 16 places: its result and the union of the flags of every step. -/
def treeOf (x : Nat → Nat) : Nat × Nat := treeUp op (treeUp op (treeUp op (treeUp op fun l => (x l, 0)))) 0

/-- The union of the flags of n places. -/
def flagsTo (v : Nat → Nat × Nat) : Nat → Nat
  | 0 => 0
  | n + 1 => (v 0).2 ||| flagsTo (fun l => v (l + 1)) n

/-- A level of the tree over places with flags: its values, and how the flags of its steps join those of the places. -/
theorem treeStep_eq (v : Nat → Nat × Nat) (n : Nat) : let r := treeStep op ((List.range (2 * n)).map fun l => (v l).1)
    r.1 = ((List.range n).map fun l => (treeUp op v l).1) ∧ flagsTo v (2 * n) ||| r.2 = flagsTo (treeUp op v) n := by
  induction n generalizing v with
  | zero => simp [treeStep, flagsTo]
  | succ n ih =>
    obtain ⟨hvals, hflags⟩ := ih fun l => v (l + 2)
    have hrange : (List.range (2 * (n + 1))).map (fun l => (v l).1) = (v 0).1 :: (v 1).1 :: (List.range (2 * n)).map fun l => (v (l + 2)).1 := by
      rw [Nat.mul_succ, List.range_succ_eq_map, List.range_succ_eq_map]
      simp [Function.comp_def]
    dsimp only
    rw [hrange, treeStep]
    refine ⟨?_, ?_⟩
    · rw [hvals, List.range_succ_eq_map]
      simp [Function.comp_def, treeUp, Nat.mul_succ]
    · have hup : flagsTo (treeUp op v) (n + 1) = (treeUp op v 0).2 ||| flagsTo (treeUp op fun l => v (l + 2)) n := rfl
      have hv : flagsTo v (2 * (n + 1)) = (v 0).2 ||| ((v 1).2 ||| flagsTo (fun l => v (l + 2)) (2 * n)) := rfl
      rw [hup, ← hflags, hv, treeUp]
      dsimp only [Nat.mul_zero, Nat.zero_add]
      generalize (op (v 0).1 (v 1).1).2 = a
      ac_rfl

/-- The flags of the levels of a tree are those of its steps. -/
theorem tree16_eq (x : Nat → Nat) : tree16 op ((List.range 16).map x) = treeOf op x := by
  let v0 (l : Nat) : Nat × Nat := (x l, 0)
  obtain ⟨h1, f1⟩ := treeStep_eq op v0 8
  obtain ⟨h2, f2⟩ := treeStep_eq op (treeUp op v0) 4
  obtain ⟨h3, f3⟩ := treeStep_eq op (treeUp op (treeUp op v0)) 2
  obtain ⟨h4, f4⟩ := treeStep_eq op (treeUp op (treeUp op (treeUp op v0))) 1
  rw [← h3] at h4 f4
  rw [← h2] at h3 f3 h4 f4
  rw [← h1] at h2 f2 h3 f3 h4 f4
  refine Prod.ext ?_ ?_
  · exact congrArg (fun l => l.headD 0) h4
  · have hzero : flagsTo v0 (2 * 8) = 0 := by simp [flagsTo, v0]
    rw [hzero, Nat.zero_or] at f1
    have htop : flagsTo (treeUp op (treeUp op (treeUp op (treeUp op v0)))) 1 = (treeOf op x).2 := Nat.or_zero _
    rw [← htop, ← f4, ← f3, ← f2, ← f1]
    rfl

end

/-! ## Reductions (R144) -/

section
variable {α : Type} {f : α → α → α}

/-- A level of a tree whose steps have no flags. -/
def stepUp (f : α → α → α) (y : Nat → α) (l : Nat) : α := f (y (2 * l)) (y (2 * l + 1))

def foldTree (f : α → α → α) (x : Nat → α) : α := stepUp f (stepUp f (stepUp f (stepUp f x))) 0

/-- A tree of steps on words as one on their numbers. -/
theorem treeOf_toNat {op : Nat → Nat → Nat × Nat} {f : W32 → W32 → W32} (h : ∀ x y : W32, (op x.toNat y.toNat).1 = (f x y).toNat)
    (x : Nat → W32) : (treeOf op fun l => (x l).toNat).1 = (foldTree f x).toNat := by
  have hup {v : Nat → Nat × Nat} {y : Nat → W32} (hv : ∀ l, (v l).1 = (y l).toNat) (l : Nat) : (treeUp op v l).1 = (stepUp f y l).toNat := by
    rw [treeUp, hv, hv, h, stepUp]
  exact hup (hup (hup (hup fun _ => rfl))) 0

/-- Places pick, from blocks of n places, a member that is nearest an end of an order. -/
def Picks (le : α → α → Prop) (x : Nat → α) (n : Nat) (y : Nat → α) : Prop :=
  ∀ l, (∃ i < n, y l = x (n * l + i)) ∧ ∀ i < n, le (y l) (x (n * l + i))

theorem Picks.up {le : α → α → Prop} (htrans : ∀ a b c, le a b → le b c → le a c)
    (hf : ∀ a b, (f a b = a ∨ f a b = b) ∧ le (f a b) a ∧ le (f a b) b) {x y : Nat → α} {n : Nat} (h : Picks le x n y) :
    Picks le x (2 * n) (stepUp f y) := fun l => by
  have hlow : n * (2 * l) = 2 * n * l := by ring
  have hhigh : n * (2 * l + 1) = 2 * n * l + n := by ring
  obtain ⟨hsel, hle0, hle1⟩ := hf (y (2 * l)) (y (2 * l + 1))
  obtain ⟨⟨i0, hi0, he0⟩, hall0⟩ := h (2 * l)
  obtain ⟨⟨i1, hi1, he1⟩, hall1⟩ := h (2 * l + 1)
  rw [hlow] at he0 hall0
  rw [hhigh] at he1 hall1
  refine ⟨?_, fun i hi => ?_⟩
  · rcases hsel with hs | hs
    · exact ⟨i0, by omega, hs.trans he0⟩
    · exact ⟨n + i1, by omega, by rw [stepUp, hs, he1, Nat.add_assoc]⟩
  · by_cases hn : i < n
    · exact htrans _ _ _ hle0 (hall0 i hn)
    · obtain ⟨j, rfl⟩ := Nat.exists_eq_add_of_le (not_lt.mp hn)
      exact Nat.add_assoc .. ▸ htrans _ _ _ hle1 (hall1 j (by omega))

theorem foldTree_picks {le : α → α → Prop} (hrefl : ∀ a, le a a) (htrans : ∀ a b c, le a b → le b c → le a c)
    (hf : ∀ a b, (f a b = a ∨ f a b = b) ∧ le (f a b) a ∧ le (f a b) b) (x : Nat → α) :
    (∃ l < 16, foldTree f x = x l) ∧ ∀ l < 16, le (foldTree f x) (x l) := by
  have h1 : Picks le x 1 x := fun l => ⟨⟨0, by decide, by simp⟩, fun i hi => by
    obtain rfl : i = 0 := by omega
    simpa using hrefl _⟩
  have h16 := (h1.up htrans hf |>.up htrans hf |>.up htrans hf |>.up htrans hf) 0
  rw [foldTree]
  simpa using h16

end

section
variable {i : Instr} {s : State} {d a : Reg} {m : BitVec 3}

/-- The lanes of a reduction: an inactive one takes the operation's neutral value. -/
def Core.laneOr (c : Core) (a : Reg) (m : BitVec 3) (idle : W32) (l : Nat) : W32 := if c.active m.toNat l then c.v a.toNat l else idle

theorem treeLanes_eq (c : Core) (idle : W32) : treeLanes c a m idle.toNat = (List.range 16).map fun l => (c.laneOr a m idle l).toNat :=
  List.map_congr_left fun _ _ => (apply_ite BitVec.toNat _ _ _).symm

theorem tree16_lanes (op : Nat → Nat → Nat × Nat) (c : Core) (idle : W32) :
    tree16 op (treeLanes c a m idle.toNat) = treeOf op fun l => (c.laneOr a m idle l).toNat := by rw [treeLanes_eq, tree16_eq]

theorem sext_toNat (x : W32) : sext x.toNat 32 = x.signExtend 64 := by
  rw [sext_eq (by decide) (by decide), BitVec.ofNat_toNat, BitVec.setWidth_eq]

/-- A reduction of integers: the value of its tree, sign-extended. -/
theorem put_tree_writes {op : Nat → Nat → Nat × Nat} {f : W32 → W32 → W32} {body : State → Eff} {idle : W32}
    (he : exec i s = retire i s body)
    (hb : body s = put d (sext (tree16 op (treeLanes s.me a m idle.toNat)).1 32) s)
    (hop : ∀ x y : W32, (op x.toNat y.toNat).1 = (f x y).toNat) : Writes i s d ((foldTree f (s.me.laneOr a m idle)).signExtend 64) := by
  rw [tree16_lanes, treeOf_toNat hop, sext_toNat] at hb
  exact put_writes he hb

theorem foldTree_add (x : Nat → W32) : foldTree (· + ·) x = (List.range 16).foldl (fun n l => n + x l) 0 := by
  simp only [foldTree, stepUp, List.range, List.range.loop, List.foldl]
  ring

/-- The lesser of two words as signed numbers, or the greater. -/
def pickOf (isMax : Bool) (x y : W32) : W32 := if (y.toInt < x.toInt) = (isMax = true) then x else y

theorem sgn_toNat (x : W32) : sgn 32 x.toNat = x.toInt := by
  rw [sgn, BitVec.toInt_eq_toNat_cond]
  have : x.toNat < 2 ^ (32 - 1) ↔ 2 * x.toNat < 2 ^ 32 := by omega
  simp only [this]
  norm_num

theorem pick_toNat (isMax : Bool) (x y : W32) : (if (sgn 32 y.toNat < sgn 32 x.toNat) = (isMax = true) then x.toNat else y.toNat) =
    (pickOf isMax x y).toNat := by
  rw [sgn_toNat, sgn_toNat, pickOf, apply_ite BitVec.toNat]

theorem pickOf_min (x y : W32) : (pickOf false x y = x ∨ pickOf false x y = y) ∧ (pickOf false x y).toInt ≤ x.toInt ∧
    (pickOf false x y).toInt ≤ y.toInt := by
  by_cases h : y.toInt < x.toInt
  · simp [pickOf, h, h.le]
  · simp [pickOf, h, not_lt.mp h]

theorem pickOf_max (x y : W32) : (pickOf true x y = x ∨ pickOf true x y = y) ∧ x.toInt ≤ (pickOf true x y).toInt ∧
    y.toInt ≤ (pickOf true x y).toInt := by
  by_cases h : y.toInt < x.toInt
  · simp [pickOf, h, h.le]
  · simp [pickOf, h, not_lt.mp h]

theorem vredPick_i32 (k : Bool) : vredPick k d a m 0 s =
    put d (sext (tree16 (fun x y => (if (sgn 32 y < sgn 32 x) = (k = true) then x else y, 0))
      (treeLanes s.me a m (if k then 0x80000000 else 0x7FFFFFFF))).1 32) s := rfl

theorem vredaddI32_writes : Writes (.vredaddI32 d a m) s d (((List.range 16).foldl (fun n l => n + s.me.laneOr a m 0 l) 0).signExtend 64) := by
  rw [← foldTree_add]
  refine put_tree_writes rfl rfl fun x y => ?_
  rw [BitVec.toNat_add]

theorem vredmin_writes : let x := s.me.laneOr a m 0x7FFFFFFF
    ∃ v : W32, Writes (.vredmin d a m 0) s d (v.signExtend 64) ∧ (∃ l < 16, v = x l) ∧ ∀ l < 16, v.toInt ≤ (x l).toInt :=
  ⟨_, put_tree_writes (idle := 0x7FFFFFFF) rfl (vredPick_i32 false) (pick_toNat false),
    foldTree_picks (le := fun x y : W32 => x.toInt ≤ y.toInt) (fun _ => le_rfl) (fun _ _ _ => le_trans) pickOf_min _⟩

theorem vredmax_writes : let x := s.me.laneOr a m 0x80000000
    ∃ v : W32, Writes (.vredmax d a m 0) s d (v.signExtend 64) ∧ (∃ l < 16, v = x l) ∧ ∀ l < 16, (x l).toInt ≤ v.toInt :=
  ⟨_, put_tree_writes (idle := 0x80000000) rfl (vredPick_i32 true) (pick_toNat true),
    foldTree_picks (le := fun x y : W32 => y.toInt ≤ x.toInt) (fun _ => le_rfl) (fun _ _ _ h h' => le_trans h' h) pickOf_max _⟩

theorem vredaddF32_floats : let r := treeOf (fpOp2 f32 s.me (f32.add s.me.rm s.me.ftz)) fun l => (s.me.laneOr a m 0x80000000 l).toNat
    FloatsS (.vredaddF32 d a m) s d (BitVec.ofNat 64 r.1, r.2) (some (s.me.lanes m.toNat)) (f32.diverges r.1) := by
  rw [← tree16_lanes]
  exact .of_setS rfl rfl

/-- The f32 extremes set flags and raise no FP. -/
theorem vredPick_f32 (k : Bool) {body : State → Eff} (he : exec i s = retire i s body) (hb : body s = vredPick k d a m 1 s) :
    let r := treeOf (fpOp2 f32 s.me (f32.minmax k)) fun l => (s.me.laneOr a m (if k then 0xFF800000 else 0x7F800000) l).toNat
    let hit := s.disputed (some (s.me.lanes m.toNat)) (f32.diverges r.1)
    (hit = none → Does i s (s.me.sBytes d) onlyFpc fun t =>
      t.me.cr_ Cr.fpc = s.me.cr_ Cr.fpc ||| BitVec.ofNat 64 (r.2 * 16) ∧ t.me.s d.toNat = if d = 0 then 0 else BitVec.ofNat 64 r.1) ∧
    ∀ n, hit = some n → Traps i s tSHADOW (BitVec.ofNat 64 n) := by
  have hidle : (if k then 0xFF800000 else 0x7F800000 : W32).toNat = if k then 0xFF800000 else 0x7F800000 := by cases k <;> rfl
  rw [← tree16_lanes, hidle]
  intro r hit
  have hpick : vredPick k d a m 1 s = match hit with
      | some n => .trap tSHADOW (BitVec.ofNat 64 n)
      | none => local_ s fun c => (c.raise r.2).setS d.toNat (BitVec.ofNat 64 r.1) := rfl
  rw [hpick] at hb
  refine ⟨fun hn => ?_, fun n hn => .of_trap he (by rw [hb, hn])⟩
  rw [hn] at hb
  refine Does.of_raise (write := fun c => c.setS d.toNat (BitVec.ofNat 64 r.1)) he hb ?_ fun t ht => ?_
  · rw [← Core.sBytes_raise s.me r.2]
    exact Core.stores_setS _ d _
  · rw [ht.s, Core.s_setS_reg]

end

/-- Settles O24: the elements of a lane-wise operation by `WritesElems.of_valu`, selects and compares by a write of all lanes or of a mask,
the reductions by the tree of R44 (`tree16_lanes`), of which an integer one picks a least or a greatest place (`foldTree_picks`). -/
theorem vectorIntegers : Obligations.VectorIntegers := by
  refine ⟨fun s d a b m t => ?_, fun s d a b m t => ?_, fun s d a m => ?_⟩
  · intro n
    refine ⟨.of_valu rfl fun _ _ _ _ _ => by push_cast; rfl, .of_valu rfl fun _ _ _ _ => sub_elem, .of_valu rfl fun _ _ _ _ _ => by push_cast; rfl,
      .of_valu rfl fun _ _ _ _ _ => by push_cast; rfl, .of_valu rfl fun w x y _ _ => lesser_elem w x y,
      .of_valu rfl fun w x y _ _ => greater_elem w x y, .of_valu rfl fun _ _ _ _ _ => rfl, .of_valu rfl fun _ _ _ _ _ => rfl,
      .of_valu rfl fun _ _ _ _ _ => rfl, .of_valu rfl fun _ _ _ _ _ => by push_cast; rfl, .of_valu rfl fun _ _ _ _ _ => by push_cast; rfl,
      .of_valu rfl fun w x y _ _ => ?_, .of_valu rfl fun w x y _ _ => ?_⟩
    · rw [unsgn_mod, sgn_eq]
    · rw [unsgn_mod, sgn_eq, sgn_eq]
      rfl
  · exact ⟨vsel_writes, valuCmp_writes (r := fun x y => x = y) rfl fun _ _ => beq_iff_eq,
      valuCmp_writes (r := fun x y => x.toInt < y.toInt) rfl fun _ _ => decide_eq_true_iff,
      valuCmp_writes (r := fun x y => x.toInt ≤ y.toInt) rfl fun _ _ => decide_eq_true_iff⟩
  · intro x c tree
    have htree (op : Nat → Nat → Nat × Nat) (idle : W32) : tree op idle = treeOf op fun l => (s.me.laneOr a m idle l).toNat := rfl
    have hsum := vredaddF32_floats (s := s) (d := d) (a := a) (m := m)
    have hpick (k : Bool) {i : Instr} {body : State → Eff} (he : exec i s = retire i s body) (hb : body s = vredPick k d a m 1 s) :=
      vredPick_f32 k he hb
    simp only [← htree] at hsum hpick
    refine ⟨vredaddI32_writes, vredmin_writes, vredmax_writes, hsum, fun k => hpick k ?_ rfl⟩
    cases k
    · rfl
    · rfl

end Sys2Proof.Machine
end

section
/-! SUPPORT. Decode tables: what a load, a preset and a read do (R46, R149 to R151), and the values of the presets (R47). -/
namespace Sys2Proof.Machine
open Sys2Proof

/-! ## A table replaced whole -/

theorem Cluster.entry_setTable (k : Cluster) (t : Nat) (l : List W32) (u j : Nat) :
    (k.setTable t l).entry u j = if u = t then l.getD j 0 else k.entry u j := by
  unfold Cluster.entry Cluster.setTable
  split
  · next h => rw [h, aget_aput_same]
  · next h => rw [aget_aput_other _ _ _ h]

theorem Cluster.mem_tablePoison_setTable (k : Cluster) (t : Nat) (l : List W32) (q : Nat × Nat) :
    q ∈ (k.setTable t l).tablePoison ↔ q ∈ k.tablePoison ∧ q.1 ≠ t := by simp [Cluster.setTable]

/-- An instruction that replaces a table of its cluster (R150). -/
theorem setTable_leaves {i : Instr} {s : State} {body : State → Eff} {t : Nat} {l : List W32} {e : Nat → W32} (he : exec i s = retire i s body)
    (hb : body s = .next (s.updCluster s.cur.cl fun k => k.setTable t l)) (hl : ∀ j < 256, l.getD j 0 = e j) : ∃ k : Cluster,
      (∀ u < 4, ∀ j < 256, k.entry u j = if u = t then e j else s.mine.entry u j) ∧
      (∀ q, q ∈ k.tablePoison ↔ q ∈ s.mine.tablePoison ∧ q.1 ≠ t) ∧
      Leaves i s (s.updCluster s.cur.cl fun c => { c with tables := k.tables, tablePoison := k.tablePoison }) nothing nothing fun _ => True := by
  refine ⟨s.mine.setTable t l, fun u _ j hj => ?_, s.mine.mem_tablePoison_setTable t l, ?_⟩
  · rw [Cluster.entry_setTable, hl j hj]
  · have hme : (s.updCluster s.cur.cl fun k => k.setTable t l).me = s.me := State.me_updCluster ..
    exact Leaves.of_next (u := s.updCluster s.cur.cl fun k => k.setTable t l) he hb (by rw [hme]) (by rw [hme]) trivial

/-! ## Loads of tables (R149) -/

section
variable (s : State) (a : Reg) (t : BitVec 2)

/-- The entries that a load reads. -/
def State.tableAt (s : State) (w : Word) : List W32 := (List.range 256).map fun j => s.me.store.read4 (w.toNat + 4 * j)

/-- What a load makes of words that can be read. -/
def tableEff (w : Word) : Eff :=
  match (List.range 128).find? fun i => s.me.store.poisoned (w.toNat + 8 * i) 8 with
  | some i => .trap tPOISON (w + BitVec.ofNat 64 (8 * i))
  | none => match tableBad (s.tableAt w) with
    | some i => .trap tTABLE (BitVec.ofNat 64 i)
    | none => .next (s.updCluster s.cur.cl fun k => k.setTable t.toNat (s.tableAt w))

theorem exec_tblld : exec (.tblld t a) s = retire (.tblld t a) s fun s => let w := s.me.s a.toNat
    if w.toNat ≥ 0x40000 then .trap tLOCALBOUNDS w
    else if w.toNat % 1024 ≠ 0 then .trap tALIGN w
    else if s.me.arrayRange w.toNat 1024 = false then .trap tBANKPORT w
    else tableEff s t w := rfl

variable {w : Word}

theorem tableEff_poisoned {j : Nat} (hj : j < 128) (h : s.me.store.poisoned (w.toNat + 8 * j) 8 = true)
    (hfirst : ∀ k < j, s.me.store.poisoned (w.toNat + 8 * k) 8 = false) : tableEff s t w = .trap tPOISON (w + BitVec.ofNat 64 (8 * j)) := by
  have hfind : ((List.range 128).find? fun i => s.me.store.poisoned (w.toNat + 8 * i) 8) = some j :=
    List.find?_range_eq_some.mpr ⟨h, List.mem_range.mpr hj, fun k hk => by rw [hfirst k hk]; rfl⟩
  rw [tableEff, hfind]

theorem tableEff_sound (h : ∀ j < 128, s.me.store.poisoned (w.toNat + 8 * j) 8 = false) : tableEff s t w = match tableBad (s.tableAt w) with
    | some i => .trap tTABLE (BitVec.ofNat 64 i)
    | none => .next (s.updCluster s.cur.cl fun k => k.setTable t.toNat (s.tableAt w)) := by
  have hfind : ((List.range 128).find? fun i => s.me.store.poisoned (w.toNat + 8 * i) 8) = none :=
    List.find?_range_eq_none.mpr fun k hk => by rw [h k hk]; rfl
  rw [tableEff, hfind]

end

theorem getD_map_range {f : Nat → W32} {n j : Nat} (h : j < n) : ((List.range n).map f).getD j 0 = f j := by simp [h]

/-! ## Entries of numbers (R45, R47) -/

/-- The fields of an entry of a sign, an exponent and a fraction. -/
theorem entry_fields {x : W32} {neg : Bool} {E M : Nat} (hx : x.toNat = (if neg then 2 ^ 18 else 0) + E * 1024 + M) (hE : E < 256)
    (hM : M < 1024) : enSign x = neg ∧ enE8 x = E ∧ enM10 x = M ∧ enFinite x = true := by
  have hsign : x.toNat / 2 ^ 18 = neg.toNat := by
    rw [hx]
    cases neg <;> simp <;> omega
  have hsmall : x.toNat < 2 ^ 19 := by
    rw [hx]
    cases neg <;> simp <;> omega
  have hbit (n : Nat) (hn : 19 ≤ n) : x.getLsbD n = false :=
    Nat.testBit_lt_two_pow (hsmall.trans_le (Nat.pow_le_pow_right (by decide) hn))
  refine ⟨?_, ?_, ?_, ?_⟩
  · rw [enSign, BitVec.getLsbD, Nat.testBit_eq_decide_div_mod_eq, hsign]
    cases neg <;> rfl
  · rw [enE8, hx]
    split <;> omega
  · rw [enM10, hx]
    split <;> omega
  · rw [enFinite, enNan, enInf, hbit 31 (by decide), hbit 30 (by decide)]
    rfl

/-- The entry of a number of eleven bits at most: its sign, exponent and fraction. -/
theorem entryOf_fields {neg : Bool} {m : Nat} {e : Int} (hm : 0 < m) (hm' : m < 2048) (hlo : 1 ≤ 127 + (m.log2 : Int) + e)
    (hhi : 127 + (m.log2 : Int) + e < 256) : let x := entryOf neg m e
    x.toNat = (if neg then 2 ^ 18 else 0) + (127 + m.log2 + e).toNat * 1024 + (m * 2 ^ (10 - m.log2) - 1024) ∧
      1024 ≤ m * 2 ^ (10 - m.log2) ∧ m * 2 ^ (10 - m.log2) < 2048 := by
  have hlog : m.log2 ≤ 10 := Nat.lt_succ_iff.mp ((Nat.log2_lt hm.ne').mpr hm')
  have hpow : 2 ^ m.log2 * 2 ^ (10 - m.log2) = 1024 := by rw [← pow_add, Nat.add_sub_cancel' hlog]; rfl
  have hdiv : m * 1024 / 2 ^ m.log2 = m * 2 ^ (10 - m.log2) := by
    rw [← hpow, Nat.mul_left_comm, Nat.mul_div_cancel_left _ (Nat.two_pow_pos _)]
  have hge : 2 ^ m.log2 ≤ m := Nat.log2_self_le hm.ne'
  have hlt : m < 2 * 2 ^ m.log2 := by
    have := Nat.lt_log2_self (n := m)
    rwa [Nat.pow_succ, Nat.mul_comm] at this
  have hlower : 1024 ≤ m * 2 ^ (10 - m.log2) := hpow ▸ Nat.mul_le_mul_right _ hge
  have hupper : m * 2 ^ (10 - m.log2) < 2048 := by
    have h := Nat.mul_lt_mul_of_pos_right hlt (Nat.two_pow_pos (10 - m.log2))
    rwa [Nat.mul_assoc, hpow] at h
  refine ⟨?_, hlower, hupper⟩
  rw [entryOf, if_neg hm.ne']
  dsimp only
  rw [hdiv, BitVec.toNat_ofNat]
  refine Nat.mod_eq_of_lt ?_
  split
  · omega
  · omega

/-- The entry of a number is finite and has its value. -/
theorem entryOf_value (neg : Bool) {m : Nat} {e : Int} (hm : m < 2048) (hlo : -126 ≤ e) (hhi : e ≤ 118) :
    entryUnits (entryOf neg m e) = (if neg then -1 else 1) * ((m * 2 ^ (149 + e).toNat : Nat) : Int) ∧ enFinite (entryOf neg m e) = true := by
  obtain rfl | hpos := Nat.eq_zero_or_pos m
  · have hx : (entryOf neg 0 e).toNat = (if neg then 2 ^ 18 else 0) + 0 * 1024 + 0 := by cases neg <;> rfl
    obtain ⟨-, hE, hM, hfin⟩ := entry_fields hx (by decide) (by decide)
    refine ⟨?_, hfin⟩
    simp [entryUnits, hE, hM]
  · have hlog : m.log2 ≤ 10 := Nat.lt_succ_iff.mp ((Nat.log2_lt hpos.ne').mpr hm)
    obtain ⟨hx, hlower, hupper⟩ := entryOf_fields (neg := neg) hpos hm (by omega : 1 ≤ 127 + (m.log2 : Int) + e) (by omega)
    obtain ⟨hsign, hE, hM, hfin⟩ := entry_fields hx (by omega) (by omega)
    refine ⟨?_, hfin⟩
    have hne : (127 + (m.log2 : Int) + e).toNat ≠ 0 := by omega
    have hsum : 10 - m.log2 + (127 + (m.log2 : Int) + e).toNat + 12 = (149 + e).toNat := by omega
    have hunits : (1024 + (m * 2 ^ (10 - m.log2) - 1024)) * 2 ^ (127 + (m.log2 : Int) + e).toNat * 2 ^ 12 = m * 2 ^ (149 + e).toNat := by
      rw [Nat.add_sub_cancel' hlower, ← hsum, pow_add, pow_add]
      ring
    rw [← hunits, entryUnits, hsign, hE, hM, if_neg hne]
    generalize m * 2 ^ (10 - m.log2) - 1024 = M
    generalize (127 + (m.log2 : Int) + e).toNat = E
    cases neg
    · rw [if_neg Bool.false_ne_true, if_neg Bool.false_ne_true]
      push_cast
      ring
    · rw [if_pos rfl, if_pos rfl]
      push_cast
      ring

/-! ## Presets (R47) -/

/-- The sign of a code. -/
def codeSign (c : Nat) : Int := if c < 128 then 1 else -1

theorem codeSign_eq (c : Nat) : (if decide (128 ≤ c) then -1 else 1 : Int) = codeSign c := by
  simp only [codeSign, decide_eq_true_eq, ← not_lt, ite_not]

theorem e4m3_value {c : Nat} (hne : c % 128 ≠ 127) : let x := c % 128
    entryUnits (presetEntry 0 c) = codeSign c * ((if x < 8 then x else (8 + x % 8) * 2 ^ (x / 8 - 1) : Nat) : Int) * 2 ^ 140 ∧
      enFinite (presetEntry 0 c) = true := by
  intro x
  have hexp : c / 8 % 16 = x / 8 := by omega
  have hfrac : c % 8 = x % 8 := by omega
  rw [presetEntry, hexp, hfrac, if_neg (by omega)]
  split
  · next h0 =>
    obtain ⟨hunits, hfin⟩ := entryOf_value (decide (128 ≤ c)) (m := x % 8) (e := -9) (by omega) (by decide) (by decide)
    refine ⟨?_, hfin⟩
    rw [hunits, codeSign_eq, if_pos (by omega), Nat.mod_eq_of_lt (by omega)]
    push_cast
    rw [mul_assoc]
  · next h0 =>
    obtain ⟨hunits, hfin⟩ := entryOf_value (decide (128 ≤ c)) (m := 8 + x % 8) (e := (x / 8 : Nat) - 10) (by omega) (by omega) (by omega)
    have hsum : (149 + ((x / 8 : Nat) - 10 : Int)).toNat = x / 8 - 1 + 140 := by omega
    refine ⟨?_, hfin⟩
    rw [hunits, codeSign_eq, if_neg (by omega), hsum, pow_add]
    push_cast
    ring

theorem e5m2_value {c : Nat} (hne : c % 128 < 124) : let x := c % 128
    entryUnits (presetEntry 1 c) = codeSign c * ((if x < 4 then x else (4 + x % 4) * 2 ^ (x / 4 - 1) : Nat) : Int) * 2 ^ 133 ∧
      enFinite (presetEntry 1 c) = true := by
  intro x
  have hexp : c / 4 % 32 = x / 4 := by omega
  have hfrac : c % 4 = x % 4 := by omega
  rw [presetEntry, hexp, hfrac, if_neg (by omega)]
  split
  · next h0 =>
    obtain ⟨hunits, hfin⟩ := entryOf_value (decide (128 ≤ c)) (m := x % 4) (e := -16) (by omega) (by decide) (by decide)
    refine ⟨?_, hfin⟩
    rw [hunits, codeSign_eq, if_pos (by omega), Nat.mod_eq_of_lt (by omega)]
    push_cast
    rw [mul_assoc]
  · next h0 =>
    obtain ⟨hunits, hfin⟩ := entryOf_value (decide (128 ≤ c)) (m := 4 + x % 4) (e := (x / 4 : Nat) - 17) (by omega) (by omega) (by omega)
    have hsum : (149 + ((x / 4 : Nat) - 17 : Int)).toNat = x / 4 - 1 + 133 := by omega
    refine ⟨?_, hfin⟩
    rw [hunits, codeSign_eq, if_neg (by omega), hsum, pow_add]
    push_cast
    ring

theorem int8_value {c : Nat} (hc : c < 256) :
    entryUnits (presetEntry 2 c) = (BitVec.ofNat 8 c).toInt * 2 ^ 149 ∧ enFinite (presetEntry 2 c) = true := by
  have hint : (BitVec.ofNat 8 c).toInt = if 128 ≤ c then (c : Int) - 256 else c := by
    rw [BitVec.toInt_eq_toNat_cond, BitVec.toNat_ofNat, Nat.mod_eq_of_lt hc]
    split <;> split <;> omega
  rw [hint]
  by_cases h : 128 ≤ c
  · obtain ⟨hunits, hfin⟩ := entryOf_value true (m := 256 - c) (e := 0) (by omega) (by decide) (by decide)
    have hpreset : presetEntry 2 c = entryOf true (256 - c) 0 := by simp [presetEntry, h]
    rw [hpreset, if_pos h, hunits]
    refine ⟨?_, hfin⟩
    rw [show (149 + (0 : Int)).toNat = 149 from rfl, if_pos rfl]
    push_cast [hc.le]
    ring
  · obtain ⟨hunits, hfin⟩ := entryOf_value false (m := c) (e := 0) (by omega) (by decide) (by decide)
    have hpreset : presetEntry 2 c = entryOf false c 0 := by simp [presetEntry, h]
    rw [hpreset, if_neg h, hunits]
    refine ⟨?_, hfin⟩
    rw [show (149 + (0 : Int)).toNat = 149 from rfl, if_neg Bool.false_ne_true]
    push_cast
    ring

/-- Codes of e4m3 and e5m2 that name no number. -/
theorem e4m3_nan {c : Nat} (h : c % 128 = 127) : enNan (presetEntry 0 c) = true := by
  rw [presetEntry, if_pos (by omega)]
  rfl

theorem e5m2_inf {c : Nat} (h : c % 128 = 124) : enInf (presetEntry 1 c) = true ∧ enSign (presetEntry 1 c) = decide (128 ≤ c) := by
  rw [presetEntry, if_pos (by omega), if_pos (by omega)]
  cases decide (128 ≤ c) <;> exact ⟨rfl, rfl⟩

theorem e5m2_nan {c : Nat} (h : 124 < c % 128) : enNan (presetEntry 1 c) = true := by
  rw [presetEntry, if_pos (by omega), if_neg (by omega)]
  rfl

/-! ### The checks of R46 -/

/-- An entry of code i passes its own checks, and its exponent lies in a window of 32. -/
structure EntrySound (lo : Int) (i : Nat) (x : W32) : Prop where
  good : entryBad i x = false
  window : enLive x = true → lo ≤ enExp x ∧ enExp x ≤ lo + 31

/-- The range of exponents with one more. -/
def widened (r : Option (Int × Int)) (x : Int) : Option (Int × Int) :=
  match r with
  | none => some (x, x)
  | some (a, b) => some (min a x, max b x)

theorem expRange_eq (l : List W32) : expRange l = l.foldl (fun r e => if enLive e then widened r (enExp e) else r) none := rfl

theorem widened_within {lo x : Int} {r : Option (Int × Int)} (hr : ∀ p ∈ r, lo ≤ p.1 ∧ p.2 ≤ lo + 31) (hx : lo ≤ x ∧ x ≤ lo + 31) :
    ∀ p ∈ widened r x, lo ≤ p.1 ∧ p.2 ≤ lo + 31 := by
  intro p hp
  cases r with
  | none =>
    obtain rfl := Option.mem_some.mp hp
    exact hx
  | some q =>
    obtain ⟨ha, hb⟩ := hr q rfl
    obtain rfl := Option.mem_some.mp hp
    exact ⟨le_min ha hx.1, max_le hb hx.2⟩

theorem expRange_within {lo : Int} {l : List W32} (h : ∀ x ∈ l, enLive x = true → lo ≤ enExp x ∧ enExp x ≤ lo + 31) :
    ∀ r ∈ expRange l, lo ≤ r.1 ∧ r.2 ≤ lo + 31 := by
  have hfold (q : Option (Int × Int)) (hq : ∀ r ∈ q, lo ≤ r.1 ∧ r.2 ≤ lo + 31) :
      ∀ r ∈ l.foldl (fun r e => if enLive e then widened r (enExp e) else r) q, lo ≤ r.1 ∧ r.2 ≤ lo + 31 := by
    induction l generalizing q with
    | nil => exact hq
    | cons x t ih =>
      refine ih (fun y hy => h y (List.mem_cons_of_mem _ hy)) _ ?_
      dsimp only
      split
      · next hlive => exact widened_within hq (h x List.mem_cons_self hlive)
      · exact hq
  rw [expRange_eq]
  exact hfold none fun r hr => absurd hr (Option.not_mem_none r)

theorem tableBad_of_sound {lo : Int} {g : Nat → W32} (h : ∀ i < 256, EntrySound lo i (g i)) : tableBad ((List.range 256).map g) = none := by
  have hgood : (List.range 256).find? (fun i => entryBad i (((List.range 256).map g).getD i 0)) = none := by
    refine List.find?_eq_none.mpr fun i hi => ?_
    have hi := List.mem_range.mp hi
    rw [getD_map_range hi, (h i hi).good]
    exact Bool.false_ne_true
  have hrange := expRange_within (lo := lo) (l := (List.range 256).map g) fun x hx => by
    obtain ⟨i, hi, rfl⟩ := List.mem_map.mp hx
    exact (h i (List.mem_range.mp hi)).window
  rw [tableBad, hgood]
  dsimp only
  split
  · next a b he =>
    obtain ⟨ha, hb⟩ := hrange (a, b) he
    exact if_neg (by omega)
  · rfl

theorem entryBad_of_small {i : Nat} {x : W32} (hx : x.toNat < 2 ^ 19) (h0 : i = 0 → x = 0 ∨ x = 0x40000#32) : entryBad i x = false := by
  have hbit (n : Nat) (hn : 19 ≤ n) : x.getLsbD n = false :=
    Nat.testBit_lt_two_pow (hx.trans_le (Nat.pow_le_pow_right (by decide) hn))
  have hfirst : (i == 0 && x != 0 && x != 0x40000#32) = false := by
    by_cases hi : i = 0
    · rcases h0 hi with h | h
      · simp [h]
      · simp [h]
    · simp [hi]
  have hhigh : x.toNat / 2 ^ 19 % 2 ^ 11 = 0 := by rw [Nat.div_eq_of_lt hx, Nat.zero_mod]
  simp only [entryBad, hfirst, hhigh, enNan, enInf, hbit 31 (by decide), hbit 30 (by decide)]
  rfl

theorem entryOf_sound {lo : Int} {i k m : Nat} {e : Int} (neg : Bool) (hm : m < 2 ^ k) (hk : k ≤ 11) (hlo : lo ≤ e) (hhi : e + k ≤ lo + 32)
    (hmin : -126 ≤ e) (hmax : e ≤ 118) (h0 : i = 0 → m = 0) : EntrySound lo i (entryOf neg m e) := by
  have hm' : m < 2048 := hm.trans_le (Nat.pow_le_pow_right (by decide) hk)
  obtain rfl | hpos := Nat.eq_zero_or_pos m
  · have hx : (entryOf neg 0 e).toNat = (if neg then 2 ^ 18 else 0) + 0 * 1024 + 0 := by cases neg <;> rfl
    obtain ⟨-, hE, hM, -⟩ := entry_fields hx (by decide) (by decide)
    refine ⟨entryBad_of_small (by rw [hx]; cases neg <;> decide) fun _ => ?_, fun hlive => absurd hlive ?_⟩
    · cases neg
      · exact .inl rfl
      · exact .inr rfl
    · simp [enLive, hE, hM]
  · have hlog : m.log2 < k := (Nat.log2_lt hpos.ne').mpr hm
    obtain ⟨hx, hlower, hupper⟩ := entryOf_fields (neg := neg) hpos hm' (by omega : 1 ≤ 127 + (m.log2 : Int) + e) (by omega)
    obtain ⟨-, hE, -, -⟩ := entry_fields hx (by omega) (by omega)
    refine ⟨entryBad_of_small ?_ fun hi => absurd (h0 hi) hpos.ne', fun _ => ?_⟩
    · rw [hx]
      split
      · omega
      · omega
    · rw [enExp, hE, if_neg (by omega)]
      omega

/-- A NaN or an infinity at another code than 0. -/
theorem special_sound {lo : Int} {i : Nat} {x : W32} (hi : i ≠ 0) (hx : x = 0x80000000#32 ∨ x = 0x40000000#32 ∨ x = 0x40040000#32) :
    EntrySound lo i x := by
  have hdead : enLive x = false := by rcases hx with rfl | rfl | rfl <;> rfl
  refine ⟨?_, fun h => absurd h (by rw [hdead]; exact Bool.false_ne_true)⟩
  have hzero : (i == 0) = false := beq_eq_false_iff_ne.mpr hi
  rw [entryBad, hzero]
  rcases hx with rfl | rfl | rfl <;> rfl

theorem e4m3_sound (i : Nat) : EntrySound (-9) i (presetEntry 0 i) := by
  rw [presetEntry]
  split
  · next h => exact special_sound (by omega) (.inl rfl)
  · split
    · exact entryOf_sound _ (k := 3) (by omega) (by decide) (by decide) (by decide) (by decide) (by decide) (by omega)
    · exact entryOf_sound _ (k := 4) (by omega) (by decide) (by omega) (by omega) (by omega) (by omega) (by omega)

theorem e5m2_sound (i : Nat) : EntrySound (-16) i (presetEntry 1 i) := by
  rw [presetEntry]
  split
  · next h =>
    refine special_sound (by omega) ?_
    split
    · cases decide (128 ≤ i)
      · exact .inr (.inl rfl)
      · exact .inr (.inr rfl)
    · exact .inl rfl
  · split
    · exact entryOf_sound _ (k := 2) (by omega) (by decide) (by decide) (by decide) (by decide) (by decide) (by omega)
    · exact entryOf_sound _ (k := 3) (by omega) (by decide) (by omega) (by omega) (by omega) (by omega) (by omega)

theorem int8_sound {i : Nat} (hi : i < 256) : EntrySound 0 i (presetEntry 2 i) := by
  by_cases h : 128 ≤ i
  · have hpreset : presetEntry 2 i = entryOf true (256 - i) 0 := by simp [presetEntry, h]
    rw [hpreset]
    exact entryOf_sound _ (k := 8) (by omega) (by decide) le_rfl (by decide) (by decide) (by decide) (by omega)
  · have hpreset : presetEntry 2 i = entryOf false i 0 := by simp [presetEntry, h]
    rw [hpreset]
    exact entryOf_sound _ (k := 8) (by omega) (by decide) le_rfl (by decide) (by decide) (by decide) (by omega)

/-- Each preset keeps the checks of R46. -/
theorem preset_sound : ∀ p < 3, tableBad ((List.range 256).map (presetEntry p)) = none := by
  intro p hp
  interval_cases p
  · exact tableBad_of_sound fun i _ => e4m3_sound i
  · exact tableBad_of_sound fun i _ => e5m2_sound i
  · exact tableBad_of_sound fun _ => int8_sound

/-- Settles O30: a load is refused or replaces its table (`tableEff_sound`, `setTable_leaves`), and the presets' entries are those of their
formats' numbers (`entryOf_value`). -/
theorem decodeTables : Obligations.DecodeTables := by
  refine ⟨fun s d a p t => ?_, preset_sound, fun c hc =>
    ⟨e4m3_value, e4m3_nan, e5m2_value, e5m2_inf, e5m2_nan, int8_value hc⟩⟩
  intro w i m l place sets
  have harray (hplace : place) : ¬ w.toNat ≥ 0x40000 ∧ ¬ w.toNat % 1024 ≠ 0 := ⟨not_le.mpr hplace.1, not_not.mpr hplace.2⟩
  refine ⟨fun h => .of_trap (exec_tblld s a t) (if_pos h), fun h h' => .of_trap (exec_tblld s a t) ?_, fun hp h => .of_trap (exec_tblld s a t) ?_,
    fun hp h => ?_, setTable_leaves rfl rfl fun j hj => getD_map_range hj, put_writes rfl rfl⟩
  · exact (if_neg (not_le.mpr h)).trans (if_pos h')
  · exact (if_neg (harray hp).1).trans ((if_neg (harray hp).2).trans (if_pos h))
  · have hbody : (if w.toNat ≥ 0x40000 then Eff.trap tLOCALBOUNDS w else if w.toNat % 1024 ≠ 0 then .trap tALIGN w
        else if s.me.arrayRange w.toNat 1024 = false then .trap tBANKPORT w else tableEff s t w) = tableEff s t w :=
      (if_neg (harray hp).1).trans ((if_neg (harray hp).2).trans (if_neg (by rw [h]; decide)))
    refine ⟨fun j hj hbad hfirst => .of_trap (exec_tblld s a t) (hbody.trans (tableEff_poisoned s t hj hbad hfirst)),
      fun hsound => ⟨fun n (hn : tableBad (s.tableAt w) = _) => ?_, fun (hn : tableBad (s.tableAt w) = _) => ?_⟩⟩
    · exact .of_trap (exec_tblld s a t) (hbody.trans ((tableEff_sound s t hsound).trans (by rw [hn])))
    · exact setTable_leaves (l := s.tableAt w) (exec_tblld s a t) (hbody.trans ((tableEff_sound s t hsound).trans (by rw [hn]))) fun _ _ => rfl

end Sys2Proof.Machine
end

section
/-! SUPPORT. Encoding through a table (R46, R48): the nearest code, and values beyond the table's range. -/
namespace Sys2Proof.Machine
open Sys2Proof

/-! ## The nearest of listed entries -/

/-- Candidate p is at least as good as q for a value: nearer, then of an even significand, then of a lower code. -/
def Beats (x : Int) (p q : Nat × W32) : Prop :=
  let d (r : Nat × W32) : Nat := (entryUnits r.2 - x).natAbs
  d p < d q ∨ d p = d q ∧ (enM10 p.2 % 2 < enM10 q.2 % 2 ∨ enM10 p.2 % 2 = enM10 q.2 % 2 ∧ p.1 ≤ q.1)

section
variable {x : Int} {p q r : Nat × W32}

theorem Beats.refl : Beats x p p := .inr ⟨rfl, .inr ⟨rfl, le_rfl⟩⟩

theorem Beats.trans (h : Beats x p q) (h' : Beats x q r) : Beats x p r := by
  simp only [Beats] at *
  omega

/-- The better of two candidates in the order of their codes beats both. -/
theorem beats_better (h : p.1 ≤ q.1) : (better x p q = p ∧ Beats x p q) ∨ (better x p q = q ∧ Beats x q p) := by
  simp only [better, Beats]
  split
  · exact .inr ⟨rfl, by omega⟩
  · split
    · exact .inl ⟨rfl, by omega⟩
    · split
      · exact .inr ⟨rfl, by omega⟩
      · exact .inl ⟨rfl, by omega⟩

/-- The best of candidates in the order of their codes is one of them and beats them all. -/
theorem beats_foldl {t : List (Nat × W32)} (hp : ∀ q ∈ t, p.1 ≤ q.1) (ht : t.Pairwise fun q r => q.1 ≤ r.1) :
    (t.foldl (better x) p = p ∨ t.foldl (better x) p ∈ t) ∧ Beats x (t.foldl (better x) p) p ∧
      ∀ q ∈ t, Beats x (t.foldl (better x) p) q := by
  induction t generalizing p with
  | nil => exact ⟨.inl rfl, .refl, fun _ h => absurd h List.not_mem_nil⟩
  | cons q t ih =>
    obtain ⟨hq, ht⟩ := List.pairwise_cons.mp ht
    rw [List.foldl_cons]
    obtain ⟨he, hb⟩ | ⟨he, hb⟩ := beats_better (x := x) (hp q List.mem_cons_self)
    · obtain ⟨hmem, hbeats, hall⟩ := ih (p := p) (fun r hr => hp r (List.mem_cons_of_mem _ hr)) ht
      rw [he]
      refine ⟨hmem.imp_right (List.mem_cons_of_mem _), hbeats, fun r hr => ?_⟩
      rcases List.mem_cons.mp hr with rfl | hr
      · exact hbeats.trans hb
      · exact hall r hr
    · obtain ⟨hmem, hbeats, hall⟩ := ih (p := q) hq ht
      rw [he]
      refine ⟨.inr ?_, hbeats.trans hb, fun r hr => ?_⟩
      · rcases hmem with h | h
        · exact List.mem_cons.mpr (.inl h)
        · exact List.mem_cons_of_mem _ h
      · rcases List.mem_cons.mp hr with rfl | hr
        · exact hbeats
        · exact hall r hr

end

/-! ## The nearest code of a table -/

section
variable {l : List W32}

/-- The codes of a table's finite entries. -/
def finiteCodes (l : List W32) : List (Nat × W32) := ((List.range 256).map fun i => (i, l.getD i 0)).filter fun p => enFinite p.2

theorem mem_finiteCodes {p : Nat × W32} : p ∈ finiteCodes l ↔ p.1 < 256 ∧ p.2 = l.getD p.1 0 ∧ enFinite (l.getD p.1 0) = true := by
  obtain ⟨i, e⟩ := p
  simp only [finiteCodes, List.mem_filter, List.mem_map, List.mem_range, Prod.mk.injEq]
  constructor
  · rintro ⟨⟨j, hj, rfl, rfl⟩, hf⟩
    exact ⟨hj, rfl, hf⟩
  · rintro ⟨hi, rfl, hf⟩
    exact ⟨⟨i, hi, rfl, rfl⟩, hf⟩

theorem pairwise_finiteCodes : (finiteCodes l).Pairwise fun p q => p.1 ≤ q.1 :=
  List.Pairwise.filter _ (List.pairwise_map.mpr (List.pairwise_le_range (n := 256)))

/-- The code of the nearest finite entry, of a table that has a finite entry. -/
theorem nearestCode_beats {j : Nat} (hj : j < 256) (hf : enFinite (l.getD j 0) = true) (x : Int) : let c := nearestCode l x
    c < 256 ∧ enFinite (l.getD c 0) = true ∧
      ∀ i < 256, enFinite (l.getD i 0) = true → Beats x (c, l.getD c 0) (i, l.getD i 0) := by
  intro c
  obtain ⟨p, t, hcs⟩ : ∃ p t, finiteCodes l = p :: t :=
    List.exists_cons_of_ne_nil (List.ne_nil_of_mem (mem_finiteCodes (l := l).mpr (show (j, l.getD j 0).1 < 256 ∧ _ from ⟨hj, rfl, hf⟩)))
  have hpair : (p :: t).Pairwise fun p q => p.1 ≤ q.1 := hcs ▸ pairwise_finiteCodes
  have hhead : ∀ q ∈ p :: t, p.1 ≤ q.1 := fun q hq => by
    rcases List.mem_cons.mp hq with rfl | hq
    · exact le_rfl
    · exact (List.pairwise_cons.mp hpair).1 q hq
  obtain ⟨hmem, -, hall⟩ := beats_foldl (x := x) hhead hpair
  have hc : c = ((p :: t).foldl (better x) p).1 := by
    have h : c = ((finiteCodes l).foldl (better x) ((finiteCodes l).headD (0, 0))).1 := rfl
    rw [h, hcs]
    rfl
  have hr : (p :: t).foldl (better x) p ∈ finiteCodes l := by
    rw [hcs]
    exact hmem.elim (fun h => List.mem_cons.mpr (.inl h)) id
  obtain ⟨hlt, he, hfin⟩ := mem_finiteCodes.mp hr
  have heq : (p :: t).foldl (better x) p = (c, l.getD c 0) := Prod.ext hc.symm (hc ▸ he)
  rw [heq] at hall hlt hfin
  exact ⟨hlt, hfin, fun i hi hfi => hall _ (hcs ▸ mem_finiteCodes.mpr ⟨hi, rfl, hfi⟩)⟩

end

/-! ## The range of a table (R46) -/

section
variable {l : List W32}

theorem entryBad_of_tableBad (hbad : tableBad l = none) {i : Nat} (hi : i < 256) : entryBad i (l.getD i 0) = false := by
  unfold tableBad at hbad
  split at hbad
  · exact absurd hbad (by simp)
  · next h => exact Bool.eq_false_of_not_eq_true (List.find?_eq_none.mp h i (List.mem_range.mpr hi))

/-- Entry 0 of a table is a zero (R46). -/
theorem head_zero (hbad : tableBad l = none) : enFinite (l.getD 0 0) = true ∧ entryUnits (l.getD 0 0) = 0 := by
  have hzero : l.getD 0 0 = 0 ∨ l.getD 0 0 = 0x40000#32 := by
    have h := entryBad_of_tableBad hbad (i := 0) (by decide)
    simp only [entryBad, Bool.or_eq_false_iff, Bool.and_eq_false_iff, bne_eq_false_iff_eq, beq_self_eq_true, Bool.true_and] at h
    obtain ⟨⟨⟨⟨h, -⟩, -⟩, -⟩, -⟩ := h
    simpa using h
  rcases hzero with h | h
  · rw [h]
    decide
  · rw [h]
    decide

end

section
variable {r : Int → Int → Prop} {pick : Int → Int → Int} (hrefl : ∀ a, r a a) (htrans : ∀ a b c, r a b → r b c → r a c)
  (hleft : ∀ a b, r (pick a b) a) (hright : ∀ a b, r (pick a b) b) (hpick : ∀ a b, pick a b = a ∨ pick a b = b)
include hrefl htrans hleft hright hpick

/-- The extreme of a list is one of its values or the start, and stands before them all. -/
theorem foldl_extreme (g : W32 → Int) (t : List W32) (a : Int) : let x := t.foldl (fun m e => pick m (g e)) a
    r x a ∧ (∀ e ∈ t, r x (g e)) ∧ (x = a ∨ ∃ e ∈ t, x = g e) := by
  induction t generalizing a with
  | nil => exact ⟨hrefl a, fun _ h => absurd h List.not_mem_nil, .inl rfl⟩
  | cons e t ih =>
    obtain ⟨hle, hall, hmem⟩ := ih (pick a (g e))
    refine ⟨htrans _ _ _ hle (hleft a (g e)), fun y hy => ?_, ?_⟩
    · rcases List.mem_cons.mp hy with rfl | hy
      · exact htrans _ _ _ hle (hright a _)
      · exact hall y hy
    · rcases hmem with h | ⟨y, hy, h⟩
      · exact (hpick a (g e)).imp h.trans fun h' => ⟨e, List.mem_cons_self, h.trans h'⟩
      · exact .inr ⟨y, List.mem_cons_of_mem _ hy, h⟩

end

theorem tableMin_le {l : List W32} {e : W32} (he : e ∈ l) (hf : enFinite e = true) : tableMin l ≤ entryUnits e := by
  obtain ⟨-, hall, -⟩ := foldl_extreme (r := (· ≤ ·)) (pick := min) (fun _ => le_rfl) (fun _ _ _ => le_trans)
    min_le_left min_le_right min_choice entryUnits (l.filter enFinite) (entryUnits (l.headD 0))
  exact hall e (List.mem_filter.mpr ⟨he, hf⟩)

section
variable {l : List W32} (hlen : l.length = 256) (hbad : tableBad l = none)
include hlen hbad

theorem head_mem : l.getD 0 0 ∈ l.filter enFinite ∧ l.headD 0 = l.getD 0 0 := by
  obtain ⟨e, t, rfl⟩ := List.exists_cons_of_ne_nil (l := l) (by rintro rfl; simp at hlen)
  exact ⟨List.mem_filter.mpr ⟨List.mem_cons_self, (head_zero hbad).1⟩, rfl⟩

theorem tableMax_spec : (∀ e ∈ l, enFinite e = true → entryUnits e ≤ tableMax l) ∧
    ∃ e ∈ l, enFinite e = true ∧ entryUnits e = tableMax l := by
  obtain ⟨hhead, heq⟩ := head_mem hlen hbad
  obtain ⟨-, hall, hmem⟩ := foldl_extreme (r := (· ≥ ·)) (pick := max) (fun _ => le_rfl) (fun _ _ _ => ge_trans)
    le_max_left le_max_right max_choice entryUnits (l.filter enFinite) (entryUnits (l.headD 0))
  refine ⟨fun e he hf => hall e (List.mem_filter.mpr ⟨he, hf⟩), ?_⟩
  obtain ⟨e, he, h⟩ : ∃ e ∈ l.filter enFinite, tableMax l = entryUnits e := hmem.elim (fun h => ⟨_, hhead, h.trans (by rw [heq])⟩) id
  exact ⟨e, (List.mem_filter.mp he).1, (List.mem_filter.mp he).2, h.symm⟩

/-! ## Encoding (R48) -/

/-- Within the range of a table a value takes its nearest code. -/
theorem encodeValue_within {nsat n : Bool} {x : W32} {m : Nat} {e : Int} (hx : f32.value x.toNat = .fin n m e)
    (hlo : ∃ y ∈ l, enFinite y = true ∧ entryUnits y ≤ scaled n m e (-149))
    (hhi : ∃ y ∈ l, enFinite y = true ∧ scaled n m e (-149) ≤ entryUnits y) :
    encodeValue l nsat x = (nearestCode l (scaled n m e (-149)), false) := by
  obtain ⟨y, hy, hfy, hle⟩ := hlo
  obtain ⟨z, hz, hfz, hge⟩ := hhi
  have hmax := (tableMax_spec hlen hbad).1 z hz hfz
  have hmin := tableMin_le hy hfy
  simp only [encodeValue, hx]
  rw [if_neg (by omega), if_neg (by omega)]

/-- Beyond it the extreme code is taken, and the value saturates, unless an infinity stands for it. -/
theorem encodeValue_beyond {nsat n : Bool} {x : W32} {m : Nat} {e : Int} (hx : f32.value x.toNat = .fin n m e)
    (hhi : ∀ y ∈ l, enFinite y = true → entryUnits y < scaled n m e (-149))
    (hinf : nsat = false ∨ ∀ y ∈ l, ¬ (enInf y = true ∧ enSign y = false)) :
    encodeValue l nsat x = (nearestCode l (tableMax l), true) := by
  obtain ⟨y, hy, hfy, hmax⟩ := (tableMax_spec hlen hbad).2
  have hpos : 0 < scaled n m e (-149) := by
    have h := hhi _ (List.mem_filter.mp (head_mem hlen hbad).1).1 (head_zero hbad).1
    rwa [(head_zero hbad).2] at h
  have hn : n = false := by
    cases n with
    | false => rfl
    | true => exact absurd hpos (by simp [scaled])
  subst hn
  have hnone : (if nsat then lowestCode l fun e => enInf e && enSign e == false else none) = none := by
    split
    · next h =>
      refine List.find?_eq_none.mpr fun i hi hbeq => ?_
      have hi : i < l.length := hlen ▸ List.mem_range.mp hi
      rw [List.getD_eq_getElem _ _ hi, Bool.and_eq_true, beq_iff_eq] at hbeq
      exact hinf.elim (fun h' => by simp [h'] at h) fun h' => h' _ (List.getElem_mem hi) hbeq
    · rfl
  simp only [encodeValue, hx]
  rw [if_pos (hmax ▸ hhi y hy hfy), hnone]

theorem nearestCode_tableMax {j : Nat} (hj : j < 256) (hf : enFinite (l.getD j 0) = true) :
    entryUnits (l.getD j 0) ≤ entryUnits (l.getD (nearestCode l (tableMax l)) 0) := by
  have hmem {i : Nat} (hi : i < 256) : l.getD i 0 ∈ l := by
    rw [List.getD_eq_getElem _ _ (hlen ▸ hi)]
    exact List.getElem_mem _
  obtain ⟨hall, y, hy, hfy, hmax⟩ := tableMax_spec hlen hbad
  obtain ⟨i, hi, rfl⟩ := List.getElem_of_mem hy
  rw [← List.getD_eq_getElem _ 0 hi] at hfy hmax
  obtain ⟨-, -, hbeats⟩ := nearestCode_beats hj hf (tableMax l)
  have hnear := hbeats i (hlen ▸ hi) hfy
  have := hall _ (hmem hj) hf
  simp only [Beats, hmax] at hnear
  omega

end

end Sys2Proof.Machine
end

section
/-! SUPPORT. Instructions with census counts, table-decoded elements and MX blocks (R55, R147, R148, R319). -/
namespace Sys2Proof.Machine
open Sys2Proof

/-! ## Census counts (R342) -/

theorem State.census_eq (s : State) (cl : Nat) (site : Word) (k : Counts) : s.census cl site k =
    if bit s.feat0 7 then s.updCluster cl fun c => { c with census := censusAdd c.census site k } else s := rfl

theorem State.me_census (s : State) (cl : Nat) (site : Word) (k : Counts) : (s.census cl site k).me = s.me := by
  rw [State.census_eq]
  split
  · exact State.core_updCluster_kept s cl (f := fun c => { c with census := censusAdd c.census site k }) (fun _ _ => rfl) s.cur
  · rfl

/-- A change of a cluster alone, the same on clusters that differ in their group's progress alone. -/
theorem OnlyMine.updCluster {s t : State} (h : OnlyMine s t) (n : Nat) {f : Cluster → Cluster}
    (hf : ∀ k l : Cluster, l.fixed = k.fixed → (f l).fixed = (f k).fixed) (hc : ∀ k j, (f k).core j = k.core j) :
    OnlyMine (s.updCluster n f) (t.updCluster n f) := by
  obtain ⟨houter, hfixed, hcores⟩ := h
  refine ⟨houter, fun k => ?_, fun q hq => ?_⟩
  · by_cases hk : k = n
    · subst hk
      rw [State.cluster_updCluster, State.cluster_updCluster, hf _ _ (hfixed k)]
    · rw [State.cluster_updCluster_other _ _ hk, State.cluster_updCluster_other _ _ hk, hfixed]
  · rw [State.core_updCluster_kept _ _ hc, State.core_updCluster_kept _ _ hc, hcores q hq]

theorem OnlyMine.census {s t : State} (h : OnlyMine s t) (cl : Nat) (site : Word) (n : Counts) :
    OnlyMine (s.census cl site n) (t.census cl site n) := by
  have hfeat : t.feat0 = s.feat0 := by
    have x := congrArg State.feat0 h.1
    exact x
  rw [State.census_eq, State.census_eq, hfeat]
  split
  · refine h.updCluster cl (fun k l hkl => ?_) fun _ _ => rfl
    have hcensus : l.census = k.census := by
      have x := congrArg Cluster.census hkl
      exact x
    exact congrArg₂ (fun (c : Cluster) x => { c with census := censusAdd x site n }) hkl hcensus
  · exact h

section
variable {i : Instr} {s : State} {body : State → Eff} {write : Core → Core} {b : Nat → Prop} {p : State → Prop} {site : Word} {k : Counts}

theorem State.disputed_of_no_hit {units : Option (List Nat)} {div : Shadow → Bool} (h : s.shadowHit = none) : s.disputed units div = none := by
  simp only [State.disputed, h]

theorem fpEff_plain {units : Option (List Nat)} {div : Shadow → Bool} (h : s.shadowHit = none) :
    fpEff s 0 units div write = local_ s fun c => write (c.raise 0) :=
  fpEff_completes (Nat.zero_and _) (State.disputed_of_no_hit h)

/-- A write of registers with census counts at the instruction's own address. -/
theorem Leaves.of_census (he : exec i s = retire i s body)
    (hb : body s = .next ((s.upd fun c => write (c.raise 0)).census s.cur.cl site k))
    (hw : (s.me.raise 0).Stores (write (s.me.raise 0)) b) (hp : ∀ t : State, (write (s.me.raise 0)).SameHeld t.me → p t) :
    Leaves i s (s.census s.cur.cl site k) b onlyFpc fun t => t.me.cr_ Cr.fpc = s.me.cr_ Cr.fpc ∧ p t := by
  have hme : ((s.upd fun c => write (c.raise 0)).census s.cur.cl site k).me = write (s.me.raise 0) := by rw [State.me_census, State.me_upd]
  refine Leaves.of_effect he hb ((s.onlyMine_upd _).census _ _ _) ?_ ?_ ?_ fun t hs hcr => ?_
  · rw [hme, State.me_census]
    exact (s.me.keeps_raise 0 b).trans (hw.keeps _)
  · rw [hme, hw.pc]
    rfl
  · rw [hme, hw.inRep, Core.inRep_raise]
  · rw [hme] at hs
    simp only [hme] at hcr
    refine ⟨?_, hp t ⟨hs, hcr⟩⟩
    rw [hcr _ (by decide), hw.cr, Core.cr_raise]
    exact BitVec.or_zero

end

/-! ## The lowest active lane that meets a test -/

theorem Core.find?_lanes (c : Core) (m : BitVec 3) {p : Nat → Bool} {l : Nat} (hl : l ∈ c.lanes m.toNat) (hp : p l = true)
    (hfirst : ∀ j ∈ c.lanes m.toNat, j < l → p j = false) : (c.lanes m.toNat).find? p = some l := by
  obtain ⟨hlt, hin⟩ := List.mem_filter.mp hl
  rw [Core.lanes, List.find?_filter]
  refine List.find?_range_eq_some.mpr ⟨by simp [hin, hp], hlt, fun j hj => ?_⟩
  by_cases hact : c.active m.toNat j
  · have hfree := hfirst j (List.mem_filter.mpr ⟨List.mem_range.mpr (hj.trans (List.mem_range.mp hlt)), hact⟩) hj
    simp [hfree]
  · simp [hact]

/-! ## Table-decoded elements (R147, R319) -/

section
variable (s : State) (d a n : Reg) (m : BitVec 3) (t : BitVec 2)

/-- The index that a lane's byte gives. -/
def State.byteAt (s : State) (a n : Reg) (l : Nat) : Nat := (s.me.v a.toNat l).toNat / 2 ^ (8 * n.toNat) % 256

/-- The code of a lane and whether it saturated. -/
def State.codeOf (s : State) (a : Reg) (t : BitVec 2) (l : Nat) : Nat × Bool :=
  encodeValue (s.mine.table t.toNat) s.me.nsat (s.me.v a.toNat l)

theorem exec_vdec : exec (.vdec d a n m t) s = retire (.vdec d a n m t) s fun s =>
    match ((s.me.lanes m.toNat).map (s.byteAt a n)).find? fun j => s.mine.tablePoison.contains (t.toNat, j) with
    | some j => .trap tPOISON (BitVec.ofNat 64 j)
    | none => vecFp s d m (laneDiverges 0) fun c l => decodeEntry c.ftz (s.mine.entry t.toNat (s.byteAt a n l)) := rfl

theorem vdec_sound (h : ∀ l ∈ s.me.lanes m.toNat, (t.toNat, s.byteAt a n l) ∉ s.mine.tablePoison) :
    FloatsV (.vdec d a n m t) s d m (laneDiverges 0) fun l => decodeEntry s.me.ftz (s.mine.entry t.toNat (s.byteAt a n l)) := by
  have hnone : ((s.me.lanes m.toNat).map (s.byteAt a n)).find? (fun j => s.mine.tablePoison.contains (t.toNat, j)) = none := by
    simpa using h
  exact .of_vecFp (exec_vdec s d a n m t) (by simp only [hnone]; rfl) fun _ => rfl

theorem vdec_poisoned {l : Nat} (hl : l ∈ s.me.lanes m.toNat) (hbad : (t.toNat, s.byteAt a n l) ∈ s.mine.tablePoison)
    (hfirst : ∀ j ∈ s.me.lanes m.toNat, j < l → (t.toNat, s.byteAt a n j) ∉ s.mine.tablePoison) :
    Traps (.vdec d a n m t) s tPOISON (BitVec.ofNat 64 (s.byteAt a n l)) := by
  have hsome : ((s.me.lanes m.toNat).map (s.byteAt a n)).find? (fun j => s.mine.tablePoison.contains (t.toNat, j)) = some (s.byteAt a n l) := by
    rw [List.find?_map, Option.map_eq_some_iff]
    exact ⟨l, s.me.find?_lanes m hl (by simpa using hbad) fun j hj hlt => by simpa using hfirst j hj hlt, rfl⟩
  exact .of_trap (exec_vdec s d a n m t) (by simp only [hsome])

theorem venc_poisoned (hl : s.me.lanes m.toNat ≠ []) (hbad : ∃ p ∈ s.mine.tablePoison, p.1 = t.toNat) :
    ∃ j, (t.toNat, j) ∈ s.mine.tablePoison ∧ Traps (.venc d a n m t) s tPOISON (BitVec.ofNat 64 j) := by
  obtain ⟨p, hp⟩ : ∃ p, s.mine.tablePoison.find? (fun p => p.1 == t.toNat) = some p := by
    rw [← Option.isSome_iff_exists, List.find?_isSome]
    simpa using hbad
  have ht : p.1 = t.toNat := by simpa using List.find?_some hp
  exact ⟨p.2, ht ▸ List.mem_of_find?_eq_some hp, .of_trap rfl (by simp only [if_neg hl, hp])⟩

/-- A lane of `venc`: a code in one byte, and the rest kept. -/
def State.encoded (s : State) (d a n : Reg) (t : BitVec 2) (l : Nat) : W32 :=
  BitVec.ofNat 32 ((s.me.v d.toNat l).toNat - s.byteAt d n l * 2 ^ (8 * n.toNat) + (s.codeOf a t l).1 * 2 ^ (8 * n.toNat))

theorem venc_sound (h : s.me.lanes m.toNat = [] ∨ ∀ p ∈ s.mine.tablePoison, p.1 ≠ t.toNat) (hshadow : s.shadowHit = none) :
    Leaves (.venc d a n m t) s (s.census s.cur.cl s.me.instrAddr ⟨0, 0, (s.me.lanes m.toNat).countP fun l => (s.codeOf a t l).2, 0⟩)
      (s.me.vBytes d) onlyFpc fun u => u.me.cr_ Cr.fpc = s.me.cr_ Cr.fpc ∧ LanesAre s u d m (s.encoded d a n t) := by
  have hnone : (if s.me.lanes m.toNat = [] then none else s.mine.tablePoison.find? fun p => p.1 == t.toNat) = none := by
    split
    · rfl
    · next hne =>
      have := h.resolve_left hne
      simpa using this
  refine Leaves.of_census (write := fun c => c.writeV d.toNat ((s.me.lanes m.toNat).map fun l => (l, s.encoded d a n t l))) rfl ?_ ?_ fun u hu => ?_
  · simp only [hnone, fpEff_plain hshadow, List.map_map, List.countP_eq_length_filter, List.filter_map, List.length_map]
    rfl
  · rw [← Core.vBytes_raise s.me 0]
    exact Core.stores_writeLanes _ _ (s.me.lanes_lt m)
  · exact .of_writeV (fun l => hu.v _ l) fun l => Core.v_raise _ _ _ l

end

/-! ## MX blocks (R55, R148) -/

section
variable (s : State) (d a b : Reg) (h : BitVec 1)

/-- A lane of packed bytes. -/
def byteLane (q : List Byte) (l : Nat) : W32 := BitVec.ofNat 32 (packed 8 (fun j => (q.getD (4 * l + j) 0).toNat) 4)

theorem elemAt_byteLane (q : List Byte) (l : Nat) {j : Nat} (hj : j < 4) : elemAt 8 (byteLane q l) j = (q.getD (4 * l + j) 0).toNat :=
  elemAt_packed (fun _ => BitVec.isLt _) rfl hj

/-- The quantised block of two registers. -/
def State.mxBlock (s : State) (a : Reg) : Nat × List Byte × Nat := quantise (s.me.vec a.toNat ++ s.me.vec (a.toNat + 1))

/-- Half a register of bytes. -/
def halfLanes (q : List Byte) (o : Nat) : List (Nat × W32) := (List.range 8).map fun l => (o + l, byteLane q l)

theorem halfLanes_eq (q : List Byte) (o : Nat) :
    halfLanes q o = ((List.range 8).map (o + ·)).map fun l => (l, byteLane q (l - o)) := by
  simp only [halfLanes, List.map_map, Function.comp_def, Nat.add_sub_cancel_left]

theorem vqmx_leaves (hshadow : s.shadowHit = none) : let q := s.mxBlock a; let o := 8 * h.toNat
    Leaves (.vqmx d a b h) s (s.census s.cur.cl s.me.instrAddr ⟨0, 0, q.2.2, 0⟩) (fun x => s.me.vBytes d x ∨ s.me.sBytes b x) onlyFpc fun t =>
      t.me.cr_ Cr.fpc = s.me.cr_ Cr.fpc ∧ t.me.s b.toNat = (if b = 0 then 0 else BitVec.ofNat 64 q.1) ∧
      ∀ l < 16, if o ≤ l ∧ l < o + 8 then ∀ j < 4, elemAt 8 (t.me.v d.toNat l) j = (q.2.1.getD (4 * (l - o) + j) 0).toNat
        else t.me.v d.toNat l = s.me.v d.toNat l := by
  intro q o
  have hlanes : ∀ l ∈ (List.range 8).map (o + ·), l < 16 := fun l hl => by
    obtain ⟨k, hk, rfl⟩ := List.mem_map.mp hl
    have := List.mem_range.mp hk
    have := h.isLt
    omega
  have hv := Core.stores_writeLanes (d := d) (s.me.raise 0) (fun l => byteLane q.2.1 (l - o)) hlanes
  rw [← halfLanes_eq] at hv
  have hs := Core.stores_setS ((s.me.raise 0).writeV d.toNat (halfLanes q.2.1 o)) b (BitVec.ofNat 64 q.1)
  have hb : ((s.me.raise 0).writeV d.toNat (halfLanes q.2.1 o)).sBytes b = s.me.sBytes b := by
    funext x
    simp only [Core.sBytes, sAddr, hv.wp, Core.wp_raise]
  refine Leaves.of_census (write := fun c => (c.writeV d.toNat (halfLanes q.2.1 o)).setS b.toNat (BitVec.ofNat 64 q.1)) rfl ?_ ?_ fun u hu => ?_
  · simp only [fpEff_plain hshadow]
    rfl
  · rw [Core.vBytes_raise] at hv
    rw [hb] at hs
    exact (hv.mono fun _ => .inl).trans (hs.mono fun _ => .inr)
  · refine ⟨by rw [hu.s, Core.s_setS_reg], fun l hl => ?_⟩
    have hkept : u.me.v d.toNat l = ((s.me.raise 0).writeV d.toNat (halfLanes q.2.1 o)).v d.toNat l := by
      rw [hu.v, hs.v fun x hx hbx => ?_]
      rw [hb] at hbx
      obtain ⟨-, -, hlt⟩ := hbx
      simp only [span, vAddr, hv.wp, Core.wp_raise] at hx
      simp only [sAddr] at hlt
      have := b.isLt
      omega
    rw [hkept, halfLanes_eq, Core.v_writeV, Core.v_raise]
    have hmem : l ∈ (List.range 8).map (o + ·) ↔ o ≤ l ∧ l < o + 8 := by
      simp only [List.mem_map, List.mem_range]
      exact ⟨fun ⟨k, hk, e⟩ => by omega, fun hlo => ⟨l - o, by omega, by omega⟩⟩
    split
    · next hin =>
      rw [if_pos (hmem.mpr hin)]
      exact fun j hj => elemAt_byteLane _ _ hj
    · next hout => rw [if_neg (mt hmem.mp hout)]

/-- A lane of a decoded block. -/
def State.unquant (s : State) (a b : Reg) (o j : Nat) : W32 :=
  dequantElem ((s.me.s b.toNat).toNat % 256) (BitVec.ofNat 8 ((s.me.v a.toNat (o + j / 4)).toNat / 2 ^ (8 * (j % 4))))

/-- Register j takes sixteen elements of a decoded block. -/
def Core.writeRow (c : Core) (j : Nat) (g : Nat → W32) : Core := c.writeV j ((List.range 16).map fun l => (l, g l))

theorem Core.stores_writeRow (c : Core) (j : Nat) (g : Nat → W32) :
    c.Stores (c.writeRow j g) fun x => vAddr c j ≤ x ∧ x < vAddr c j + 64 := by
  refine (c.stores_writeV j _).mono fun x ⟨l, hl, hx⟩ => ?_
  have hl : l < 16 := by simpa using hl
  simp only [span] at hx
  omega

theorem Core.v_writeRow (c : Core) (j : Nat) (g : Nat → W32) {l : Nat} (hl : l < 16) : (c.writeRow j g).v j l = g l := by
  rw [Core.writeRow, Core.v_writeV, if_pos (List.mem_range.mpr hl)]

theorem Core.v_writeRow_other (c : Core) {j k : Nat} (g : Nat → W32) {l : Nat} (hl : l < 16) (hjk : k ≠ j) :
    (c.writeRow j g).v k l = c.v k l := by
  refine (c.stores_writeRow j g).v fun x hx hb => ?_
  simp only [span, vAddr] at hx hb
  omega

theorem vdqmx_does (hshadow : s.shadowHit = none) : let e := s.unquant a b (8 * h.toNat)
    Does (.vdqmx d a b h) s (fun x => s.me.vBytes d x ∨ (vAddr s.me (d.toNat + 1) ≤ x ∧ x < vAddr s.me (d.toNat + 1) + 64)) onlyFpc fun t =>
      t.me.cr_ Cr.fpc = s.me.cr_ Cr.fpc ∧ ∀ l < 16, t.me.v d.toNat l = e l ∧ t.me.v (d.toNat + 1) l = e (16 + l) := by
  intro e
  have h0 := (s.me.raise 0).stores_writeRow d.toNat fun l => e (0 + l)
  have h1 := ((s.me.raise 0).writeRow d.toNat fun l => e (0 + l)).stores_writeRow (d.toNat + 1) fun l => e (16 + l)
  simp only [vAddr, h0.wp, Core.wp_raise] at h0 h1
  refine (Does.of_raise (fl := 0)
    (write := fun c => (c.writeRow d.toNat fun l => e (0 + l)).writeRow (d.toNat + 1) fun l => e (16 + l))
    (p := fun t => ∀ l < 16, t.me.v d.toNat l = e l ∧ t.me.v (d.toNat + 1) l = e (16 + l))
    rfl (fpEff_plain hshadow) ((h0.mono fun _ => .inl).trans (h1.mono fun _ => .inr)) fun t ht l hl =>
      ⟨?_, ?_⟩).mono fun t ⟨hfpc, ht⟩ => ⟨?_, ht⟩
  · rw [ht.v, Core.v_writeRow_other _ _ hl (by omega), Core.v_writeRow _ _ _ hl, Nat.zero_add]
  · rw [ht.v, Core.v_writeRow _ _ _ hl]
  · rw [hfpc]
    exact BitVec.or_zero

end

/-! ## The obligation -/

/-- The nearest code, with its ties (R48). -/
theorem nearestCode_spec {l : List W32} (hbad : tableBad l = none) (u : Int) : let c := nearestCode l u
    let far (j : Nat) : Nat := (entryUnits (l.getD j 0) - u).natAbs
    c < 256 ∧ enFinite (l.getD c 0) = true ∧ ∀ j < 256, enFinite (l.getD j 0) = true → far c ≤ far j ∧
      (far j = far c → (enM10 (l.getD c 0) % 2 = 0 ∨ enM10 (l.getD j 0) % 2 = 1) ∧
        (j < c → enM10 (l.getD c 0) % 2 = 0 ∧ enM10 (l.getD j 0) % 2 = 1)) := by
  intro c far
  obtain ⟨hlt, hfin, hall⟩ := nearestCode_beats (j := 0) (by decide) (head_zero hbad).1 u
  refine ⟨hlt, hfin, fun j hj hf => ?_⟩
  have hb := hall j hj hf
  simp only [Beats] at hb
  simp only [far, c]
  omega

/-- Settles O29: `vdec` and `venc` by the first poisoned entry or none (`vdec_sound`, `venc_sound`), encoding by the order of the candidate codes
(`nearestCode_spec`), and the MX blocks by the packing of their bytes (`vqmx_leaves`, `vdqmx_does`). -/
theorem tableAndBlockFormats : Obligations.TableAndBlockFormats := by
  refine ⟨fun s d a n m t => ⟨vdec_sound s d a n m t, fun l hl hbad hfirst => vdec_poisoned s d a n m t hl hbad hfirst,
    venc_poisoned s d a n m t, venc_sound s d a n m t⟩, fun l nsat x n m e hlen hbad hx => ?_,
    fun s d a b h hshadow => ⟨vqmx_leaves s d a b h hshadow, vdqmx_does s d a b h hshadow⟩⟩
  intro u r far
  refine ⟨fun hlo hhi => ?_, fun hhi hinf => ?_⟩
  · have hr : r = (nearestCode l u, false) := encodeValue_within hlen hbad hx hlo hhi
    rw [hr]
    exact ⟨rfl, nearestCode_spec hbad u⟩
  · have hr : r = (nearestCode l (tableMax l), true) := encodeValue_beyond hlen hbad hx hhi hinf
    rw [hr]
    exact ⟨rfl, fun j hj hf => nearestCode_tableMax hlen hbad hj hf⟩

end Sys2Proof.Machine
end

section
/-! SUPPORT. Vector accesses to the own store (R105, R138, R139): what plain memory and a port answer, and whole accesses. -/
namespace Sys2Proof.Machine
open Sys2Proof

/-! ## An access that is no release -/

section
variable {s : State} {i : Instr} {k : Ask} {o : Nat}

theorem attempt_own (hplace : placeOf k.addr = .ok (.own o)) (halign : k.addr.toNat % k.op.size = 0) (hin : o + k.op.size ≤ 0x40000)
    (hrel : k.releases = false) : attempt s i k = ownAccess s k o := by
  have hpast : ¬ (0x40000 ≤ o ∧ 0x40020 < o + k.op.size) := by omega
  simp [attempt, hplace, halign, hpast, hrel]

/-- The state after an access to the own store that has been performed. -/
def State.ownDone (s : State) (k : Ask) (o : Nat) (c : Core) : State :=
  (s.upd fun _ => c.accessed k.op.isAmo s.me.tm).updCluster s.cur.cl fun q =>
    if k.op.isLoad then q else q.ownStore s.cur.core s.cur.core o

theorem State.me_ownDone (c : Core) : (s.ownDone k o c).me = c.accessed k.op.isAmo s.me.tm := by
  have hkeep (q : Cluster) (j : Nat) : (if k.op.isLoad then q else q.ownStore s.cur.core s.cur.core o).core j = q.core j := by
    split
    · rfl
    · rw [Cluster.core_ownStore]
  exact (State.core_updCluster_kept _ _ hkeep _).trans (State.me_upd s _)

theorem State.onlyMine_ownDone (c : Core) : OnlyMine s (s.ownDone k o c) := by
  refine (s.onlyMine_upd _).trans (SameData.of_updCluster _ _ _ ?_).onlyMine
  split
  · exact .refl _
  · exact Cluster.alike_ownStore ..

/-- No vector access but a keyed one may be at a port (R138, R142). -/
def Ask.unported (k : Ask) (s : State) (o : Nat) : Prop :=
  (∀ f p, s.me.hit o k.op.size ≠ .port f p) ∨ ∃ st mask keys data, k.op = .keyed st mask keys data

theorem ownAccess_unported (hk : k.unported s o) : ownAccess s k o =
    if o < 0x40000 && waitsAt s.me o k.op.size k.key (s.ownAnswer k o).1 then .again .port
    else match (s.ownAnswer k o).1 with
      | .trap e v => .fault e v
      | x => .done ((s.upd fun _ => (s.ownAnswer k o).2.accessed k.op.isAmo s.me.tm).updCluster s.cur.cl fun q =>
          if k.op.isLoad then q else q.ownStore s.cur.core s.cur.core o) x := by
  unfold ownAccess
  dsimp only
  rw [if_neg]
  · rfl
  · rcases hk with hk | ⟨st, mask, keys, data, hk⟩
    · cases hh : s.me.hit o k.op.size with
      | port f p => exact absurd hh (hk f p)
      | _ => simp
    · simp [hk]

theorem ownAccess_trap (hk : k.unported s o) {e : Nat} {v : Word} {c : Core} (hr : s.ownAnswer k o = (.trap e v, c)) :
    ownAccess s k o = .fault e v := by
  have hwait : waitsAt s.me o k.op.size k.key (.trap e v) = false := by
    unfold waitsAt
    split
    · next h => exact absurd h (by simp)
    · rfl
  simp only [ownAccess_unported hk, hr, hwait, Bool.and_false, Bool.false_eq_true, if_false]

theorem ownAccess_done (hk : k.unported s o) {r : Resp} {c : Core} (hr : s.ownAnswer k o = (r, c)) (hdone : ∀ e v, r ≠ .trap e v)
    (hwait : waitsAt s.me o k.op.size k.key r = false) : ownAccess s k o = .done (s.ownDone k o c) r := by
  simp only [ownAccess_unported hk, hr, hwait, Bool.and_false, Bool.false_eq_true, if_false]
  cases r with
  | trap e v => exact absurd rfl (hdone e v)
  | _ => rfl

/-! ## Plain memory -/

section
variable (h : OwnPlain s k.addr k.op.size) (hn : 0 < k.op.size) (hrel : k.releases = false)
include h

theorem OwnPlain.unported : k.unported s k.addr.toNat := .inl fun f p hp => by
  rw [h.2.2] at hp
  exact Hit.noConfusion hp

include hn hrel

theorem OwnPlain.attempt_eq : attempt s i k = ownAccess s k k.addr.toNat :=
  attempt_own (placeOf_own (by have := h.1; omega)) h.2.1 h.1 hrel

theorem OwnPlain.attempt_trap {m : Memory} {e : Nat} {v : Word} (hr : memAccess s.me.store k.op k.addr.toNat k.addr = (.trap e v, m)) :
    attempt s i k = .fault e v := by rw [h.attempt_eq hn hrel, ownAccess_trap h.unported (h.answer hn hr)]

theorem OwnPlain.attempt_done {m : Memory} {r : Resp} (hr : memAccess s.me.store k.op k.addr.toNat k.addr = (r, m))
    (hdone : ∀ e v, r ≠ .trap e v) : attempt s i k = .done (s.ownDone k k.addr.toNat { s.me with store := m }) r := by
  rw [h.attempt_eq hn hrel, ownAccess_done h.unported (h.answer hn hr) hdone]
  simp only [waitsAt, h.2.2]

end

theorem ownAnswer_refused (hin : o + k.op.size ≤ 0x40000) (hn : 0 < k.op.size) (hhit : s.me.hit o k.op.size = .refused) :
    s.ownAnswer k o = (.trap tBANKPORT (k.op.first k.addr), s.me) := by
  unfold State.ownAnswer storeAccess
  rw [if_neg (by omega), if_neg (by omega), hhit]

/-- A vector access to a port, or to a structured bank beside its ports (R62, R138). -/
theorem attempt_refused (hin : k.addr.toNat + k.op.size ≤ 0x40000) (hn : 0 < k.op.size) (halign : k.addr.toNat % k.op.size = 0)
    (hrel : k.releases = false) (hlane : k.lane ≠ 16) (hkeyed : ∀ st mask keys data, k.op ≠ .keyed st mask keys data)
    (hhit : s.me.hit k.addr.toNat k.op.size ≠ .plain) : attempt s i k = .fault tBANKPORT (k.op.first k.addr) := by
  have hlt : k.addr.toNat < 0x40000 := by omega
  rw [attempt_own (placeOf_own (by omega)) halign hin hrel]
  cases hh : s.me.hit k.addr.toNat k.op.size with
  | plain => exact absurd hh hhit
  | port f p =>
    unfold ownAccess
    dsimp only
    rw [if_pos]
    cases hop : k.op with
    | keyed => exact absurd hop (hkeyed _ _ _ _)
    | _ => simp [← hop, hh, hlane, hlt]
  | refused => exact ownAccess_trap (.inl fun f p hp => by rw [hh] at hp; exact Hit.noConfusion hp) (ownAnswer_refused hin hn hh)

/-- Outside every window, and misaligned, an access raises its trap with its address (R31, R105). -/
theorem RefusesBad.of_attempt {body : State → Eff} {a : Word} {n : Nat} (he : exec i s = retire i s body)
    (hb : ∀ e, attempt s i k = .fault e k.addr → body s = .trap e k.addr) (ha : k.addr = a) (hn : k.op.size = n) : RefusesBad i s a n := by
  subst ha hn
  have hnowhere {e : Nat} (h : placeOf k.addr = .error e) : Traps i s e k.addr := .of_trap he (hb _ (attempt_of_no_place s i h))
  refine ⟨fun hown hlo hwin => hnowhere (placeOf_past hown hlo hwin), fun hmesh hbad => hnowhere (placeOf_no_core hmesh hbad),
    fun hhigh hva => hnowhere (placeOf_untranslated hhigh hva), fun hplace halign => .of_trap he (hb _ ?_)⟩
  rcases hplace with h | ⟨hlo, hhi⟩ | ⟨hhigh, hva⟩
  · simp [attempt, placeOf_own h, halign]
  · simp [attempt, placeOf_window hlo hhi, halign]
  · simp [attempt, placeOf_global hhigh hva, halign]

end

/-! ## Words written lane by lane (R138) -/

section
variable {a : Nat} {g : Nat → W32}

theorem Memory.read4_writeLE (m : Memory) (a : Nat) (x : W32) : (m.writeLE a 4 x.toNat).read4 a = x := by
  have h := Memory.read4_store m (a := a) x
  rwa [Memory.store, if_neg (by decide)] at h

theorem Memory.read4_writeLE_other (m : Memory) {a b : Nat} (v : Nat) (h : b + 4 ≤ a ∨ a + 4 ≤ b) : (m.writeLE a 4 v).read4 b = m.read4 b := by
  have hst := Memory.read4_store_other m (a := a) (b := b) 4 v h
  rwa [Memory.store, if_neg (by decide)] at hst

/-- Consecutive words written from a function take its values. -/
theorem Memory.read4_writeLanes (L : List Nat) (m : Memory) (l : Nat) :
    (L.foldl (fun (m : Memory) k => m.writeLE (a + 4 * k) 4 (g k).toNat) m).read4 (a + 4 * l) = if l ∈ L then g l else m.read4 (a + 4 * l) := by
  induction L generalizing m with
  | nil => rfl
  | cons k t ih =>
    rw [List.foldl_cons, ih]
    by_cases hk : l = k
    · simp [hk, Memory.read4_writeLE]
    · rw [Memory.read4_writeLE_other _ _ (by omega)]
      simp [hk]

section
variable (m : Memory) (mask : BitVec 16) (data : List W32)

theorem Memory.read4_storeLanes {l : Nat} (hl : l ∈ maskLanes mask) : (m.storeLanes a mask data).read4 (a + 4 * l) = data.getD l 0 := by
  have h := Memory.read4_writeLanes (a := a) (g := fun k => data.getD k 0) (maskLanes mask) m l
  rw [if_pos hl] at h
  rw [← h, Memory.read4, Memory.read4]
  refine congrArg _ (Memory.readLE_congr _ _ fun x _ _ => ?_)
  exact Memory.get_foldl_unmark (fun j => mask.getLsbD (2 * j) && mask.getLsbD (2 * j + 1)) (fun j => a / 8 + j) _ _ x

/-- The words of the listed lanes from an address on. -/
def laneWords (a : Nat) (L : List Nat) (x : Nat) : Prop := ∃ l ∈ L, span (a + 4 * l) 4 x

theorem Memory.keeps_storeLanes (ha : a % 8 = 0) : m.Keeps (m.storeLanes a mask data) (laneWords a (maskLanes mask)) := by
  refine (Memory.keeps_foldl m fun k l hl => (k.keeps_writeLE ..).mono fun x hx => ⟨l, hl, hx⟩).trans (Memory.keeps_foldl _ fun k j hj => ?_)
  split
  · next hboth =>
    have hj := List.mem_range.mp hj
    rw [Bool.and_eq_true] at hboth
    exact k.keeps_unmark (a := a + 4 * (2 * j)) _ ⟨by omega, by omega⟩
      ⟨2 * j, List.mem_filter.mpr ⟨List.mem_range.mpr (by omega), hboth.1⟩, by simp [span]⟩
  · exact .refl _ _

end

end

/-! ## The active lanes as a mask (R134) -/

section
variable (c : Core) (m : BitVec 3)

theorem Core.getLsbD_activeMask {l : Nat} (hl : l < 16) : (c.activeMask m).getLsbD l = c.active m.toNat l := by
  have h0 : m.toNat = 0 ↔ m = 0#3 := BitVec.toNat_inj (y := (0 : BitVec 3))
  rw [Core.activeMask, Core.active]
  split
  · next h =>
    subst h
    simpa using (show (65535#16).getLsbD l = true by revert l; decide)
  · next h =>
    have hne : (m.toNat == 0) = false := by simpa [h0] using h
    rw [hne, Bool.false_or]

theorem Core.maskLanes_activeMask : maskLanes (c.activeMask m) = c.lanes m.toNat :=
  List.filter_congr fun _ hl => c.getLsbD_activeMask m (List.mem_range.mp hl)

theorem Core.activeMask_eq_zero : c.activeMask m = 0 ↔ ∀ l < 16, ¬ c.inUse m l := by
  constructor
  · intro h l hl hin
    have hbit := c.getLsbD_activeMask m hl
    rw [h, (c.active_iff m l).mpr hin] at hbit
    exact absurd hbit (by simp)
  · intro h
    refine BitVec.eq_of_getLsbD_eq fun l hl => ?_
    rw [c.getLsbD_activeMask m hl]
    simpa [← c.active_iff] using h l hl

theorem Core.headD_lanes {l : Nat} (hl : l < 16) (hin : c.inUse m l) (hfirst : ∀ k < l, ¬ c.inUse m k) : (c.lanes m.toNat).headD 0 = l := by
  have hhead : (c.lanes m.toNat).head? = some l := by
    rw [Core.lanes, List.head?_filter]
    refine List.find?_range_eq_some.mpr ⟨(c.active_iff m l).mpr hin, List.mem_range.mpr hl, fun k hk => ?_⟩
    simpa [← c.active_iff] using hfirst k hk
  rw [List.headD_eq_head?_getD, hhead]
  rfl

end

/-! ## Whole accesses (R138, R139) -/

section
variable {i : Instr} {s : State} {body : State → Eff} {a d : Reg} {m : BitVec 3} {op : Core → AccOp}

/-- The access that a vector instruction asks for as a whole. -/
def Core.wholeAsk (c : Core) (a : Reg) (m : BitVec 3) (op : AccOp) : Ask :=
  ⟨op, c.s a.toNat, 0, 0, 0, 0, 7, 17, some ⟨c.s a.toNat, [], [], c.activeMask m, [], 0, brOK⟩, true⟩

theorem Core.releases_wholeAsk (c : Core) (op : AccOp) : (c.wholeAsk a m op).releases = false := by
  simp [Core.wholeAsk, Ask.releases]

theorem whole_idle (h : ∀ l < 16, ¬ s.me.inUse m l) : whole i a m op s = .next s := if_pos ((s.me.activeMask_eq_zero m).mpr h)

theorem whole_fault (h : ¬ ∀ l < 16, ¬ s.me.inUse m l) {e : Nat} {v : Word} (hgot : attempt s i (s.me.wholeAsk a m (op s.me)) = .fault e v) :
    whole i a m op s = .trap e v := by
  rw [whole, if_neg (mt (s.me.activeMask_eq_zero m).mp h)]
  rw [Core.wholeAsk] at hgot
  simp only [hgot]

theorem whole_done (h : ¬ ∀ l < 16, ¬ s.me.inUse m l) {t : State} {r : Resp} (hgot : attempt s i (s.me.wholeAsk a m (op s.me)) = .done t r) :
    whole i a m op s = .next (t.upd fun c => wholeTake i (s.me.activeMask m) c r) := by
  rw [whole, if_neg (mt (s.me.activeMask_eq_zero m).mp h)]
  rw [Core.wholeAsk] at hgot
  simp only [hgot]

/-- A whole access that is performed: what it leaves of the core. -/
theorem Leaves.of_whole {u t : State} {r : Resp} {b n : Nat → Prop} {p : State → Prop} (he : exec i s = retire i s body)
    (hb : body s = whole i a m op s) (h : ¬ ∀ l < 16, ¬ s.me.inUse m l) (hgot : attempt s i (s.me.wholeAsk a m (op s.me)) = .done t r)
    (ho : OnlyMine u t)
    {c : Core} (hc : wholeTake i (s.me.activeMask m) t.me r = c) (hk : u.me.Keeps c b n) (hpc : c.pc = s.me.pc) (hrep : c.inRep = s.me.inRep)
    (hp : ∀ t : State, c.SameHeld t.me → p t) : Leaves i s u b n p := by
  have hme : (t.upd fun c => wholeTake i (s.me.activeMask m) c r).me = c := by rw [State.me_upd, hc]
  refine Leaves.of_effect he (hb.trans (whole_done h hgot)) (ho.trans (t.onlyMine_upd _)) ?_ ?_ ?_ fun u hs hcr => hp u ⟨?_, fun n hn => ?_⟩
  · rwa [hme]
  · rwa [hme]
  · rwa [hme]
  · rw [hs, hme]
  · rw [hcr n hn, hme]

/-- A whole load from plain memory. -/
theorem WritesV.of_whole {r : Resp} {g : Nat → W32} (he : exec i s = retire i s (whole i a m op)) (h : ¬ ∀ l < 16, ¬ s.me.inUse m l)
    (hown : OwnPlain s (s.me.s a.toNat) (op s.me).size) (hn : 0 < (op s.me).size) (hload : (op s.me).isAmo = false)
    (hr : memAccess s.me.store (op s.me) (s.me.s a.toNat).toNat (s.me.s a.toNat) = (r, s.me.store)) (hdone : ∀ e v, r ≠ .trap e v)
    (htake : wholeTake i (s.me.activeMask m) s.me r = s.me.writeV d.toNat ((s.me.lanes m.toNat).map fun l => (l, g l))) :
    WritesV i s d m g := by
  have hgot := OwnPlain.attempt_done (i := i) (k := s.me.wholeAsk a m (op s.me)) hown hn (s.me.releases_wholeAsk _) hr hdone
  have hw := s.me.stores_writeLanes (d := d) g (s.me.lanes_lt m)
  refine Leaves.of_whole he rfl h hgot (State.onlyMine_ownDone _) (c := s.me.writeV d.toNat ((s.me.lanes m.toNat).map fun l => (l, g l))) ?_
    (hw.keeps _) hw.pc hw.inRep fun t ht => .of_writeV (ht.v _) fun _ => rfl
  rw [← htake, State.me_ownDone, Core.accessed]
  have hop : (s.me.wholeAsk a m (op s.me)).op.isAmo = false := hload
  rw [hop]
  rfl

theorem Traps.of_whole {e : Nat} {v : Word} (he : exec i s = retire i s (whole i a m op)) (h : ¬ ∀ l < 16, ¬ s.me.inUse m l)
    (hgot : attempt s i (s.me.wholeAsk a m (op s.me)) = .fault e v) : Traps i s e v := .of_trap he (whole_fault h hgot)

end

/-! ## The obligation -/

section
variable (s : State) (d a : Reg) (m : BitVec 3)

theorem exec_vld : exec (.vld d a m) s = retire (.vld d a m) s (whole (.vld d a m) a m fun c => .vload (c.activeMask m)) := rfl

theorem exec_vst : exec (.vst d a m) s = retire (.vst d a m) s (whole (.vst d a m) a m fun c => .vstore (c.activeMask m) (c.vec d.toNat)) := rfl

theorem exec_vldb : exec (.vldb d a m) s = retire (.vldb d a m) s (whole (.vldb d a m) a m fun _ => .load 4 false) := rfl

variable (h : ¬ ∀ l < 16, ¬ s.me.inUse m l)
include h

theorem vld_writes (hown : OwnPlain s (s.me.s a.toNat) 64)
    (hclean : ∀ l < 16, s.me.inUse m l → s.me.store.poisoned ((s.me.s a.toNat).toNat + 4 * l) 4 = false) :
    WritesV (.vld d a m) s d m fun l => s.me.store.read4 ((s.me.s a.toNat).toNat + 4 * l) := by
  let g (l : Nat) : W32 := s.me.store.read4 ((s.me.s a.toNat).toNat + 4 * l)
  have hfind : (maskLanes (s.me.activeMask m)).find? (fun l => s.me.store.poisoned ((s.me.s a.toNat).toNat + 4 * l) 4) = none := by
    rw [Core.maskLanes_activeMask, List.find?_eq_none]
    intro l hl
    obtain ⟨hlt, hin⟩ := (s.me.mem_lanes m l).mp hl
    simp [hclean l hlt hin]
  refine WritesV.of_whole (r := .lanes ((List.range 16).map g) (s.me.activeMask m) none) (exec_vld s d a m) h hown (by decide : 0 < 64) rfl ?_
    (by simp) ?_
  · simp only [memAccess, hfind]
    rfl
  · rw [wholeTake, Core.maskLanes_activeMask]
    refine congrArg (s.me.writeV d.toNat) (List.map_congr_left fun l hl => ?_)
    exact congrArg (Prod.mk l) (getD_map_range (s.me.lanes_lt m l hl))

theorem vld_poisoned (hown : OwnPlain s (s.me.s a.toNat) 64) {l : Nat} (hl : l < 16) (hin : s.me.inUse m l)
    (hbad : s.me.store.poisoned ((s.me.s a.toNat).toNat + 4 * l) 4 = true)
    (hfirst : ∀ k < l, s.me.inUse m k → s.me.store.poisoned ((s.me.s a.toNat).toNat + 4 * k) 4 = false) :
    Traps (.vld d a m) s tPOISON (s.me.s a.toNat + BitVec.ofNat 64 (4 * l)) := by
  have hfind : (maskLanes (s.me.activeMask m)).find? (fun l => s.me.store.poisoned ((s.me.s a.toNat).toNat + 4 * l) 4) = some l := by
    rw [Core.maskLanes_activeMask]
    exact s.me.find?_lanes m ((s.me.mem_lanes m l).mpr ⟨hl, hin⟩) hbad fun k hk hlt => hfirst k hlt ((s.me.mem_lanes m k).mp hk).2
  refine .of_whole (exec_vld s d a m) h (OwnPlain.attempt_trap (k := s.me.wholeAsk a m (.vload (s.me.activeMask m)))
    (m := s.me.store) hown (by decide : 0 < 64) (s.me.releases_wholeAsk _) ?_)
  simp only [Core.wholeAsk, memAccess, hfind]

theorem vst_does (hown : OwnPlain s (s.me.s a.toNat) 64) :
    Does (.vst d a m) s (fun y => ∃ l < 16, s.me.inUse m l ∧ span ((s.me.s a.toNat).toNat + 4 * l) 4 y) nothing fun t =>
      ∀ l < 16, s.me.inUse m l → t.me.store.read4 ((s.me.s a.toNat).toNat + 4 * l) = s.me.v d.toNat l := by
  have halign : (s.me.s a.toNat).toNat % 8 = 0 := by have := hown.2.1; omega
  let M := s.me.store.storeLanes (s.me.s a.toNat).toNat (s.me.activeMask m) (s.me.vec d.toNat)
  have hgot := OwnPlain.attempt_done (i := .vst d a m) (k := s.me.wholeAsk a m (.vstore (s.me.activeMask m) (s.me.vec d.toNat))) (m := M)
    (r := .value 0 none) hown (by decide : 0 < 64) (s.me.releases_wholeAsk _) rfl (by simp)
  refine Leaves.of_whole (exec_vst s d a m) rfl h hgot (State.onlyMine_ownDone _) (c := { s.me with store := M }) (State.me_ownDone _)
    ⟨rfl, ?_, fun _ _ _ => rfl⟩ rfl rfl fun t ht l hl hin => ?_
  · refine (s.me.store.keeps_storeLanes _ _ halign).mono fun x ⟨l, hl, hx⟩ => ?_
    rw [Core.maskLanes_activeMask, Core.mem_lanes] at hl
    exact ⟨l, hl.1, hl.2, hx⟩
  · rw [ht.store]
    refine (Memory.read4_storeLanes _ _ _ ?_).trans (getD_map_range hl)
    rw [Core.maskLanes_activeMask]
    exact (s.me.mem_lanes m l).mpr ⟨hl, hin⟩

theorem vldb_writes (hown : OwnPlain s (s.me.s a.toNat) 4) (hclean : s.me.store.poisoned ((s.me.s a.toNat).toNat + 4 * 0) 4 = false) :
    WritesV (.vldb d a m) s d m fun _ => s.me.store.read4 (s.me.s a.toNat).toNat := by
  refine WritesV.of_whole (exec_vldb s d a m) h hown (by decide : 0 < 4) rfl (memAccess_load _ _ _ hclean) (by simp) ?_
  have hlt : s.me.store.readLE (s.me.s a.toNat).toNat 4 < 2 ^ (8 * 4) := Memory.readLE_lt ..
  rw [wholeTake, Core.maskLanes_activeMask, extend_zero hlt]
  refine congrArg (s.me.writeV d.toNat) (List.map_congr_left fun l hl => congrArg (Prod.mk l) ?_)
  exact BitVec.setWidth_ofNat_of_le (by decide) _

theorem vldb_poisoned (hown : OwnPlain s (s.me.s a.toNat) 4) (hbad : s.me.store.poisoned ((s.me.s a.toNat).toNat + 4 * 0) 4 = true) :
    Traps (.vldb d a m) s tPOISON (s.me.s a.toNat) :=
  .of_whole (exec_vldb s d a m) h (OwnPlain.attempt_trap (k := s.me.wholeAsk a m (.load 4 false)) hown (by decide : 0 < 4)
    (s.me.releases_wholeAsk _) (memAccess_load_poisoned _ _ _ hbad))

theorem vld_vst_refused {l : Nat} (hl : l < 16) (hin : s.me.inUse m l) (hfirst : ∀ k < l, ¬ s.me.inUse m k)
    (hrange : (s.me.s a.toNat).toNat + 64 ≤ 0x40000) (halign : (s.me.s a.toNat).toNat % 64 = 0)
    (hhit : s.me.hit (s.me.s a.toNat).toNat 64 ≠ .plain) :
    Traps (.vld d a m) s tBANKPORT (s.me.s a.toNat + BitVec.ofNat 64 (4 * l)) ∧
      Traps (.vst d a m) s tBANKPORT (s.me.s a.toNat + BitVec.ofNat 64 (4 * l)) := by
  rw [← s.me.headD_lanes m hl hin hfirst, ← Core.maskLanes_activeMask]
  exact ⟨.of_whole (exec_vld s d a m) h (attempt_refused (k := s.me.wholeAsk a m (.vload (s.me.activeMask m))) hrange (by decide : 0 < 64) halign
      (s.me.releases_wholeAsk _) (by decide : 17 ≠ 16) (fun _ _ _ _ => AccOp.noConfusion) hhit),
    .of_whole (exec_vst s d a m) h (attempt_refused (k := s.me.wholeAsk a m (.vstore (s.me.activeMask m) (s.me.vec d.toNat))) hrange
      (by decide : 0 < 64) halign (s.me.releases_wholeAsk _) (by decide : 17 ≠ 16) (fun _ _ _ _ => AccOp.noConfusion) hhit)⟩

theorem vldb_refused (hrange : (s.me.s a.toNat).toNat + 4 ≤ 0x40000) (halign : (s.me.s a.toNat).toNat % 4 = 0)
    (hhit : s.me.hit (s.me.s a.toNat).toNat 4 ≠ .plain) : Traps (.vldb d a m) s tBANKPORT (s.me.s a.toNat) :=
  .of_whole (exec_vldb s d a m) h (attempt_refused (k := s.me.wholeAsk a m (.load 4 false)) hrange (by decide : 0 < 4) halign
    (s.me.releases_wholeAsk _) (by decide : 17 ≠ 16) (fun _ _ _ _ => AccOp.noConfusion) hhit)

theorem vldb_refusesBad : RefusesBad (.vldb d a m) s (s.me.s a.toNat) 4 :=
  .of_attempt (k := s.me.wholeAsk a m (.load 4 false)) (exec_vldb s d a m) (fun _ hgot => whole_fault h hgot) rfl rfl

end

/-- Settles O31: with no active lane a whole access is none (`whole_idle`); else it is one access to the own store, which plain memory answers
(`OwnPlain.attempt_done`, `OwnPlain.attempt_trap`) and a structured bank refuses (`attempt_refused`). -/
theorem vectorLoadsAndStores : Obligations.VectorLoadsAndStores := by
  intro s d a m x o none_ all bad
  refine ⟨fun h => ⟨.of_next (exec_vld s d a m) (whole_idle h), .of_next (exec_vst s d a m) (whole_idle h),
    .of_next (exec_vldb s d a m) (whole_idle h)⟩, fun h => ⟨vld_writes s d a m h, fun hown l hl hin hbad hfirst => ?_, vst_does s d a m h,
    vldb_writes s d a m h, vldb_poisoned s d a m h, fun l hl hin hfirst hrange halign hhit => ?_, vldb_refused s d a m h,
    vldb_refusesBad s d a m h⟩⟩
  · exact vld_poisoned s d a m h hown hl hin hbad hfirst
  · exact vld_vst_refused s d a m h hl hin hfirst hrange halign hhit

end Sys2Proof.Machine
end

section
/-! SUPPORT. Keyed vector accesses at an own port (R142, R318): the run of lanes, and its results in the registers. -/
namespace Sys2Proof.Machine
open Sys2Proof

/-! ## Words by lane -/

theorem Core.getD_vec (c : Core) (j : Nat) {l : Nat} (hl : l < 16) : (c.vec j).getD l 0 = c.v j l := getD_map_range hl

/-! ## One lane of a keyed access -/

/-- A run of a keyed access: its port, its words, and for each lane the structure, the store and what the lane gives. -/
structure KeyedPlan where
  p : Nat
  isStore : Bool
  mesh : Word
  keys : List W32
  data : List W32
  bank : Nat → Bank
  mem : Nat → Memory
  word : Nat → Word
  res : Nat → Nat

namespace KeyedPlan
variable (K : KeyedPlan)

def key (l : Nat) : Word := (K.keys.getD l 0).zeroExtend 64
def datum (l : Nat) : Word := (K.data.getD l 0).zeroExtend 64

/-- What the port answers to a lane. -/
def answer (l : Nat) : Option (Word × Nat × Bank) :=
  if K.isStore then (portStore (K.bank l) K.p 4 (K.datum l) (K.key l) K.mesh false).map fun x => (0, x.1, x.2)
  else portLoad (K.bank l) K.p 4 false (K.key l) 0

/-- A lane runs as planned. -/
structure Runs (l : Nat) : Prop where
  answers : K.answer l = some (K.word l, K.res l, K.bank (l + 1))
  clean : K.isStore = false → (K.mem l).entryPoisoned (K.bank l) K.p (K.key l) = false
  stores : K.mem (l + 1) = if K.isStore && K.res l == brOK then (K.mem l).entryStored (K.bank l) K.p (K.datum l) (K.key l) else K.mem l

/-- The word that a lane takes. -/
def value (l : Nat) : W32 := if K.res l = brOK then (K.word l).truncate 32 else 0

/-- The lanes of a list that gave OK, and the result of the first that did not. -/
def okOf (L : List Nat) : BitVec 16 := L.foldl (fun ok l => if K.res l = brOK then ok ||| (1#16 <<< l) else ok) 0
def resOf (L : List Nat) : Nat := L.foldl (fun r l => if r = brOK then K.res l else r) brOK

/-- What is left to run behind the lanes of a list. -/
def after (L t : List Nat) (l : Nat) : Except Nat (List (Nat × W32) × BitVec 16 × Nat × Bank × Memory) :=
  keyedRun K.p K.isStore K.mesh K.keys K.data t (K.bank l) (K.mem l) (L.map fun l => (l, K.value l)) (K.okOf L) (K.resOf L)

variable {K} {l : Nat} {L t : List Nat}

/-- The run comes to a lane. -/
theorem after_eq : K.after L (l :: t) l = match K.answer l with
    | none => .error tBANKPORT
    | some (w, x, b) =>
      if !K.isStore && (K.mem l).entryPoisoned (K.bank l) K.p (K.key l) then .error tPOISON
      else keyedRun K.p K.isStore K.mesh K.keys K.data t b
        (if K.isStore && x == brOK then (K.mem l).entryStored (K.bank l) K.p (K.datum l) (K.key l) else K.mem l)
        (L.map (fun l => (l, K.value l)) ++ [(l, if x = brOK then w.truncate 32 else 0)])
        (if x = brOK then K.okOf L ||| (1#16 <<< l) else K.okOf L) (if K.resOf L = brOK then x else K.resOf L) := rfl

theorem after_cons (h : K.Runs l) : K.after L (l :: t) l = K.after (L ++ [l]) t (l + 1) := by
  obtain ⟨hans, hclean, hmem⟩ := h
  have hsound : (!K.isStore && (K.mem l).entryPoisoned (K.bank l) K.p (K.key l)) = false := by
    cases hst : K.isStore with
    | true => rfl
    | false => exact hclean hst
  have hok : K.okOf (L ++ [l]) = if K.res l = brOK then K.okOf L ||| (1#16 <<< l) else K.okOf L := List.foldl_append
  have hres : K.resOf (L ++ [l]) = if K.resOf L = brOK then K.res l else K.resOf L := List.foldl_append
  rw [after_eq, after, hok, hres, hmem, List.map_append]
  simp only [hans, hsound, Bool.false_eq_true, if_false]
  rfl

theorem after_refused (h : K.answer l = none) : K.after L (l :: t) l = .error tBANKPORT := by
  rw [after_eq]
  simp only [h]

theorem after_poisoned (hload : K.isStore = false) (h : (K.answer l).isSome = true)
    (hbad : (K.mem l).entryPoisoned (K.bank l) K.p (K.key l) = true) : K.after L (l :: t) l = .error tPOISON := by
  obtain ⟨⟨w, x, b⟩, h⟩ := Option.isSome_iff_exists.mp h
  rw [after_eq]
  simp only [h, hload, hbad, Bool.not_false, Bool.and_self, if_true]

/-- The active lanes below n. -/
def below (f : Nat → Bool) (n : Nat) : List Nat := (List.range n).filter f

/-- The active lanes below n have run, and each that is not active has changed nothing. -/
def RunsBelow (K : KeyedPlan) (f : Nat → Bool) (n : Nat) : Prop :=
  ∀ l < n, (f l = true → K.Runs l) ∧ (f l = false → K.bank (l + 1) = K.bank l ∧ K.mem (l + 1) = K.mem l)

theorem after_below {f : Nat → Bool} {n : Nat} (h : K.RunsBelow f n) : K.after [] (below f n ++ t) 0 = K.after (below f n) t n := by
  induction n generalizing t with
  | zero => rfl
  | succ n ih =>
    have ih {t : List Nat} := ih (t := t) fun l hl => h l (by omega)
    obtain ⟨hact, hidle⟩ := h n (by omega)
    rw [below, List.range_succ, List.filter_append, ← below, List.append_assoc, ih]
    cases hf : f n with
    | true => simpa [hf] using after_cons (hact hf)
    | false =>
      obtain ⟨hbank, hmem⟩ := hidle hf
      simp [hf, after, hbank, hmem]

/-- The active lanes, from the first that is not below l. -/
theorem lanes_split {f : Nat → Bool} (hl : l < 16) (hf : f l = true) : ∃ t, below f 16 = below f l ++ l :: t := by
  have hsplit : ∀ l < 16, List.range 16 = List.range l ++ l :: List.range' (l + 1) (15 - l) := by decide
  exact ⟨(List.range' (l + 1) (15 - l)).filter f, by rw [below, hsplit l hl, List.filter_append, List.filter_cons_of_pos hf, below]⟩

/-! ## The results -/

theorem getLsbD_okOf {j : Nat} (hj : j < 16) : (K.okOf L).getLsbD j = true ↔ j ∈ L ∧ K.res j = brOK := by
  have hstep (x : BitVec 16) : (L.foldl (fun ok l => if K.res l = brOK then ok ||| (1#16 <<< l) else ok) x).getLsbD j = true ↔
      x.getLsbD j = true ∨ j ∈ L ∧ K.res j = brOK := by
    induction L generalizing x with
    | nil => simp
    | cons k t ih =>
      have hbit : (1#16 <<< k).getLsbD j = true ↔ j = k := by
        simp [hj]
        omega
      rw [List.foldl_cons, ih, List.mem_cons]
      split
      · next h =>
        rw [BitVec.getLsbD_or, Bool.or_eq_true, hbit]
        grind
      · next h => grind
  rw [okOf, hstep]
  simp

theorem resOf_eq (L : List Nat) : K.resOf L = ((L.find? fun l => K.res l != brOK).map K.res).getD brOK := by
  have hkept (L : List Nat) {r : Nat} (hr : r ≠ brOK) : L.foldl (fun r l => if r = brOK then K.res l else r) r = r := by
    induction L with
    | nil => rfl
    | cons k t ih => rw [List.foldl_cons, if_neg hr, ih]
  induction L with
  | nil => rfl
  | cons k t ih =>
    have hcons : K.resOf (k :: t) = t.foldl (fun r l => if r = brOK then K.res l else r) (K.res k) := rfl
    by_cases hk : K.res k = brOK
    · rw [hcons, hk, List.find?_cons_of_neg (by simp [hk]), ← ih]
      rfl
    · rw [hcons, hkept t hk, List.find?_cons_of_pos (by simpa using hk)]
      rfl

theorem resOf_lt (h : ∀ l, K.res l < 4) (L : List Nat) : K.resOf L < 4 := by
  rw [resOf_eq]
  cases L.find? fun l => K.res l != brOK with
  | none => exact (show 0 < 4 by decide)
  | some l => exact h l

end KeyedPlan

/-! ## The results in the registers -/

section
variable (c : Core) (m : BitVec 3) (ok : BitVec 16) {r : Nat}

/-- The results of a keyed access: its mask register and BR. -/
def Core.keyedEnd (c : Core) (m : BitVec 3) (ok : BitVec 16) (r : Nat) : Core := (c.setM m.toNat ok).setBr r

theorem mBytes_zeroExtend : c.mBytes (m.zeroExtend 5) = span (mAddr c m.toNat) 2 := by
  funext x
  have hm : (m.zeroExtend 5).toNat = m.toNat := by
    rw [BitVec.toNat_setWidth]
    exact Nat.mod_eq_of_lt (m.isLt.trans (by decide))
  rw [Core.mBytes, hm, span]

theorem Core.stores_setM_index (j : Nat) (v : BitVec 16) : c.Stores (c.setM j v) (span (mAddr c j) 2) := ⟨rfl, Memory.keeps_store ..⟩

theorem Core.keeps_keyedEnd : c.Keeps (c.keyedEnd m ok r) (c.mBytes (m.zeroExtend 5)) onlyStat := by
  rw [mBytes_zeroExtend]
  exact ((c.stores_setM_index m.toNat ok).keeps _).trans (Core.keeps_setBr ..)

theorem Core.wp_keyedEnd : (c.keyedEnd m ok r).wp = c.wp := by
  have h : (c.keyedEnd m ok r).cr_ Cr.wp = (c.setM m.toNat ok).cr_ Cr.wp := Core.cr_setBr_other _ _ (by decide)
  exact congrArg BitVec.toNat h

theorem Core.m_keyedEnd : (c.keyedEnd m ok r).m m.toNat = ok := by
  have hset : (c.keyedEnd m ok r).m m.toNat = (c.setM m.toNat ok).m m.toNat :=
    Core.m_congr (c := c.setM m.toNat ok) (d := c.keyedEnd m ok r) rfl (c.wp_keyedEnd m ok) _
  rw [hset, Core.m_setM]

/-- The mask registers lie below the vector registers. -/
theorem Core.v_keyedEnd (j l : Nat) : (c.keyedEnd m ok r).v j l = c.v j l := by
  have hset : (c.setM m.toNat ok).v j l = c.v j l := (c.stores_setM_index m.toNat ok).v fun x hx hm => by
    have := m.isLt
    simp only [span, vAddr, mAddr] at hx hm
    omega
  rw [← hset]
  exact Core.v_congr (c := c.setM m.toNat ok) (d := c.keyedEnd m ok r) rfl (c.wp_keyedEnd m ok) _ _

end

section
variable {s t : State} {m : BitVec 3} {c : Core} {r : Nat}

/-- The results of a keyed access as the statement puts them. -/
def KeyedResults (s : State) (m : BitVec 3) (t : State) (ok : Nat → Prop) (br : Nat) : Prop :=
  (∀ l < 16, (t.me.m m.toNat).getLsbD l = true ↔ s.me.inUse m l ∧ ok l) ∧ t.me.br = br ∧
    ∀ n, 2 ≤ n → (t.me.cr_ Cr.stat).getLsbD n = (s.me.cr_ Cr.stat).getLsbD n

theorem KeyedResults.of_keyedEnd {w : BitVec 16} {ok : Nat → Prop} (ht : (c.keyedEnd m w r).SameHeld t.me) (hr : r < 4)
    (hstat : c.cr_ Cr.stat = s.me.cr_ Cr.stat) (hw : ∀ l < 16, w.getLsbD l = true ↔ s.me.inUse m l ∧ ok l) : KeyedResults s m t ok r := by
  have hcr : t.me.cr_ Cr.stat = (c.keyedEnd m w r).cr_ Cr.stat := ht.cr _ (by decide)
  refine ⟨fun l hl => ?_, ?_, fun n hn => ?_⟩
  · rw [ht.m, Core.m_keyedEnd]
    exact hw l hl
  · rw [Core.br_congr hcr]
    exact Core.br_setBr _ _ hr
  · rw [hcr, ← hstat]
    exact Core.statBit_setBr _ _ hn

end

/-! ## Keyed accesses at the own store -/

section
variable {i : Instr} {s : State} {st : Bool} {a b : Reg} {data : List W32} {m : BitVec 3}

theorem keyed_idle (he : exec i s = retire i s (keyedEff i st a b data m)) (h : ∀ l < 16, ¬ s.me.inUse m l) :
    Does i s (s.me.mBytes (m.zeroExtend 5)) onlyStat fun t => KeyedResults s m t (fun _ => False) 0 := by
  have hb : keyedEff i st a b data m s = local_ s fun c => c.keyedEnd m 0 brOK := if_pos ((s.me.activeMask_eq_zero m).mpr h)
  refine Leaves.of_effect he hb (s.onlyMine_upd _) ?_ ?_ ?_ fun t hs hcr => ?_
  · rw [State.me_upd]
    exact s.me.keeps_keyedEnd m 0
  · rw [State.me_upd]
    rfl
  · rw [State.me_upd]
    exact Core.inRep_setBr ..
  · rw [State.me_upd] at hs
    simp only [State.me_upd] at hcr
    exact .of_keyedEnd (c := s.me) ⟨hs, hcr⟩ (by decide) rfl fun l hl => by simp

/-- The access that a keyed instruction asks for at its own store. -/
def State.keyedAsk (s : State) (st : Bool) (a b : Reg) (data : List W32) (m : BitVec 3) : Ask :=
  s.me.wholeAsk a m (.keyed st (s.me.activeMask m) (s.me.vec b.toNat) data)

/-- The run of the active lanes that the port performs. -/
def keyedLanes (s : State) (st : Bool) (b : Reg) (data : List W32) (m : BitVec 3) (f p : Nat) :
    Except Nat (List (Nat × W32) × BitVec 16 × Nat × Bank × Memory) :=
  keyedRun p st (sourceWord s s.cur) (s.me.vec b.toNat) data (maskLanes (s.me.activeMask m)) (s.me.bank f) s.me.store [] 0 brOK

variable (hany : ¬ ∀ l < 16, ¬ s.me.inUse m l) (hrange : (s.me.s a.toNat).toNat + 4 ≤ 0x40000) (halign : (s.me.s a.toNat).toNat % 4 = 0)
include hany hrange

theorem keyedEff_own : keyedEff i st a b data m s =
    whole i a m (fun _ => .keyed st (s.me.activeMask m) (s.me.vec b.toNat) data) s := by
  have hplace : placeOf (s.me.s a.toNat) = .ok (.own (s.me.s a.toNat).toNat) := placeOf_own (by omega)
  rw [keyedEff, if_neg (mt (s.me.activeMask_eq_zero m).mp hany)]
  simp only [hplace]
  rfl

variable {f p : Nat}

omit hany in
/-- A keyed access to a place that is no main or peek port. -/
theorem keyedAnswer_elsewhere (h : ∀ f, s.me.hit (s.me.s a.toNat).toNat 4 ≠ .port f 0 ∧ s.me.hit (s.me.s a.toNat).toNat 4 ≠ .port f 0x10) :
    ∃ c, s.ownAnswer (s.keyedAsk st a b data m) (s.me.s a.toNat).toNat = (.trap tBANKPORT (s.me.s a.toNat), c) := by
  unfold State.ownAnswer storeAccess State.keyedAsk Core.wholeAsk
  dsimp only [AccOp.size]
  rw [if_neg (by omega), if_neg (by omega)]
  cases hh : s.me.hit (s.me.s a.toNat).toNat 4 with
  | plain => exact ⟨_, rfl⟩
  | refused => exact ⟨_, rfl⟩
  | port f p =>
    have hp : ¬ (p = 0 ∨ p = 0x10) := by
      rintro (rfl | rfl)
      · exact (h f).1 hh
      · exact (h f).2 hh
    exact ⟨s.me, if_neg hp⟩

omit hany in
theorem keyedAnswer_port (hhit : s.me.hit (s.me.s a.toNat).toNat 4 = .port f p) (hp : p = 0 ∨ p = 0x10) :
    s.ownAnswer (s.keyedAsk st a b data m) (s.me.s a.toNat).toNat = match keyedLanes s st b data m f p with
      | .ok (got, ok, br, b, m) => (.lanes ((List.range 16).map fun i => aget 0 got i) ok (some br), { s.me.setBank f b with store := m })
      | .error e => (.trap e (s.me.s a.toNat), s.me) := by
  unfold State.ownAnswer storeAccess State.keyedAsk Core.wholeAsk
  dsimp only [AccOp.size]
  rw [if_neg (by omega), if_neg (by omega), hhit]
  exact if_pos hp

include halign

omit hany in
theorem attempt_keyed : attempt s i (s.keyedAsk st a b data m) = ownAccess s (s.keyedAsk st a b data m) (s.me.s a.toNat).toNat :=
  attempt_own (placeOf_own (a := s.me.s a.toNat) (by omega)) halign hrange (s.me.releases_wholeAsk _)

/-- A keyed access that its own store refuses. -/
theorem keyed_traps (he : exec i s = retire i s (keyedEff i st a b data m)) {e : Nat} {v : Word} {c : Core}
    (h : s.ownAnswer (s.keyedAsk st a b data m) (s.me.s a.toNat).toNat = (.trap e v, c)) : Traps i s e v := by
  refine .of_trap he ((keyedEff_own hany hrange).trans (whole_fault hany ?_))
  exact (attempt_keyed hrange halign).trans (ownAccess_trap (.inr ⟨_, _, _, _, rfl⟩) h)

theorem keyed_error (he : exec i s = retire i s (keyedEff i st a b data m)) (hhit : s.me.hit (s.me.s a.toNat).toNat 4 = .port f p)
    (hp : p = 0 ∨ p = 0x10) {e : Nat} (h : keyedLanes s st b data m f p = .error e) : Traps i s e (s.me.s a.toNat) := by
  refine keyed_traps hany hrange halign he (c := s.me) ?_
  rw [keyedAnswer_port hrange hhit hp, h]

/-- A keyed access that is performed. -/
theorem keyed_leaves (he : exec i s = retire i s (keyedEff i st a b data m)) (hhit : s.me.hit (s.me.s a.toNat).toNat 4 = .port f p)
    (hp : p = 0 ∨ p = 0x10) {got : List (Nat × W32)} {ok : BitVec 16} {r : Nat} {B : Bank} {M : Memory}
    (h : keyedLanes s st b data m f p = .ok (got, ok, r, B, M)) (hr : r < 4) {d : Core} {y : Nat → Prop} {q : State → Prop}
    {okay : Nat → Prop}
    (htake : wholeTake i (s.me.activeMask m) { s.me.setBank f B with store := M } (.lanes ((List.range 16).map fun l => aget 0 got l) ok (some r)) =
      d.keyedEnd m ok r)
    (hd : Core.Stores { s.me.setBank f B with store := M } d y) (hok : ∀ l < 16, ok.getLsbD l = true ↔ s.me.inUse m l ∧ okay l)
    (hq : ∀ t : State, (d.keyedEnd m ok r).SameHeld t.me → q t) :
    Leaves i s (s.upd fun c => { c.setBank f B with store := M }) (fun x => s.me.mBytes (m.zeroExtend 5) x ∨ y x) onlyStat fun t =>
      KeyedResults s m t okay r ∧ q t := by
  have hans := keyedAnswer_port (st := st) (b := b) (data := data) (m := m) hrange hhit hp
  rw [h] at hans
  have hwait : waitsAt s.me (s.me.s a.toNat).toNat 4 0 (.lanes ((List.range 16).map fun l => aget 0 got l) ok (some r)) = false := by
    unfold waitsAt
    split
    · next h => exact absurd h (by simp)
    · rfl
  have hgot := (attempt_keyed (i := i) hrange halign).trans (ownAccess_done (.inr ⟨_, _, _, _, rfl⟩) hans (by simp) hwait)
  have hme : (s.ownDone (s.keyedAsk st a b data m) (s.me.s a.toNat).toNat { s.me.setBank f B with store := M }).me =
      { s.me.setBank f B with store := M } := State.me_ownDone _
  have hwp : d.wp = s.me.wp := hd.wp
  have hinRep : d.inRep = s.me.inRep := hd.inRep
  refine Leaves.of_whole he (keyedEff_own hany hrange) hany hgot ((State.onlyMine_ownDone _).of_upd _) (c := d.keyedEnd m ok r) (by rw [hme, htake])
    ?_ hd.pc ((Core.inRep_setBr ..).trans hinRep) fun t ht => ⟨.of_keyedEnd ht hr (hd.cr _) hok, hq t ht⟩
  have hbytes : d.mBytes (m.zeroExtend 5) = s.me.mBytes (m.zeroExtend 5) := by
    simp only [mBytes_zeroExtend, mAddr, hwp]
  rw [State.me_upd]
  exact ((hd.keeps _).mono (fun _ => .inr) fun _ h => h).trans ((d.keeps_keyedEnd m ok).mono (fun _ hx => .inl (hbytes ▸ hx)) fun _ h => h)

end

/-! ## The obligation -/

section
variable (s : State) (d a b : Reg) (m : BitVec 3) (f p : Nat) (B : Nat → Bank) (M : Nat → Memory) (w : Nat → Word) (br : Nat → Nat)

/-- The run that the statement describes. -/
def keyedPlan (st : Bool) (data : List W32) : KeyedPlan := ⟨p, st, sourceWord s s.cur, s.me.vec b.toNat, data, B, M, w, br⟩

variable {s d a b m f p B M w br} {st : Bool} {data : List W32}

theorem key_keyedPlan {l : Nat} (hl : l < 16) : (keyedPlan s b p B M w br st data).key l = (s.me.v b.toNat l).zeroExtend 64 :=
  congrArg (BitVec.zeroExtend 64) (s.me.getD_vec b.toNat hl)

theorem datum_keyedPlan {l : Nat} (hl : l < 16) :
    (keyedPlan s b p B M w br st (s.me.vec d.toNat)).datum l = (s.me.v d.toNat l).zeroExtend 64 :=
  congrArg (BitVec.zeroExtend 64) (s.me.getD_vec d.toNat hl)

theorem below_active : KeyedPlan.below (s.me.active m.toNat) 16 = maskLanes (s.me.activeMask m) := (s.me.maskLanes_activeMask m).symm

/-- A run of lanes, where the statement's structures and stores begin with the core's. -/
theorem keyedLanes_after (hB : B 0 = s.me.bank f) (hM : M 0 = s.me.store) :
    keyedLanes s st b data m f p = (keyedPlan s b p B M w br st data).after [] (KeyedPlan.below (s.me.active m.toNat) 16) 0 := by
  rw [below_active]
  simp only [keyedLanes, KeyedPlan.after, keyedPlan, hB, hM]
  rfl

theorem keyedLanes_ok (hB : B 0 = s.me.bank f) (hM : M 0 = s.me.store)
    (h : (keyedPlan s b p B M w br st data).RunsBelow (s.me.active m.toNat) 16) : let K := keyedPlan s b p B M w br st data
    let L := s.me.lanes m.toNat
    keyedLanes s st b data m f p = .ok (L.map fun l => (l, K.value l), K.okOf L, K.resOf L, B 16, M 16) := by
  have hrun := KeyedPlan.after_below (t := []) h
  rw [List.append_nil] at hrun
  exact (keyedLanes_after hB hM).trans hrun

theorem keyedLanes_at (hB : B 0 = s.me.bank f) (hM : M 0 = s.me.store) {l : Nat} (hl : l < 16) (hin : s.me.inUse m l)
    (h : (keyedPlan s b p B M w br st data).RunsBelow (s.me.active m.toNat) l) : ∃ t, keyedLanes s st b data m f p =
      (keyedPlan s b p B M w br st data).after (KeyedPlan.below (s.me.active m.toNat) l) (l :: t) l := by
  obtain ⟨t, ht⟩ := KeyedPlan.lanes_split hl ((s.me.active_iff m l).mpr hin)
  exact ⟨t, (keyedLanes_after hB hM).trans (by rw [ht, KeyedPlan.after_below h])⟩

/-- BR is the result of the lowest lane that did not give OK. -/
theorem resOf_lanes {K : KeyedPlan} (hK : K.res = br) {r : Nat} (hall : (∀ l < 16, s.me.inUse m l → br l = 0) → r = 0)
    (hfirst : ∀ l < 16, s.me.inUse m l → br l ≠ 0 → (∀ k < l, s.me.inUse m k → br k = 0) → r = br l) :
    r = K.resOf (s.me.lanes m.toNat) := by
  subst hK
  rw [KeyedPlan.resOf_eq]
  cases hf : (s.me.lanes m.toNat).find? fun l => K.res l != brOK with
  | none =>
    refine hall fun l hl hin => ?_
    have hok : K.res l = brOK := by simpa using List.find?_eq_none.mp hf l ((s.me.mem_lanes m l).mpr ⟨hl, hin⟩)
    exact hok
  | some l =>
    rw [Core.lanes, List.find?_filter] at hf
    obtain ⟨hl, hlt, hbelow⟩ := List.find?_range_eq_some.mp hf
    rw [decide_eq_true_eq, s.me.active_iff] at hl
    have hne : K.res l ≠ brOK := by simpa using hl.2
    refine hfirst l (List.mem_range.mp hlt) hl.1 hne fun k hk hin => ?_
    have hok : K.res k = brOK := by simpa [(s.me.active_iff m k).mpr hin] using hbelow k hk
    exact hok

/-! ### Loads -/

section
variable (hhit : s.me.hit (s.me.s a.toNat).toNat 4 = .port f p) (hp : p = 0 ∨ p = 0x10) (hB : B 0 = s.me.bank f) (hM : M 0 = s.me.store)
  (hbr : ∀ l, br l < 4) (hany : ¬ ∀ l < 16, ¬ s.me.inUse m l) (hrange : (s.me.s a.toNat).toNat + 4 ≤ 0x40000)
  (halign : (s.me.s a.toNat).toNat % 4 = 0)

/-- What the main or peek port answers to lane l of a load, and to one of a store. -/
def loadAt (s : State) (b : Reg) (p : Nat) (B : Nat → Bank) (l : Nat) : Option (Word × Nat × Bank) :=
  portLoad (B l) p 4 false ((s.me.v b.toNat l).zeroExtend 64) 0
def storeAt (s : State) (d b : Reg) (p : Nat) (B : Nat → Bank) (l : Nat) : Option (Word × Nat × Bank) :=
  (portStore (B l) p 4 ((s.me.v d.toNat l).zeroExtend 64) ((s.me.v b.toNat l).zeroExtend 64) (sourceWord s s.cur) false).map
    fun x => ((0 : Word), x.1, x.2)

/-- The lanes below n run, as the statement says. -/
def RunsTo (s : State) (m : BitVec 3) (B : Nat → Bank) (M : Nat → Memory) (w : Nat → Word) (br : Nat → Nat)
    (g : Nat → Option (Word × Nat × Bank)) (n : Nat) : Prop :=
  ∀ l < n, (s.me.inUse m l → g l = some (w l, br l, B (l + 1))) ∧ (¬ s.me.inUse m l → B (l + 1) = B l ∧ M (l + 1) = M l)
def SoundTo (s : State) (b : Reg) (m : BitVec 3) (p : Nat) (B : Nat → Bank) (M : Nat → Memory) (n : Nat) : Prop :=
  ∀ l < n, s.me.inUse m l → (M l).entryPoisoned (B l) p ((s.me.v b.toNat l).zeroExtend 64) = false ∧ M (l + 1) = M l
def StoredTo (s : State) (d b : Reg) (m : BitVec 3) (p : Nat) (B : Nat → Bank) (M : Nat → Memory) (br : Nat → Nat) (n : Nat) : Prop :=
  ∀ l < n, s.me.inUse m l → M (l + 1) = if br l = 0 then
    (M l).entryStored (B l) p ((s.me.v d.toNat l).zeroExtend 64) ((s.me.v b.toNat l).zeroExtend 64) else M l

/-- The plan of a load and of a store. -/
def loadPlan (s : State) (b : Reg) (p : Nat) (B : Nat → Bank) (M : Nat → Memory) (w : Nat → Word) (br : Nat → Nat) : KeyedPlan :=
  keyedPlan s b p B M w br false []
def storePlan (s : State) (d b : Reg) (p : Nat) (B : Nat → Bank) (M : Nat → Memory) (w : Nat → Word) (br : Nat → Nat) : KeyedPlan :=
  keyedPlan s b p B M w br true (s.me.vec d.toNat)

theorem answer_loadPlan {l : Nat} (hl : l < 16) : (loadPlan s b p B M w br).answer l = loadAt s b p B l := by
  rw [loadAt, ← key_keyedPlan (p := p) (B := B) (M := M) (w := w) (br := br) (st := false) (data := []) hl]
  rfl

theorem answer_storePlan {l : Nat} (hl : l < 16) : (storePlan s d b p B M w br).answer l = storeAt s d b p B l := by
  rw [storeAt, ← key_keyedPlan (p := p) (B := B) (M := M) (w := w) (br := br) (st := true) (data := s.me.vec d.toNat) hl,
    ← datum_keyedPlan (b := b) (p := p) (B := B) (M := M) (w := w) (br := br) (st := true) hl]
  rfl

theorem loadPlan_runs {n : Nat} (hn : n ≤ 16) (hruns : RunsTo s m B M w br (loadAt s b p B) n) (hsound : SoundTo s b m p B M n) :
    (loadPlan s b p B M w br).RunsBelow (s.me.active m.toNat) n := fun l hl => by
  have hl16 : l < 16 := by omega
  obtain ⟨hact, hidle⟩ := hruns l hl
  refine ⟨fun hin => ?_, fun hout => hidle (by simp [← s.me.active_iff, hout])⟩
  have hin := (s.me.active_iff m l).mp hin
  obtain ⟨hclean, hmem⟩ := hsound l hl hin
  refine ⟨(answer_loadPlan hl16).trans (hact hin), fun _ => ?_, hmem⟩
  rw [loadPlan, key_keyedPlan hl16]
  exact hclean

theorem storePlan_runs {n : Nat} (hn : n ≤ 16) (hruns : RunsTo s m B M w br (storeAt s d b p B) n) (hstored : StoredTo s d b m p B M br n) :
    (storePlan s d b p B M w br).RunsBelow (s.me.active m.toNat) n := fun l hl => by
  have hl16 : l < 16 := by omega
  obtain ⟨hact, hidle⟩ := hruns l hl
  refine ⟨fun hin => ?_, fun hout => hidle (by simp [← s.me.active_iff, hout])⟩
  have hin := (s.me.active_iff m l).mp hin
  refine ⟨(answer_storePlan hl16).trans (hact hin), fun h => absurd h (by simp [storePlan, keyedPlan]), ?_⟩
  have hmem := hstored l hl hin
  rw [storePlan, key_keyedPlan hl16, datum_keyedPlan hl16]
  simpa [keyedPlan, brOK] using hmem

theorem SoundTo.mem_eq {n : Nat} (hruns : RunsTo s m B M w br (loadAt s b p B) n) (hsound : SoundTo s b m p B M n) : M n = M 0 := by
  induction n with
  | zero => rfl
  | succ n ih =>
    have hstep : M (n + 1) = M n := by
      by_cases hin : s.me.inUse m n
      · exact (hsound n (by omega) hin).2
      · exact ((hruns n (by omega)).2 hin).2
    rw [hstep, ih (fun l hl => hruns l (by omega)) fun l hl => hsound l (by omega)]

include hhit hp hB hM hany hrange halign

theorem vldk_fails {l : Nat} (hl : l < 16) (hin : s.me.inUse m l) (hruns : RunsTo s m B M w br (loadAt s b p B) l)
    (hsound : SoundTo s b m p B M l) : (loadAt s b p B l = none → Traps (.vldk d a b m) s tBANKPORT (s.me.s a.toNat)) ∧
      ((loadAt s b p B l).isSome = true → (M l).entryPoisoned (B l) p ((s.me.v b.toNat l).zeroExtend 64) = true →
        Traps (.vldk d a b m) s tPOISON (s.me.s a.toNat)) := by
  obtain ⟨t, ht⟩ := keyedLanes_at hB hM hl hin (loadPlan_runs hl.le hruns hsound)
  rw [← answer_loadPlan (M := M) (w := w) (br := br) hl]
  refine ⟨fun hnone => keyed_error hany hrange halign rfl hhit hp (ht.trans (KeyedPlan.after_refused hnone)), fun hsome hbad =>
    keyed_error hany hrange halign rfl hhit hp (ht.trans (KeyedPlan.after_poisoned rfl hsome ?_))⟩
  rw [key_keyedPlan hl]
  exact hbad

theorem vstk_fails {l : Nat} (hl : l < 16) (hin : s.me.inUse m l) (hruns : RunsTo s m B M w br (storeAt s d b p B) l)
    (hstored : StoredTo s d b m p B M br l) (hnone : storeAt s d b p B l = none) : Traps (.vstk d a b m) s tBANKPORT (s.me.s a.toNat) := by
  obtain ⟨t, ht⟩ := keyedLanes_at hB hM hl hin (storePlan_runs hl.le hruns hstored)
  rw [← answer_storePlan (M := M) (w := w) (br := br) hl] at hnone
  exact keyed_error hany hrange halign rfl hhit hp (ht.trans (KeyedPlan.after_refused hnone))

include hbr

theorem vldk_leaves (hruns : RunsTo s m B M w br (loadAt s b p B) 16) (hsound : SoundTo s b m p B M 16) {r : Nat}
    (hall : (∀ l < 16, s.me.inUse m l → br l = 0) → r = 0)
    (hfirst : ∀ l < 16, s.me.inUse m l → br l ≠ 0 → (∀ k < l, s.me.inUse m k → br k = 0) → r = br l) :
    Leaves (.vldk d a b m) s (s.upd fun c => { c.setBank f (B 16) with store := M 16 })
      (fun y => s.me.mBytes (m.zeroExtend 5) y ∨ s.me.vBytes d y) onlyStat fun t =>
        KeyedResults s m t (fun l => br l = 0) r ∧ LanesAre s t d m fun l => if br l = 0 then (w l).truncate 32 else 0 := by
  obtain rfl := resOf_lanes (K := loadPlan s b p B M w br) rfl hall hfirst
  let g (l : Nat) : W32 := (loadPlan s b p B M w br).value l
  let c : Core := { s.me.setBank f (B 16) with store := M 16 }
  have hstore : c.store = s.me.store := (hsound.mem_eq hruns).trans hM
  refine keyed_leaves hany hrange halign rfl hhit hp (keyedLanes_ok hB hM (loadPlan_runs le_rfl hruns hsound)) (KeyedPlan.resOf_lt hbr _)
    (d := c.writeV d.toNat ((s.me.lanes m.toNat).map fun l => (l, g l))) (y := s.me.vBytes d) ?_ (c.stores_writeLanes g (s.me.lanes_lt m))
    (fun l hl => ?_) fun t ht => .of_writeV (g := g) (c := c) (fun l => ?_) fun l => Core.v_congr hstore rfl _ _
  · have hlanes : (maskLanes (s.me.activeMask m)).map (fun l => (l, ((List.range 16).map fun i =>
        aget 0 ((s.me.lanes m.toNat).map fun l => (l, g l)) i).getD l 0)) = (s.me.lanes m.toNat).map fun l => (l, g l) := by
      rw [Core.maskLanes_activeMask]
      refine List.map_congr_left fun l hl => congrArg (Prod.mk l) ?_
      rw [getD_map_range (s.me.lanes_lt m l hl), aget_map_of_mem 0 g hl]
    exact congrArg (fun x => (c.writeV d.toNat x).keyedEnd m ((loadPlan s b p B M w br).okOf (s.me.lanes m.toNat))
      ((loadPlan s b p B M w br).resOf (s.me.lanes m.toNat))) hlanes
  · rw [KeyedPlan.getLsbD_okOf hl, s.me.mem_lanes, and_iff_right hl]
    rfl
  · rw [ht.v, Core.v_keyedEnd]

theorem vstk_leaves (hruns : RunsTo s m B M w br (storeAt s d b p B) 16) (hstored : StoredTo s d b m p B M br 16) {r : Nat}
    (hall : (∀ l < 16, s.me.inUse m l → br l = 0) → r = 0)
    (hfirst : ∀ l < 16, s.me.inUse m l → br l ≠ 0 → (∀ k < l, s.me.inUse m k → br k = 0) → r = br l) :
    Leaves (.vstk d a b m) s (s.upd fun c => { c.setBank f (B 16) with store := M 16 })
      (fun y => s.me.mBytes (m.zeroExtend 5) y ∨ nothing y) onlyStat fun t => KeyedResults s m t (fun l => br l = 0) r ∧ True := by
  obtain rfl := resOf_lanes (K := storePlan s d b p B M w br) rfl hall hfirst
  refine keyed_leaves hany hrange halign rfl hhit hp (keyedLanes_ok hB hM (storePlan_runs le_rfl hruns hstored)) (KeyedPlan.resOf_lt hbr _)
    (y := nothing) rfl (.refl _ _) (fun l hl => ?_) fun t _ => trivial
  rw [KeyedPlan.getLsbD_okOf hl, s.me.mem_lanes, and_iff_right hl]
  rfl

end

end

theorem keyed_elsewhere {i : Instr} {s : State} {st : Bool} {a b : Reg} {data : List W32} {m : BitVec 3}
    (he : exec i s = retire i s (keyedEff i st a b data m)) (hany : ¬ ∀ l < 16, ¬ s.me.inUse m l)
    (hrange : (s.me.s a.toNat).toNat + 4 ≤ 0x40000) (halign : (s.me.s a.toNat).toNat % 4 = 0)
    (h : ∀ f, s.me.hit (s.me.s a.toNat).toNat 4 ≠ .port f 0 ∧ s.me.hit (s.me.s a.toNat).toNat 4 ≠ .port f 0x10) :
    Traps i s tBANKPORT (s.me.s a.toNat) := by
  obtain ⟨c, hc⟩ := keyedAnswer_elsewhere (st := st) (b := b) (data := data) (m := m) hrange h
  exact keyed_traps hany hrange halign he hc

/-- Settles O32: one access to the own store (`keyedEff_own`), whose run of lanes follows the statement's structures and stores lane by lane
(`KeyedPlan.after_below`) to its end or to the lane that fails. -/
theorem keyedVectors : Obligations.KeyedVectors := by
  intro s d a b m x o key data results both
  refine ⟨fun h => ⟨keyed_idle rfl h, keyed_idle rfl h⟩, fun ⟨l, hl, hin⟩ hrange halign => ?_⟩
  have hany : ¬ ∀ l < 16, ¬ s.me.inUse m l := fun h => h l hl hin
  refine ⟨fun h => ⟨keyed_elsewhere rfl hany hrange halign h, keyed_elsewhere rfl hany hrange halign h⟩,
    fun f p B M w br hhit hp hB hM hbr => ?_⟩
  intro runs loads stores sound stored gives
  refine ⟨fun hruns hsound r => vldk_leaves hhit hp hB hM hbr hany hrange halign hruns hsound,
    fun hruns hstored r => vstk_leaves hhit hp hB hM hbr hany hrange halign hruns hstored, fun l hl hin => ⟨fun hruns hsound => ?_,
    fun hruns hstored => ?_⟩⟩
  · exact vldk_fails hhit hp hB hM hany hrange halign hl hin hruns hsound
  · exact vstk_fails hhit hp hB hM hany hrange halign hl hin hruns hstored

end Sys2Proof.Machine
end

section
/-! SUPPORT. Gathers and scatters (R138, R140): a run of lanes at plain memory of the own store, to its end or to the lane that faults. -/
namespace Sys2Proof.Machine
open Sys2Proof

/-! ## A core on its way through the lanes -/

/-- A core has changed some bytes of its store, without their poison marks, and some control registers, and nothing of its place in the
program. -/
structure Core.Along (c d : Core) (b n : Nat → Prop) : Prop where
  keeps : c.Keeps d b n
  cr : ∀ m, ¬ n m → d.cr_ m = c.cr_ m
  pc : d.pc = c.pc
  inRep : d.inRep = c.inRep
  poison : d.store.poison = c.store.poison

namespace Core.Along
variable {c d e : Core} {b b' n n' : Nat → Prop}

theorem refl (c : Core) : c.Along c b n := ⟨⟨rfl, .refl _ _, fun _ _ _ => rfl⟩, fun _ _ => rfl, rfl, rfl, rfl⟩

theorem trans (h : c.Along d b n) (h' : d.Along e b n) : c.Along e b n :=
  ⟨h.keeps.trans h'.keeps, fun m hm => (h'.cr m hm).trans (h.cr m hm), h'.pc.trans h.pc, h'.inRep.trans h.inRep, h'.poison.trans h.poison⟩

theorem mono (h : c.Along d b n) (hb : ∀ x, b x → b' x) (hn : ∀ m, n m → n' m) : c.Along d b' n' :=
  ⟨h.keeps.mono hb hn, fun m hm => h.cr m fun h => hm (hn m h), h.pc, h.inRep, h.poison⟩

theorem of_stores (h : c.Stores d b) (hp : d.store.poison = c.store.poison) : c.Along d b n :=
  ⟨h.keeps n, fun m _ => h.cr m, h.pc, h.inRep, hp⟩

theorem hit (h : c.Along d b n) (o k : Nat) : d.hit o k = c.hit o k := by
  have hbanks : d.banks = c.banks := by
    have x := congrArg Core.banks h.keeps.1
    exact x
  have hbank (j : Nat) : d.bank j = c.bank j := by rw [Core.bank, Core.bank, hbanks]
  unfold Core.hit
  simp only [hbank]

theorem wp (h : c.Along d b n) (hn : ¬ n Cr.wp) : d.wp = c.wp := congrArg BitVec.toNat (h.cr _ hn)

theorem poisoned (h : c.Along d b n) (a k : Nat) : d.store.poisoned a k = c.store.poisoned a k := by
  rw [Memory.poisoned, Memory.poisoned, h.poison]

/-- A word of the store that the change does not meet. -/
theorem read4 (h : c.Along d b n) {a : Nat} (ha : ∀ x, span a 4 x → ¬ b x) : d.store.read4 a = c.store.read4 a := by
  rw [Memory.read4, Memory.read4, Memory.readLE_congr _ _ fun x h1 h2 => h.keeps.2.1.1 x (ha x ⟨h1, h2⟩)]

/-- A change that leaves the reissue record aside. -/
theorem reissue {r : Option Reissue} (h : c.Along d b n) : Core.Along { c with reissue := r } { d with reissue := r } b n :=
  ⟨⟨congrArg (fun c => { c with reissue := r }) h.keeps.1, h.keeps.2⟩, h.cr, h.pc, h.inRep, h.poison⟩

end Core.Along

section
variable (c : Core)

theorem Memory.poison_store4 (m : Memory) (a v : Nat) : (m.store a 4 v).poison = m.poison := by
  rw [Memory.store, if_neg (by decide), Memory.poison_writeLE]

theorem Core.along_store (a v : Nat) : c.Along { c with store := c.store.store a 4 v } (span a 4) nothing :=
  .of_stores ⟨rfl, Memory.keeps_store ..⟩ (Memory.poison_store4 ..)

/-- One lane alone leaves the poison marks of its register (R318). -/
theorem Core.along_writeV (j l : Nat) (x : W32) (hl : l < 16) :
    c.Along (c.writeV j [(l, x)]) (fun y => vAddr c j ≤ y ∧ y < vAddr c j + 64) nothing := by
  refine .of_stores ((c.stores_writeV j [(l, x)]).mono fun y ⟨k, hk, hy⟩ => ?_) ?_
  · obtain rfl : k = l := by simpa using hk
    simp only [span] at hy
    omega
  · have hpoison : (c.writeV j [(l, x)]).store.poison = (c.setV j l x).store.poison := by
      simp [Core.writeV, Core.setLanes]
    rw [hpoison]
    exact Memory.poison_store4 ..

theorem Core.along_raise (fl : Nat) : c.Along (c.raise fl) nothing onlyFpc :=
  ⟨c.keeps_raise fl _, fun _ hm => c.cr_raise_other fl hm, rfl, c.inRep_raise fl, rfl⟩

theorem Core.along_raise_zero : c.Along (c.raise 0) nothing nothing := by
  have hcr (m : Nat) : (c.raise 0).cr_ m = c.cr_ m := by
    by_cases hm : m = Cr.fpc
    · subst hm
      exact (c.cr_raise 0).trans BitVec.or_zero
    · exact c.cr_raise_other 0 hm
  exact ⟨⟨rfl, .refl _ _, fun m _ _ => hcr m⟩, fun m _ => hcr m, rfl, c.inRep_raise 0, rfl⟩

theorem Core.inRep_setVprog (v : Word) : (c.setCr Cr.vprog v).inRep = c.inRep := by
  have hstat : (c.setCr Cr.vprog v).cr_ Cr.stat = c.cr_ Cr.stat := Core.cr_setCr_other _ _ (by decide)
  have hrep : (c.setCr Cr.vprog v).cr_ Cr.repstate = c.cr_ Cr.repstate := Core.cr_setCr_other _ _ (by decide)
  simp only [Core.inRep, Core.tm, hstat, hrep]
  rfl

theorem Core.along_setVprog (v : Word) : c.Along (c.setCr Cr.vprog v) nothing onlyVprog :=
  ⟨(c.keeps_setCr Cr.vprog v _).mono (fun _ h => h) fun _ h => h, fun _ hm => Core.cr_setCr_other _ _ hm, rfl, c.inRep_setVprog v, rfl⟩

end

/-! ## One lane -/

section
variable {s : State} {i : Instr} {L : Lanes} {l : Nat}

/-- The place of a lane of a gather or scatter (Table 5 of spec/07). -/
def Lanes.at_ (L : Lanes) (l : Nat) : Word := L.base + (L.idx.getD l 0).signExtend 64 * 4

theorem Lanes.at_eq (L : Lanes) (l : Nat) : L.base + ((L.idx.getD l 0).signExtend 64 <<< 2) = L.at_ l := by
  rw [BitVec.shiftLeft_eq_mul_twoPow]
  rfl

/-- A lane at plain memory of the own store, which answers it, is performed, and the run goes on. -/
theorem runLanes_step {M : Memory} {r : Resp} {f : Core → Core} (hown : OwnPlain s (laneAsk i L l).addr (laneAsk i L l).op.size)
    (hn : 0 < (laneAsk i L l).op.size) (hrel : (laneAsk i L l).releases = false)
    (hr : memAccess s.me.store (laneAsk i L l).op (laneAsk i L l).addr.toNat (laneAsk i L l).addr = (r, M)) (hdone : ∀ e v, r ≠ .trap e v)
    (htake : ∀ c, laneTake i L l r c = (f c, L)) : ∃ u, OnlyMine s u ∧
      u.me = f (Core.accessed { s.me with store := M } (laneAsk i L l).op.isAmo s.me.tm) ∧ ∀ t, runLanes i (l :: t) L s = runLanes i t L u := by
  have hgot := hown.attempt_done (i := i) hn hrel hr hdone
  refine ⟨(s.ownDone (laneAsk i L l) (laneAsk i L l).addr.toNat { s.me with store := M }).upd f,
    (State.onlyMine_ownDone _).trans (State.onlyMine_upd ..), ?_,
    fun t => ?_⟩
  · rw [State.me_upd, State.me_ownDone]
  · rw [runLanes]
    simp only [hgot, htake]
    rfl

/-- A misaligned lane below the end of the own store faults, and `VPROG` names it (R105, R140). -/
theorem runLanes_misaligned {t : List Nat} (hlt : (laneAsk i L l).addr.toNat < 0x40000)
    (halign : (laneAsk i L l).addr.toNat % (laneAsk i L l).op.size ≠ 0) (hposted : s.selfPosted s.cur = false) :
    runLanes i (l :: t) L s = .kept (s.upd fun c => c.atLane i L l) tALIGN (laneAsk i L l).addr := by
  have hplace : placeOf (laneAsk i L l).addr = .ok (.own (laneAsk i L l).addr.toNat) := placeOf_own (by omega)
  have hgot : attempt s i (laneAsk i L l) = .fault tALIGN (laneAsk i L l).addr := by simp [attempt, hplace, halign]
  rw [runLanes]
  simp only [hgot, hposted]
  rfl

/-- A run whose lanes are performed one by one, with what holds behind the lanes that are done. -/
theorem runLanes_along {I : List Nat → State → Prop} (all : List Nat)
    (hstep : ∀ D l t, D ++ l :: t = all → ∀ u, I D u → ∃ v, I (D ++ [l]) v ∧ ∀ t', runLanes i (l :: t') L u = runLanes i t' L v)
    (D t : List Nat) (hall : D ++ t = all) (u : State) (t' : List Nat) (hu : I D u) :
    ∃ v, I all v ∧ runLanes i (t ++ t') L u = runLanes i t' L v := by
  induction t generalizing D u with
  | nil => exact ⟨u, by rwa [← hall, List.append_nil], rfl⟩
  | cons l t ih =>
    obtain ⟨v, hv, hrun⟩ := hstep D l t hall u hu
    obtain ⟨w, hw, hrest⟩ := ih (D ++ [l]) (by rw [List.append_assoc, List.singleton_append, hall]) v hv
    exact ⟨w, hw, (hrun _).trans hrest⟩

end

/-! ## The end of a run -/

section
variable {i : Instr} {s base u : State} {body : State → Eff} {b n n' : Nat → Prop} {p : State → Prop}

theorem Core.v_setVprog (c : Core) (w : Word) (j l : Nat) : (c.setCr Cr.vprog w).v j l = c.v j l :=
  Core.v_congr (c := c) (d := c.setCr Cr.vprog w) rfl (congrArg BitVec.toNat (Core.cr_setCr_other _ _ (by decide))) j l

/-- A run that has come to its end: `VPROG` is 0, and the rest is as the lanes left it. -/
theorem Leaves.of_run (he : exec i s = retire i s body) (hb : body s = local_ u fun c => c.setCr Cr.vprog 0) (ho : OnlyMine base u)
    (ha : base.me.Along u.me b n) (hn : ∀ k, n k ∨ k = Cr.vprog → n' k) (hpc : base.me.pc = s.me.pc) (hrep : base.me.inRep = s.me.inRep)
    (hp : ∀ t : State, t.me.cr_ Cr.vprog = 0 → (∀ k, k ≠ Cr.vprog → k ≠ Cr.repstate → t.me.cr_ k = u.me.cr_ k) →
      t.me.store = u.me.store → (∀ j l, t.me.v j l = u.me.v j l) → p t) : Leaves i s base b n' p := by
  have hend : base.me.Along (u.me.setCr Cr.vprog 0) b n' := (ha.mono (fun _ h => h) fun k hk => hn k (.inl hk)).trans
    ((u.me.along_setVprog 0).mono (fun _ h => h.elim) fun k hk => hn k (.inr hk))
  refine Leaves.of_effect he hb (ho.trans (u.onlyMine_upd _)) ?_ ?_ ?_ fun t hs hcr => ?_
  · rw [State.me_upd]
    exact hend.keeps
  · rw [State.me_upd, hend.pc, hpc]
  · rw [State.me_upd, hend.inRep, hrep]
  · rw [State.me_upd] at hs
    simp only [State.me_upd] at hcr
    have ht : (u.me.setCr Cr.vprog 0).SameHeld t.me := ⟨hs, hcr⟩
    refine hp t ?_ (fun k hk hr => ?_) hs fun j l => ?_
    · rw [hcr _ (by decide)]
      exact Core.cr_setCr ..
    · rw [hcr k hr]
      exact Core.cr_setCr_other _ _ hk
    · rw [ht.v, Core.v_setVprog]

end

/-! ## The lanes to perform (R140) -/

section
variable (c : Core) (m : BitVec 3)

/-- The lanes that a gather or scatter performs, ascending. -/
def Core.toDoLanes (c : Core) (m : BitVec 3) : List Nat := maskLanes (fromLane (c.activeMask m) c.vprogLane)

theorem Core.vprogLane_eq : c.vprogLane = (c.cr_ Cr.vprog).toNat % 16 := by
  rw [Core.vprogLane, bits_eq_div_mod, pow_zero, Nat.div_one]
  rfl

theorem Core.mem_toDoLanes {l : Nat} : l ∈ c.toDoLanes m ↔ c.toDo m l := by
  have hbit (hl : l < 16) : (0xFFFF#16 <<< c.vprogLane).getLsbD l = true ↔ c.vprogLane ≤ l := by
    have hones : (0xFFFF#16) = BitVec.allOnes 16 := rfl
    rw [BitVec.getLsbD_shiftLeft, hones, BitVec.getLsbD_allOnes]
    simp [hl]
    omega
  rw [Core.toDoLanes, maskLanes, List.mem_filter, List.mem_range, Core.toDo, ← c.vprogLane_eq]
  refine and_congr_right fun hl => ?_
  rw [fromLane, BitVec.getLsbD_and, Bool.and_eq_true, hbit hl, c.getLsbD_activeMask m hl, c.active_iff]

theorem Core.toDoLanes_sorted : (c.toDoLanes m).Pairwise (· < ·) := (List.pairwise_lt_range (n := 16)).filter _

/-- The lanes to perform that lie below one of them. -/
theorem Core.toDoLanes_split {k : Nat} (hk : c.toDo m k) : ∃ A t, c.toDoLanes m = A ++ k :: t ∧ ∀ l, l ∈ A ↔ c.toDo m l ∧ l < k := by
  obtain ⟨A, t, h⟩ := List.append_of_mem ((c.mem_toDoLanes m).mpr hk)
  have hsorted := c.toDoLanes_sorted m
  rw [h, List.pairwise_append, List.pairwise_cons] at hsorted
  obtain ⟨-, ⟨habove, -⟩, hbelow⟩ := hsorted
  refine ⟨A, t, h, fun l => ⟨fun hl => ⟨?_, hbelow l hl k List.mem_cons_self⟩, fun ⟨hdo, hlt⟩ => ?_⟩⟩
  · rw [← c.mem_toDoLanes, h]
    exact List.mem_append_left _ hl
  · rw [← c.mem_toDoLanes, h, List.mem_append, List.mem_cons] at hdo
    rcases hdo with hl | rfl | hl
    · exact hl
    · exact absurd hlt (lt_irrefl _)
    · exact absurd (habove l hl) (by omega)

end

/-! ## Gathers -/

section
variable {s : State} {d a b : Reg} {m : BitVec 3}

/-- The lanes of a gather or scatter as it starts. -/
def Core.startLanes (c : Core) (a b : Reg) (data : List W32) (m : BitVec 3) : Lanes :=
  ⟨c.s a.toNat, c.vec b.toNat, data, fromLane (c.activeMask m) c.vprogLane, [], 0, brOK⟩

theorem gather_eq (i : Instr) (data : List W32) : gather i a b data m s = runLanes i (s.me.toDoLanes m) (s.me.startLanes a b data m) s := rfl

theorem Core.at_startLanes (c : Core) {data : List W32} {l : Nat} (hl : l < 16) : (c.startLanes a b data m).at_ l = c.laneAt a b l := by
  rw [Lanes.at_, Core.laneAt, ← c.getD_vec b.toNat hl]
  rfl

/-- A gather behind some lanes. -/
structure Gathered (s : State) (d a b : Reg) (D : List Nat) (u : State) : Prop where
  only : OnlyMine s u
  along : s.me.Along u.me (s.me.vBytes d) nothing
  lanes : ∀ l < 16, u.me.v d.toNat l = if l ∈ D then s.me.store.read4 (s.me.laneAt a b l).toNat else s.me.v d.toNat l

/-- A lane that a gather can take: plain memory, not poisoned, outside the destination. -/
def Takes (s : State) (d a b : Reg) (l : Nat) : Prop :=
  OwnPlain s (s.me.laneAt a b l) 4 ∧ s.me.store.poisoned (s.me.laneAt a b l).toNat 4 = false ∧
    ∀ y, span (s.me.laneAt a b l).toNat 4 y → ¬ s.me.vBytes d y

theorem OwnPlain.along {u : State} {x : Word} {n : Nat} {bs ns : Nat → Prop} (h : OwnPlain s x n) (hu : s.me.Along u.me bs ns) : OwnPlain u x n :=
  ⟨h.1, h.2.1, (hu.hit _ _).trans h.2.2⟩

theorem vldx_step {D : List Nat} {u : State} {l : Nat} (hl : l < 16) (htakes : Takes s d a b l) (hu : Gathered s d a b D u) :
    ∃ v, Gathered s d a b (D ++ [l]) v ∧ ∀ t, runLanes (.vldx d a b m) (l :: t) (s.me.startLanes a b [] m) u =
      runLanes (.vldx d a b m) t (s.me.startLanes a b [] m) v := by
  obtain ⟨hown, hclean, hapart⟩ := htakes
  obtain ⟨honly, halong, hlanes⟩ := hu
  have haddr : (laneAsk (.vldx d a b m) (s.me.startLanes a b [] m) l).addr = s.me.laneAt a b l :=
    ((s.me.startLanes a b [] m).at_eq l).trans (s.me.at_startLanes hl)
  let x : W32 := s.me.store.read4 (s.me.laneAt a b l).toNat
  have htake (c : Core) : laneTake (.vldx d a b m) (s.me.startLanes a b [] m) l
      (.value (extend 4 false (u.me.store.readLE (s.me.laneAt a b l).toNat 4)) none) c = (c.writeV d.toNat [(l, x)], s.me.startLanes a b [] m) := by
    have hlt : u.me.store.readLE (s.me.laneAt a b l).toNat 4 < 2 ^ (8 * 4) := Memory.readLE_lt ..
    have hx : (zext (u.me.store.readLE (s.me.laneAt a b l).toNat 4)).truncate 32 = x :=
      (BitVec.setWidth_ofNat_of_le (by decide) _).trans (halong.read4 hapart)
    rw [extend_zero hlt, ← hx]
    rfl
  obtain ⟨v, hv, hme, hrun⟩ := runLanes_step (i := .vldx d a b m) (L := s.me.startLanes a b [] m) (l := l)
    (M := u.me.store) (haddr ▸ hown.along halong) (by decide : 0 < 4) (by simp [laneAsk, Ask.releases])
    (by rw [haddr]; exact memAccess_load _ _ _ ((halong.poisoned _ _).trans hclean)) (by simp) htake
  have hwp : u.me.wp = s.me.wp := halong.wp fun h => h
  have hme : v.me = u.me.writeV d.toNat [(l, x)] := hme
  have hwrite := u.me.along_writeV d.toNat l x hl
  rw [← hme] at hwrite
  refine ⟨v, ⟨honly.trans hv, halong.trans (hwrite.mono (fun y hy => ?_) fun _ h => h), fun j hj => ?_⟩, hrun⟩
  · simpa only [Core.vBytes, vAddr, hwp] using hy
  · rw [hme]
    refine (Core.v_writeV (c := u.me) d.toNat (fun _ => x) [l] j).trans ?_
    rw [hlanes j hj]
    by_cases hjl : j = l
    · subst hjl
      simp [x]
    · simp [hjl]

/-- The lanes of a gather, performed in order as far as a list of them goes. -/
theorem vldx_run {A rest : List Nat} (hsplit : s.me.toDoLanes m = A ++ rest) (h : ∀ l ∈ A, Takes s d a b l) (t : List Nat) :
    ∃ u, Gathered s d a b A u ∧ runLanes (.vldx d a b m) (A ++ t) (s.me.startLanes a b [] m) s =
      runLanes (.vldx d a b m) t (s.me.startLanes a b [] m) u := by
  refine runLanes_along A (fun D l t hall u hu => ?_) [] A rfl s t ⟨.refl _, .refl _, fun _ _ => rfl⟩
  have hl : l ∈ A := hall ▸ List.mem_append_right D List.mem_cons_self
  have hdo : s.me.toDo m l := (s.me.mem_toDoLanes m).mp (hsplit ▸ List.mem_append_left rest hl)
  exact vldx_step hdo.1 (h l hl) hu

theorem vldx_does (h : ∀ l, s.me.toDo m l → Takes s d a b l) : Does (.vldx d a b m) s (s.me.vBytes d) onlyVprog fun t => t.me.cr_ Cr.vprog = 0 ∧
    ∀ l < 16, (s.me.toDo m l → t.me.v d.toNat l = s.me.store.read4 (s.me.laneAt a b l).toNat) ∧
      (¬ s.me.toDo m l → t.me.v d.toNat l = s.me.v d.toNat l) := by
  obtain ⟨u, ⟨honly, halong, hlanes⟩, hrun⟩ := vldx_run (List.append_nil _).symm (fun l hl => h l ((s.me.mem_toDoLanes m).mp hl)) []
  have hb : gather (.vldx d a b m) a b [] m s = local_ u fun c => c.setCr Cr.vprog 0 := by
    rw [gather_eq, ← List.append_nil (s.me.toDoLanes m), hrun]
    rfl
  refine Leaves.of_run (n' := onlyVprog) rfl hb honly halong (fun k hk => hk.elim (fun h => h.elim) id) rfl rfl fun t hprog _ _ hv =>
    ⟨hprog, fun l hl => ?_⟩
  rw [hv, hlanes l hl, ← s.me.mem_toDoLanes]
  exact ⟨fun h => if_pos h, fun h => if_neg h⟩

/-! ## Scatters -/

/-- The last of some lanes that has a place leaves its word there. -/
def LastAt (p : Nat → Nat) (D : List Nat) (l : Nat) : Prop := ∀ k ∈ D, l < k → p k ≠ p l

/-- The bytes of the words of some lanes. -/
def placesOf (p : Nat → Nat) (D : List Nat) (x : Nat) : Prop := ∃ l ∈ D, span (p l) 4 x

theorem placesOf_append {p : Nat → Nat} {D : List Nat} {l x : Nat} : placesOf p (D ++ [l]) x ↔ placesOf p D x ∨ span (p l) 4 x := by
  simp only [placesOf, List.mem_append, List.mem_singleton, or_and_right, exists_or, exists_eq_left]

/-- The place of a lane. -/
def Core.placeAt (c : Core) (a b : Reg) (l : Nat) : Nat := (c.laneAt a b l).toNat

/-- A scatter behind some lanes. -/
structure Scattered (s : State) (d a b : Reg) (D : List Nat) (u : State) : Prop where
  only : OnlyMine s u
  along : s.me.Along u.me (placesOf (s.me.placeAt a b) D) nothing
  words : ∀ l ∈ D, LastAt (s.me.placeAt a b) D l → u.me.store.read4 (s.me.placeAt a b l) = s.me.v d.toNat l

theorem vstx_step {D : List Nat} {u : State} {l : Nat} (hl : l < 16) (hown : OwnPlain s (s.me.laneAt a b l) 4)
    (haligned : ∀ k ∈ D, s.me.placeAt a b k % 4 = 0) (hD : ∀ k ∈ D, k < l) (hu : Scattered s d a b D u) :
    ∃ v, Scattered s d a b (D ++ [l]) v ∧ ∀ t, runLanes (.vstx d a b m) (l :: t) (s.me.startLanes a b (s.me.vec d.toNat) m) u =
      runLanes (.vstx d a b m) t (s.me.startLanes a b (s.me.vec d.toNat) m) v := by
  obtain ⟨honly, halong, hwords⟩ := hu
  let L := s.me.startLanes a b (s.me.vec d.toNat) m
  let o := s.me.placeAt a b l
  let x : W32 := s.me.v d.toNat l
  have haddr : (laneAsk (.vstx d a b m) L l).addr = s.me.laneAt a b l := (L.at_eq l).trans (s.me.at_startLanes hl)
  have hdata : (((s.me.vec d.toNat).getD l 0).zeroExtend 64).toNat % 2 ^ (8 * 4) = x.toNat := by
    rw [s.me.getD_vec _ hl, BitVec.toNat_setWidth, Nat.mod_eq_of_lt (b := 2 ^ 64) (x.isLt.trans (by decide))]
    exact Nat.mod_eq_of_lt x.isLt
  obtain ⟨v, hv, hme, hrun⟩ := runLanes_step (i := .vstx d a b m) (L := L) (l := l) (M := u.me.store.store o 4 x.toNat) (r := .value 0 none)
    (f := fun c => c.raise 0) (haddr ▸ hown.along halong) (by decide : 0 < 4) (by simp [laneAsk, Ask.releases])
    (by rw [haddr, ← hdata]; rfl) (by simp) (fun _ => rfl)
  have hme : v.me = Core.raise { u.me with store := u.me.store.store o 4 x.toNat } 0 := hme
  have hstep := (u.me.along_store o x.toNat).trans
    ((Core.along_raise_zero { u.me with store := u.me.store.store o 4 x.toNat }).mono (fun _ h => h.elim) fun _ h => h)
  rw [← hme] at hstep
  refine ⟨v, ⟨honly.trans hv, (halong.mono (fun y hy => placesOf_append.mpr (.inl hy)) fun _ h => h).trans
    (hstep.mono (fun y hy => placesOf_append.mpr (.inr hy)) fun _ h => h), fun k hk hlast => ?_⟩, hrun⟩
  · have hstore : v.me.store = u.me.store.store o 4 x.toNat := by rw [hme]; rfl
    rw [hstore]
    rcases List.mem_append.mp hk with hk | hk
    · have hne : s.me.placeAt a b l ≠ s.me.placeAt a b k := hlast l (by simp) (hD k hk)
      have hl4 : s.me.placeAt a b l % 4 = 0 := hown.2.1
      have hk4 := haligned k hk
      rw [Memory.read4_store_other _ _ _ (by omega)]
      exact hwords k hk fun j hj => hlast j (List.mem_append_left _ hj)
    · obtain rfl : k = l := by simpa using hk
      exact Memory.read4_store _ _

/-- The lanes of a scatter, performed in order as far as a list of them goes. -/
theorem vstx_run {A rest : List Nat} (hsplit : s.me.toDoLanes m = A ++ rest) (h : ∀ l ∈ A, OwnPlain s (s.me.laneAt a b l) 4) (t : List Nat) :
    ∃ u, Scattered s d a b A u ∧ runLanes (.vstx d a b m) (A ++ t) (s.me.startLanes a b (s.me.vec d.toNat) m) s =
      runLanes (.vstx d a b m) t (s.me.startLanes a b (s.me.vec d.toNat) m) u := by
  have hsorted := s.me.toDoLanes_sorted m
  rw [hsplit, List.pairwise_append] at hsorted
  obtain ⟨hsorted, -, -⟩ := hsorted
  refine runLanes_along A (fun D l t hall u hu => ?_) [] A rfl s t ⟨.refl _, .refl _, fun _ h => absurd h List.not_mem_nil⟩
  have hl : l ∈ A := hall ▸ List.mem_append_right D List.mem_cons_self
  have hdo : s.me.toDo m l := (s.me.mem_toDoLanes m).mp (hsplit ▸ List.mem_append_left rest hl)
  rw [← hall, List.pairwise_append] at hsorted
  obtain ⟨-, -, hbelow⟩ := hsorted
  exact vstx_step hdo.1 (h l hl) (fun k hk => (h k (hall ▸ List.mem_append_left _ hk)).2.1) (fun k hk => hbelow k hk l List.mem_cons_self) hu

theorem vstx_does (h : ∀ l, s.me.toDo m l → OwnPlain s (s.me.laneAt a b l) 4) :
    Does (.vstx d a b m) s (fun y => ∃ l, s.me.toDo m l ∧ span (s.me.laneAt a b l).toNat 4 y) onlyVprog fun t => t.me.cr_ Cr.vprog = 0 ∧
      ∀ l, s.me.toDo m l → (∀ k, l < k → s.me.toDo m k → (s.me.laneAt a b k).toNat ≠ (s.me.laneAt a b l).toNat) →
        t.me.store.read4 (s.me.laneAt a b l).toNat = s.me.v d.toNat l := by
  obtain ⟨u, ⟨honly, halong, hwords⟩, hrun⟩ := vstx_run (d := d) (List.append_nil _).symm (fun l hl => h l ((s.me.mem_toDoLanes m).mp hl)) []
  have hb : gather (.vstx d a b m) a b (s.me.vec d.toNat) m s = local_ u fun c => c.setCr Cr.vprog 0 := by
    rw [gather_eq, ← List.append_nil (s.me.toDoLanes m), hrun]
    rfl
  refine Leaves.of_run (n' := onlyVprog) (body := fun s => gather (.vstx d a b m) a b (s.me.vec d.toNat) m s) rfl hb honly
    (halong.mono (fun y ⟨l, hl, hy⟩ => ⟨l, (s.me.mem_toDoLanes m).mp hl, hy⟩) fun _ h => h)
    (fun k hk => hk.elim (fun h => h.elim) id) rfl rfl fun t hprog _ hstore _ => ⟨hprog, fun l hl hlast => ?_⟩
  rw [hstore]
  exact hwords l ((s.me.mem_toDoLanes m).mpr hl) fun k hk hlt => hlast k hlt ((s.me.mem_toDoLanes m).mp hk)

/-! ## A lane that faults (R140) -/

theorem State.selfPosted_of_outer {u : State} (h : u.outer = s.outer) (r : CoreRef) : u.selfPosted r = s.selfPosted r := by
  have hself (s : State) : s.selfPosted r = s.outer.selfPosted r := rfl
  exact (hself u).trans ((congrArg (State.selfPosted · r) h).trans (hself s).symm)

/-- The trap of a lane: what the lanes below it have done stays, unless the trap is a DOUBLE (R193). -/
theorem exec_of_kept {i : Instr} {body : State → Eff} {u : State} {e : Nat} {v : Word} (he : exec i s = retire i s body)
    (hb : body s = .kept u e v) :
    (s.me.cannotTrap = true → Traps i s e v) ∧ (s.me.cannotTrap = false → Passes s i → exec i s = .next (u.raise e v)) := by
  refine ⟨fun h hp => ?_, fun h hp => ?_⟩
  · rw [exec_of_passes he hp, hb, Eff.apply, h]
    rfl
  · rw [exec_of_passes he hp, hb, Eff.apply, h]
    rfl

/-- What a faulting lane leaves: `VPROG` names it behind the lanes below it. -/
theorem Faults.of_run {i : Instr} {body : State → Eff} {u : State} {L : Lanes} {k : Nat} {t : List Nat} {bs : Nat → Prop} {p : State → Prop}
    (he : exec i s = retire i s body) (hb : body s = runLanes i (k :: t) L u) (honly : OnlyMine s u) (halong : s.me.Along u.me bs nothing)
    (hk : k < 16) (hat : ∀ c : Core, c.atLane i L k = c.setCr Cr.vprog (BitVec.ofNat 64 k)) (hsize : (laneAsk i L k).op.size = 4) {x : Word}
    (haddr : (laneAsk i L k).addr = x) (hlt : x.toNat < 0x40000) (halign : x.toNat % 4 ≠ 0) (hposted : s.selfPosted s.cur = false)
    (hp : ∀ v : State, v.me.store = u.me.store → (∀ j l, v.me.v j l = u.me.v j l) → p v) :
    (s.me.cannotTrap = true → Traps i s tALIGN x) ∧
      (s.me.cannotTrap = false → Passes s i → ∃ v, exec i s = .next (v.raise tALIGN x) ∧
        OnlyMine s v ∧ s.me.Keeps v.me bs onlyVprog ∧ v.me.pc = s.me.pc ∧ (v.me.cr_ Cr.vprog).toNat = k ∧ p v) := by
  subst haddr
  have hposted : u.selfPosted u.cur = false := by rw [honly.cur, State.selfPosted_of_outer honly.1, hposted]
  obtain ⟨hdouble, htrap⟩ := exec_of_kept he (hb.trans (runLanes_misaligned hlt (by rw [hsize]; exact halign) hposted))
  refine ⟨hdouble, fun hcan hpass => ⟨_, htrap hcan hpass, honly.trans (u.onlyMine_upd _), ?_⟩⟩
  have hme : (u.upd fun c => c.atLane i L k).me = u.me.setCr Cr.vprog (BitVec.ofNat 64 k) := by rw [State.me_upd, hat]
  have hstep := (halong.mono (n' := onlyVprog) (fun _ h => h) fun _ h => h.elim).trans
    ((u.me.along_setVprog (BitVec.ofNat 64 k)).mono (fun _ h => h.elim) fun _ h => h)
  rw [← hme] at hstep
  refine ⟨hstep.keeps, hstep.pc, ?_, hp _ ?_ fun j l => ?_⟩
  · rw [hme, Core.cr_setCr, BitVec.toNat_ofNat]
    omega
  · rw [hme]
    rfl
  · rw [hme, Core.v_setVprog]

section
variable {k : Nat} (hk : s.me.toDo m k) (hlt : (s.me.laneAt a b k).toNat < 0x40000) (halign : (s.me.laneAt a b k).toNat % 4 ≠ 0)
  (hposted : s.selfPosted s.cur = false)
include hk hlt halign hposted

theorem vldx_faults (h : ∀ l < k, s.me.toDo m l → Takes s d a b l) :
    (s.me.cannotTrap = true → Traps (.vldx d a b m) s tALIGN (s.me.laneAt a b k)) ∧
      (s.me.cannotTrap = false → Passes s (.vldx d a b m) → ∃ u, exec (.vldx d a b m) s = .next (u.raise tALIGN (s.me.laneAt a b k)) ∧
        OnlyMine s u ∧ s.me.Keeps u.me (s.me.vBytes d) onlyVprog ∧ u.me.pc = s.me.pc ∧ (u.me.cr_ Cr.vprog).toNat = k ∧
        ∀ l < 16, (s.me.toDo m l → l < k → u.me.v d.toNat l = s.me.store.read4 (s.me.laneAt a b l).toNat) ∧
          (¬ s.me.toDo m l ∨ k ≤ l → u.me.v d.toNat l = s.me.v d.toNat l)) := by
  obtain ⟨A, t, hsplit, hA⟩ := s.me.toDoLanes_split m hk
  obtain ⟨u, ⟨honly, halong, hlanes⟩, hrun⟩ := vldx_run (d := d) hsplit (fun l hl => h l ((hA l).mp hl).2 ((hA l).mp hl).1) (k :: t)
  have hb : gather (.vldx d a b m) a b [] m s = runLanes (.vldx d a b m) (k :: t) (s.me.startLanes a b [] m) u := by rw [gather_eq, hsplit, hrun]
  refine Faults.of_run rfl hb honly halong hk.1 (fun _ => rfl) rfl ((Lanes.at_eq _ _).trans (s.me.at_startLanes hk.1)) hlt halign hposted
    fun v _ hv l hl => ?_
  rw [hv, hlanes l hl]
  refine ⟨fun hdo hlt => if_pos ((hA l).mpr ⟨hdo, hlt⟩), fun hout => if_neg fun hin => ?_⟩
  obtain ⟨hdo, hbelow⟩ := (hA l).mp hin
  exact hout.elim (· hdo) (not_le.mpr hbelow)

theorem vstx_faults (h : ∀ l < k, s.me.toDo m l → OwnPlain s (s.me.laneAt a b l) 4) :
    (s.me.cannotTrap = true → Traps (.vstx d a b m) s tALIGN (s.me.laneAt a b k)) ∧
      (s.me.cannotTrap = false → Passes s (.vstx d a b m) → ∃ u, exec (.vstx d a b m) s = .next (u.raise tALIGN (s.me.laneAt a b k)) ∧
        OnlyMine s u ∧ s.me.Keeps u.me (fun y => ∃ l < k, s.me.toDo m l ∧ span (s.me.laneAt a b l).toNat 4 y) onlyVprog ∧
        u.me.pc = s.me.pc ∧ (u.me.cr_ Cr.vprog).toNat = k ∧
        ∀ l < k, s.me.toDo m l → (∀ j < k, l < j → s.me.toDo m j → s.me.laneAt a b j ≠ s.me.laneAt a b l) →
          u.me.store.read4 (s.me.laneAt a b l).toNat = s.me.v d.toNat l) := by
  obtain ⟨A, t, hsplit, hA⟩ := s.me.toDoLanes_split m hk
  obtain ⟨u, ⟨honly, halong, hwords⟩, hrun⟩ := vstx_run (d := d) hsplit (fun l hl => h l ((hA l).mp hl).2 ((hA l).mp hl).1) (k :: t)
  have hb : gather (.vstx d a b m) a b (s.me.vec d.toNat) m s =
      runLanes (.vstx d a b m) (k :: t) (s.me.startLanes a b (s.me.vec d.toNat) m) u := by rw [gather_eq, hsplit, hrun]
  refine Faults.of_run (body := fun s => gather (.vstx d a b m) a b (s.me.vec d.toNat) m s) rfl hb honly
    (halong.mono (fun y ⟨l, hl, hy⟩ => ⟨l, ((hA l).mp hl).2, ((hA l).mp hl).1, hy⟩) fun _ h => h) hk.1 (fun _ => rfl) rfl
    ((Lanes.at_eq _ _).trans (s.me.at_startLanes hk.1)) hlt halign hposted fun v hstore _ l hlk hdo hlast => ?_
  rw [hstore]
  refine hwords l ((hA l).mpr ⟨hdo, hlk⟩) fun j hj hlj heq => ?_
  exact hlast j ((hA j).mp hj).2 hlj ((hA j).mp hj).1 (BitVec.eq_of_toNat_eq heq)

end

end

end Sys2Proof.Machine
end

section
/-! SUPPORT. Lanes merged by address (R141): the groups, their sums and their flags. -/
namespace Sys2Proof.Machine
open Sys2Proof

/-! ## Sums of FP32 stay within their format -/

theorem f32_signed_lt {n : Bool} {x : Nat} (h : x ≤ f32.infBits) : f32.signed n x < 2 ^ 32 := by
  have hinf : f32.infBits = 2139095040 := rfl
  have hsign : f32.signBit = 2 ^ 31 := rfl
  rw [Fmt.signed, hsign]
  split <;> omega

theorem f32_round_lt (rm : Nat) (ftz neg : Bool) (m : Nat) (e : Int) (sticky : Bool) : (f32.round rm ftz neg m e sticky).1 < 2 ^ 32 := by
  simp only [Fmt.round]
  split
  · exact f32_signed_lt (Nat.zero_le _)
  · split
    · refine f32_signed_lt ?_
      split
      · exact le_rfl
      · exact Nat.sub_le _ _
    · next hlt =>
      split
      · exact f32_signed_lt (Nat.zero_le _)
      · exact f32_signed_lt (not_le.mp hlt).le

theorem f32_sumFin_lt (rm : Nat) (ftz n1 n2 : Bool) (m1 m2 : Nat) (e1 e2 : Int) : (f32.sumFin rm ftz n1 m1 e1 n2 m2 e2).1 < 2 ^ 32 := by
  rw [Fmt.sumFin]
  split
  · exact f32_signed_lt (Nat.zero_le _)
  · dsimp only
    generalize (if m1 = 0 then e2 else if m2 = 0 then e1 else min e1 e2) = lo
    generalize (if m1 = 0 then 0 else scaled n1 m1 e1 lo) + (if m2 = 0 then 0 else scaled n2 m2 e2 lo) = x
    split
    · exact f32_signed_lt (Nat.zero_le _)
    · exact f32_round_lt ..

theorem f32_add_lt (rm : Nat) (ftz : Bool) (x y : Fp) : (f32.add rm ftz x y).1 < 2 ^ 32 := by
  have hnan : f32.nan < 2 ^ 32 := by decide
  have hinf (n : Bool) : f32.signed n f32.infBits < 2 ^ 32 := f32_signed_lt le_rfl
  cases x with
  | nan _ => exact hnan
  | inf n => cases y with
    | nan _ => exact hnan
    | inf k =>
      simp only [Fmt.add]
      split
      · exact hinf n
      · exact hnan
    | fin _ _ _ => exact hinf n
  | fin _ _ _ => cases y with
    | nan _ => exact hnan
    | inf k => exact hinf k
    | fin _ _ _ => exact f32_sumFin_lt ..

/-! ## A sum over a group of lanes -/

section
variable {add : Nat → Nat → Nat × Nat} {data : Nat → Nat}

theorem merged_append {L : List Nat} (hL : L ≠ []) (k : Nat) : merged add data (L ++ [k]) =
    ((add (merged add data L).1 (data k)).1, (merged add data L).2 ||| (add (merged add data L).1 (data k)).2) := by
  obtain ⟨l, t, rfl⟩ := List.exists_cons_of_ne_nil hL
  exact List.foldl_append

theorem merged_lt (hadd : ∀ x y, (add x y).1 < 2 ^ 32) (hdata : ∀ l, data l < 2 ^ 32) (L : List Nat) : (merged add data L).1 < 2 ^ 32 := by
  induction L using List.reverseRecOn with
  | nil => exact Nat.two_pow_pos 32
  | append_singleton L k _ =>
    by_cases hL : L = []
    · subst hL
      exact hdata k
    · rw [merged_append hL]
      exact hadd ..

end

/-! ## The lowest lanes of the groups -/

section
variable (key : Nat → W32)

/-- The lanes of a list whose key no earlier lane has. -/
def firstsOf (P : List Nat) : List Nat := P.foldl (fun F l => if F.any fun g => key g == key l then F else F ++ [l]) []

variable {key} {P : List Nat} {l : Nat}

theorem firstsOf_append (l : Nat) :
    firstsOf key (P ++ [l]) = if (firstsOf key P).any fun g => key g == key l then firstsOf key P else firstsOf key P ++ [l] := List.foldl_append

theorem mem_of_mem_firstsOf (h : l ∈ firstsOf key P) : l ∈ P := by
  induction P using List.reverseRecOn with
  | nil => exact absurd h List.not_mem_nil
  | append_singleton P k ih =>
    rw [firstsOf_append] at h
    split at h
    · exact List.mem_append_left _ (ih h)
    · exact (List.mem_append.mp h).elim (fun h => List.mem_append_left _ (ih h)) (List.mem_append_right _)

/-- Every lane has the key of the lowest lane of its group. -/
theorem exists_firstsOf (h : l ∈ P) : ∃ g ∈ firstsOf key P, key g = key l := by
  induction P using List.reverseRecOn with
  | nil => exact absurd h List.not_mem_nil
  | append_singleton P k ih =>
    have hkept {g : Nat} (hg : g ∈ firstsOf key P) : g ∈ firstsOf key (P ++ [k]) := by
      rw [firstsOf_append]
      split
      · exact hg
      · exact List.mem_append_left _ hg
    rcases List.mem_append.mp h with h | h
    · obtain ⟨g, hg, he⟩ := ih h
      exact ⟨g, hkept hg, he⟩
    · obtain rfl : l = k := by simpa using h
      by_cases hany : (firstsOf key P).any fun g => key g == key l
      · obtain ⟨g, hg, he⟩ := List.any_eq_true.mp hany
        exact ⟨g, hkept hg, by simpa using he⟩
      · exact ⟨l, by rw [firstsOf_append, if_neg hany]; simp, rfl⟩

theorem firstsOf_distinct (P : List Nat) : (firstsOf key P).Pairwise fun g h => key g ≠ key h := by
  induction P using List.reverseRecOn with
  | nil => exact .nil
  | append_singleton P k ih =>
    rw [firstsOf_append]
    split
    · exact ih
    · next hnone =>
      refine List.pairwise_append.mpr ⟨ih, List.pairwise_singleton _ _, fun g hg h hh => ?_⟩
      obtain rfl : h = k := by simpa using hh
      exact fun he => hnone (List.any_eq_true.mpr ⟨g, hg, by simpa using he⟩)

theorem length_firstsOf (P : List Nat) : (firstsOf key P).length ≤ P.length := by
  induction P using List.reverseRecOn with
  | nil => exact le_rfl
  | append_singleton P k ih =>
    rw [firstsOf_append, List.length_append]
    split
    · omega
    · rw [List.length_append]
      simpa using ih

end

/-! ## The merging -/

section
variable (add : Nat → Nat → Nat × Nat) (idx data : List W32)

/-- The sum and flags of a lane's group among some lanes. -/
def groupSum (P : List Nat) (l : Nat) : Nat × Nat :=
  merged add (fun k => (data.getD k 0).toNat) (P.filter fun k => idx.getD k 0 = idx.getD l 0)

/-- The groups of some lanes, each at its lowest lane. -/
def groupsOf (P : List Nat) : List (Nat × W32 × Nat) :=
  (firstsOf (idx.getD · 0) P).map fun g => (g, BitVec.ofNat 32 (groupSum add idx data P g).1, (groupSum add idx data P g).2)

variable {add idx data} {P : List Nat}

theorem groupSum_other {g l : Nat} (h : idx.getD g 0 ≠ idx.getD l 0) : groupSum add idx data (P ++ [l]) g = groupSum add idx data P g := by
  rw [groupSum, List.filter_append, List.filter_cons_of_neg (by simpa using Ne.symm h), List.filter_nil, List.append_nil, groupSum]

theorem groupSum_same {g l : Nat} (hg : g ∈ P) (h : idx.getD g 0 = idx.getD l 0) : groupSum add idx data (P ++ [l]) g =
    let r := add (groupSum add idx data P g).1 (data.getD l 0).toNat
    (r.1, (groupSum add idx data P g).2 ||| r.2) := by
  have hne : (P.filter fun k => idx.getD k 0 = idx.getD g 0) ≠ [] := List.ne_nil_of_mem (List.mem_filter.mpr ⟨hg, by simp⟩)
  rw [groupSum, List.filter_append, List.filter_cons_of_pos (by simpa using h.symm), List.filter_nil, merged_append hne]
  rfl

theorem groupSum_first {l : Nat} (h : ∀ k ∈ P, idx.getD k 0 ≠ idx.getD l 0) :
    groupSum add idx data (P ++ [l]) l = ((data.getD l 0).toNat, 0) := by
  have hnil : (P.filter fun k => idx.getD k 0 = idx.getD l 0) = [] := List.filter_eq_nil_iff.mpr fun k hk => by simpa using h k hk
  rw [groupSum, List.filter_append, hnil, List.filter_cons_of_pos (by simp)]
  rfl

/-- The sum is that of the lane's key. -/
theorem groupSum_congr {g l : Nat} (h : idx.getD g 0 = idx.getD l 0) : groupSum add idx data P g = groupSum add idx data P l := by
  rw [groupSum, groupSum, h]

/-- The lanes are merged as the groups of the lanes before them grow. -/
theorem mergeLanes_groups (hadd : ∀ x y, (add x y).1 < 2 ^ 32) (t P : List Nat) :
    mergeLanes add idx data t (groupsOf add idx data P) = groupsOf add idx data (P ++ t) := by
  induction t generalizing P with
  | nil => rw [List.append_nil]; rfl
  | cons l t ih =>
    have hany : ((groupsOf add idx data P).any fun g => idx.getD g.1 0 == idx.getD l 0) =
        (firstsOf (idx.getD · 0) P).any fun g => idx.getD g 0 == idx.getD l 0 := List.any_map
    have hsplit : P ++ l :: t = P ++ [l] ++ t := by simp
    rw [hsplit, ← ih (P ++ [l])]
    rw [mergeLanes]
    simp only [hany]
    split
    · next hin =>
      refine congrArg (mergeLanes add idx data t) ?_
      rw [groupsOf, groupsOf, firstsOf_append, if_pos hin, List.map_map]
      refine List.map_congr_left fun g hg => ?_
      have hlt : (groupSum add idx data P g).1 < 2 ^ 32 := merged_lt hadd (fun _ => BitVec.isLt _) _
      by_cases hsame : idx.getD g 0 = idx.getD l 0
      · rw [groupSum_same (mem_of_mem_firstsOf hg) hsame]
        simp only [Function.comp_apply, hsame, beq_self_eq_true, if_true, BitVec.toNat_ofNat, Nat.mod_eq_of_lt hlt]
      · rw [groupSum_other hsame]
        simp only [Function.comp_apply, beq_eq_false_iff_ne.mpr hsame, Bool.false_eq_true, if_false]
    · next hout =>
      refine congrArg (mergeLanes add idx data t) ?_
      have hnone (k : Nat) (hk : k ∈ P) : idx.getD k 0 ≠ idx.getD l 0 := fun he => by
        obtain ⟨g, hg, hge⟩ := exists_firstsOf (key := (idx.getD · 0)) hk
        exact hout (List.any_eq_true.mpr ⟨g, hg, by simpa using hge.trans he⟩)
      rw [groupsOf, groupsOf, firstsOf_append, if_neg hout, List.map_append]
      refine congrArg₂ (· ++ ·) (List.map_congr_left fun g hg => ?_) ?_
      · rw [groupSum_other (hnone g (mem_of_mem_firstsOf hg))]
      · simp only [List.map_cons, List.map_nil, groupSum_first hnone, BitVec.ofNat_toNat, BitVec.setWidth_eq]

end

/-! ## Unions of flags -/

theorem testBit_foldl_or {α : Type} (f : α → Nat) (L : List α) (x n : Nat) :
    (L.foldl (fun r a => r ||| f a) x).testBit n = true ↔ x.testBit n = true ∨ ∃ a ∈ L, (f a).testBit n = true := by
  induction L generalizing x with
  | nil => simp
  | cons a t ih => simp [ih, or_assoc]

/-- The flags of the groups are those of all their lanes. -/
theorem flags_firstsOf {key : Nat → W32} {f : Nat → Nat} (P : List Nat) (hf : ∀ g l, key g = key l → f g = f l) :
    (firstsOf key P).foldl (fun r g => r ||| f g) 0 = P.foldl (fun r l => r ||| f l) 0 := by
  refine Nat.eq_of_testBit_eq fun n => Bool.eq_iff_iff.mpr ?_
  rw [testBit_foldl_or, testBit_foldl_or]
  refine or_congr_right ⟨fun ⟨g, hg, hb⟩ => ⟨g, mem_of_mem_firstsOf hg, hb⟩, fun ⟨l, hl, hb⟩ => ?_⟩
  obtain ⟨g, hg, he⟩ := exists_firstsOf (key := key) hl
  exact ⟨g, hg, hf g l he ▸ hb⟩

end Sys2Proof.Machine
end

section
/-! SUPPORT. `vstxadd` (R141): merged sums added to plain memory of the own store. -/
namespace Sys2Proof.Machine
open Sys2Proof

/-! ## One place for each key -/

theorem toNat_near (x : W32) : (x.signExtend 64 * 4).toNat = (x.toNat + if 2 ^ 31 ≤ x.toNat then 2 ^ 64 - 2 ^ 32 else 0) * 4 % 2 ^ 64 := by
  rw [BitVec.toNat_mul, BitVec.toNat_signExtend, BitVec.toNat_setWidth, Nat.mod_eq_of_lt (b := 2 ^ 64) (x.isLt.trans (by decide))]
  simp only [BitVec.msb_eq_decide, decide_eq_true_eq]
  rfl

/-- Addresses of lanes are as different as their indices. -/
theorem laneAt_inj {c : Core} {a b : Reg} {k l : Nat} (h : c.laneAt a b k = c.laneAt a b l) : c.v b.toNat k = c.v b.toNat l := by
  have h4 : (c.v b.toNat k).signExtend 64 * 4 = (c.v b.toNat l).signExtend 64 * 4 := (BitVec.add_right_inj (c.s a.toNat)).mp h
  have hnat := congrArg BitVec.toNat h4
  rw [toNat_near, toNat_near] at hnat
  have hk := (c.v b.toNat k).isLt
  have hl := (c.v b.toNat l).isLt
  refine BitVec.eq_of_toNat_eq ?_
  split at hnat <;> split at hnat <;> omega

section
variable (s : State) (d a b : Reg) (m : BitVec 3) (t : BitVec 1)

/-- The addition of `vstxadd`. -/
def Core.laneAdd (c : Core) (t : BitVec 1) : Nat → Nat → Nat × Nat :=
  if t = 1#1 then fpOp2 f32 c (f32.add c.rm c.ftz) else fun x y => ((x + y) % 2 ^ 32, 0)

theorem Core.laneAdd_lt (c : Core) (t : BitVec 1) (x y : Nat) : (c.laneAdd t x y).1 < 2 ^ 32 := by
  rw [Core.laneAdd]
  split
  · exact f32_add_lt ..
  · exact Nat.mod_lt _ (by decide)

/-- The sum and flags of a lane's group. -/
def Core.laneSum (c : Core) (d b : Reg) (m : BitVec 3) (t : BitVec 1) (l : Nat) : Nat × Nat :=
  groupSum (c.laneAdd t) (c.vec b.toNat) (c.vec d.toNat) (c.lanes m.toNat) l

/-- The lowest lanes of the groups. -/
def Core.groupLanes (c : Core) (b : Reg) (m : BitVec 3) : List Nat := firstsOf ((c.vec b.toNat).getD · 0) (c.lanes m.toNat)

/-- The groups that are merged. -/
def Core.groups (c : Core) (d b : Reg) (m : BitVec 3) (t : BitVec 1) : List (Nat × W32 × Nat) :=
  groupsOf (c.laneAdd t) (c.vec b.toNat) (c.vec d.toNat) (c.lanes m.toNat)

/-- The lanes that are added. -/
def Core.addLanes (c : Core) (d a b : Reg) (m : BitVec 3) (t : BitVec 1) : Lanes :=
  ⟨c.s a.toNat, c.vec b.toNat, (List.range 16).map fun l => aget 0 (valuesOf (c.groups d b m t)) l, maskOf (c.groupLanes b m),
    (List.range 16).map fun l => (aget (0, 0) (c.groups d b m t) l).2, 0, brOK⟩

/-- The sum that a shadow unit checks in a lane. -/
def Core.sumOf (c : Core) (d b : Reg) (m : BitVec 3) (t : BitVec 1) (n : Nat) : Nat :=
  match (c.groups d b m t).find? fun g => (c.vec b.toNat).getD g.1 0 == (c.vec b.toNat).getD n 0 with | some g => g.2.1.toNat | none => 0

/-- The body of `vstxadd` from lane 0 on. -/
theorem exec_vstxadd (h : bits (s.me.cr_ Cr.vprog) 0 4 = 0) : ∃ body, exec (.vstxadd d a b m t) s = retire (.vstxadd d a b m t) s body ∧
    body s = let hit := flagsOf (s.me.groups d b m t) &&& s.me.enables
      let run (n : Nat) := runLanes (.vstxadd d a b m t) ((s.me.groupLanes b m).take n) (s.me.addLanes d a b m t) s
      if hit ≠ 0 then .kept (s.upd fun c => c.raise hit) tFP (BitVec.ofNat 64 (hit * 16))
      else match (if t = 1#1 then s.disputed (some (s.me.lanes m.toNat)) (fun x => f32.diverges (s.me.sumOf d b m t x.lane) x) else none) with
        | some n => shadowLast n (run 1)
        | none => run 16 := by
  refine ⟨_, rfl, ?_⟩
  have hprog : s.me.vprogLane = 0 := h
  have hlow (P : List Nat) : P.filter (fun l => decide (l < 0)) = [] := List.filter_eq_nil_iff.mpr fun l _ => by simp
  have hrest (P : List Nat) : P.filter (fun l => decide (0 ≤ l) && !([] : List Nat).any fun j =>
      (s.me.vec b.toNat).getD j 0 == (s.me.vec b.toNat).getD l 0) = P := List.filter_eq_self.mpr fun l _ => by simp
  have hmerge : mergeLanes (s.me.laneAdd t) (s.me.vec b.toNat) (s.me.vec d.toNat) (s.me.lanes m.toNat) [] = s.me.groups d b m t :=
    mergeLanes_groups (s.me.laneAdd_lt t) (s.me.lanes m.toNat) []
  have hfirst : (s.me.groups d b m t).map (·.1) = s.me.groupLanes b m := by
    simp only [Core.groups, groupsOf, List.map_map, Core.groupLanes]
    exact List.map_id _
  dsimp only
  simp only [hprog, hlow, hrest, s.me.maskLanes_activeMask]
  rw [← Core.laneAdd, hmerge, hfirst]
  rfl

/-! ## One group added -/

variable {s d a b m t}

/-- A word with a sum added to it. -/
def addedTo (t : BitVec 1) (old : W32) (sum : Nat) : W32 := if t = 1 then rneAdd32 old (BitVec.ofNat 32 sum) else old + BitVec.ofNat 32 sum

theorem amoNew_added {old b d : Nat} {x y : W32} (ho : BitVec.ofNat 32 old = x) (hx : old < 2 ^ 32) (hb : b = y.toNat) (t : BitVec 1) :
    amoNew (if t = 1#1 then 10 else 0) 4 old b d = (if t = 1 then rneAdd32 x y else x + y).toNat := by
  subst ho hb
  split
  · next h =>
    rw [if_pos (show t = 1 from h), amoNew, BitVec.ofNat_toNat, BitVec.setWidth_eq]
  · next h =>
    rw [if_neg (show ¬ t = 1 from h), BitVec.toNat_add, BitVec.toNat_ofNat, Nat.mod_eq_of_lt hx]
    rfl

theorem groupLanes_lt {g : Nat} (h : g ∈ s.me.groupLanes b m) : g < 16 := s.me.lanes_lt m g (mem_of_mem_firstsOf h)

theorem data_addLanes {g : Nat} (h : g ∈ s.me.groupLanes b m) :
    (s.me.addLanes d a b m t).data.getD g 0 = BitVec.ofNat 32 (s.me.laneSum d b m t g).1 := by
  have hvalues : valuesOf (s.me.groups d b m t) = (s.me.groupLanes b m).map fun g => (g, BitVec.ofNat 32 (s.me.laneSum d b m t g).1) := List.map_map
  refine (getD_map_range (groupLanes_lt h)).trans ?_
  rw [hvalues]
  exact aget_map_of_mem 0 (fun g => BitVec.ofNat 32 (s.me.laneSum d b m t g).1) h

theorem flags_addLanes {g : Nat} (h : g ∈ s.me.groupLanes b m) : (s.me.addLanes d a b m t).flags.getD g 0 = (s.me.laneSum d b m t g).2 := by
  have hg := groupLanes_lt h
  have hflags : (s.me.addLanes d a b m t).flags.getD g 0 = (aget (0, 0) (s.me.groups d b m t) g).2 := by
    simp [Core.addLanes, hg]
  rw [hflags]
  exact congrArg Prod.snd (aget_map_of_mem (0, 0) (fun g => (BitVec.ofNat 32 (s.me.laneSum d b m t g).1, (s.me.laneSum d b m t g).2)) h)

/-- Different groups have different places. -/
theorem placeAt_ne {g k : Nat} (hg : g ∈ s.me.groupLanes b m) (hk : k ∈ s.me.groupLanes b m)
    (h : (s.me.vec b.toNat).getD g 0 ≠ (s.me.vec b.toNat).getD k 0) : s.me.placeAt a b g ≠ s.me.placeAt a b k := fun he => by
  rw [s.me.getD_vec _ (groupLanes_lt hg), s.me.getD_vec _ (groupLanes_lt hk)] at h
  exact h (laneAt_inj (BitVec.eq_of_toNat_eq he))

/-- The union of the flags of some groups. -/
def Core.flagsTo (c : Core) (d b : Reg) (m : BitVec 3) (t : BitVec 1) (D : List Nat) : Nat := D.foldl (fun f g => f ||| (c.laneSum d b m t g).2) 0

theorem or_ofNat_flags (w : Word) (x y : Nat) :
    w ||| BitVec.ofNat 64 (x * 16) ||| BitVec.ofNat 64 (y * 16) = w ||| BitVec.ofNat 64 ((x ||| y) * 16) := by
  have hshift (n : Nat) : n * 16 = n <<< 4 := (Nat.shiftLeft_eq n 4).symm
  rw [BitVec.or_assoc, hshift, hshift, hshift, Nat.shiftLeft_or_distrib, BitVec.ofNat_or]

/-- A core with another reissue record (R116). -/
def Core.reissuing (c : Core) (r : Option Reissue) : Core := { c with reissue := r }

/-- `vstxadd` behind some groups. -/
structure Added (s : State) (d a b : Reg) (m : BitVec 3) (t : BitVec 1) (D : List Nat) (u : State) : Prop where
  only : OnlyMine s u
  along : ∃ r, (s.me.reissuing r).Along u.me (placesOf (s.me.placeAt a b) D) onlyFpc
  fpc : u.me.cr_ Cr.fpc = s.me.cr_ Cr.fpc ||| BitVec.ofNat 64 (s.me.flagsTo d b m t D * 16)
  words : ∀ g ∈ D, u.me.store.read4 (s.me.placeAt a b g) = addedTo t (s.me.store.read4 (s.me.placeAt a b g)) (s.me.laneSum d b m t g).1

theorem vstxadd_step {D : List Nat} {u : State} {g : Nat} (hg : g ∈ s.me.groupLanes b m) (hown : OwnPlain s (s.me.laneAt a b g) 4)
    (hclean : s.me.store.poisoned (s.me.placeAt a b g) 4 = false) (haligned : ∀ k ∈ D, s.me.placeAt a b k % 4 = 0)
    (hD : ∀ k ∈ D, s.me.placeAt a b k ≠ s.me.placeAt a b g) (hu : Added s d a b m t D u) :
    ∃ v, Added s d a b m t (D ++ [g]) v ∧ ∀ l, runLanes (.vstxadd d a b m t) (g :: l) (s.me.addLanes d a b m t) u =
      runLanes (.vstxadd d a b m t) l (s.me.addLanes d a b m t) v := by
  obtain ⟨honly, ⟨r, halong⟩, hfpc, hwords⟩ := hu
  let L := s.me.addLanes d a b m t
  let o := s.me.placeAt a b g
  let old : W32 := s.me.store.read4 o
  let fl := (s.me.laneSum d b m t g).2
  let x : W32 := addedTo t old (s.me.laneSum d b m t g).1
  have hl := groupLanes_lt hg
  have haddr : (laneAsk (.vstxadd d a b m t) L g).addr = s.me.laneAt a b g := by
    refine (L.at_eq g).trans ?_
    rw [Lanes.at_, Core.laneAt, ← s.me.getD_vec b.toNat hl]
    rfl
  have ho4 : o % 4 = 0 := hown.2.1
  have hold : u.me.store.read4 o = old := halong.read4 fun y hy ⟨k, hk, hky⟩ => by
    have hne := hD k hk
    have hk4 := haligned k hk
    simp only [span] at hy hky
    omega
  have hnew : amoNew (if t = 1#1 then 10 else 0) 4 (u.me.store.readLE o 4) (((L.data.getD g 0).zeroExtend 64).toNat % 2 ^ (8 * 4))
      ((0 : Word).toNat % 2 ^ (8 * 4)) = x.toNat := by
    refine amoNew_added hold (Memory.readLE_lt ..) ?_ t
    rw [data_addLanes hg, BitVec.toNat_setWidth, Nat.mod_eq_of_lt (b := 2 ^ 64) ((BitVec.isLt _).trans (by decide))]
    exact Nat.mod_eq_of_lt (BitVec.isLt _)
  have htake (c : Core) : laneTake (.vstxadd d a b m t) L g (.value (BitVec.ofNat 64 (u.me.store.readLE o 4)) none) c = (c.raise fl, L) := by
    have hflags : L.flags.getD g 0 = fl := flags_addLanes hg
    rw [← hflags]
    rfl
  obtain ⟨v, hv, hme, hrun⟩ := runLanes_step (i := .vstxadd d a b m t) (L := L) (l := g) (M := u.me.store.store o 4 x.toNat) (s := u)
    (haddr ▸ ⟨hown.1, hown.2.1, (halong.hit _ _).trans hown.2.2⟩) (by decide : 0 < 4) (by simp [laneAsk, Ask.releases])
    (by rw [haddr, ← hnew]; exact memAccess_amo _ _ _ _ _ ((halong.poisoned _ _).trans hclean)) (by simp) htake
  have hme : v.me = Core.raise { u.me.reissuing (if u.me.tm then u.me.reissue else none) with store := u.me.store.store o 4 x.toNat } fl :=
    hme.trans (congrArg (Core.raise · fl) (Core.accessed_amo _ _))
  let w := if u.me.tm then u.me.reissue else none
  have hstep : (u.me.reissuing w).Along v.me (span o 4) onlyFpc := by
    rw [hme]
    exact ((Core.along_store (u.me.reissuing w) o x.toNat).mono (fun _ h => h) fun _ h => h.elim).trans
      ((Core.along_raise _ fl).mono (fun _ h => h.elim) fun _ h => h)
  have hbase : (s.me.reissuing w).Along (u.me.reissuing w) (placesOf (s.me.placeAt a b) D) onlyFpc := halong.reissue (r := w)
  refine ⟨v, ⟨honly.trans hv, ⟨w, (hbase.mono (fun y hy => placesOf_append.mpr (.inl hy)) fun _ h => h).trans
    (hstep.mono (fun y hy => placesOf_append.mpr (.inr hy)) fun _ h => h)⟩, ?_, fun k hk => ?_⟩, hrun⟩
  · rw [hme, Core.cr_raise]
    refine (congrArg (· ||| BitVec.ofNat 64 (fl * 16)) hfpc).trans ?_
    rw [or_ofNat_flags, Core.flagsTo, Core.flagsTo, List.foldl_append]
    rfl
  · have hstore : v.me.store = u.me.store.store o 4 x.toNat := by rw [hme]; rfl
    rw [hstore]
    rcases List.mem_append.mp hk with hk | hk
    · have hne : s.me.placeAt a b k ≠ o := hD k hk
      have hk4 := haligned k hk
      rw [Memory.read4_store_other _ _ _ (by omega)]
      exact hwords k hk
    · obtain rfl : k = g := by simpa using hk
      exact Memory.read4_store _ _

/-! ## The run -/

section
variable (h0 : bits (s.me.cr_ Cr.vprog) 0 4 = 0)
  (h : ∀ l, s.me.toDo m l → OwnPlain s (s.me.laneAt a b l) 4 ∧ s.me.store.poisoned (s.me.laneAt a b l).toNat 4 = false)

theorem toDo_iff (h0 : bits (s.me.cr_ Cr.vprog) 0 4 = 0) {l : Nat} : s.me.toDo m l ↔ l ∈ s.me.lanes m.toNat := by
  have hprog : (s.me.cr_ Cr.vprog).toNat % 16 = 0 := by rw [← Core.vprogLane_eq]; exact h0
  simp [Core.toDo, Core.mem_lanes, hprog]

include h0 h

/-- The groups, added in order as far as a list of them goes. -/
theorem vstxadd_run {A rest : List Nat} (hsplit : s.me.groupLanes b m = A ++ rest) : ∃ u, Added s d a b m t A u ∧
    runLanes (.vstxadd d a b m t) A (s.me.addLanes d a b m t) s = local_ u fun c => c.setCr Cr.vprog 0 := by
  have hdistinct : (A ++ rest).Pairwise fun g k => (s.me.vec b.toNat).getD g 0 ≠ (s.me.vec b.toNat).getD k 0 :=
    hsplit ▸ firstsOf_distinct (key := ((s.me.vec b.toNat).getD · 0)) (s.me.lanes m.toNat)
  obtain ⟨hdistinct, -, -⟩ := List.pairwise_append.mp hdistinct
  have hmem {g : Nat} (hg : g ∈ A) : g ∈ s.me.groupLanes b m := hsplit ▸ List.mem_append_left rest hg
  have htoDo {g : Nat} (hg : g ∈ A) : s.me.toDo m g := (toDo_iff h0).mpr (mem_of_mem_firstsOf (hmem hg))
  obtain ⟨u, hu, hrun⟩ := runLanes_along (i := .vstxadd d a b m t) (L := s.me.addLanes d a b m t) (I := Added s d a b m t) A
    (fun D g l hall u hu => by
      have hg : g ∈ A := hall ▸ List.mem_append_right D List.mem_cons_self
      have hD {k : Nat} (hk : k ∈ D) : k ∈ A := hall ▸ List.mem_append_left _ hk
      rw [← hall, List.pairwise_append] at hdistinct
      obtain ⟨-, -, hbelow⟩ := hdistinct
      obtain ⟨hown, hclean⟩ := h g (htoDo hg)
      exact vstxadd_step (hmem hg) hown hclean (fun k hk => (h k (htoDo (hD hk))).1.2.1)
        (fun k hk => placeAt_ne (hmem (hD hk)) (hmem hg) (hbelow k hk g List.mem_cons_self)) hu) [] A rfl s []
    ⟨.refl _, ⟨s.me.reissue, .refl _⟩, BitVec.or_zero.symm, fun _ hg => absurd hg List.not_mem_nil⟩
  rw [List.append_nil] at hrun
  exact ⟨u, hu, hrun⟩

end

/-! ## The sums and flags of the statement -/

theorem merged_congr {add : Nat → Nat → Nat × Nat} {f g : Nat → Nat} {L : List Nat} (h : ∀ l ∈ L, f l = g l) :
    merged add f L = merged add g L := by
  induction L using List.reverseRecOn with
  | nil => rfl
  | append_singleton L k ih =>
    have hk := h k (by simp)
    by_cases hL : L = []
    · subst hL
      simp [merged, hk]
    · rw [merged_append hL, merged_append hL, ih fun l hl => h l (List.mem_append_left _ hl), hk]

theorem laneSum_eq {l : Nat} (hl : l < 16) : s.me.laneSum d b m t l =
    merged (s.me.laneAdd t) (fun k => (s.me.v d.toNat k).toNat) ((s.me.lanes m.toNat).filter fun k => s.me.v b.toNat k = s.me.v b.toNat l) := by
  have hlanes : (s.me.lanes m.toNat).filter (fun k => decide ((s.me.vec b.toNat).getD k 0 = (s.me.vec b.toNat).getD l 0)) =
      (s.me.lanes m.toNat).filter fun k => decide (s.me.v b.toNat k = s.me.v b.toNat l) :=
    List.filter_congr fun k hk => by rw [s.me.getD_vec _ hl, s.me.getD_vec _ (s.me.lanes_lt m k hk)]
  rw [Core.laneSum, groupSum, hlanes]
  exact merged_congr fun k hk => by rw [s.me.getD_vec _ (s.me.lanes_lt m k (List.mem_filter.mp hk).1)]

theorem flagsTo_groups : s.me.flagsTo d b m t (s.me.groupLanes b m) = (s.me.lanes m.toNat).foldl (fun f l => f ||| (s.me.laneSum d b m t l).2) 0 :=
  flags_firstsOf (f := fun l => (s.me.laneSum d b m t l).2) _ fun _ _ he => congrArg Prod.snd (groupSum_congr he)

theorem flagsOf_groups : flagsOf (s.me.groups d b m t) = s.me.flagsTo d b m t (s.me.groupLanes b m) := List.foldl_map

theorem sumOf_eq {n : Nat} (hn : n ∈ s.me.lanes m.toNat) : s.me.sumOf d b m t n = (s.me.laneSum d b m t n).1 := by
  obtain ⟨g, hfind⟩ : ∃ g, (s.me.groupLanes b m).find? (fun g => (s.me.vec b.toNat).getD g 0 == (s.me.vec b.toNat).getD n 0) = some g := by
    obtain ⟨g, hg, he⟩ := exists_firstsOf (key := ((s.me.vec b.toNat).getD · 0)) hn
    rw [← Option.isSome_iff_exists, List.find?_isSome]
    exact ⟨g, hg, by simpa using he⟩
  have he : (s.me.vec b.toNat).getD g 0 = (s.me.vec b.toNat).getD n 0 := by simpa using List.find?_some hfind
  have hgroups : (s.me.groups d b m t).find? (fun g => (s.me.vec b.toNat).getD g.1 0 == (s.me.vec b.toNat).getD n 0) =
      some (g, BitVec.ofNat 32 (s.me.laneSum d b m t g).1, (s.me.laneSum d b m t g).2) := by
    rw [Core.groups, groupsOf, List.find?_map]
    exact congrArg (Option.map _) hfind
  have hlt : (s.me.laneSum d b m t g).1 < 2 ^ 32 := merged_lt (s.me.laneAdd_lt t) (fun _ => BitVec.isLt _) _
  rw [Core.sumOf, hgroups]
  refine (BitVec.toNat_ofNat ..).trans ((Nat.mod_eq_of_lt hlt).trans ?_)
  exact congrArg Prod.fst (groupSum_congr he)

/-! ## The instruction -/

/-- The flags of all sums. -/
def Core.sumFlags (c : Core) (d b : Reg) (m : BitVec 3) (t : BitVec 1) : Nat := (c.lanes m.toNat).foldl (fun f l => f ||| (c.laneSum d b m t l).2) 0

theorem flagsOf_groups_eq : flagsOf (s.me.groups d b m t) = s.me.sumFlags d b m t := flagsOf_groups.trans flagsTo_groups

section
variable (h0 : bits (s.me.cr_ Cr.vprog) 0 4 = 0)
include h0

theorem vstxadd_raises (hit : s.me.sumFlags d b m t &&& s.me.enables ≠ 0) (hp : Passes s (.vstxadd d a b m t)) :
    exec (.vstxadd d a b m t) s = .next ((if s.me.cannotTrap then s else s.upd fun c => c.raise (s.me.sumFlags d b m t &&& s.me.enables)).raise tFP
      (BitVec.ofNat 64 ((s.me.sumFlags d b m t &&& s.me.enables) * 16))) := by
  obtain ⟨body, he, hb⟩ := exec_vstxadd s d a b m t h0
  rw [flagsOf_groups_eq] at hb
  rw [exec_of_passes he hp, hb.trans (if_pos hit), Eff.apply]
  split
  · rfl
  · rfl

variable (h : ∀ l, s.me.toDo m l → OwnPlain s (s.me.laneAt a b l) 4 ∧ s.me.store.poisoned (s.me.laneAt a b l).toNat 4 = false)
  (hit : s.me.sumFlags d b m t &&& s.me.enables = 0)
include h hit

theorem vstxadd_shadow (ht : t = 1) {n : Nat}
    (hn : s.disputed (some (s.me.lanes m.toNat)) (fun x => f32.diverges (s.me.laneSum d b m t x.lane).1 x) = some n) :
    Traps (.vstxadd d a b m t) s tSHADOW (BitVec.ofNat 64 n) := by
  obtain ⟨body, he, hb⟩ := exec_vstxadd s d a b m t h0
  obtain ⟨u, -, hrun⟩ := vstxadd_run (d := d) (t := t) h0 h (List.take_append_drop 1 (s.me.groupLanes b m)).symm
  have hdisputed : s.disputed (some (s.me.lanes m.toNat)) (fun x => f32.diverges (s.me.sumOf d b m t x.lane) x) = some n := by
    rw [← hn]
    exact State.disputed_congr fun x hx => by rw [sumOf_eq hx]
  have hflags : flagsOf (s.me.groups d b m t) &&& s.me.enables = 0 := by rw [flagsOf_groups_eq, hit]
  refine .of_trap he (hb.trans ((if_neg (not_not.mpr hflags)).trans ?_))
  rw [if_pos (show t = 1#1 from ht), hdisputed]
  exact congrArg (shadowLast n) hrun

theorem vstxadd_leaves (hn : t = 0 ∨ s.disputed (some (s.me.lanes m.toNat)) (fun x => f32.diverges (s.me.laneSum d b m t x.lane).1 x) = none) :
    ∃ r, Leaves (.vstxadd d a b m t) s (s.upd fun c => c.reissuing r) (fun y => ∃ l, s.me.toDo m l ∧ span (s.me.laneAt a b l).toNat 4 y)
      (fun n => n = Cr.vprog ∨ n = Cr.fpc) fun u => u.me.cr_ Cr.vprog = 0 ∧
        u.me.cr_ Cr.fpc = s.me.cr_ Cr.fpc ||| BitVec.ofNat 64 (s.me.sumFlags d b m t * 16) ∧
        ∀ l, s.me.toDo m l → u.me.store.read4 (s.me.laneAt a b l).toNat =
          addedTo t (s.me.store.read4 (s.me.laneAt a b l).toNat) (s.me.laneSum d b m t l).1 := by
  obtain ⟨body, he, hb⟩ := exec_vstxadd s d a b m t h0
  obtain ⟨u, ⟨honly, ⟨r, halong⟩, hfpc, hwords⟩, hrun⟩ := vstxadd_run (d := d) (t := t) h0 h (List.append_nil (s.me.groupLanes b m)).symm
  have hnone : (if t = 1#1 then s.disputed (some (s.me.lanes m.toNat)) (fun x => f32.diverges (s.me.sumOf d b m t x.lane) x) else none) = none := by
    rcases hn with rfl | hn
    · rfl
    · split
      · rw [← hn]
        exact State.disputed_congr fun x hx => by rw [sumOf_eq hx]
      · rfl
  have htake : (s.me.groupLanes b m).take 16 = s.me.groupLanes b m := by
    refine List.take_of_length_le ((length_firstsOf _).trans ?_)
    exact (List.length_filter_le _ _).trans (List.length_range).le
  have hbody : body s = local_ u fun c => c.setCr Cr.vprog 0 := by
    have hflags : flagsOf (s.me.groups d b m t) &&& s.me.enables = 0 := by rw [flagsOf_groups_eq, hit]
    refine hb.trans ((if_neg (not_not.mpr hflags)).trans ?_)
    rw [hnone]
    exact (congrArg (fun l => runLanes (.vstxadd d a b m t) l (s.me.addLanes d a b m t) s) htake).trans hrun
  have hme : (s.upd fun c => c.reissuing r).me = s.me.reissuing r := State.me_upd ..
  refine ⟨r, Leaves.of_run he hbody (honly.of_upd _) (n := onlyFpc) (hme ▸ halong.mono (fun y ⟨g, hg, hy⟩ => ⟨g, ?_, hy⟩) fun _ h => h)
    (fun k hk => hk.symm) (by rw [hme]; rfl) (by rw [hme]; rfl) fun v hprog hcr hstore _ => ⟨hprog, ?_, fun l hl => ?_⟩⟩
  · exact (toDo_iff h0).mpr (mem_of_mem_firstsOf hg)
  · rw [hcr _ (by decide) (by decide), hfpc, flagsTo_groups]
    rfl
  · obtain ⟨g, hg, hkey⟩ := exists_firstsOf (key := ((s.me.vec b.toNat).getD · 0)) ((toDo_iff h0).mp hl)
    have hplace : s.me.laneAt a b g = s.me.laneAt a b l := by
      have hv : s.me.v b.toNat g = s.me.v b.toNat l := by
        rw [← s.me.getD_vec b.toNat (groupLanes_lt hg), ← s.me.getD_vec b.toNat hl.1]
        exact hkey
      rw [Core.laneAt, Core.laneAt, hv]
    have hword := hwords g hg
    rw [Core.placeAt, hplace] at hword
    have hsum : s.me.laneSum d b m t g = s.me.laneSum d b m t l := groupSum_congr hkey
    rw [hstore, hword, hsum]

end

/-- A sum as the statement writes it. -/
theorem laneSum_statement {l : Nat} (hl : l < 16) : s.me.laneSum d b m t l =
    merged (fun x y => if t = 1 then fpOp2 f32 s.me (f32.add s.me.rm s.me.ftz) x y else ((x + y) % 2 ^ 32, 0)) (fun k => (s.me.v d.toNat k).toNat)
      ((s.me.lanes m.toNat).filter fun k => s.me.v b.toNat k = s.me.v b.toNat l) := by
  have hadd : s.me.laneAdd t = fun x y => if t = 1 then fpOp2 f32 s.me (f32.add s.me.rm s.me.ftz) x y else ((x + y) % 2 ^ 32, 0) := by
    funext x y
    by_cases ht : t = 1#1
    · rw [Core.laneAdd, if_pos ht, if_pos (show t = 1 from ht)]
    · rw [Core.laneAdd, if_neg ht, if_neg (show ¬ t = 1 from ht)]
  rw [laneSum_eq hl, hadd]

theorem sumFlags_congr {f : Nat → Nat × Nat} (hf : ∀ l < 16, s.me.laneSum d b m t l = f l) :
    s.me.sumFlags d b m t = (s.me.lanes m.toNat).foldl (fun x l => x ||| (f l).2) 0 :=
  List.foldl_ext _ _ _ fun x l hl => by rw [hf l (s.me.lanes_lt m l hl)]

end

/-- Settles O33: each lane is one access to plain memory of the own store (`runLanes_step`), so that a run keeps what its lanes leave behind them
(`Gathered`, `Scattered`, `Added`), to its end (`Leaves.of_run`) or to a misaligned lane (`Faults.of_run`). -/
theorem gathersAndScatters : Obligations.GathersAndScatters := by
  refine ⟨fun s d a b m => fun h => vldx_does h, fun s d a b m => fun h => vstx_does h, fun s d a b m t => ?_, fun s d a b m k => ?_⟩
  · intro c at_ i add sum fl reaches_ disputed h0
    have hsum (l : Nat) (hl : l < 16) : s.me.laneSum d b m t l = sum l := laneSum_statement hl
    have hfl : s.me.sumFlags d b m t = fl := sumFlags_congr hsum
    have hdisputed : s.disputed (some (s.me.lanes m.toNat)) (fun x => f32.diverges (s.me.laneSum d b m t x.lane).1 x) = disputed :=
      State.disputed_congr fun x hx => by rw [hsum _ (s.me.lanes_lt m _ hx)]
    rw [← hfl, ← hdisputed]
    refine ⟨vstxadd_raises h0, fun hit hreach ht n => vstxadd_shadow h0 hreach hit ht, fun hit hreach hn => ?_⟩
    obtain ⟨r, hleaves⟩ := vstxadd_leaves h0 hreach hit hn
    refine ⟨r, fun hp => ?_⟩
    obtain ⟨u, hu, honly, hkeeps, hgo, hprog, hfpc, hwords⟩ := hleaves hp
    exact ⟨u, hu, honly, hkeeps, hgo, hprog, hfpc, fun l hl => hsum l hl.1 ▸ hwords l hl⟩
  · intro at_ hk hlt halign hposted h faults
    exact ⟨vldx_faults hk hlt halign hposted h, vstx_faults hk hlt halign hposted fun l hl hdo => (h l hl hdo).1⟩

end Sys2Proof.Machine
end

section
/-! SUPPORT. `nop`, `self` and `trap` (R175, R176, R180). -/
namespace Sys2Proof.Machine
open Sys2Proof

/-! ## The words of `nop` and `eret` -/

/-- A word that decodes to a wide instruction is that instruction's word. -/
theorem encode_of_decode_wide {lo hi : Half} {i : Instr} (h : decode lo hi = .ok i) (hi' : isShort i = false) : encode i = some (hi ++ lo) := by
  have hm := Laws.Encoding.wordsHaveOneMeaning.1 lo hi i h
  split at hm
  · exact hm.2
  · rw [hi'] at hm
    exact absurd hm.1 Bool.false_ne_true

theorem fields_of_decode_nop {lo hi : Half} (h : decode lo hi = .ok .nop) : (hi ++ lo).extractLsb' 7 20 = 0 := by
  rw [← Option.some.inj (encode_of_decode_wide h rfl)]
  decide

theorem fields_of_decode_eret {lo hi : Half} (h : decode lo hi = .ok .eret) : (hi ++ lo).extractLsb' 7 20 = 0 := by
  rw [← Option.some.inj (encode_of_decode_wide h rfl)]
  decide

/-- The words of MAJ 0x2E are those of the SYS table. -/
theorem decode_sys {lo hi : Half} (h : (hi ++ lo : W32).extractLsb' 0 7 = 0x5D#7) :
    ∃ c b a d, decode lo hi = decodeSys ((hi ++ lo : W32).extractLsb' 27 5) c b a d := by
  have hwide : lo.getLsbD 0 = true := by
    have hb := congrArg (BitVec.getLsbD · 0) h
    simp only [BitVec.getLsbD_extractLsb'] at hb
    rw [← Laws.Encoding.append_isWide lo hi]
    simpa using hb
  have hmaj : lo.extractLsb' 1 6 = 0x2E#6 := by
    have hx := congrArg (BitVec.extractLsb' 1 6) h
    rw [Laws.Encoding.extract_extract _ (by decide)] at hx
    rw [← Laws.Encoding.majOf_append lo hi]
    exact hx
  refine ⟨hi.extractLsb' 6 5, hi.extractLsb' 1 5, aOf (hi ++ lo), dOf (hi ++ lo), (Laws.Encoding.decode_wide hi hwide).trans ?_⟩
  rw [hmaj, ← Laws.Encoding.fnOf_append lo hi]
  rfl

theorem exists_error_of_need {lo hi : Half} {z : Bool} {i : Instr} (h : decode lo hi = need z i) (hne : decode lo hi ≠ .ok i) :
    ∃ e, decode lo hi = .error e := by
  cases z with
  | true => exact absurd h hne
  | false => exact ⟨_, h⟩

/-- Settles O12: `nop` and `c.nop` by `Does.of_next`; a word of `nop` or `eret` decodes as its SYS table line (`decode_sys`), and to no
instruction unless it is that instruction's word. -/
theorem nopDoesNothing : Obligations.NopDoesNothing := by
  refine ⟨fun s => .of_next rfl rfl, fun s => .of_next rfl rfl, fun _ _ => fields_of_decode_nop, fun _ _ => fields_of_decode_eret,
    ?_, fun _ _ _ => rfl⟩
  intro lo hi w hw hfn hne
  obtain ⟨c, b, a, d, hd⟩ := decode_sys hw
  obtain hfn | hfn := hfn
  · exact exists_error_of_need (hd.trans (by rw [hfn]; rfl)) fun h => hne (fields_of_decode_nop h)
  · exact exists_error_of_need (hd.trans (by rw [hfn]; rfl)) fun h => hne (fields_of_decode_eret h)

/-! ## The own store's mesh address -/

theorem meshAddr_zero (vc core : Nat) : BitVec.ofNat 64 (2 ^ 62 + vc * 2 ^ 24 + core * 2 ^ 21) = meshAddr vc core 0 := by
  rw [meshAddr, Nat.add_zero]

theorem meshAddr_add (vc core o : Nat) : meshAddr vc core 0 + BitVec.ofNat 64 o = meshAddr vc core o := by
  rw [← meshAddr_zero, meshAddr, BitVec.ofNat_add _ o]

theorem meshAddr_fields {vc core : Nat} (hvc : vc < 8192) (hcore : core < 8) : let a := meshAddr vc core 0
    bits a 62 2 = 1 ∧ bits a 24 13 = vc ∧ bits a 21 3 = core ∧ bits a 0 21 = 0 ∧ bits a 37 25 = 0 := by
  intro a
  have ha : a.toNat = 2 ^ 62 + vc * 2 ^ 24 + core * 2 ^ 21 + 0 := meshAddr_toNat hvc hcore (by decide)
  simp only [bits_eq_div_mod, ha]
  refine ⟨?_, ?_, ?_, ?_, ?_⟩ <;> omega

/-- Settles O41: S(D) takes the sender's word of the core, which is a mesh address (`placeOf_mesh`). -/
theorem selfNamesTheCore : Obligations.SelfNamesTheCore := by
  intro s d a
  have ha : a = meshAddr s.mine.vc s.cur.core 0 := meshAddr_zero _ _
  clear_value a
  subst ha
  refine ⟨put_writes rfl rfl, fun hvc hcore => ?_⟩
  obtain ⟨h1, h2, h3, h4, h5⟩ := meshAddr_fields hvc hcore
  refine ⟨h1, h2, h3, h4, h5, fun o ho => ?_⟩
  rw [meshAddr_add, placeOf_mesh hvc hcore ho]

/-! ## A trap that is taken (R181) -/

theorem Core.not_cannotTrap_of_canTrap {c : Core} (h : c.canTrap) : c.cannotTrap = false := by
  obtain ⟨h1, h2, h3, h4⟩ := h
  simp only [Core.cannotTrap, h1, h4, Bool.false_or, Bool.not_true, Bool.or_false, Bool.or_eq_false_iff, beq_eq_false_iff_ne]
  exact ⟨h2, h3⟩

/-- What trap entry writes of its core's control registers and its place. -/
theorem Core.enterTrap_spec (c : Core) (cause : Nat) (e v : Word) : let d := c.enterTrap cause e v
    d.cr_ Cr.cause = BitVec.ofNat 64 cause ∧ d.cr_ Cr.tval = v ∧ d.cr_ Cr.epc = e ∧ d.pc = c.cr_ Cr.tvec := by
  refine ⟨?_, ?_, ?_, ?_⟩ <;> simp [Core.enterTrap, Core.cr_, Core.setCr, Core.saveHeader, aget_aput_other, Cr.cause, Cr.tval, Cr.epc, Cr.tvec,
    Cr.repstate, Cr.wsize, Cr.fpc, Cr.stat, Cr.wp, Cr.twpsave]

/-- A core that leaves the stream as its trap is taken (R89, R181). -/
def Core.leftForTrap (c : Core) : Core := if c.att then { c with att := false, why := 4, buf := [] } else { c with buf := [] }

theorem Core.leftForTrap_att (c : Core) : c.leftForTrap.att = false := by
  unfold Core.leftForTrap
  split
  · rfl
  · next h => exact Bool.eq_false_iff.mpr h

theorem Core.leftForTrap_kept (c : Core) : c.leftForTrap.cr = c.cr := by
  unfold Core.leftForTrap
  split <;> rfl

theorem Core.untraced_enterTrap {c : Core} (h : c.untraced) (cause : Nat) (e v : Word) : (c.enterTrap cause e v).untraced := by
  have hd : (c.enterTrap cause e v).cr_ Cr.dbgctl = c.cr_ Cr.dbgctl := by
    simp [Core.enterTrap, Core.cr_, Core.setCr, Core.saveHeader, aget_aput_other, Cr.dbgctl, Cr.cause, Cr.tval, Cr.epc, Cr.repstate,
      Cr.wsize, Cr.fpc, Cr.stat, Cr.wp, Cr.twpsave]
  rw [Core.untraced, hd]
  exact h

/-- A core that takes a trap other than FETCH and SHADOW has left the stream and entered its handler. -/
theorem State.takeTrap_taken {s : State} {r : CoreRef} {cause : Nat} (h : (s.core r).cannotTrap = false) (hu : (s.core r).untraced)
    (hs : cause ≠ tSHADOW) (hf : cause ≠ tFETCH) (e v : Word) :
    (s.takeTrap r cause e v).cur = s.cur ∧ (s.takeTrap r cause e v).core r = (s.core r).leftForTrap.enterTrap cause e v := by
  unfold State.takeTrap
  extract_lets c s1 s2 s3
  have h1 : s1.core r = c.leftForTrap := by
    rw [State.core_updCluster, if_pos rfl, Core.leftForTrap]
    split
    · exact (Cluster.core_detach _ _ (by decide)).trans (by rw [if_neg (by decide)]; rfl)
    · exact Cluster.core_dropBuf _ _
  have h2 : s2.core r = c.leftForTrap.enterTrap cause e v := by
    rw [State.core_updCore, h1, if_neg hs, Core.noteFetch, if_neg hf]
  have hatt : (s2.core r).att = false := by rw [h2]; exact c.leftForTrap_att
  have h3 : s3.core r = s2.core r := by
    unfold s3
    split
    · rw [State.core_updCluster, if_pos rfl]
      exact Cluster.core_settle_of_detached hatt
    · rfl
  have hu' : c.leftForTrap.untraced := by rw [Core.untraced, Core.cr_, c.leftForTrap_kept]; exact hu
  have hu3 : (s3.core r).untraced := by rw [h3, h2]; exact Core.untraced_enterTrap hu' cause e v
  rw [if_neg (Bool.eq_false_iff.mp h), if_neg (fun x => hs x.1), State.trace_of_untraced hu3, h3, h2]
  refine ⟨?_, rfl⟩
  unfold s3
  split <;> rfl

/-- Settles O42: `trap` raises SOFTWARE at itself, and a core that can take a trap enters its handler (`State.takeTrap_taken`). -/
theorem softwareTraps : Obligations.SoftwareTraps := by
  intro s n
  have ht : Traps (.trap n) s tSOFTWARE (n.zeroExtend 64) := .of_trap rfl rfl
  refine ⟨ht, rfl, fun hcan hu hp => ⟨s.takeTrap s.cur tSOFTWARE s.me.pc (n.zeroExtend 64), ht hp, ?_⟩⟩
  obtain ⟨hcur, hcore⟩ := State.takeTrap_taken (r := s.cur) (Core.not_cannotTrap_of_canTrap hcan) hu
      (by decide : tSOFTWARE ≠ tSHADOW) (by decide)
    s.me.pc (n.zeroExtend 64)
  obtain ⟨h1, h2, h3, h4⟩ := s.me.leftForTrap.enterTrap_spec tSOFTWARE s.me.pc (n.zeroExtend 64)
  rw [State.me, hcur, hcore]
  exact ⟨h1, h2, h3, h4.trans (by rw [Core.cr_, s.me.leftForTrap_kept]; rfl)⟩

end Sys2Proof.Machine
end

section
/-! SUPPORT. `stop` and `census` (R178, R179). -/
namespace Sys2Proof.Machine
open Sys2Proof

/-! ## Doublewords written in a row -/

theorem Memory.keeps_putWords (m : Memory) (a : Nat) (l : List Word) : m.Keeps (m.putWords a l) (span a (8 * l.length)) := by
  induction l generalizing m a with
  | nil => exact .refl _ _
  | cons w t ih =>
    refine ((m.keeps_store a 8 w.toNat).mono fun x hx => ?_).trans ((ih _ _).mono fun x hx => ?_)
    · simp only [span, List.length_cons]; omega
    · simp only [span, List.length_cons] at hx ⊢; omega

theorem Memory.read8_keeps {m k : Memory} {b : Nat → Prop} (h : m.Keeps k b) {a : Nat} (ha : ∀ x, span a 8 x → ¬ b x) :
    k.read8 a = m.read8 a := by
  rw [Memory.read8, Memory.read8, Memory.readLE_congr a 8 fun x h1 h2 => h.1 x (ha x ⟨h1, h2⟩)]

theorem Memory.read8_putWords (m : Memory) (a : Nat) (l : List Word) {i : Nat} (hi : i < l.length) :
    (m.putWords a l).read8 (a + 8 * i) = l.getD i 0 := by
  induction l generalizing m a i with
  | nil => exact absurd hi (Nat.not_lt_zero _)
  | cons w t ih =>
    cases i with
    | zero =>
      rw [Nat.mul_zero, Nat.add_zero, Memory.putWords,
        Memory.read8_keeps (Memory.keeps_putWords _ _ _) fun x hx => by simp only [span] at hx ⊢; omega, Memory.read8_store, List.getD_cons_zero]
    | succ i =>
      rw [Memory.putWords, show a + 8 * (i + 1) = a + 8 + 8 * i by ring, ih _ _ (by simpa using hi), List.getD_cons_succ]

/-! ## The words of a census table -/

/-- The entry that a place of a census table holds. -/
def Census.absent : Census := ⟨0, 0, 0, 0, 0⟩

/-- The counts of an entry in one word. -/
def Census.counts (e : Census) : Word := BitVec.ofNat 64 (e.nan + e.inf * 2 ^ 16 + e.sat * 2 ^ 32 + e.unf * 2 ^ 48)

theorem flatMap_words_cons (e : Census) (l : List Census) :
    (e :: l).flatMap Census.words = e.site :: e.counts :: l.flatMap Census.words := rfl

theorem length_flatMap_words (l : List Census) : (l.flatMap Census.words).length = 2 * l.length := by
  induction l with
  | nil => rfl
  | cons e t ih =>
    rw [flatMap_words_cons, List.length_cons, List.length_cons, ih, List.length_cons]
    ring

theorem length_censusWords (l : List Census) : (censusWords l).length = 128 := by
  simp [censusWords]

/-- Each entry gives its two words, and what lies beyond the entries is 0. -/
theorem getD_words (l : List Census) (j : Nat) :
    (l.flatMap Census.words).getD (2 * j) 0 = (l.getD j .absent).site ∧
    (l.flatMap Census.words).getD (2 * j + 1) 0 = (l.getD j .absent).counts := by
  induction l generalizing j with
  | nil => exact ⟨rfl, by simp [Census.absent, Census.counts]⟩
  | cons e t ih =>
    rw [flatMap_words_cons]
    cases j with
    | zero => simp
    | succ j => exact ih j

theorem getD_censusWords {l : List Census} {i : Nat} (hi : i < 128) :
    (censusWords l).getD i 0 = (l.flatMap Census.words).getD i 0 := by
  have hlen := length_flatMap_words l
  rw [censusWords, List.getD_eq_getElem?_getD, List.getD_eq_getElem?_getD, List.getElem?_take_of_lt hi]
  by_cases h : i < 2 * l.length
  · rw [List.getElem?_append_left (by omega)]
  · rw [List.getElem?_append_right (by omega), List.getElem?_eq_none (l := l.flatMap Census.words) (by omega), List.getElem?_replicate]
    split <;> rfl

/-! ## `census` -/

section
variable {s : State} {a c : Reg}

/-- A cluster's census after `census`: its counts are cleared when asked. -/
def Cluster.censusRead (c : Reg) (k : Cluster) : Cluster :=
  { k with census := if c = 1 then k.census.map fun e => ⟨e.site, 0, 0, 0, 0⟩ else k.census }

/-- A core with a census table in its store. -/
def Core.withCensus (l : List Census) (x : Nat) (k : Core) : Core := { k with store := k.store.putWords x (censusWords l) }

/-- The table is written, and the census is cleared when asked. -/
def censusEff (c : Reg) (s : State) (x : Nat) : Eff :=
  .next ((s.upd (Core.withCensus s.mine.census x)).updCluster s.cur.cl (Cluster.censusRead c))

theorem exec_census (a c : Reg) (s : State) : exec (.census a c) s = retire (.census a c) s fun s =>
    if (s.me.s a.toNat).toNat > 0x3FFFF then .trap tLOCALBOUNDS (s.me.s a.toNat)
    else if (s.me.s a.toNat).toNat % 1024 ≠ 0 then .trap tALIGN (s.me.s a.toNat)
    else if s.me.arrayRange (s.me.s a.toNat).toNat 1024 = false then .trap tBANKPORT (s.me.s a.toNat)
    else censusEff c s (s.me.s a.toNat).toNat := by
  have hkept (s : State) (f : Core → Core) : (s.upd f).updCluster s.cur.cl (fun k => k) = s.upd f :=
    State.setCluster_self (s.upd_listed f)
  by_cases hc : c = 1#5
  · subst hc; rfl
  · have hread : Cluster.censusRead c = fun k => k := by
      funext k
      exact congrArg (fun l => ({ k with census := l } : Cluster)) (if_neg hc)
    simp only [censusEff, hread, hkept]
    show execCensus a c s = _
    simp only [execCensus, if_neg hc]
    rfl

theorem census_writes {x : Nat} {body : State → Eff} {i : Instr} (he : exec i s = retire i s body)
    (hb : body s = censusEff c s x) : Leaves i s (s.updCluster s.cur.cl (Cluster.censusRead c)) (span x 1024) nothing fun t =>
      ∀ j < 64, let e := s.mine.census.getD j .absent
        t.me.store.read8 (x + 16 * j) = e.site ∧ t.me.store.read8 (x + 16 * j + 8) = e.counts := by
  have hme : ((s.upd (Core.withCensus s.mine.census x)).updCluster s.cur.cl (Cluster.censusRead c)).me = s.me.withCensus s.mine.census x :=
    (State.me_updCluster (s.upd _) _).trans (s.me_upd _)
  have hmine : (s.updCluster s.cur.cl (Cluster.censusRead c)).me = s.me := s.me_updCluster _
  have hlen := length_censusWords s.mine.census
  have hstores : s.me.Stores (s.me.withCensus s.mine.census x) (span x 1024) :=
    ⟨rfl, (Memory.keeps_putWords _ _ _).mono fun y hy => by rwa [hlen] at hy⟩
  refine Leaves.of_effect he hb ((s.onlyMine_upd _).updCluster _ (fun k l h => ?_) fun _ _ => rfl) ?_ ?_ ?_ fun t hstore _ j hj => ?_
  · have hcensus : l.census = k.census := by have x := congrArg Cluster.census h; exact x
    exact congrArg₂ (fun (k : Cluster) x => { k with census := x }) h (congrArg (fun l : List Census =>
      if c = 1 then l.map fun e => ⟨e.site, 0, 0, 0, 0⟩ else l) hcensus)
  · rw [hme, hmine]; exact hstores.keeps _
  · rw [hme, hstores.pc]
  · rw [hme, hstores.inRep]
  · obtain ⟨hsite, hcounts⟩ := getD_words s.mine.census j
    have hread (i : Nat) (hi : i < 128) : t.me.store.read8 (x + 8 * i) = (s.mine.census.flatMap Census.words).getD i 0 := by
      rw [hstore, hme, Core.withCensus, Memory.read8_putWords _ _ _ (by omega), getD_censusWords hi]
    refine ⟨?_, ?_⟩
    · rw [← hsite, ← hread _ (by omega), ← Nat.mul_assoc]
    · rw [← hcounts, ← hread _ (by omega)]
      congr 1; ring

end

/-- Settles O45: `stop` changes its core's request alone; `census` by the cases of its address (`exec_census`, `census_writes`). -/
theorem stopsAndCensus : Obligations.StopsAndCensus := by
  intro s n a c x tab i
  have hfit : 0x40000 ≤ x.toNat ↔ x.toNat > 0x3FFFF := by omega
  have hplace : ∃ body, exec i s = retire i s body ∧ body s = if x.toNat > 0x3FFFF then .trap tLOCALBOUNDS x
      else if x.toNat % 1024 ≠ 0 then .trap tALIGN x else if s.me.arrayRange x.toNat 1024 = false then .trap tBANKPORT x
      else censusEff c s x.toNat := ⟨_, exec_census a c s, rfl⟩
  obtain ⟨body, he, hb⟩ := hplace
  refine ⟨?_, fun h => .of_trap he ?_, fun h h1 => .of_trap he ?_, fun h h1 h2 => .of_trap he ?_, fun h h1 h2 _ => census_writes he ?_⟩
  · refine Leaves.of_next (body := fun s => local_ s fun c => if bit (c.cr_ Cr.dbgctl) 0 then { c with stopReq := some n.toNat } else c) rfl
      ?_ ?_ ?_ trivial
    · have hf : (fun c : Core => if bit (c.cr_ Cr.dbgctl) 0 then { c with stopReq := some n.toNat } else c) = fun d : Core =>
          { d with stopReq := if bit (d.cr_ Cr.dbgctl) 0 then some n.toNat else d.stopReq } := by
        funext d
        split <;> rfl
      rw [local_, hf]
    · rw [State.me_upd]
    · rw [State.me_upd]; rfl
  · rw [hb, if_pos (hfit.mp h)]
  · rw [hb, if_neg (by omega), if_pos h1]
  · rw [hb, if_neg (by omega), if_neg (not_not.mpr h1), if_pos h2]
  · rw [hb, if_neg (by omega), if_neg (not_not.mpr h1), if_neg (by simp [h2])]

end Sys2Proof.Machine
end

section
/-! SUPPORT. Matrix commands at issue, the waits for them, and reads of accumulators (R152, R156 to R161). -/
namespace Sys2Proof.Machine
open Sys2Proof

theorem State.upd_congr {s : State} {f g : Core → Core} (h : f s.me = g s.me) : s.upd f = s.upd g := State.updCore_congr (r := s.cur) h

section
variable {i : Instr} {s : State} {body : State → Eff} {sa sb sc sc1 : Core → Word}

/-- A command that the queue takes. -/
theorem queueCmd_leaves (he : exec i s = retire i s body) (hb : body s = queueCmd i sa sb sc sc1 s) (h : s.me.mq.length < 16) :
    Leaves i s (s.upd fun c => { c with mq := c.mq ++ [s.me.command i (sa s.me) (sb s.me) (sc s.me) (sc1 s.me)] }) nothing nothing fun _ => True := by
  refine Leaves.of_next he ?_ (by rw [State.me_upd]) (by rw [State.me_upd]; rfl) trivial
  rw [hb, queueCmd, if_neg (by omega), local_]
  exact congrArg Eff.next (State.upd_congr rfl)

theorem queueCmd_stalls (he : exec i s = retire i s body) (hb : body s = queueCmd i sa sb sc sc1 s) (h : 16 ≤ s.me.mq.length) : Stalls i s :=
  .of_stall he (by rw [hb, queueCmd, if_pos h]; rfl)

end

/-- An output format that the features offer is not refused (R158). -/
theorem outRefusal_none {i : Instr} {s : State} {w : Word} (h : oFmt w ≠ 3 ∨ bit s.feat0 3 = true) : outRefusal i s w = none :=
  if_neg fun ⟨h3, hf⟩ => h.elim (· h3) fun ht => Bool.false_ne_true (hf.symm.trans ht)

theorem outRefusal_some {i : Instr} {s : State} {w : Word} (h : oFmt w = 3) (hf : bit s.feat0 3 = false) :
    outRefusal i s w = some (tILLEGAL, i.word) := if_pos ⟨h, hf⟩

section
variable (s : State) (d p : BitVec 2) (a b c : Reg)

theorem exec_mstream : exec (.mstream d a b c p) s = retireUnless (.mstream d a b c p) (outRefusal (.mstream d a b c p) s (s.me.s (c.toNat + 1))) s
    (queueCmd (.mstream d a b c p) (·.s a.toNat) (·.s b.toNat) (·.s c.toNat) (·.s (c.toNat + 1))) := rfl

theorem exec_mstore : exec (.mstore d a b) s = retireUnless (.mstore d a b) (outRefusal (.mstore d a b) s (s.me.s a.toNat)) s
    (queueCmd (.mstore d a b) (·.s a.toNat) (·.s b.toNat) (fun _ => 0) (fun _ => 0)) := rfl

end

/-! ## Snapshots of an accumulator (R161) -/

/-- `m0` names all lanes (R134). -/
theorem Core.lanes_zero (c : Core) : c.lanes 0 = List.range 16 := by
  refine List.filter_eq_self.mpr fun l _ => ?_
  exact (c.active_iff 0 l).mpr (.inl rfl)

section
variable {i : Instr} {s : State} {body : State → Eff} {d : BitVec 2} {a b : Reg}

/-- The element of an accumulator that lane l of a snapshot takes. -/
def snapElem (w : Word) (l : Nat) : Nat := bits w 0 5 * 32 + bits w 5 1 * 16 + l

theorem snapshot_poisoned_iff {x : Acc} {w : Word} :
    (List.range 16).any (fun l => x.poison.getLsbD (bits w 0 5 * 32 + bits w 5 1 * 16 + l)) = false ↔
      ∀ l < 16, x.poison.getLsbD (snapElem w l) = false := by
  simp [snapElem]

theorem snapshot_reads (he : exec i s = retire i s body) (hb : body s = snapshot d a b s) :
    ((∀ l < 16, (s.me.acc d.toNat).poison.getLsbD (snapElem (s.me.s b.toNat) l) = false) →
      WritesV i s a 0 fun l => (s.me.acc d.toNat).at_ (snapElem (s.me.s b.toNat) l)) ∧
    (¬ (∀ l < 16, (s.me.acc d.toNat).poison.getLsbD (snapElem (s.me.s b.toNat) l) = false) → Traps i s tPOISON (s.me.s b.toNat)) := by
  refine ⟨fun h => WritesV.of_writeV he ?_, fun h => .of_trap he ?_⟩
  · rw [hb, snapshot, if_neg (Bool.eq_false_iff.mp (snapshot_poisoned_iff.mpr h)), show (0 : BitVec 3).toNat = 0 from rfl, Core.lanes_zero]
    rfl
  · rw [hb, snapshot, if_pos (by simpa using mt snapshot_poisoned_iff.mp h)]

end

/-- Settles O34: commands by `queueCmd_leaves` and `queueCmd_stalls`, the waits by `Waits.of_waitFor`, snapshots by `snapshot_reads`. -/
theorem matrixCommands : Obligations.MatrixCommands := by
  refine ⟨?_, ?_⟩
  · intro s d p a b c r k queues z
    have hqueues {i : Instr} {body : State → Eff} (sa sb sc sc1 : Core → Word) (he : exec i s = retire i s body)
        (hb : body s = queueCmd i sa sb sc sc1 s) : queues i (sa s.me) (sb s.me) (sc s.me) (sc1 s.me) :=
      ⟨fun h => ⟨_, rfl, rfl, rfl, rfl, rfl, rfl, rfl, rfl, rfl, rfl, rfl, queueCmd_leaves he hb h⟩, fun h => queueCmd_stalls he hb h⟩
    let zero (_ : Core) : Word := 0
    refine ⟨hqueues (·.s a.toNat) (·.s b.toNat) (·.s c.toNat) zero rfl rfl, hqueues (·.s a.toNat) (·.s b.toNat) (·.s c.toNat) zero rfl rfl,
      hqueues zero zero zero zero rfl rfl, hqueues (·.s a.toNat) zero zero zero rfl rfl, fun h => ?_, fun h hf => ?_, fun h => ?_, fun h hf => ?_⟩
    · have he := exec_mstream s d p a b c
      rw [outRefusal_none h] at he
      exact hqueues (·.s a.toNat) (·.s b.toNat) (·.s c.toNat) (·.s (c.toNat + 1)) he rfl
    · have he := exec_mstream s d p a b c
      rw [outRefusal_some h hf] at he
      exact Refuses.of_refused he
    · have he := exec_mstore s d a b
      rw [outRefusal_none h] at he
      exact hqueues (·.s a.toNat) (·.s b.toNat) zero zero he rfl
    · have he := exec_mstore s d a b
      rw [outRefusal_some h hf] at he
      exact Refuses.of_refused he
  · intro s d a b w e acc clean busy reads
    have hreads {i : Instr} {body : State → Eff} (he : exec i s = retire i s body) (hb : body s = snapshot d a b s) : reads i :=
      snapshot_reads he hb
    have hmread : ∃ body, exec (.mread d a b) s = retire (.mread d a b) s body ∧ body s =
        if (s.me.mq.any fun q => q.names d.toNat) = true then s.waitFor (.matrix (some d.toNat)) else snapshot d a b s := ⟨_, rfl, rfl⟩
    have hmsync : ∃ body, exec .msync s = retire .msync s body ∧ body s = if s.me.mq = [] then .next s else s.waitFor (.matrix none) :=
      ⟨_, rfl, rfl⟩
    obtain ⟨body, he, hb⟩ := hmread
    obtain ⟨body', he', hb'⟩ := hmsync
    have hbusy : (s.me.mq.any fun q => q.names d.toNat) = true ↔ busy := List.any_eq_true
    exact ⟨fun h => Does.of_next he' (hb'.trans (if_pos h)), fun h => Waits.of_waitFor he' (hb'.trans (if_neg h)), hreads rfl rfl,
      fun h => hreads he (hb.trans (if_neg (mt hbusy.mp h))), fun h => Waits.of_waitFor he (hb.trans (if_pos (hbusy.mpr h)))⟩

end Sys2Proof.Machine
end

section
/-! SUPPORT. Messages (R167 to R170, R173). -/
namespace Sys2Proof.Machine
open Sys2Proof

/-! ## A field of a word after another has been written -/

theorem bits_setBits_other (w : Word) {lo len a b : Nat} (h : lo + len ≤ 64) (v : Nat) (hd : a + b ≤ lo ∨ lo + len ≤ a) :
    bits (setBits w lo len v) a b = bits w a b := by
  simp only [bits_eq_div_mod, setBits_toNat w h]
  refine Nat.eq_of_testBit_eq fun j => ?_
  simp only [Nat.testBit_mod_two_pow, Nat.testBit_div_two_pow]
  by_cases hj : j < b
  · rw [testBit_splice (Nat.mod_lt _ (Nat.two_pow_pos _)) (by omega)]
  · simp [hj]

theorem bits_setBits_same (w : Word) {lo len v : Nat} (h : lo + len ≤ 64) (hv : v < 2 ^ len) : bits (setBits w lo len v) lo len = v := by
  rw [bits_eq_div_mod, setBits_toNat w h, splice_field (Nat.mod_lt _ (Nat.two_pow_pos _)), Nat.mod_eq_of_lt hv]

/-! ## Source words -/

theorem sourceCore_meshAddr {vc core : Nat} (hvc : vc < 8192) (hcore : core < 8) : sourceCore (meshAddr vc core 0) = some (vc, core) := by
  obtain ⟨h1, h2, h3, h4, h5⟩ := meshAddr_fields hvc hcore
  rw [sourceCore, if_pos ⟨h1, h5, h4⟩, h2, h3]

/-- A word that is no core's source word names none. -/
theorem sourceCore_none {x : Word} (h : ∀ vc core, vc < 8192 → core < 8 → x ≠ meshAddr vc core 0) : sourceCore x = none := by
  refine if_neg fun ⟨h1, h2, h3⟩ => ?_
  have hx := x.isLt
  simp only [bits_eq_div_mod] at h1 h2 h3
  refine h (bits x 24 13) (bits x 21 3) (by rw [bits_eq_div_mod]; omega) (by rw [bits_eq_div_mod]; omega) (BitVec.eq_of_toNat_eq ?_)
  rw [meshAddr_toNat (by rw [bits_eq_div_mod]; omega) (by rw [bits_eq_div_mod]; omega) (by decide), bits_eq_div_mod, bits_eq_div_mod]
  omega

/-! ## What a send refuses (R168) -/

section
variable {s : State} {h : Word} {b : Reg} {ok : Bool}

/-- The registers hold the payload of a header. -/
def HoldsPayload (h : Word) (b : Reg) : Prop := bits h 22 4 = 0 ∨ (b ≠ 0 ∧ b.toNat + bits h 22 4 ≤ 32)

theorem sendFault_no_register (hn : bits h 22 4 ≠ 0) (hb : b = 0) : sendFault s h b ok = some (tREGISTER, 0) := if_pos ⟨hn, hb⟩

theorem sendFault_past_registers (hn : bits h 22 4 ≠ 0) (hb : b ≠ 0) (h32 : 32 < b.toNat + bits h 22 4) :
    sendFault s h b ok = some (tREGISTER, BitVec.ofNat 64 (b.toNat + bits h 22 4 - 1)) := by
  simp only [sendFault]
  rw [if_neg fun x => hb x.2, if_pos ⟨hn, by omega⟩]

theorem sendFault_held (hr : HoldsPayload h b) : sendFault s h b ok =
    if 8 < bits h 22 4 ∨ bits h 0 22 ≠ 0 ∨ ok = false ∨ placed s s.mine.slot (bits h 51 13) = none then some (tMESH, h) else none := by
  simp only [sendFault, gt_iff_lt, Option.isNone_iff_eq_none]
  rw [if_neg fun ⟨hn, hb⟩ => hr.elim (absurd · hn) fun x => x.1 hb,
    if_neg fun ⟨hn, h31⟩ => hr.elim (absurd · hn) fun x => by omega]

theorem sendFault_refused (hr : HoldsPayload h b)
    (hbad : 8 < bits h 22 4 ∨ bits h 0 22 ≠ 0 ∨ ok = false ∨ placed s s.mine.slot (bits h 51 13) = none) :
    sendFault s h b ok = some (tMESH, h) := by rw [sendFault_held hr, if_pos hbad]

/-- A header that a send takes. -/
def State.Sendable (s : State) (h : Word) (b : Reg) : Prop :=
  bits h 22 4 ≤ 8 ∧ HoldsPayload h b ∧ bits h 0 22 = 0 ∧ (placed s s.mine.slot (bits h 51 13)).isSome = true

theorem sendFault_none (hs : s.Sendable h b) : sendFault s h b true = none := by
  obtain ⟨h8, hr, hzero, hp⟩ := hs
  rw [sendFault_held hr, if_neg]
  rintro (hc | hc | hc | hc)
  · omega
  · exact hc hzero
  · exact Bool.noConfusion hc
  · rw [hc] at hp
    exact Bool.noConfusion hp

end

/-! ## What a send posts -/

section
variable {s : State}

/-- The payload words of a message of n words. -/
def Core.payloadWords (c : Core) (b : Reg) (n : Nat) : List Word := (List.range 8).map fun i => if i < n then c.s (b.toNat + i) else 0

/-- A message of the current core with a header and a payload from a register on, to a core of its context. -/
def State.message (s : State) (b : Reg) (n : Nat) (h : Word) (core : Nat) : Flight :=
  { s.posted none (bits h 51 13) core (.msg ([h, meshAddr s.mine.vc s.cur.core 0, s.cyc, 0] ++ s.me.payloadWords b n ++ [0, 0, 0, 0])) 0 with
    chan := bits h 44 2 }

theorem payload_padded (c : Core) (b : Reg) (n : Nat) :
    (((List.range n).map fun i => c.s (b.toNat + i)) ++ List.replicate 8 0).take 8 = c.payloadWords b n := by
  refine List.ext_getElem (by simp [Core.payloadWords]) fun i h1 h2 => ?_
  have hi : i < 8 := by simpa [Core.payloadWords] using h2
  simp only [Core.payloadWords, List.getElem_take, List.getElem_append, List.length_map, List.length_range, List.getElem_map,
    List.getElem_range, List.getElem_replicate, dite_eq_ite]

/-- A message on its way, of the header that counts its payload. -/
theorem msgFlight_eq (s : State) (h0 h : Word) (b : Reg) (core : Nat) :
    msgFlight s h core (payload s.me h0 b) = s.message b (bits h0 22 4) h core := by
  rw [msgFlight, payload, msgItem, payload_padded]
  rfl

/-- Posting on an open channel puts an item under way. -/
theorem State.post_message_open {t : State} {b : Reg} {n : Nat} {h : Word} {core : Nat} (hc : t.clusters = s.clusters)
    (ho : chanKey (bits h 51 13) core ∉ s.me.closed) :
    t.post (s.message b n h core) = { t with flight := t.flight ++ [s.message b n h core] } := by
  have hcore : t.core s.cur = s.me := by simp only [State.me, State.core, State.cluster, hc]
  have hopen : ¬ (t.core (s.message b n h core).src).closed.contains (chanKey (s.message b n h core).vc (s.message b n h core).core) = true := by
    rw [List.contains_iff_mem]
    exact fun x => ho (hcore ▸ x)
  rw [State.post, if_neg hopen]

/-- A message to each core of a list, in order. -/
theorem State.foldl_post_messages {b : Reg} {n : Nat} {f : Nat → Word} (l : List Nat)
    (ho : ∀ j ∈ l, chanKey (bits (f j) 51 13) j ∉ s.me.closed)
    {t : State} (ht : t.clusters = s.clusters) :
    l.foldl (fun (t : State) j => t.post (s.message b n (f j) j)) t = { t with flight := t.flight ++ l.map fun j => s.message b n (f j) j } := by
  induction l generalizing t with
  | nil => simp
  | cons j l ih =>
    rw [List.foldl_cons, State.post_message_open ht (ho j (.head _))]
    refine (ih (fun i hi => ho i (.tail _ hi)) (t := { t with flight := t.flight ++ [s.message b n (f j) j] }) ht).trans ?_
    rw [List.map_cons, List.append_assoc]
    rfl

theorem posts_leaves {i : Instr} {body : State → Eff} {l : List Flight} (he : exec i s = retire i s body)
    (hb : body s = .next { s with flight := s.flight ++ l }) : Leaves i s { s with flight := s.flight ++ l } nothing nothing fun _ => True :=
  .of_next he hb rfl rfl trivial

end

/-! ## `send`, `sendm` and `reply` -/

section
variable {s : State} {a b c : Reg}

/-- What a send answers once its header and its refusal are known: a trap, or what it posts. -/
def sendEff (f : Option (Nat × Word)) (done : Eff) : Eff :=
  match f with
  | some (c, v) => .trap c v
  | none => done

/-- The header that a `reply` sends (R173). -/
def replyHeader (h : Word) (vc core : Nat) : Word := setBits (setBits (setBits h 51 13 vc) 48 3 core) 46 2 3

theorem replyHeader_fields (h : Word) {vc core : Nat} (hvc : vc < 8192) (hcore : core < 8) : let g := replyHeader h vc core
    bits g 22 4 = bits h 22 4 ∧ bits g 0 22 = bits h 0 22 ∧ bits g 44 2 = bits h 44 2 ∧ bits g 51 13 = vc ∧ bits g 48 3 = core := by
  intro g
  have hin : vc < 2 ^ 13 := hvc
  have hin' : core < 2 ^ 3 := hcore
  simp (disch := decide) only [g, replyHeader, bits_setBits_other, bits_setBits_same _ (lo := 51) (by decide) hin,
    bits_setBits_same _ (lo := 48) (by decide) hin', and_self]

theorem send_place (s : State) (a b : Reg) : let h := s.me.s a.toNat
    ∃ body, exec (.send a b) s = retire (.send a b) s body ∧
      body s = sendEff (sendFault s h b (bits h 46 2 == 0)) (.next (s.post (s.message b (bits h 22 4) h (bits h 48 3)))) := by
  intro h
  refine ⟨_, rfl, ?_⟩
  rw [← msgFlight_eq s h h b]
  rfl

theorem sendm_place (s : State) (a b c : Reg) : let h := s.me.s a.toNat; let x := s.me.s c.toNat
    ∃ body, exec (.sendm a b c) s = retire (.sendm a b c) s body ∧
      body s = sendEff (sendFault s h b (bits h 46 2 == 0 && bits x 8 56 == 0)) (.next (((List.range 8).filter fun j => bit x j).foldl
        (fun (t : State) j => t.post (s.message b (bits h 22 4) (setBits h 48 3 j) j)) s)) := by
  intro h x
  refine ⟨_, rfl, ?_⟩
  simp only [← msgFlight_eq s h]
  rfl

/-- The header of a `reply` to what a source word names. -/
def replyTo (h : Word) (dst : Option (Nat × Nat)) : Word :=
  match dst with
  | some (vc, core) => replyHeader h vc core
  | none => h

theorem exec_reply (s : State) (a b c : Reg) : exec (.reply a b c) s = retire (.reply a b c) s fun s =>
    let dst := sourceCore (s.me.s c.toNat)
    let g := replyTo (s.me.s a.toNat) dst
    sendEff (sendFault s g b dst.isSome) (.next (s.post (msgFlight s g (bits g 48 3) (payload s.me g b)))) := rfl

theorem reply_place (s : State) (a b c : Reg) {vc core : Nat} (hs : sourceCore (s.me.s c.toNat) = some (vc, core)) :
    let g := replyHeader (s.me.s a.toNat) vc core
    ∃ body, exec (.reply a b c) s = retire (.reply a b c) s body ∧
      body s = sendEff (sendFault s g b true) (.next (s.post (s.message b (bits g 22 4) g (bits g 48 3)))) := by
  intro g
  refine ⟨_, exec_reply s a b c, ?_⟩
  simp only [hs, msgFlight_eq]
  rfl

theorem reply_nowhere (s : State) (a b c : Reg) (hs : sourceCore (s.me.s c.toNat) = none) :
    ∃ body, exec (.reply a b c) s = retire (.reply a b c) s body ∧ ∃ done, body s = sendEff (sendFault s (s.me.s a.toNat) b false) done := by
  refine ⟨_, exec_reply s a b c, ?_⟩
  simp only [hs]
  exact ⟨_, rfl⟩

theorem sourceCore_bounds {x : Word} {vc core : Nat} (hs : sourceCore x = some (vc, core)) : vc < 8192 ∧ core < 8 := by
  rw [sourceCore] at hs
  split at hs
  · obtain ⟨rfl, rfl⟩ := Prod.mk.inj (Option.some.inj hs)
    simp only [bits_eq_div_mod]
    exact ⟨Nat.mod_lt _ (by decide), Nat.mod_lt _ (by decide)⟩
  · exact absurd hs nofun

variable {e : Nat} {v : Word}

theorem send_traps (hf : sendFault s (s.me.s a.toNat) b (bits (s.me.s a.toNat) 46 2 == 0) = some (e, v)) : Traps (.send a b) s e v := by
  obtain ⟨body, he, hb⟩ := send_place s a b
  exact .of_trap he (hb.trans (by rw [hf]; rfl))

theorem sendm_traps (hf : sendFault s (s.me.s a.toNat) b (bits (s.me.s a.toNat) 46 2 == 0 && bits (s.me.s c.toNat) 8 56 == 0) = some (e, v)) :
    Traps (.sendm a b c) s e v := by
  obtain ⟨body, he, hb⟩ := sendm_place s a b c
  exact .of_trap he (hb.trans (by rw [hf]; rfl))

/-- What a `reply` refuses, whichever core its source word names, or where it names none. -/
theorem reply_traps (hsome : ∀ vc core, sourceCore (s.me.s c.toNat) = some (vc, core) →
      sendFault s (replyHeader (s.me.s a.toNat) vc core) b true = some (e, v))
    (hnone : sourceCore (s.me.s c.toNat) = none → sendFault s (s.me.s a.toNat) b false = some (e, v)) : Traps (.reply a b c) s e v := by
  cases hs : sourceCore (s.me.s c.toNat) with
  | none =>
    obtain ⟨body, he, done, hb⟩ := reply_nowhere s a b c hs
    exact .of_trap he (hb.trans (by rw [hnone hs]; rfl))
  | some p =>
    obtain ⟨body, he, hb⟩ := reply_place s a b c hs
    exact .of_trap he (hb.trans (by rw [hsome _ _ hs]; rfl))

/-- A refusal that the count of payload words decides is the same for all three. -/
theorem all_trap (hf : ∀ g ok, bits g 22 4 = bits (s.me.s a.toNat) 22 4 → sendFault s g b ok = some (e, v)) :
    Traps (.send a b) s e v ∧ Traps (.sendm a b c) s e v ∧ Traps (.reply a b c) s e v := by
  refine ⟨send_traps (hf _ _ rfl), sendm_traps (hf _ _ rfl), reply_traps (fun vc core hs => hf _ _ ?_) fun _ => hf _ _ rfl⟩
  obtain ⟨hvc, hcore⟩ := sourceCore_bounds hs
  exact (replyHeader_fields _ hvc hcore).1

theorem send_posts (hok : s.Sendable (s.me.s a.toNat) b) (hk : bits (s.me.s a.toNat) 46 2 = 0) {core : Nat}
    (hcore : bits (s.me.s a.toNat) 48 3 = core) (ho : chanKey (bits (s.me.s a.toNat) 51 13) core ∉ s.me.closed) :
    Leaves (.send a b) s { s with flight := s.flight ++ [s.message b (bits (s.me.s a.toNat) 22 4) (s.me.s a.toNat) core] }
      nothing nothing fun _ => True := by
  obtain ⟨body, he, hb⟩ := send_place s a b
  have hkind : (bits (s.me.s a.toNat) 46 2 == 0) = true := beq_iff_eq.mpr hk
  exact posts_leaves he (hb.trans (by rw [hkind, sendFault_none hok, hcore, State.post_message_open rfl ho]; rfl))

theorem sendm_posts (hok : s.Sendable (s.me.s a.toNat) b) (hk : bits (s.me.s a.toNat) 46 2 = 0) (hmask : (s.me.s c.toNat).toNat < 256)
    (ho : ∀ j < 8, chanKey (bits (s.me.s a.toNat) 51 13) j ∉ s.me.closed) :
    Leaves (.sendm a b c) s { s with flight := s.flight ++ (((List.range 8).filter fun j => bit (s.me.s c.toNat) j).map
      fun j => s.message b (bits (s.me.s a.toNat) 22 4) (setBits (s.me.s a.toNat) 48 3 j) j) } nothing nothing fun _ => True := by
  obtain ⟨body, he, hb⟩ := sendm_place s a b c
  have hkind : (bits (s.me.s a.toNat) 46 2 == 0 && bits (s.me.s c.toNat) 8 56 == 0) = true := by
    rw [Bool.and_eq_true, beq_iff_eq, beq_iff_eq]
    exact ⟨hk, (bits_high_eq_zero_iff _ 8 rfl).mpr hmask⟩
  refine posts_leaves he (hb.trans ?_)
  rw [hkind, sendFault_none hok, State.foldl_post_messages _ (fun j hj => ?_) rfl]
  · rfl
  · rw [bits_setBits_other _ (by decide) _ (by decide)]
    exact ho j (List.mem_range.mp (List.mem_of_mem_filter hj))

theorem reply_posts {vc core : Nat} (hvc : vc < 8192) (hcore : core < 8) (hx : s.me.s c.toNat = meshAddr vc core 0)
    (hok : s.Sendable (replyHeader (s.me.s a.toNat) vc core) b)
    (ho : chanKey (bits (replyHeader (s.me.s a.toNat) vc core) 51 13) core ∉ s.me.closed) :
    Leaves (.reply a b c) s { s with flight := s.flight ++ [s.message b (bits (s.me.s a.toNat) 22 4) (replyHeader (s.me.s a.toNat) vc core) core] }
      nothing nothing fun _ => True := by
  obtain ⟨hn, -, -, -, hcore'⟩ := replyHeader_fields (s.me.s a.toNat) hvc hcore
  obtain ⟨body, he, hb⟩ := reply_place s a b c (hx ▸ sourceCore_meshAddr hvc hcore)
  exact posts_leaves he (hb.trans (by rw [sendFault_none hok, hn, hcore', State.post_message_open rfl ho]; rfl))

end

end Sys2Proof.Machine
end

section
/-! SUPPORT. Trigger slots and the ready queue: `arm`, `bind` and `spawn` (R171, R172, R197, R199). -/
namespace Sys2Proof.Machine
open Sys2Proof

/-! ## Writing the same entry again -/

theorem aput_aput {α : Type} (l : Assoc α) (k : Nat) (v w : α) : aput (aput l k v) k w = aput l k w := by
  induction l with
  | nil => simp [aput]
  | cons p t ih =>
    obtain ⟨j, x⟩ := p
    by_cases h : j = k
    · simp [aput, h]
    · simp [aput, h, ih]

theorem State.setCluster_setCluster (s : State) (k : Nat) (c d : Cluster) : (s.setCluster k c).setCluster k d = s.setCluster k d := by
  rw [State.setCluster, State.setCluster, State.setCluster, aput_aput]

theorem Cluster.setCore_setCore (k : Cluster) (j : Nat) (c d : Core) : (k.setCore j c).setCore j d = k.setCore j d := by
  rw [Cluster.setCore, Cluster.setCore, Cluster.setCore, aput_aput]

theorem State.updCore_updCore (s : State) (r : CoreRef) (f g : Core → Core) : (s.updCore r f).updCore r g = s.updCore r fun c => g (f c) := by
  rw [State.updCore, State.core_updCore, State.updCore, State.updCore, State.setCore, State.cluster_setCore, State.setCore, State.setCore,
    State.setCluster_setCluster, Cluster.setCore_setCore]

theorem State.upd_eq_updCore (s : State) (f : Core → Core) : s.updCore s.cur f = s.upd f := rfl

theorem State.upd_upd (s : State) (f g : Core → Core) : (s.upd f).upd g = s.upd fun c => g (f c) := State.updCore_updCore s s.cur f g

theorem Core.setTrig_setTrig (c : Core) (k : Nat) (t u : Trig) : (c.setTrig k t).setTrig k u = c.setTrig k u := by
  rw [Core.setTrig, Core.setTrig, Core.setTrig, aput_aput]

@[simp] theorem Core.trig_setTrig (c : Core) (k : Nat) (t : Trig) : (c.setTrig k t).trig k = t := aget_aput_same _ _ _ _

/-! ## An instruction that changes its core and answers in BR -/

section
variable {i : Instr} {s : State} {body : State → Eff} {f : Core → Core} {br : Nat}

/-- A change of the current core with an answer in BR. -/
def State.withBr (s : State) (f : Core → Core) (br : Nat) : State := s.upd fun c => (f c).setBr br

/-- A change of a core that leaves its place in the program and in a `rep` body. -/
def Core.Stays (c d : Core) : Prop := d.pc = c.pc ∧ d.inRep = c.inRep

theorem withBr_leaves (he : exec i s = retire i s body) (hb : body s = .next (s.withBr f br)) (hbr : br < 4) (hf : s.me.Stays (f s.me)) :
    Leaves i s (s.upd f) nothing onlyStat fun u => u.me.br = br := by
  have hU : s.withBr f br = (s.upd f).upd fun c => c.setBr br := (s.upd_upd f fun c => c.setBr br).symm
  have hme : (s.withBr f br).me = (f s.me).setBr br := by rw [State.withBr, State.me_upd]
  refine Leaves.of_effect he hb (hU ▸ State.onlyMine_upd (s.upd f) _) ?_ ?_ ?_ fun t _ hcr => ?_
  · rw [hme, State.me_upd]
    exact Core.keeps_setBr _ _ _
  · rw [hme]
    exact hf.1
  · rw [hme, Core.inRep_setBr, hf.2]
  · rw [Core.br, hcr Cr.stat (by decide), hme]
    exact Core.br_setBr _ _ hbr

end

/-! ## Firing a slot (R197) -/

/-- A slot's activation enters the ready queue, and the slot is disarmed. -/
def Core.startSlot (c : Core) (k n : Nat) (e : ClassE) (item : Option Nat) (arg now : Word) : Core :=
  { (c.setTrig k { c.trig k with st := .disarmed }) with ready := c.ready ++ [⟨n, e.prio, none, k, item, arg, now, now⟩] }

theorem Core.enqueue_eq {c : Core} {n : Nat} {e : ClassE} (he : c.classOf n = some e) (k : Nat) (item : Option Nat) (arg now : Word) :
    c.enqueue n k item arg now = { c with ready := c.ready ++ [⟨n, e.prio, none, k, item, arg, now, now⟩] } := by
  rw [Core.enqueue, he]

section
variable {s : State} {k : Nat} {t : Trig} {f : Core → Core}

/-- A slot without a binding becomes pending. -/
theorem State.fire_unbound (hf : f s.me = s.me.setTrig k t) (hb : t.binding = none) :
    (s.upd f).fire s.cur k = s.upd fun c => c.setTrig k { t with st := .pending } := by
  have hcore : (s.upd f).core s.cur = s.me.setTrig k t := (State.core_updCore s s.cur f).trans hf
  rw [State.fire, hcore, Core.trig_setTrig]
  simp only [hb]
  refine ((s.updCore_updCore s.cur f _).trans (s.upd_eq_updCore _)).trans (State.upd_congr ?_)
  exact (congrArg (fun c : Core => c.setTrig k _) hf).trans (s.me.setTrig_setTrig k _ _)

/-- A slot bound to a class that exists starts an activation of it. -/
theorem State.fire_bound {n : Nat} {e : ClassE} (hf : f s.me = s.me.setTrig k t) (hb : t.binding = some n) (he : s.me.classOf n = some e) :
    (s.upd f).fire s.cur k = s.upd fun c => (c.setTrig k { t with item := none }).startSlot k n e t.item t.arg s.cyc := by
  have hcore : (s.upd f).core s.cur = s.me.setTrig k t := (State.core_updCore s s.cur f).trans hf
  have hclass : (s.me.setTrig k t).classOf n = some e := he
  rw [State.fire, hcore, Core.trig_setTrig]
  simp only [hb, hclass, Option.isSome_some, if_true]
  refine ((s.updCore_updCore s.cur f _).trans (s.upd_eq_updCore _)).trans (State.upd_congr ?_)
  have hclass' : ((s.me.setTrig k t).setTrig k { t with st := .disarmed, item := none }).classOf n = some e := he
  rw [hb] at hclass'
  rw [hf, Core.enqueue_eq hclass']
  simp only [Core.startSlot, Core.setTrig_setTrig, Core.trig_setTrig]
  rfl

end

theorem Core.fireAdds_bound {c : Core} {t : Trig} {n : Nat} {e : ClassE} (hb : t.binding = some n) (he : c.classOf n = some e) :
    c.fireAdds t = true := by simp [Core.fireAdds, hb, he]

theorem Core.readyFull_iff (c : Core) : c.readyFull = true ↔ 64 ≤ c.ready.length := decide_eq_true_iff

theorem readyFull_eq_false {c : Core} (h : c.ready.length < 64) : c.readyFull = false := decide_eq_false (not_le.mpr h)

/-! ## `arm` and `bind` (R171, R197) -/

section
variable {s : State} {k cnt : Nat} {arg v : Word} {n : Nat} {e : ClassE}

/-- A slot once the count of an `arm` has been taken from the messages that came early. -/
def Trig.counted (t : Trig) (cnt : Nat) (arg : Word) : Trig := { t with early := BitVec.ofNat 32 (t.early.toNat - cnt), arg := arg, item := none }

/-- A slot armed for what is left of a count. -/
def Trig.armedFor (t : Trig) (cnt : Nat) (arg : Word) : Trig :=
  { t with st := .armed, remaining := BitVec.ofNat 32 (cnt - t.early.toNat), early := 0, arg := arg }

theorem State.withBr_fired (f : Core → Core) (br : Nat) : ((s.upd f).updCore s.cur fun c => c.setBr br) = s.withBr f br :=
  s.upd_upd f fun c => c.setBr br

theorem State.arm_absent (h : 62 < k) : s.arm s.cur k cnt arg = s.withBr id 3 := if_pos h

theorem State.arm_inUse (h : k ≤ 62) (hst : (s.me.trig k).st ≠ .disarmed) : s.arm s.cur k cnt arg = s.withBr id 2 := by
  rw [State.arm]
  exact (if_neg (not_lt.mpr h)).trans (if_pos hst)

theorem State.arm_counts (h : k ≤ 62) (hst : (s.me.trig k).st = .disarmed) (he : (s.me.trig k).early.toNat < cnt) :
    s.arm s.cur k cnt arg = s.withBr (fun d => d.setTrig k ((s.me.trig k).armedFor cnt arg)) 0 := by
  rw [State.arm]
  refine ((if_neg (not_lt.mpr h)).trans ((if_neg (not_not.mpr hst)).trans (if_neg (not_le.mpr he)))).trans ?_
  exact State.withBr_fired (fun c : Core => c.setTrig k ((s.me.trig k).armedFor cnt arg)) 0

theorem State.arm_full (h : k ≤ 62) (hst : (s.me.trig k).st = .disarmed) (he : cnt ≤ (s.me.trig k).early.toNat)
    (hfull : (s.me.fireAdds (s.me.trig k) && s.me.readyFull) = true) : s.arm s.cur k cnt arg = s.withBr id 2 := by
  rw [State.arm]
  exact (if_neg (not_lt.mpr h)).trans ((if_neg (not_not.mpr hst)).trans ((if_pos he).trans (if_pos hfull)))

/-- A slot whose early messages are enough fires at once. -/
theorem State.arm_fires (h : k ≤ 62) (hst : (s.me.trig k).st = .disarmed) (he : cnt ≤ (s.me.trig k).early.toNat)
    (hroom : (s.me.fireAdds (s.me.trig k) && s.me.readyFull) = false) : s.arm s.cur k cnt arg =
      ((s.upd fun c => c.setTrig k ((s.me.trig k).counted cnt arg)).fire s.cur k).updCore s.cur fun c => c.setBr 0 := by
  rw [State.arm]
  exact (if_neg (not_lt.mpr h)).trans ((if_neg (not_not.mpr hst)).trans ((if_pos he).trans (if_neg (Bool.eq_false_iff.mp hroom))))

/-- A slot with the binding that a `bind` gives it. -/
def Trig.bound (t : Trig) (v : Word) : Trig := { t with binding := if bit v 4 then none else some (bits v 0 4) }

theorem bits_zero_iff_lt_32 (v : Word) : bits v 5 59 ≠ 0 ↔ 32 ≤ v.toNat := by
  rw [Ne, bits_high_eq_zero_iff v 5 rfl]
  omega

theorem State.bindSlot_absent (h : 62 < k ∨ 32 ≤ v.toNat) : s.bindSlot s.cur k v = s.withBr id 3 := by
  rw [State.bindSlot]
  exact if_pos (h.imp_right (bits_zero_iff_lt_32 v).mpr)

theorem State.bindSlot_eq (h : k ≤ 62) (hv : v.toNat < 32) : s.bindSlot s.cur k v =
    if (s.me.trig k).st = .pending ∧ ((s.me.trig k).bound v).binding ≠ none then
      if s.me.fireAdds ((s.me.trig k).bound v) && s.me.readyFull then s.withBr id 2
      else ((s.upd fun c => c.setTrig k ((s.me.trig k).bound v)).fire s.cur k).updCore s.cur fun c => c.setBr 0
    else s.withBr (fun c => c.setTrig k ((s.me.trig k).bound v)) 0 := by
  have hin : ¬ (k > 62 ∨ bits v 5 59 ≠ 0) := by rw [bits_zero_iff_lt_32]; omega
  rw [State.bindSlot, ← State.withBr_fired fun c : Core => c.setTrig k ((s.me.trig k).bound v)]
  exact if_neg hin

end

theorem low_four_of_lt {v : Word} (h : v.toNat < 16) : bit v 4 = false ∧ bits v 0 4 = v.toNat := by
  refine ⟨?_, ?_⟩
  · rw [bit, BitVec.getLsbD, Nat.testBit_lt_two_pow h]
  · rw [bits_eq_div_mod, pow_zero, Nat.div_one]
    exact Nat.mod_eq_of_lt h

/-! ## `spawn` (R172) -/

section
variable {c : Core} {cls arg now : Word} {e : ClassE}

theorem Core.spawn_absent (h : 16 ≤ cls.toNat ∨ c.classOf cls.toNat = none) : c.spawn cls arg now = c.setBr 3 := by
  have hnone : (if bits cls 4 60 = 0 then c.classOf cls.toNat else none) = none := by
    split
    · next h0 =>
      have hlt := (bits_high_eq_zero_iff cls 4 rfl).mp h0
      exact h.resolve_left (by omega)
    · rfl
  rw [Core.spawn, hnone]
  rfl

theorem Core.spawn_class (h : cls.toNat < 16) (he : c.classOf cls.toNat = some e) : c.spawn cls arg now =
    if e.cluster then c.setBr 3 else if c.readyFull then c.setBr 2
    else ({ c with ready := c.ready ++ [⟨cls.toNat, e.prio, none, 63, none, arg, now, now⟩] } : Core).setBr 0 := by
  have hsome : (if bits cls 4 60 = 0 then c.classOf cls.toNat else none) = some e := by
    rw [if_pos ((bits_high_eq_zero_iff cls 4 rfl).mpr h), he]
  rw [Core.spawn, hsome]
  simp only [Core.enqueue_eq he]
  rfl

end

/-! ## The clauses of O40 -/

theorem Core.Stays.refl (c : Core) : c.Stays c := ⟨rfl, rfl⟩

theorem Core.stays_setTrig (c : Core) (k : Nat) (t : Trig) : c.Stays (c.setTrig k t) := ⟨rfl, rfl⟩

section
variable (s : State) (a b c : Reg)

/-- `send`, `sendm` and `reply` refuse what their headers and registers break (R168, R170, R173). -/
theorem messages_refused : let h := s.me.s a.toNat; let n := bits h 22 4; let x := s.me.s c.toNat
    let all (p : Instr → Prop) : Prop := p (.send a b) ∧ p (.sendm a b c) ∧ p (.reply a b c)
    (n ≠ 0 → b = 0 → all fun i => Traps i s tREGISTER 0) ∧
    (n ≠ 0 → b ≠ 0 → 32 < b.toNat + n → all fun i => Traps i s tREGISTER (BitVec.ofNat 64 (b.toNat + n - 1))) ∧
    (HoldsPayload h b →
      (8 < n ∨ bits h 0 22 ≠ 0 ∨ bits h 46 2 ≠ 0 ∨ placed s s.mine.slot (bits h 51 13) = none →
        Traps (.send a b) s tMESH h ∧ Traps (.sendm a b c) s tMESH h) ∧
      (256 ≤ x.toNat → Traps (.sendm a b c) s tMESH h) ∧
      ((∀ vc core, vc < 8192 → core < 8 → x ≠ meshAddr vc core 0) → Traps (.reply a b c) s tMESH h) ∧
      ∀ vc core, vc < 8192 → core < 8 → x = meshAddr vc core 0 → let g := replyHeader h vc core
        8 < n ∨ bits h 0 22 ≠ 0 ∨ placed s s.mine.slot (bits g 51 13) = none → Traps (.reply a b c) s tMESH g) := by
  intro h n x all
  refine ⟨fun hn hb => all_trap fun g ok hg => ?_, fun hn hb h32 => all_trap fun g ok hg => ?_,
    fun hr => ⟨fun hbad => ⟨send_traps ?_, sendm_traps ?_⟩, fun hx => sendm_traps ?_, fun hx => ?_, fun vc core hvc hcore hx hbad => ?_⟩⟩
  · exact sendFault_no_register (hg ▸ hn) hb
  · rw [sendFault_past_registers (hg ▸ hn) hb (hg ▸ h32), hg]
  · refine sendFault_refused hr (hbad.imp_right (Or.imp_right (Or.imp_left fun hk => ?_)))
    exact beq_eq_false_iff_ne.mpr hk
  · refine sendFault_refused hr (hbad.imp_right (Or.imp_right (Or.imp_left fun hk => ?_)))
    rw [beq_eq_false_iff_ne.mpr hk, Bool.false_and]
  · have hmask : bits x 8 56 ≠ 0 := fun h0 => by
      have hlt := (bits_high_eq_zero_iff x 8 rfl).mp h0
      omega
    refine sendFault_refused hr (.inr (.inr (.inl ?_)))
    rw [beq_eq_false_iff_ne.mpr hmask, Bool.and_false]
  · have hs := sourceCore_none hx
    exact reply_traps (fun vc core he => absurd (hs.symm.trans he) nofun) fun _ => sendFault_refused hr (.inr (.inr (.inl rfl)))
  · obtain ⟨hn', hz', -, -, -⟩ := replyHeader_fields h hvc hcore
    have hs : sourceCore x = some (vc, core) := hx ▸ sourceCore_meshAddr hvc hcore
    refine reply_traps (fun vc' core' he => ?_) fun he => absurd (hs.symm.trans he) nofun
    obtain ⟨rfl, rfl⟩ := Prod.mk.inj (Option.some.inj (hs.symm.trans he))
    refine sendFault_refused ?_ ?_
    · rwa [HoldsPayload, hn']
    · rw [hn', hz']
      exact hbad.imp_right (Or.imp_right .inr)

/-- `arm` and `bind` by the state of their slot (R171, R197). -/
theorem arm_leaves {f : Core → Core} {br : Nat} (hbr : br < 4) (hf : s.me.Stays (f s.me))
    (h : s.arm s.cur (s.me.s a.toNat).toNat ((s.me.s b.toNat).toNat % 2 ^ 32) (s.me.s c.toNat) = s.withBr f br) :
    Leaves (.arm a b c) s (s.upd f) nothing onlyStat fun u => u.me.br = br :=
  withBr_leaves (i := .arm a b c) rfl (congrArg Eff.next h) hbr hf

theorem bind_leaves {f : Core → Core} {br : Nat} (hbr : br < 4) (hf : s.me.Stays (f s.me))
    (h : s.bindSlot s.cur (s.me.s a.toNat).toNat (s.me.s b.toNat) = s.withBr f br) :
    Leaves (.bind a b) s (s.upd f) nothing onlyStat fun u => u.me.br = br :=
  withBr_leaves (i := .bind a b) rfl (congrArg Eff.next h) hbr hf

theorem spawn_leaves {f : Core → Core} {br : Nat} (hbr : br < 4) (hf : s.me.Stays (f s.me))
    (h : s.me.spawn (s.me.s a.toNat) (s.me.s b.toNat) s.cyc = (f s.me).setBr br) :
    Leaves (.spawn a b) s (s.upd f) nothing onlyStat fun u => u.me.br = br :=
  withBr_leaves (i := .spawn a b) rfl (congrArg Eff.next (State.upd_congr h)) hbr hf

end

/-- Settles O40: messages by what they refuse and by `send_posts`, `sendm_posts` and `reply_posts`; slots by the equations of `State.arm`
and `State.bindSlot` and what firing does; `spawn` by its class. -/
theorem messagesAndTriggers : Obligations.MessagesAndTriggers := by
  refine ⟨?messages, ?triggers, ?spawns⟩
  case messages =>
    intro s a b c h n x pay item posts ok free all
    obtain ⟨hr1, hr2, hr3⟩ := messages_refused s a b c
    refine ⟨hr1, hr2, hr3, fun hok hk ho => send_posts hok hk rfl ho, fun hok hk hx ho => sendm_posts hok hk hx ho,
      fun vc core hvc hcore hx hok ho => reply_posts hvc hcore hx ?_ ho⟩
    obtain ⟨hn', -, -, -, -⟩ := replyHeader_fields h hvc hcore
    rwa [State.Sendable, HoldsPayload, hn']
  case triggers =>
    intro s a b c k v cnt t gives starts
    have hstay (u : Trig) : s.me.Stays (s.me.setTrig k u) := s.me.stays_setTrig k u
    refine ⟨fun h => ⟨arm_leaves s a b c (by decide) (.refl _) (State.arm_absent h),
        bind_leaves s a b (by decide) (.refl _) (State.bindSlot_absent (.inl h))⟩,
      fun h => bind_leaves s a b (by decide) (.refl _) (State.bindSlot_absent (.inr h)),
      fun h hst => arm_leaves s a b c (by decide) (.refl _) (State.arm_inUse h hst),
      fun h hst he => arm_leaves s a b c (by decide) (hstay _) (State.arm_counts h hst he),
      fun h hst he hb => ?pending, fun h hst he n e hb hclass => ⟨fun hfull => ?full, fun hroom => ?fires⟩, fun h hv hor => ?rebound,
      fun h hv hst e hclass => ?started⟩
    case pending =>
      have hroom : (s.me.fireAdds t && s.me.readyFull) = false := by simp [Core.fireAdds, hb]
      refine arm_leaves s a b c (by decide) (hstay _) ((State.arm_fires h hst he hroom).trans ?_)
      rw [State.fire_unbound (t := t.counted cnt (s.me.s c.toNat)) rfl hb]
      exact State.withBr_fired _ 0
    case full =>
      refine arm_leaves s a b c (by decide) (.refl _) (State.arm_full h hst he ?_)
      rw [Core.fireAdds_bound hb hclass, (Core.readyFull_iff _).mpr hfull, Bool.and_self]
    case fires =>
      have hroom' : (s.me.fireAdds t && s.me.readyFull) = false := by
        rw [readyFull_eq_false hroom, Bool.and_false]
      refine arm_leaves s a b c (by decide) ⟨rfl, rfl⟩ ((State.arm_fires h hst he hroom').trans ?_)
      rw [State.fire_bound (t := t.counted cnt (s.me.s c.toNat)) rfl hb hclass]
      exact State.withBr_fired _ 0
    case rebound =>
      refine bind_leaves s a b (by decide) (hstay _) ((State.bindSlot_eq h hv).trans (if_neg ?_))
      rintro ⟨hpend, hsome⟩
      exact hor.elim (fun hne => hne hpend) fun h4 => hsome (if_pos h4)
    case started =>
      obtain ⟨h4, hlow⟩ := low_four_of_lt hv
      have hbound : (t.bound v).binding = some v.toNat := by rw [Trig.bound, h4, hlow]; rfl
      have hif : t.st = .pending ∧ (t.bound v).binding ≠ none := ⟨hst, by rw [hbound]; nofun⟩
      have hbind := (State.bindSlot_eq h (by omega : v.toNat < 32)).trans (if_pos hif)
      refine ⟨fun hfull => ?_, fun hroom => ?_⟩
      · refine bind_leaves s a b (by decide) (.refl _) (hbind.trans (if_pos ?_))
        rw [Core.fireAdds_bound hbound hclass, (Core.readyFull_iff _).mpr hfull, Bool.and_self]
      · rw [readyFull_eq_false hroom, Bool.and_false, if_neg Bool.false_ne_true, State.fire_bound rfl hbound hclass, State.withBr_fired] at hbind
        have ht : { t.bound v with item := none } = { t with binding := some v.toNat, item := none } := by rw [← hbound]; rfl
        rw [ht] at hbind
        exact bind_leaves s a b (by decide) ⟨rfl, rfl⟩ hbind
  case spawns =>
    intro s a b n i gives
    refine ⟨fun h => spawn_leaves s a b (by decide) (.refl _) (Core.spawn_absent (.inl h)),
      fun h => spawn_leaves s a b (by decide) (.refl _) (Core.spawn_absent (.inr h)),
      fun e hn he => ⟨fun hc => ?_, fun hc => ⟨fun hfull => ?_, fun hroom => ?_⟩⟩⟩
    all_goals have hspawn := Core.spawn_class (c := s.me) (arg := s.me.s b.toNat) (now := s.cyc) hn he
    · exact spawn_leaves s a b (by decide) (.refl _) (hspawn.trans (if_pos hc))
    · rw [if_neg (Bool.eq_false_iff.mp hc), if_pos ((Core.readyFull_iff _).mpr hfull)] at hspawn
      exact spawn_leaves s a b (by decide) (.refl _) hspawn
    · rw [if_neg (Bool.eq_false_iff.mp hc), if_neg (by rw [Core.readyFull_iff]; omega)] at hspawn
      exact spawn_leaves s a b (f := fun d => { d with ready := d.ready ++ [⟨n, e.prio, none, 63, none, s.me.s b.toNat, s.cyc, s.cyc⟩] })
        (by decide) ⟨rfl, rfl⟩ hspawn

end Sys2Proof.Machine
end

section
/-! SUPPORT. `eret` of a core that is attached (R183, R189, R206). -/
namespace Sys2Proof.Machine
open Sys2Proof

/-- The `once` whose results core 0 owes, governed at the address that its `eret` goes back to; cores 0 and 1 receive it. -/
def OnceRec.owed : OnceRec := ⟨3, 0x8000000000001000, [0, 1], some 0, none, false⟩

/-- An attached core in trap mode that owes the results of `OnceRec.owed`, with one instruction issued to it under that `once`, at another
address than the one it returns to. -/
def Core.owing : Core :=
  { tHandler 16 with att := true, obligation := some 3, cr := (Cr.epc, 0x8000000000001000) :: (tHandler 16).cr,
                     buf := [⟨0, .bad 0 false, some 3, none, 0, 16, [], none⟩] }

/-- A module with that core alone, its group active. -/
def State.owing : State :=
  { tState Core.owing with clusters := [(0, { Cluster.blank with powered := true, cores := [(0, Core.owing)], onces := [OnceRec.owed],
                                                                 group := ⟨true, 0x8000000000001000, .none, none, none⟩ })] }

theorem passes_owing : Passes State.owing .eret := ⟨by decide, by decide, by decide⟩

/-- The core has diverged from what was issued to it, so that it leaves the group and drops out of the `once`. -/
theorem receivers_of_owing : ∃ t, exec .eret State.owing = .next t ∧ t.mine.onces = [{ OnceRec.owed with receivers := [1] }] :=
  ⟨_, rfl, by decide⟩

/-- Refutes O44: nothing in the statement keeps the core that returns from being attached. Where it is, the comparison of the group after
`eret` finds that it has diverged, and the core drops out of the receivers of the `once` that it governs again (R206), so that the record
does not stay as it was (`receivers_of_owing`). -/
theorem not_trapReturns : ¬ Obligations.TrapReturns := by
  intro h
  obtain ⟨-, -, -, hresumes⟩ := h State.owing
  obtain ⟨t, ht, -, -, -, -, hagain, -⟩ := hresumes 3 OnceRec.owed (by decide) (by decide) rfl rfl rfl rfl passes_owing
  obtain ⟨-, honces⟩ := hagain (by decide)
  obtain ⟨u, hu, hdropped⟩ := receivers_of_owing
  obtain rfl : u = t := Host.Outcome.next.inj (hu.symm.trans ht)
  exact absurd (hdropped.symm.trans honces) (by decide)

end Sys2Proof.Machine
end

section
/-! SUPPORT. The end of an activation (R20, R174, R236) and of a cluster task (R93, R207). -/
namespace Sys2Proof.Machine
open Sys2Proof

/-! ## A group's comparison keeps its stream running -/

theorem Cluster.group_detach (k : Cluster) (j why : Nat) : (k.detach j why).group = k.group := by
  unfold Cluster.detach
  dsimp only
  split <;> rfl

theorem Cluster.group_compare (k : Cluster) (j : Nat) : (k.compare j).group = k.group := by
  unfold Cluster.compare
  dsimp only
  split
  · split
    · split
      · rfl
      · exact k.group_detach j 1
    · split
      · rfl
      · exact k.group_detach j 1
  · rfl

theorem Cluster.active_settleOnce (k : Cluster) : k.settleOnce.group.active = k.group.active := by
  unfold Cluster.settleOnce
  refine List.foldlRecOn (motive := fun l : Cluster => l.group.active = k.group.active) _ _ ?_ fun l hl j _ =>
    (congrArg Group.active (l.group_compare j)).trans hl
  split
  · rfl
  · dsimp only
    split
    · split
      · rfl
      · refine List.foldlRecOn (motive := fun l : Cluster => l.group.active = k.group.active) _ _ rfl fun l hl j _ => ?_
        split
        · split
          · exact (congrArg Group.active (l.group_detach j 1)).trans hl
          · exact hl
        · exact hl
      · rfl
    · rfl

theorem Cluster.active_settleFrom (n : Nat) (k : Cluster) : (Cluster.settleFrom n k).group.active = k.group.active := by
  induction n generalizing k with
  | zero => rfl
  | succ n ih =>
    unfold Cluster.settleFrom
    dsimp only
    split
    · exact k.active_settleOnce
    · exact (ih _).trans k.active_settleOnce

theorem Cluster.active_settle (k : Cluster) : k.settle.group.active = k.group.active := by
  unfold Cluster.settle
  split
  · refine Eq.trans ?_ (Cluster.active_settleFrom 8 k)
    unfold Cluster.passIfence
    split <;> rfl
  · rfl

/-! ## The core that an activation leaves -/

/-- The frame whose header a core's `halt` frees. -/
def Core.endFrame (c : Core) : Nat := if c.tm then (c.cr_ Cr.twpsave).toNat else c.wp

/-- What an activation that ended with a keep set leaves of its core. -/
structure Core.Ended (c : Core) (n : Nat) (d : Core) : Prop where
  act : d.act = none
  att : d.att = false
  head : d.freeHead = BitVec.ofNat 64 c.endFrame
  link : d.store.read8 (c.endFrame + 40) = c.freeHead
  wait : d.wait = none
  bytes : ∀ x, ¬ span (c.endFrame + 40) 8 x → d.store.get x = c.store.get x
  tm : d.tm = false
  kept : ∀ m cls, afind c.keeps n = some (m, cls) → ∀ b < 15, (d.bank b).keepClass = if m.getLsbD b then some cls else (c.bank b).keepClass

section
variable (c : Core) (n : Nat) (now : Word)

theorem bit_setBits_zero (w : Word) {i : Nat} (h : i < 64) : bit (setBits w i 1 0) i = false := by
  have hb := bits_setBits_same w (lo := i) (len := 1) (v := 0) (by omega) (by decide)
  rw [bits_eq_div_mod, pow_one] at hb
  rw [bit, BitVec.getLsbD, Nat.testBit_eq_decide_div_mod_eq, hb]
  rfl

/-- Charging an activation changes nothing but the delay entries. -/
theorem Core.charge_delays (a : Act) : ∃ l, c.charge a now = { c with delays := l } := by
  unfold Core.charge
  split
  · exact ⟨_, rfl⟩
  · exact ⟨_, rfl⟩

/-- The banks of a list that a keep set marks for a class. -/
def Core.markKept (mask : BitVec 16) (cls : Nat) (l : List Nat) : Core :=
  l.foldl (fun (c : Core) b => if mask.getLsbD b then c.setBank b { c.bank b with keepClass := some cls } else c) c

theorem Core.markKept_banks (mask : BitVec 16) (cls : Nat) (l : List Nat) : ∃ bs, c.markKept mask cls l = { c with banks := bs } := by
  refine List.foldlRecOn (motive := fun d : Core => ∃ bs, d = { c with banks := bs }) l _ ⟨c.banks, rfl⟩ ?_
  rintro _ ⟨bs, rfl⟩ b -
  split
  · exact ⟨_, rfl⟩
  · exact ⟨_, rfl⟩

theorem Core.keepClass_markKept (mask : BitVec 16) (cls : Nat) (l : List Nat) (b : Nat) : ((c.markKept mask cls l).bank b).keepClass =
    if b ∈ l ∧ mask.getLsbD b = true then some cls else (c.bank b).keepClass := by
  induction l generalizing c with
  | nil => simp [Core.markKept]
  | cons a l ih =>
    rw [Core.markKept, List.foldl_cons]
    refine (ih _).trans ?_
    by_cases hb : b = a
    · subst hb
      by_cases hm : mask.getLsbD b = true
      · simp [hm]
      · simp [hm]
    · have hother : (if mask.getLsbD a = true then c.setBank a { c.bank a with keepClass := some cls } else c).bank b = c.bank b := by
        split
        · exact Core.bank_setBank_other _ _ hb
        · rfl
      simp [hother, hb]

/-- A `halt` keeps banks, and marks those of its keep set. -/
theorem Core.keep_spec : (∃ bs, c.keep n = { c with banks := bs }) ∧ ∀ m cls, afind c.keeps n = some (m, cls) → ∀ b < 15,
    ((c.keep n).bank b).keepClass = if m.getLsbD b then some cls else (c.bank b).keepClass := by
  unfold Core.keep
  split
  · next h => exact ⟨⟨c.banks, rfl⟩, fun m cls h' => absurd (h.symm.trans h') nofun⟩
  · next mask k h =>
    refine ⟨c.markKept_banks mask k _, fun m cls h' b hb => ?_⟩
    obtain ⟨rfl, rfl⟩ := Prod.mk.inj (Option.some.inj (h.symm.trans h'))
    refine (c.keepClass_markKept mask k _ b).trans ?_
    simp only [List.mem_range, hb, true_and]

/-- An activation that ends leaves its core so, at rest, past its part of a cluster task where it was one. -/
theorem Core.haltAct_ended {a : Act} (ha : c.act = some a) : c.Ended n (c.haltAct n now) ∧
    (c.haltAct n now).run = (if c.past || a.cluster then .halted else .idle) ∧ (c.haltAct n now).past = (c.past || a.cluster) ∧
    (c.haltAct n now).stopped = c.stopped ∧ (c.haltAct n now).stopReq = c.stopReq := by
  obtain ⟨l, hcharge⟩ := c.charge_delays now a
  obtain ⟨⟨bs, hkeep⟩, hclass⟩ := (({ c with delays := l } : Core).freeFrame c.endFrame).keep_spec n
  have hhalt : c.haltAct n now =
      let d : Core := ({ c with delays := l } : Core).freeFrame c.endFrame
      { d.setCr Cr.stat (setBits (c.cr_ Cr.stat) 3 1 0) with
        banks := bs, past := c.past || a.cluster, act := none, run := if c.past || a.cluster then .halted else .idle, att := false,
        wait := none, taken := none, repBuf := [], transfer := none, fell := none } := by
    rw [Core.haltAct, ha]
    dsimp only
    rw [hcharge]
    dsimp only [Core.endFrame] at hkeep ⊢
    rw [hkeep]
    rfl
  rw [hhalt]
  refine ⟨⟨rfl, rfl, rfl, Memory.read8_store _ _ _, rfl, fun x hx => Memory.get_store_outside _ _ _ _ hx, ?_,
    fun m cls h b hb => ?_⟩, rfl, rfl, rfl, rfl⟩
  · exact (congrArg (bit · 3) (Core.cr_setCr _ _ _)).trans (bit_setBits_zero _ (by decide))
  · rw [hkeep] at hclass
    exact hclass m cls h b hb

end

/-- What ends depends on a core apart from its standing in its group. -/
theorem Core.Ended.of_apart {c c' d : Core} {n : Nat} (h : c'.Ended n d) (hap : c'.apart = c.apart) : c.Ended n d := by
  have hcr : c'.cr = c.cr := by have x := congrArg Core.cr hap; exact x
  have hstore : c'.store = c.store := by have x := congrArg Core.store hap; exact x
  have hbanks : c'.banks = c.banks := by have x := congrArg Core.banks hap; exact x
  have hkeeps : c'.keeps = c.keeps := by have x := congrArg Core.keeps hap; exact x
  have hhead : c'.freeHead = c.freeHead := by have x := congrArg Core.freeHead hap; exact x
  have hcrs (m : Nat) : c'.cr_ m = c.cr_ m := by rw [Core.cr_, Core.cr_, hcr]
  have hframe : c'.endFrame = c.endFrame := by rw [Core.endFrame, Core.endFrame, Core.tm, Core.tm, Core.wp, Core.wp, hcrs, hcrs, hcrs]
  obtain ⟨h1, h2, h3, h4, h5, h6, h7, h8⟩ := h
  refine ⟨h1, h2, hframe ▸ h3, hhead ▸ hframe ▸ h4, h5, fun x hx => (h6 x (hframe.symm ▸ hx)).trans (congrArg (·.get x) hstore), h7,
    fun m cls hm b hb => ?_⟩
  rw [h8 m cls (hkeeps ▸ hm) b hb, Core.bank_congr hbanks]

/-! ## The module that a `halt` leaves -/

section
variable {s : State} {a : Act} {n : Nat}

/-- A core gives up what a `once` holds for it without a change of its own data. -/
theorem Cluster.alike_discharge (k : Cluster) (j id : Nat) : k.Alike (k.discharge j id) := by
  unfold Cluster.discharge
  split
  · exact Cluster.alike_setCore k j _ rfl
  · split
    · exact Cluster.alike_post _ _ _ _
    · exact (Cluster.alike_setCore k j { k.core j with governed := none, obligation := none } rfl).trans (Cluster.alike_dropOnce _ _ _)

theorem Cluster.group_discharge (k : Cluster) (j id : Nat) : (k.discharge j id).group = k.group := by
  unfold Cluster.discharge
  split
  · rfl
  · split <;> rfl

/-- The end of an activation once its core holds nothing of a `once` any more. -/
def State.endAct (n : Nat) (u : State) : State :=
  let v := u.updCluster u.cur.cl fun x => x.dropBuf u.cur.core
  let w := v.upd fun c => c.haltAct n v.cyc
  let cluster := match v.me.act with | some a => a.cluster | none => false
  if cluster then w.updCluster w.cur.cl fun x => x.settle.completeJoin else w

/-- A `halt` first gives up what a `once` holds for the core. -/
theorem haltState_discharges (h : s.me.untraced) : ∃ u : State, SameData s u ∧ u.mine.group = s.mine.group ∧ haltState n s = u.endAct n := by
  have hends : haltState n s = State.endAct n (match s.me.governed.or s.me.obligation with
      | some id => s.updCluster s.cur.cl fun x => x.discharge s.cur.core id
      | none => s) := by
    rw [haltState, State.trace_of_untraced h]
    rfl
  split at hends
  · exact ⟨_, .of_updCluster _ _ _ (Cluster.alike_discharge _ _ _),
      (congrArg Cluster.group (s.cluster_updCluster s.cur.cl _)).trans (Cluster.group_discharge _ _ _), hends⟩
  · exact ⟨s, .refl s, rfl, hends⟩

/-- What a `halt` does once the core holds nothing of a `once`, and nothing issued to it, any more. -/
theorem haltState_eq (h : s.me.untraced) (ha : s.me.act = some a) : ∃ u : State, SameData s u ∧ u.mine.group = s.mine.group ∧
    haltState n s = if a.cluster then (u.upd fun c => c.haltAct n s.cyc).updCluster s.cur.cl fun x => x.settle.completeJoin
      else u.upd fun c => c.haltAct n s.cyc := by
  obtain ⟨u, hsame, hgroup, hend⟩ := haltState_discharges (n := n) h
  have hsame' := hsame.trans (.of_updCluster u u.cur.cl (·.dropBuf u.cur.core) (Cluster.alike_dropBuf _ _))
  have hact : (u.updCluster u.cur.cl (·.dropBuf u.cur.core)).me.act = some a := by
    have x := congrArg Core.act hsame'.me
    exact x.trans ha
  have hcyc : (u.updCluster u.cur.cl (·.dropBuf u.cur.core)).cyc = s.cyc := by
    have x := congrArg State.cyc hsame'.outer
    exact x
  refine ⟨u.updCluster u.cur.cl (·.dropBuf u.cur.core), hsame', (congrArg Cluster.group (u.cluster_updCluster u.cur.cl _)).trans hgroup, ?_⟩
  rw [hend, State.endAct]
  rw [hact, hcyc, ← hsame'.cur]
  rfl

end

/-! ## The end of a cluster task (R93, R207) -/

section
variable {k : Cluster} {j : Nat}

/-- A core whose cluster task has ended. -/
def Core.released (c : Core) : Core := { c with past := false, run := if c.run = .halted then .idle else c.run }

/-- With the last core halted the task ends on every core. -/
theorem Cluster.completeJoin_ends (ha : k.group.active = true) (hall : ∀ j < 8, (k.core j).arrived = true ∧ (k.core j).run ≠ .joining) :
    k.completeJoin.group = Group.blank ∧ k.completeJoin.onces = [] ∧ ∀ j < 8, k.completeJoin.core j = (k.core j).released := by
  have hfind : ((List.range 8).find? fun j => (k.core j).run == .joining) = none := by
    rw [List.find?_eq_none]
    exact fun j hj => by simpa using (hall j (List.mem_range.mp hj)).2
  have hdone : (k.group.active && (List.range 8).all fun j => (k.core j).arrived) = true := by
    rw [ha, Bool.true_and, List.all_eq_true]
    exact fun j hj => (hall j (List.mem_range.mp hj)).1
  rw [Cluster.completeJoin, if_pos hdone, hfind]
  dsimp only
  refine ⟨?_, ?_, fun j hj => ?_⟩
  · exact List.foldlRecOn (motive := fun l : Cluster => l.group = Group.blank) _ _ rfl fun l hl j _ => hl
  · exact List.foldlRecOn (motive := fun l : Cluster => l.onces = []) _ _ rfl fun l hl j _ => hl
  · exact (Cluster.core_foldl (step := fun l j => l.setCore j (l.core j).released) (g := Core.released) (fun l j => l.core_setCore j _)
      (fun l i j hij => l.core_setCore_other _ hij) List.nodup_range _ j).trans (if_pos (List.mem_range.mpr hj))

theorem Core.arrived_apart {c d : Core} (h : d.apart = c.apart) : d.arrived = c.arrived ∧ d.run = c.run := by
  have hrun : d.run = c.run := by have x := congrArg Core.run h; exact x
  have hpast : d.past = c.past := by have x := congrArg Core.past h; exact x
  have hstop : d.stopped = c.stopped := by have x := congrArg Core.stopped h; exact x
  have hact : d.act = c.act := by have x := congrArg Core.act h; exact x
  have hreq : d.stopReq = c.stopReq := by have x := congrArg Core.stopReq h; exact x
  exact ⟨by rw [Core.arrived, Core.arrived, hrun, hpast, hstop, hact, hreq], hrun⟩

/-- A core that halts while another has not arrived waits for it, whatever the others' comparison finds. -/
theorem Cluster.halted_waits (hd : (k.core j).att = false) (h : ¬ ∀ i < 8, i ≠ j → (k.core i).arrived = true) :
    k.settle.completeJoin.core j = k.core j := by
  push Not at h
  obtain ⟨i, hi, -, harr⟩ := h
  rw [Cluster.completeJoin_of_waiting hi, Cluster.core_settle_of_detached hd]
  rw [(Core.arrived_apart (k.alike_settle.2 i)).1, ← Bool.not_eq_true]
  exact harr

/-- A core that halts as the last ends the task. -/
theorem Cluster.halted_last (ha : k.group.active = true) (hj : j < 8) (hd : (k.core j).att = false)
    (hmine : (k.core j).arrived = true ∧ (k.core j).run ≠ .joining)
    (hall : ∀ i < 8, i ≠ j → (k.core i).arrived = true ∧ (k.core i).run ≠ .joining) :
    k.settle.completeJoin.group = Group.blank ∧ k.settle.completeJoin.onces = [] ∧ k.settle.completeJoin.core j = (k.core j).released := by
  obtain ⟨hgroup, honces, hcores⟩ := Cluster.completeJoin_ends (k := k.settle) (k.active_settle.trans ha) fun i hi => by
    obtain ⟨harr, hrun⟩ := Core.arrived_apart (k.alike_settle.2 i)
    rw [harr, hrun]
    by_cases hij : i = j
    · exact hij ▸ hmine
    · exact hall i hi hij
  exact ⟨hgroup, honces, (hcores j hj).trans (congrArg Core.released (Cluster.core_settle_of_detached hd))⟩

end

/-! ## The clauses of O43 -/

section
variable {s : State} {a : Act} {i : Instr} {n : Nat}

/-- The module while a core ends its activation: the module before but for its group's progress, with the core that the activation leaves. -/
structure Ends (s w : State) (a : Act) (n : Nat) : Prop where
  outer : w.outer = s.outer
  ended : s.me.Ended n w.me
  group : w.mine.group = s.mine.group
  run : w.me.run = if s.me.past || a.cluster then .halted else .idle
  past : w.me.past = (s.me.past || a.cluster)
  stopped : w.me.stopped = s.me.stopped
  stopReq : w.me.stopReq = s.me.stopReq
  others : ∀ j, j ≠ s.cur.core → (w.mine.core j).apart = (s.mine.core j).apart

theorem Ends.cur {w : State} (h : Ends s w a n) : w.cur = s.cur := by have x := congrArg State.cur h.outer; exact x

theorem halt_answers (he : exec i s = retire i s fun s => .stay (haltState n s)) (ha : s.me.act = some a) (ht : s.me.untraced) (hp : Passes s i) :
    ∃ w, Ends s w a n ∧ exec i s = .next (if a.cluster then w.updCluster w.cur.cl fun x => x.settle.completeJoin else w) := by
  obtain ⟨u, hsame, hgroup, hhalt⟩ := haltState_eq (n := n) ht ha
  have hua : u.me.act = some a := by
    have x := congrArg Core.act hsame.me
    exact x.trans ha
  have hcur := hsame.cur
  obtain ⟨hended, hrun, hpast, hstop, hreq⟩ := u.me.haltAct_ended n s.cyc hua
  have hpast' : u.me.past = s.me.past := by have x := congrArg Core.past hsame.me; exact x
  have hstop' : u.me.stopped = s.me.stopped := by have x := congrArg Core.stopped hsame.me; exact x
  have hreq' : u.me.stopReq = s.me.stopReq := by have x := congrArg Core.stopReq hsame.me; exact x
  refine ⟨u.upd fun c => c.haltAct n s.cyc, ⟨hsame.outer, ?_, ?_, ?_, ?_, ?_, ?_, fun j hj => ?_⟩, ?_⟩
  · rw [State.me_upd]
    exact hended.of_apart hsame.me
  · rw [State.mine_upd]
    exact hgroup
  · rw [State.me_upd, hrun, hpast']
  · rw [State.me_upd, hpast, hpast']
  · rw [State.me_upd, hstop, hstop']
  · rw [State.me_upd, hreq, hreq']
  · rw [State.mine_upd, Cluster.core_setCore_other _ _ (hcur.symm ▸ hj)]
    have x := hsame.cores ⟨s.cur.cl, j⟩
    rw [State.mine, hcur]
    exact x
  · rw [exec_of_stay he rfl hp, hhalt, ← hcur]
    rfl

end

/-- Settles O43: a `halt` ends its core's activation (`halt_answers`); in a cluster task the others' arrival decides. -/
theorem haltsEndActivations : Obligations.HaltsEndActivations := by
  intro s k a c h others ha ht hcore ends
  have of_answers (p : State → Prop) (hp : ∀ n w, Ends s w a n →
      let t := if a.cluster then w.updCluster w.cur.cl fun x => x.settle.completeJoin else w
      t.outer = s.outer ∧ s.me.Ended n t.me ∧ p t) : ends p := by
    refine ⟨fun hpass => ?_, fun hpass => ?_⟩
    all_goals
      obtain ⟨w, hw, hexec⟩ := halt_answers rfl ha ht hpass
      obtain ⟨houter, ⟨h1, h2, h3, h4, h5, h6, h7, h8⟩, hleft⟩ := hp _ w hw
      exact ⟨_, hexec, houter, h1, h2, h3, h4, h5, h6, h7, h8, hleft⟩
  refine ⟨fun hsolo => of_answers _ fun n w hw => ?_, fun hcl hact => ⟨fun hwaits => of_answers _ fun n w hw => ?_,
    fun hstop hreq hlast => of_answers _ fun n w hw => ?_⟩⟩
  · rw [hsolo]
    refine ⟨hw.outer, hw.ended, ?_⟩
    exact hw.run.trans (by rw [hsolo, Bool.or_false]; rfl)
  all_goals
    have hrun : w.me.run = .halted := by rw [hw.run, hcl, Bool.or_true, if_pos rfl]
    have hcur := hw.cur
    have harrived (j : Nat) (hj : j ≠ s.cur.core) := Core.arrived_apart (hw.others j hj)
    rw [hcl]
    have hself : w.mine.core s.cur.core = w.me := by rw [← hcur]; rfl
    have hatt : (w.mine.core s.cur.core).att = false := hself ▸ hw.ended.att
    have hme : (w.updCluster w.cur.cl fun x => x.settle.completeJoin).me = w.mine.settle.completeJoin.core s.cur.core := by
      rw [State.me_updCluster, hcur]
  · have hstays : (w.updCluster w.cur.cl fun x => x.settle.completeJoin).me = w.me := by
      refine hme.trans ((Cluster.halted_waits hatt fun hall => hwaits fun j hj hne => ?_).trans hself)
      exact (harrived j hne).1.symm.trans (hall j hj hne)
    exact ⟨hw.outer, hstays.symm ▸ hw.ended, hstays.symm ▸ hrun⟩
  · have hmine : (w.mine.core s.cur.core).arrived = true ∧ (w.mine.core s.cur.core).run ≠ .joining := by
      rw [hself, Core.arrived, hrun, hw.past, hcl, hw.stopped, hw.stopReq, hstop, hreq]
      simp
    obtain ⟨hgroup, honces, hdone⟩ := Cluster.halted_last ((congrArg Group.active hw.group).trans hact) hcore hatt hmine fun j hj hne => by
      obtain ⟨harr, hrun'⟩ := harrived j hne
      rw [harr, hrun']
      exact hlast j hj hne
    have hends : (w.updCluster w.cur.cl fun x => x.settle.completeJoin).me = w.me.released := hme.trans (hdone.trans (congrArg Core.released hself))
    have hcluster : (w.updCluster w.cur.cl fun x => x.settle.completeJoin).mine = w.mine.settle.completeJoin := w.cluster_updCluster _ _
    obtain ⟨h1, h2, h3, h4, h5, h6, h7, h8⟩ := hw.ended
    refine ⟨hw.outer, hends.symm ▸ ⟨h1, h2, h3, h4, h5, h6, h7, h8⟩, ?_, hcluster.symm ▸ hgroup, hcluster.symm ▸ honces⟩
    exact (congrArg Core.run hends).trans (if_pos hrun)

end Sys2Proof.Machine
end

section
/-! SUPPORT. Banks at the end of a launch, held records, and the end of a launch on a core and of its cluster (R76, R174, R236, R273). -/
namespace Sys2Proof.Machine
open Sys2Proof

/-! ## Ranges that are cleared, and entries that are dropped -/

theorem cellGet_filter (l : List Host.Cell) (p : Nat → Bool) (a : Nat) : cellGet (l.filter fun x => p x.1) a = if p a then cellGet l a else 0 := by
  induction l with
  | nil => simp [cellGet]
  | cons x l ih =>
    obtain ⟨b, v⟩ := x
    by_cases hp : p b = true
    · rw [List.filter_cons_of_pos (p := fun x : Host.Cell => p x.1) hp, cellGet, cellGet, ih]
      split
      · next h => rw [if_pos (h ▸ hp)]
      · rfl
    · rw [List.filter_cons_of_neg (p := fun x : Host.Cell => p x.1) hp, cellGet, ih]
      refine ite_congr rfl (fun h => ?_) fun _ => rfl
      have hne : b ≠ a := fun e => hp (e ▸ h)
      rw [if_neg hne]

theorem Memory.get_zero_inside {m : Memory} {a n x : Nat} (h : span a n x) : (m.zero a n).get x = 0 := by
  rw [Memory.get, Memory.zero, cellGet_filter m.cells fun b => !decide (a ≤ b ∧ b < a + n)]
  exact if_neg (by simpa [span] using h)

theorem Memory.get_zero_outside {m : Memory} {a n x : Nat} (h : ¬ span a n x) : (m.zero a n).get x = m.get x := by
  rw [Memory.get, Memory.zero, cellGet_filter m.cells fun b => !decide (a ≤ b ∧ b < a + n)]
  exact if_pos (by rw [Bool.not_eq_true', decide_eq_false_iff_not]; exact h)

section
variable {α : Type} (d : α) (l : Assoc α) {j k : Nat}

theorem aget_adel_same : aget d (adel l k) k = d := by
  induction l with
  | nil => rfl
  | cons x l ih =>
    obtain ⟨i, v⟩ := x
    by_cases h : i = k
    · simpa [adel, h] using ih
    · simpa [adel, h, aget] using ih

theorem aget_adel_other (h : j ≠ k) : aget d (adel l k) j = aget d l j := by
  induction l with
  | nil => rfl
  | cons x l ih =>
    obtain ⟨i, v⟩ := x
    by_cases hi : i = k
    · have hij : i ≠ j := fun e => h (e ▸ hi)
      simpa [adel, hi, aget, hi ▸ hij] using ih
    · by_cases hij : i = j
      · simp [adel, aget, hij, h]
      · simpa [adel, hi, aget, hij] using ih

theorem afind_adel_same : afind (adel l k) k = none := by
  induction l with
  | nil => rfl
  | cons x l ih =>
    obtain ⟨i, v⟩ := x
    by_cases h : i = k
    · simpa [adel, h] using ih
    · simpa [adel, h, afind] using ih

theorem afind_adel_other (h : j ≠ k) : afind (adel l k) j = afind l j := by
  induction l with
  | nil => rfl
  | cons x l ih =>
    obtain ⟨i, v⟩ := x
    by_cases hi : i = k
    · have hij : i ≠ j := fun e => h (e ▸ hi)
      simpa [adel, hi, afind, hi ▸ hij] using ih
    · by_cases hij : i = j
      · simp [adel, afind, hij, h]
      · simpa [adel, hi, afind, hij] using ih

end

/-! ## Banks that a launch's end powers down (R174, R236) -/

section
variable {c : Core} {a b : Nat}

theorem Core.keptFor_eq_some_iff {k : Nat} : c.keptFor b = some k ↔
    (c.bank b).keepClass = some k ∧ b ≠ 15 ∧ ∀ j ∈ members (c.bank b), (c.bank j).keepClass = some k := by
  rw [Core.keptFor]
  split
  · next h => simp [h]
  · next m h =>
    rw [h]
    simp only [Option.some.injEq, Option.ite_none_right_eq_some, List.all_eq_true, beq_iff_eq]
    constructor
    · rintro ⟨⟨h15, hall⟩, rfl⟩
      exact ⟨rfl, h15, hall⟩
    · rintro ⟨rfl, h15, hall⟩
      exact ⟨⟨h15, hall⟩, rfl⟩

theorem Core.bank_powerDown_same : (c.powerDown a).bank a = Bank.blank a (defaultPers a) := aget_adel_same _ _

theorem Core.bank_powerDown_other (h : b ≠ a) : (c.powerDown a).bank b = c.bank b := aget_adel_other _ _ h

/-- A bank of a class has not been powered down. -/
theorem Core.bank_powerDown_of_class {k : Nat} (h : ((c.powerDown a).bank b).keepClass = some k) : (c.powerDown a).bank b = c.bank b := by
  by_cases hb : b = a
  · subst hb
    rw [Core.bank_powerDown_same] at h
    exact absurd h nofun
  · exact Core.bank_powerDown_other hb

/-- Powering a bank down keeps no other. -/
theorem Core.keptFor_powerDown (h : c.keptFor b = none) : (c.powerDown a).keptFor b = none := by
  refine Option.eq_none_iff_forall_not_mem.mpr fun k hk => ?_
  obtain ⟨hclass, h15, hall⟩ := Core.keptFor_eq_some_iff.mp hk
  have hsame := Core.bank_powerDown_of_class hclass
  have hkept : c.keptFor b = some k := Core.keptFor_eq_some_iff.mpr ⟨hsame ▸ hclass, h15, fun j hj => by
    have hm := hall j (hsame.symm ▸ hj)
    rwa [← Core.bank_powerDown_of_class hm]⟩
  exact absurd (h.symm.trans hkept) nofun

/-- A bank at the end of a launch: it stays powered, or powers down. -/
def Core.sweep (c : Core) (b : Nat) : Core := if (c.keptFor b).isSome then c else c.powerDown b

theorem Core.keptFor_sweep (h : c.keptFor b = none) : (c.sweep a).keptFor b = none := by
  unfold Core.sweep
  split
  · exact h
  · exact Core.keptFor_powerDown h

theorem Core.get_sweep {x : Nat} (h : c.store.get x = 0) : (c.sweep a).store.get x = 0 := by
  unfold Core.sweep
  split
  · exact h
  · by_cases hx : span (a * 0x4000) 0x4000 x
    · exact Memory.get_zero_inside hx
    · exact (Memory.get_zero_outside hx).trans h

/-- Of the banks of a list those that no record keeps read 0. -/
theorem Core.get_sweeps_of_lost {l : List Nat} {x : Nat} (hb : b ∈ l) (h : c.keptFor b = none) (hx : span (b * 0x4000) 0x4000 x) :
    (l.foldl Core.sweep c).store.get x = 0 := by
  induction l generalizing c with
  | nil => exact absurd hb List.not_mem_nil
  | cons a l ih =>
    rw [List.foldl_cons]
    by_cases hab : b = a
    · subst hab
      refine List.foldlRecOn (motive := fun d : Core => d.store.get x = 0) l _ ?_ fun d hd a _ => Core.get_sweep hd
      rw [Core.sweep, h]
      exact Memory.get_zero_inside hx
    · exact ih ((List.mem_cons.mp hb).resolve_left hab) (Core.keptFor_sweep h)

/-- A bank that is kept alone is as it was. -/
theorem Core.get_sweeps_of_kept {l : List Nat} {x : Nat} (hfirst : (c.bank b).first = b) (hg : (c.bank b).gsize = 0) (h : c.keptFor b ≠ none)
    (hx : span (b * 0x4000) 0x4000 x) : (l.foldl Core.sweep c).store.get x = c.store.get x := by
  obtain ⟨k, hk⟩ := Option.ne_none_iff_exists'.mp h
  obtain ⟨hclass, h15, -⟩ := Core.keptFor_eq_some_iff.mp hk
  have hkept (d : Core) (hd : d.bank b = c.bank b) : d.keptFor b = some k := by
    refine Core.keptFor_eq_some_iff.mpr ⟨hd ▸ hclass, h15, fun j hj => ?_⟩
    rw [hd, members, hg, hfirst] at hj
    obtain rfl : j = b := by simpa using hj
    rwa [hd]
  refine (List.foldlRecOn (motive := fun d : Core => d.bank b = c.bank b ∧ d.store.get x = c.store.get x) l _ ⟨rfl, rfl⟩ ?_).2
  rintro d ⟨hbank, hget⟩ a -
  unfold Core.sweep
  split
  · exact ⟨hbank, hget⟩
  · next hlost =>
    have hne : b ≠ a := by
      rintro rfl
      rw [hkept d hbank] at hlost
      exact hlost rfl
    refine ⟨(Core.bank_powerDown_other hne).trans hbank, (Memory.get_zero_outside ?_).trans hget⟩
    simp only [span] at hx ⊢
    omega

/-- Sweeping banks changes nothing but the store and the banks. -/
theorem Core.sweeps_eq (l : List Nat) (c : Core) : ∃ m bs, l.foldl Core.sweep c = { c with store := m, banks := bs } := by
  refine List.foldlRecOn (motive := fun d : Core => ∃ m bs, d = { c with store := m, banks := bs }) l _ ⟨c.store, c.banks, rfl⟩ ?_
  rintro _ ⟨m, bs, rfl⟩ a -
  unfold Core.sweep
  split
  · exact ⟨m, bs, rfl⟩
  · exact ⟨_, _, rfl⟩

end

/-- What the end of a launch leaves of a core before its banks power down. -/
def Core.unlaunched (c : Core) : Core :=
  { c with run := .off, act := none, wait := none, parked := [], ready := [], att := false, buf := [], taken := none, governed := none,
           obligation := none, repBuf := [], pend := none, conv := none, mq := [], copies := [], held := c.heldOn, engPend := false,
           engSlot := none, classes := [], trigs := [], redeliver := [], after := [] }

theorem Core.endLaunch_eq (c : Core) : c.endLaunch = (List.range 16).foldl Core.sweep c.unlaunched := rfl

theorem Core.mem_heldOn (c : Core) (g : Held) :
    g ∈ c.heldOn ↔ ∃ h ∈ c.held, (c.keptFor h.bank).isSome = true ∧ g = { h with mark := none } := by
  simp only [Core.heldOn, List.mem_map, List.mem_filter, and_assoc, eq_comm]

/-- The end of a launch on a core: what it put there is gone, and of the banks those that no record keeps. -/
theorem endLaunch_spec (c : Core) : let d := c.endLaunch
    d.run = .off ∧ d.act = none ∧ d.parked = [] ∧ d.ready = [] ∧ d.classes = [] ∧ d.trigs = [] ∧ d.cr = c.cr ∧ d.flags = c.flags ∧
    (∀ g, g ∈ d.held ↔ ∃ h ∈ c.held, (c.keptFor h.bank).isSome = true ∧ g = { h with mark := none }) ∧
    ∀ b < 16, (c.keptFor b = none → ∀ x, span (b * 0x4000) 0x4000 x → d.store.get x = 0) ∧
      ((c.bank b).first = b → (c.bank b).gsize = 0 → c.keptFor b ≠ none → ∀ x, span (b * 0x4000) 0x4000 x →
        d.store.get x = c.store.get x) := by
  intro d
  obtain ⟨m, bs, hd⟩ := Core.sweeps_eq (List.range 16) c.unlaunched
  have hd' : d = { c.unlaunched with store := m, banks := bs } := c.endLaunch_eq.trans hd
  refine ⟨?_, ?_, ?_, ?_, ?_, ?_, ?_, ?_, fun g => ?_, fun b hb => ⟨fun h x hx => ?_, fun hf hg hk x hx => ?_⟩⟩
  case refine_9 => rw [hd']; exact c.mem_heldOn g
  case refine_10 => exact Core.get_sweeps_of_lost (c := c.unlaunched) (List.mem_range.mpr hb) h hx
  case refine_11 => exact Core.get_sweeps_of_kept (c := c.unlaunched) hf hg hk hx
  all_goals rw [hd']; rfl

/-! ## Held records (R76, R191) -/

theorem commitRecord_spec (c : Core) (h : Held) : (pushItem c h.bank 64 (h.words ++ [0, 0, 0, 0]) = none → c.commitRecord h = none) ∧
    ∀ d j, pushItem c h.bank 64 (h.words ++ [0, 0, 0, 0]) = some (d, j) → c.commitRecord h = some { d with
      engPend := d.engPend || bit (d.cr_ Cr.stat) 4, engSlot := some (d.engSlot.getD (slotAddr (c.bank h.bank) 0 j)) } :=
  ⟨fun hp => by rw [Core.commitRecord, hp]; rfl, fun d j hp => by rw [Core.commitRecord, hp]; rfl⟩

section
variable {s : State} {r : CoreRef} {h : Held}

/-- The bank controller retries the one record that it holds. -/
theorem recordRetry_of_one (hheld : (s.core r).held = [h]) (hev : (s.cluster r.cl).evict ≠ .streaming) :
    ((s.core r).commitRecord h = none → exec (.recordRetry r) s = .next (s.updCore r id)) ∧
    ∀ d, (s.core r).commitRecord h = some d →
      exec (.recordRetry r) s = .next (((s.setCore r d).markHeld r.cl h).updCore r fun c => { c with held := [] }) := by
  have hretry : exec (.recordRetry r) s = .next (s.retryHeld r [h]) := by
    refine (if_neg ?_).trans (by rw [hheld])
    rw [hheld]
    exact not_or.mpr ⟨nofun, hev⟩
  refine ⟨fun hc => ?_, fun d hc => ?_⟩
  · rw [hretry, State.retryHeld, hc]
    refine congrArg (fun x => Host.Outcome.next (s.setCore r x)) ?_
    exact (congrArg (fun x => ({ s.core r with held := x } : Core)) hheld.symm)
  · rw [hretry, State.retryHeld, hc]
    rfl

end

end Sys2Proof.Machine
end

section
/-! SUPPORT. The end of a launch on a core and of its cluster (R174, R254, R273). -/
namespace Sys2Proof.Machine
open Sys2Proof

/-! ## Marks of held records (R254) -/

/-- A change of a cluster's cores alone that keeps where each stands. -/
structure State.Marks (cl : Nat) (s t : State) : Prop where
  outer : t.outer = s.outer
  others : ∀ q, q ≠ cl → t.cluster q = s.cluster q
  cores : ∃ cs, t.cluster cl = { s.cluster cl with cores := cs }
  run : ∀ j, ((t.cluster cl).core j).run = ((s.cluster cl).core j).run

section
variable {cl : Nat} {s t u : State}

theorem State.Marks.refl (s : State) : s.Marks cl s := ⟨rfl, fun _ _ => rfl, ⟨_, rfl⟩, fun _ => rfl⟩

theorem State.Marks.trans (h : s.Marks cl t) (h' : t.Marks cl u) : s.Marks cl u := by
  obtain ⟨cs, hcs⟩ := h.cores
  obtain ⟨cs', hcs'⟩ := h'.cores
  exact ⟨h'.outer.trans h.outer, fun q hq => (h'.others q hq).trans (h.others q hq), ⟨cs', by rw [hcs', hcs]⟩,
    fun j => (h'.run j).trans (h.run j)⟩

theorem State.marks_updCore (s : State) (j : Nat) {f : Core → Core} (h : ∀ c, (f c).run = c.run) : s.Marks cl (s.updCore ⟨cl, j⟩ f) := by
  have hk : (s.updCore ⟨cl, j⟩ f).cluster cl = (s.cluster cl).setCore j (f ((s.cluster cl).core j)) := by
    exact State.cluster_setCore s ⟨cl, j⟩ _
  refine ⟨rfl, fun q hq => ?_, ⟨_, hk⟩, fun i => ?_⟩
  · simp only [State.updCore, State.setCore, State.cluster_setCluster_other _ _ hq]
  · rw [hk]
    by_cases hi : i = j
    · rw [hi, Cluster.core_setCore, h]
    · rw [Cluster.core_setCore_other _ _ hi]

theorem State.marks_markHeld (s : State) (h : Held) : s.Marks cl (s.markHeld cl h) := by
  unfold State.markHeld
  split
  · refine s.marks_updCore _ fun c => ?_
    split <;> rfl
  · exact .refl s

theorem State.marks_held (l : List Held) (s : State) : s.Marks cl (l.foldl (fun s h => s.markHeld cl h) s) :=
  List.foldlRecOn (motive := fun t => s.Marks cl t) l _ (.refl s) fun _ ht h _ => ht.trans (State.marks_markHeld _ h)

end

/-! ## A launch ends on a core (R174) -/

section
variable {s : State} {r : CoreRef}

/-- The module once a launch has ended on a core, before its cluster is looked at. -/
def State.coreEnded (s : State) (r : CoreRef) : State :=
  let s1 := (s.core r).held.foldl (fun s h => s.markHeld r.cl h) s
  let k := s.cluster r.cl
  { s1.updCore r Core.endLaunch with
    launches := s1.launches.map fun l => if l.id = k.launch then { l with cores := l.cores.filter fun p => p != (k.vc, r.core) } else l }

/-- A core that still has something of its launch does not end it. -/
theorem mayEnd_of_busy (h : (s.core r).run ≠ .idle ∨ (s.core r).act ≠ none ∨ (s.core r).parked ≠ [] ∨ (s.core r).ready ≠ [] ∨
    (s.core r).redeliver ≠ [] ∨ (s.core r).mq ≠ [] ∨ (s.core r).copies ≠ [] ∨ (∃ j ∈ (s.cluster r.cl).jobs, j.core = r.core) ∨
    (s.handleItem r).isSome = true) : s.mayEnd r = false := by
  refine Bool.eq_false_iff.mpr fun hm => ?_
  simp only [State.mayEnd, Core.quiet, Bool.and_eq_true, beq_iff_eq, Option.isNone_iff_eq_none, List.all_eq_true, bne_iff_ne] at hm
  obtain ⟨⟨⟨⟨-, ⟨⟨⟨⟨⟨⟨hrun, hact⟩, hpark⟩, hready⟩, hagain⟩, hmq⟩, hcopies⟩, hjobs⟩, hitem⟩, -⟩, -⟩ := hm
  obtain h | h | h | h | h | h | h | ⟨j, hj, h⟩ | h := h
  · exact h hrun
  · exact h hact
  · exact h hpark
  · exact h hready
  · exact h hagain
  · exact h hmq
  · exact h hcopies
  · exact hjobs j hj h
  · rw [hitem] at h
    exact Bool.false_ne_true h

theorem coreLaunchEnd_busy (h : s.mayEnd r = false) : exec (.coreLaunchEnd r) s = .next s := if_neg (Bool.eq_false_iff.mp h)

theorem coreLaunchEnd_ends (h : s.mayEnd r = true) : exec (.coreLaunchEnd r) s =
    .next (if ((s.coreEnded r).cluster r.cl).ended then (s.coreEnded r).freeCluster r.cl else s.coreEnded r) := by
  refine (if_pos h).trans ?_
  show (if ((s.coreEnded r).cluster r.cl).ended then _ else _) = _
  split <;> rfl

/-- What the end of a launch on a core leaves of the module's other parts. -/
theorem ended_spec {s1 : State} (hm : s.Marks r.cl s1) (l : List Launch) : let u : State := { s1.updCore r Core.endLaunch with launches := l }
    u.hbm = s.hbm ∧ u.flight = s.flight ∧ u.placement = s.placement ∧ (∀ q, q ≠ r.cl → u.cluster q = s.cluster q) ∧
    (∃ cs, u.cluster r.cl = { s.cluster r.cl with cores := cs }) ∧
    ((u.cluster r.cl).core r.core).run = .off ∧ ∀ j, j ≠ r.core → ((u.cluster r.cl).core j).run = ((s.cluster r.cl).core j).run := by
  intro u
  obtain ⟨houter, hothers, ⟨cs, hcs⟩, hrun⟩ := hm
  have hk : u.cluster r.cl = (s1.cluster r.cl).setCore r.core (s1.core r).endLaunch := State.cluster_setCore s1 r _
  have hhbm : s1.hbm = s.hbm := by have x := congrArg State.hbm houter; exact x
  have hflight : s1.flight = s.flight := by have x := congrArg State.flight houter; exact x
  have hplacement : s1.placement = s.placement := by have x := congrArg State.placement houter; exact x
  refine ⟨hhbm, hflight, hplacement, fun q hq => ?_, ⟨aput cs r.core (s1.core r).endLaunch, ?_⟩, ?_, fun j hj => ?_⟩
  · exact (State.cluster_setCluster_other s1 _ hq).trans (hothers q hq)
  · rw [hk, hcs]
    rfl
  · rw [hk, Cluster.core_setCore]
    exact (endLaunch_spec _).1
  · rw [hk, Cluster.core_setCore_other _ _ hj, hrun]

theorem Cluster.ended_iff (k : Cluster) : k.ended = true ↔ ∀ j < 8, (k.core j).run = .off := by
  simp only [Cluster.ended, List.all_eq_true, List.mem_range, beq_iff_eq]

/-! ## A cluster is freed (R273) -/

/-- The same memory, items in flight, places and clusters. -/
structure State.Beside (s t : State) : Prop where
  hbm : t.hbm = s.hbm
  flight : t.flight = s.flight
  placement : t.placement = s.placement
  clusters : t.clusters = s.clusters

theorem State.Beside.refl (s : State) : s.Beside s := ⟨rfl, rfl, rfl, rfl⟩

theorem State.Beside.trans {s t u : State} (h : s.Beside t) (h' : t.Beside u) : s.Beside u :=
  ⟨h'.hbm.trans h.hbm, h'.flight.trans h.flight, h'.placement.trans h.placement, h'.clusters.trans h.clusters⟩

theorem beside_holdFor (s : State) (cl : Nat) (x : Launch) : s.Beside (s.holdFor cl x) := by
  unfold State.holdFor
  split
  · exact .refl s
  · exact ⟨rfl, rfl, rfl, rfl⟩

theorem beside_dropLaunch (s : State) (id : Nat) : s.Beside (s.dropLaunch id) := by
  unfold State.dropLaunch
  split
  · exact .refl s
  · split
    · exact ⟨rfl, rfl, rfl, rfl⟩
    · exact .refl s

theorem beside_contextCheck (s : State) (slot : Nat) : s.Beside (s.contextCheck slot) := by
  unfold State.contextCheck
  split
  · exact .refl s
  · exact ⟨rfl, rfl, rfl, rfl⟩

/-- A cluster without its launch and its place. -/
def State.vacate (s : State) (cl : Nat) : State :=
  { s.setCluster cl (s.cluster cl).vacated with placement := adel s.placement ((s.cluster cl).slot * 8192 + (s.cluster cl).vc) }

/-- Freeing a cluster: it and its place are given up. -/
theorem freeCluster_vacates (s : State) (cl : Nat) : (s.vacate cl).Beside (s.freeCluster cl) := by
  unfold State.freeCluster
  dsimp only
  refine .trans ?_ ((beside_contextCheck _ _).trans (beside_dropLaunch _ _))
  split
  · next l _ =>
    obtain ⟨hhbm, hflight, hplacement, hclusters⟩ := beside_holdFor s cl l
    exact ⟨hhbm, hflight, congrArg (adel · _) hplacement, congrArg (aput · cl _) hclusters⟩
  · exact .refl _

/-- With the last core its cluster is free. -/
theorem coreLaunchEnd_frees (h : s.mayEnd r = true) (hoff : ∀ j < 8, j ≠ r.core → ((s.cluster r.cl).core j).run = .off) :
    Answers (exec (.coreLaunchEnd r) s) fun t => t.hbm = s.hbm ∧ t.flight = s.flight ∧ (∀ q, q ≠ r.cl → t.cluster q = s.cluster q) ∧
      (t.cluster r.cl).launch = 0 ∧ (t.cluster r.cl).powered = (s.cluster r.cl).powered ∧
      afind t.placement ((s.cluster r.cl).slot * 8192 + (s.cluster r.cl).vc) = none ∧
      ∀ n, n ≠ (s.cluster r.cl).slot * 8192 + (s.cluster r.cl).vc → afind t.placement n = afind s.placement n := by
  obtain ⟨hhbm, hflight, hplacement, hothers, ⟨cs, hcs⟩, hmine, hruns⟩ :=
    ended_spec (State.marks_held (cl := r.cl) (s.core r).held s) (s.coreEnded r).launches
  have hend : ((s.coreEnded r).cluster r.cl).ended = true := (Cluster.ended_iff _).mpr fun j hj => by
    by_cases hjr : j = r.core
    · rw [hjr]
      exact hmine
    · exact (hruns j hjr).trans (hoff j hj hjr)
  obtain ⟨fhbm, fflight, fplacement, fclusters⟩ := freeCluster_vacates (s.coreEnded r) r.cl
  have hcluster (q : Nat) : ((s.coreEnded r).freeCluster r.cl).cluster q = ((s.coreEnded r).vacate r.cl).cluster q :=
    congrArg (aget Cluster.blank · q) fclusters
  have hself : ((s.coreEnded r).freeCluster r.cl).cluster r.cl = ((s.coreEnded r).cluster r.cl).vacated :=
    (hcluster _).trans (State.cluster_setCluster _ _ _)
  have hplace : ((s.coreEnded r).freeCluster r.cl).placement = adel s.placement ((s.cluster r.cl).slot * 8192 + (s.cluster r.cl).vc) := by
    rw [fplacement]
    show adel (s.coreEnded r).placement (((s.coreEnded r).cluster r.cl).slot * 8192 + ((s.coreEnded r).cluster r.cl).vc) = _
    rw [show (s.coreEnded r).cluster r.cl = _ from hcs]
    exact congrArg (adel · _) hplacement
  refine ⟨_, (coreLaunchEnd_ends h).trans (by rw [hend, if_pos rfl]), fhbm.trans hhbm, fflight.trans hflight,
    fun q hq => ?_, ?_, ?_, ?_, fun n hn => ?_⟩
  · exact (hcluster q).trans ((State.cluster_setCluster_other _ _ hq).trans (hothers q hq))
  · rw [hself]
    rfl
  · rw [hself, show (s.coreEnded r).cluster r.cl = _ from hcs]
    rfl
  · rw [hplace, afind_adel_same]
  · rw [hplace, afind_adel_other _ hn]

/-- A core of a cluster that another core has not left. -/
theorem coreLaunchEnd_stays (h : s.mayEnd r = true) (hon : ∃ j < 8, j ≠ r.core ∧ ((s.cluster r.cl).core j).run ≠ .off) :
    exec (.coreLaunchEnd r) s = .next (s.coreEnded r) := by
  obtain ⟨j, hj, hjr, hrun⟩ := hon
  obtain ⟨-, -, -, -, -, -, hruns⟩ := ended_spec (State.marks_held (cl := r.cl) (s.core r).held s) (s.coreEnded r).launches
  have hgoes : ((s.coreEnded r).cluster r.cl).ended ≠ true := fun he => hrun ((hruns j hjr).symm.trans ((Cluster.ended_iff _).mp he j hj))
  rw [coreLaunchEnd_ends h, if_neg hgoes]

end

end Sys2Proof.Machine
end

section
/-! SUPPORT. The end of a launch as a whole: its station's change of its counter (R270, R289, R331). -/
namespace Sys2Proof.Machine
open Sys2Proof

/-! ## Reads of a station within a step -/

/-- What a station's reads leave as it was: all that a burst leaves, the launches, and which cluster runs which. -/
structure State.Rests (s t : State) : Prop where
  opens : s.Opens t
  flaws : t.flaws = s.flaws
  launches : t.launches = s.launches
  holds : t.clusters.map (fun k => (k.1, k.2.launch)) = s.clusters.map fun k => (k.1, k.2.launch)

theorem State.Rests.of_clusters {s t : State} (h : t.clusters = s.clusters)
    (hm : (t.hbm, t.placement, t.flaws, t.launches) = (s.hbm, s.placement, s.flaws, s.launches)) :
    s.Rests t := by
  simp only [Prod.mk.injEq] at hm
  obtain ⟨hhbm, hplacement, hflaws, hlaunches⟩ := hm
  exact ⟨⟨hhbm, hplacement, fun q => ⟨(s.core q).pend, by rw [State.core, State.cluster, h]; rfl⟩⟩, hflaws, hlaunches, by rw [h]⟩

theorem State.Rests.refl (s : State) : s.Rests s := .of_clusters rfl rfl

theorem State.Rests.trans {s t u : State} (h : s.Rests t) (h' : t.Rests u) : s.Rests u := by
  refine ⟨⟨h'.opens.hbm.trans h.opens.hbm, h'.opens.placement.trans h.opens.placement, fun q => ?_⟩, h'.flaws.trans h.flaws,
    h'.launches.trans h.launches, h'.holds.trans h.holds⟩
  obtain ⟨x, hx⟩ := h.opens.cores q
  obtain ⟨y, hy⟩ := h'.opens.cores q
  exact ⟨y, by rw [hy, hx]⟩

theorem rests_activate (s : State) (p : Nat) : s.Rests (s.activate p) := by
  obtain ⟨rows, ctl, rfms, blocked, h⟩ := activate_eq s p
  refine ⟨opens_activate s p, by rw [h]; rfl, by rw [h]; rfl, ?_⟩
  have hc : (s.activate p).clusters = s.clusters.map fun k => (k.1, State.joinedCluster s p k.1 k.2) := by rw [h]; rfl
  rw [hc, List.map_map]
  rfl

theorem rests_touchEdge (s : State) (p hint : Nat) : s.Rests (s.touchEdge p hint) := by
  obtain ⟨e, he⟩ := touchEdge_eq s p hint
  rw [he]
  exact .of_clusters rfl rfl

theorem rests_burst {s : State} (hf : s.flaws = []) (p hint : Nat) : s.Rests (s.burst p hint) := by
  have hto : s.Rests ((if s.edgeHit p || false then s else s.activate p).touchEdge p hint) := by
    refine .trans ?_ (rests_touchEdge _ p hint)
    split
    · exact .refl s
    · exact rests_activate s p
  have hb : s.burst p hint = ((if s.edgeHit p || false then s else s.activate p).touchEdge p hint).findFlaws p := rfl
  rw [hb, findFlaws_of_none (hto.flaws.trans hf)]
  exact hto

theorem rests_waitOut (n : Nat) (s : State) (p : Nat) : s.Rests (s.waitOut p none n) := by
  induction n generalizing s with
  | zero => exact .refl s
  | succ n ih =>
    unfold State.waitOut
    split
    · exact .refl s
    · refine .trans ?_ (ih _)
      exact .of_clusters rfl rfl

theorem rests_meetsPoison (s before : State) (a n : Nat) : s.Rests (s.meetsPoison before a n) := by
  unfold State.meetsPoison
  split
  · exact .of_clusters rfl rfl
  · exact .refl s

/-- A unit's read of HBM within a step: it waits for its bank, and meets the poison that stands there. -/
def State.waitRead (s : State) (p n : Nat) : State :=
  ((s.waitOut p none s.blockFuel).burst p 0).meetsPoison (s.waitOut p none s.blockFuel) p n

theorem rests_waitRead {s : State} (hf : s.flaws = []) (p n : Nat) : s.Rests (s.waitRead p n) := by
  have hw := rests_waitOut s.blockFuel s p
  exact hw.trans ((rests_burst (hw.flaws.trans hf) p 0).trans (rests_meetsPoison _ _ p n))

theorem rests_readEntry {s : State} (hf : s.flaws = []) (table level va : Nat) : s.Rests (s.readEntry table level va) := by
  unfold State.readEntry
  dsimp only
  split
  · exact rests_waitRead hf _ 8
  · exact .refl s

theorem rests_walkReads {s : State} (hf : s.flaws = []) (va l table : Nat) : s.Rests (s.walkReads none va l table) := by
  induction l generalizing s table with
  | zero => exact rests_readEntry hf _ _ _
  | succ l ih =>
    have hr := rests_readEntry hf table (l + 1) va
    refine hr.trans ?_
    unfold State.walkReads
    dsimp only
    split
    · exact ih (hr.flaws.trans hf) _
    · exact .refl _

/-! ## The counter of a launch (R270) -/

section
variable {s : State} {h root : Nat} {a : Word}

theorem stationTranslate_congr {t : State} (ht : t.hbm = s.hbm) (root : Nat) (a : Word) (n : Need) :
    stationTranslate t root a n = stationTranslate s root a n := by
  rw [stationTranslate, stationTranslate, walk_congr ht]

/-- A station advances a counter at its home in HBM. -/
theorem stationCounter_adds (hf : s.flaws = []) (ht : stationTranslate s root a .both = .ok h) (hlo : h < 2 ^ 40)
    (hp : s.hbm.poisoned h 8 = false) (q : Nat) : ∃ u, s.Rests u ∧
      s.stationCounter q (some root) a none = { u with hbm := s.hbm.store h 8 (addOne (s.hbm.read8 h)).toNat } := by
  have hwalk := rests_walkReads hf (bits a 0 57) 4 root
  have hread := rests_waitRead (hwalk.flaws.trans hf) h 8
  have hhbm := hread.opens.hbm.trans hwalk.opens.hbm
  refine ⟨_, hwalk.trans hread, ?_⟩
  have hhome := homeOf_hbm (s.walkReads none (bits a 0 57) 4 root) hlo
  have htrans := (stationTranslate_congr hwalk.opens.hbm root a .both).trans ht
  have hcounts : s.stationCounter q (some root) a none = let t := (s.walkReads none (bits a 0 57) 4 root).waitRead h 8
      if t.hbm.poisoned h 8 then t.refusedAt q else { t with hbm := t.hbm.store h 8 (addOne (t.hbm.read8 h)).toNat } := by
    rw [State.stationCounter]
    dsimp only
    rw [htrans]
    dsimp only
    rw [hhome]
    rfl
  rw [hcounts]
  dsimp only
  rw [hhbm, hp]
  rfl

end

/-! ## The end of a launch (R270) -/

section
variable {s : State} {id : Nat} {l : Launch}

theorem clustersOf_eq (s : State) (id : Nat) :
    s.clustersOf id = ((s.clusters.map fun k => (k.1, k.2.launch)).filter fun p => p.2 == id).map (·.1) := by
  rw [State.clustersOf, List.filter_map, List.map_map]
  rfl

theorem State.Rests.clustersOf {t : State} (h : s.Rests t) (id : Nat) : t.clustersOf id = s.clustersOf id := by
  rw [clustersOf_eq, clustersOf_eq, h.holds]

theorem launchComplete_goesOn (hl : s.launchNo id = some l) (h : l.cores ≠ [] ∨ l.ended = true ∨ l.next < l.need) :
    exec (.launchComplete id) s = .next s := by
  have hex : exec (.launchComplete id) s = execLaunchComplete id s := rfl
  rw [hex, execLaunchComplete, hl]
  refine if_pos ?_
  obtain h | h | h := h
  · exact .inr (.inr h)
  · exact .inl h
  · exact .inr (.inl (decide_eq_true h))

/-- A launch that has ended. -/
def Launch.over (id : Nat) (m : Launch) : Launch := if m.id = id then { m with ended := true } else m

theorem launchNo_over (hl : s.launchNo id = some l) :
    (s.launches.map (Launch.over id)).find? (fun m => m.id == id) = some { l with ended := true } := by
  have hid : l.id = id := by simpa using List.find?_some hl
  have hcomp : ((fun m : Launch => m.id == id) ∘ Launch.over id) = fun m : Launch => m.id == id := by
    funext m
    simp only [Function.comp, Launch.over]
    split <;> rfl
  rw [List.find?_map, hcomp]
  have hl' : s.launches.find? (fun m => m.id == id) = some l := hl
  rw [hl', Option.map_some, Launch.over, if_pos hid]

/-- A launch that has ended is dropped once no cluster holds it. -/
theorem dropLaunch_over {u : State} (hu : u.launchNo id = some { l with ended := true }) :
    (u.clustersOf id = [] → (u.dropLaunch id).launchNo id = none) ∧ (u.clustersOf id ≠ [] → u.dropLaunch id = u) := by
  have hdrop : u.dropLaunch id = if u.clustersOf id == [] then { u with launches := u.launches.filter fun x => x.id != id } else u := by
    rw [State.dropLaunch, hu]
    rfl
  refine ⟨fun h => ?_, fun h => ?_⟩
  · rw [hdrop, if_pos (beq_iff_eq.mpr h), State.launchNo, List.find?_eq_none]
    intro x hx
    simpa using (List.mem_filter.mp hx).2
  · rw [hdrop, if_neg (by simpa using h)]

theorem launchComplete_ends (hl : s.launchNo id = some l) (hc : l.cores = []) (he : l.ended = false) (hn : l.need ≤ l.next) (hr : l.replay = none)
    {h : Nat} (ht : stationTranslate s (s.copyFor l.pid l.ctx).root l.counter .both = .ok h) (hlo : h < 2 ^ 40)
    (hp : s.hbm.poisoned h 8 = false) (hf : s.flaws = []) : Answers (exec (.launchComplete id) s) fun t =>
      t.hbm.read8 h = setBits (s.hbm.read8 h) 0 48 (bits (s.hbm.read8 h) 0 48 + 1) ∧ (∀ x, ¬ span h 8 x → t.hbm.get x = s.hbm.get x) ∧
      (∀ r, { t.core r with pend := none } = { s.core r with pend := none }) ∧ t.placement = s.placement ∧
      (s.clustersOf id = [] → t.launchNo id = none) ∧ (s.clustersOf id ≠ [] → ∃ m, t.launchNo id = some m ∧ m.ended = true) := by
  obtain ⟨u, hu, hcount⟩ := stationCounter_adds hf ht hlo hp l.queue
  let v : State := { u with hbm := s.hbm.store h 8 (addOne (s.hbm.read8 h)).toNat, launches := u.launches.map (Launch.over id) }
  have hv : v.launchNo id = some { l with ended := true } := by
    have hlaunches : v.launches = s.launches.map (Launch.over id) := congrArg (List.map (Launch.over id)) hu.launches
    rw [State.launchNo, hlaunches, launchNo_over hl]
  have hexec : exec (.launchComplete id) s = .next (v.dropLaunch id) := by
    have hgo : ¬ (l.ended = true ∨ l.waiting = true ∨ l.cores ≠ []) := by
      rw [he, hc, Launch.waiting, decide_eq_true_iff]
      simp [hn]
    have hex : exec (.launchComplete id) s = execLaunchComplete id s := rfl
    rw [hex, execLaunchComplete, hl]
    refine (if_neg hgo).trans ?_
    rw [State.reportLaunch, hcount, hr]
    rfl
  obtain ⟨dhbm, -, dplacement, dclusters⟩ := beside_dropLaunch v id
  obtain ⟨hgone, hstays⟩ := dropLaunch_over hv
  have hholds : v.clustersOf id = s.clustersOf id := hu.clustersOf id
  refine ⟨_, hexec, ?_, fun x hx => ?_, fun r => ?_, dplacement.trans hu.opens.placement, fun h0 => hgone (hholds.trans h0), fun h0 => ?_⟩
  · rw [dhbm]
    exact Memory.read8_store _ _ _
  · rw [dhbm]
    exact Memory.get_store_outside _ _ _ _ hx
  · obtain ⟨x, hx⟩ := hu.opens.cores r
    have hcore : (v.dropLaunch id).core r = u.core r := congrArg (fun c => (aget Cluster.blank c r.cl).core r.core) dclusters
    rw [hcore, hx]
  · rw [hstays (hholds.symm ▸ h0)]
    exact ⟨_, hv, rfl⟩

end

/-- Settles O50: the end on a core by what `mayEnd` asks and by its cluster's other cores, banks by the sweep of `endLaunch`, held records by
their commits, and the end as a whole by the station's change of its counter. -/
theorem launchesEnd : Obligations.LaunchesEnd := by
  refine ⟨⟨fun s r => ?_, commitRecord_spec, endLaunch_spec⟩, fun s id l => ?_⟩
  · exact ⟨fun hbusy => coreLaunchEnd_busy (mayEnd_of_busy hbusy), coreLaunchEnd_stays, coreLaunchEnd_frees,
      fun h hheld hev => recordRetry_of_one hheld hev⟩
  · intro i hl
    exact ⟨launchComplete_goesOn hl, fun hc he hn hr h ht hlo hp hf => launchComplete_ends hl hc he hn hr ht hlo hp hf⟩

end Sys2Proof.Machine
end

section
/-! SUPPORT. A copy request that waits after a RETRY reply (R214, R230). -/
namespace Sys2Proof.Machine
open Sys2Proof

/-- The fill of 64 bytes of the tests, which a RETRY reply has sent back to wait until cycle 1. -/
def CReq.delayed : CReq := { tFill with till := 1 }

/-- In cycle 0 the request is not looked at (R230). -/
theorem copyStart_of_delayed : exec (.copyStart ⟨0, 0⟩) (tCopies CReq.delayed) = .next (tCopies CReq.delayed) := rfl

/-- Refutes O38: nothing in the second clause says that the request's delay is over. A request whose turn has come, but which a RETRY reply
delays beyond this cycle, does not start (`copyStart_of_delayed`). -/
theorem not_copyRequests : ¬ Obligations.CopyRequests := by
  rintro ⟨-, hstart, -⟩
  obtain ⟨-, hgood⟩ := hstart (tCopies CReq.delayed) ⟨0, 0⟩ 0 CReq.delayed (by decide) (by decide) (by decide) (by decide) (by decide)
  have hstarts := hgood (by decide) (by decide) (.inr (.inl (by decide)))
  have hstate := Host.Outcome.next.inj (copyStart_of_delayed.symm.trans hstarts)
  have hstarted := congrArg (fun s : State => (s.core ⟨0, 0⟩).copies.map (·.started)) hstate
  exact absurd hstarted (by decide)

end Sys2Proof.Machine
end

section
/-! SUPPORT. A rule job whose counter is poisoned (R154, R317). -/
namespace Sys2Proof.Machine
open Sys2Proof

/-- Core 0 with a segment of two words at 0x10000, an empty walk over an END of rows, and a poisoned doubleword at 0x1C000. -/
def Core.emptyWalk : Core :=
  { tCore with store := { (tCore.store.store 0x10000 4 0xC4000000).store 0x10004 4 0x88000000 with poison := [0x1C000 / 8] } }

/-- A running job that stands at the second word of that segment; its counter is the doubleword at 0x1C000. -/
def Job.atEnd : Job := { tJob with running := true, words := tDesc, off := 4, med := { Med.start (nvecOf tDesc) with phase := 2 } }

def State.atEnd : State :=
  { tState Core.emptyWalk with clusters := [(0, { Cluster.blank with powered := true, jobs := [Job.atEnd], cores := [(0, Core.emptyWalk)] })] }

/-- The job's counter is poisoned, so that the job ends with POISON. -/
theorem jobEnds_of_atEnd : ∃ t, exec (.ruleJobEnd 0) State.atEnd = .next t ∧ (t.cluster 0).jobEnds = [(1, tPOISON)] := ⟨_, rfl, by decide⟩

/-- Refutes O37: nothing in the statement keeps a job's counter from being poisoned. Where it is, the job that comes to its end does not add its
length and end with 0, but ends with POISON (`jobEnds_of_atEnd`). -/
theorem not_ruleJobs : ¬ Obligations.RuleJobs := by
  rintro ⟨-, hsteps, -⟩
  obtain ⟨-, -, hgoesOn⟩ := hsteps State.atEnd 0 Job.atEnd [] rfl (by decide)
  obtain ⟨b, hend⟩ := hgoesOn rfl (by decide) (by decide) 0x10000 (by decide) (by decide) (by decide) (by decide) rfl (by decide) rfl (by decide)
    (by decide) (witness_noBanks _ rfl) (by decide) (by decide) (by decide) (by decide)
  obtain ⟨t, ht, hpoison⟩ := jobEnds_of_atEnd
  have hstate := Host.Outcome.next.inj (ht.symm.trans hend)
  rw [hstate] at hpoison
  have hclean : [(1, 0)] = [(1, tPOISON)] := hpoison
  exact absurd hclean (by decide)

end Sys2Proof.Machine
end
